-- ==== Sys2Proof/Word.lean ====
section
/-!
DEFINITION. Word.lean: the word types of the ZN-7, the format tags of R12 and a register as its data and tag (R7).
-/
namespace Sys2Proof

/-- One byte of memory. -/
abbrev Byte := BitVec 8

/-- The 64 data bits of a register, and every address (R7, R20). -/
abbrev Word := BitVec 64

/-- The format tags, in the order of their codes 0x0 to 0xF (R12). -/
inductive Tag
  | raw64 | i64 | i32x2 | i16x4 | i8x8 | f64 | f32x2 | bf16x4
  | f16x4 | e4m3x8 | e5m2x8 | e2m1x16 | map8 | view | scale | poison
  deriving DecidableEq, Repr

/-- A register: 64 data bits and a tag (R7). -/
structure Reg where
  data : Word
  tag : Tag
  deriving DecidableEq, Repr

/-- What z reads as, and what a freshly started register holds (R9, R11). -/
abbrev Reg.zero : Reg := ⟨0, .raw64⟩

end Sys2Proof
end

