-- ==== Sys2Proof/Syntax.lean ====
section
/-!
DEFINITION. Syntax.lean: the instructions of Stolk and the other steps of the part, one constructor for each row of
spec/opcode_table.json. Field letters are the table's.
-/
namespace Sys2Proof

/-- A 6-bit register field (R8): 0-55 g, 56-59 o, 60 e0, 61 e1, 62 z, 63 reserved. -/
abbrev RegCode := BitVec 6

/-- F-R with three registers (R51): guard, stall, reuse, b, a, d. -/
structure FR where
  g : BitVec 2
  s : BitVec 3
  r : BitVec 1
  b : RegCode
  a : RegCode
  d : RegCode
  deriving DecidableEq, Repr

/-- F-R of MOV: the b field is reserved (R61, R74). -/
structure FRU where
  g : BitVec 2
  s : BitVec 3
  r : BitVec 1
  a : RegCode
  d : RegCode
  deriving DecidableEq, Repr

/-- F-R of a compare: bits [10:8] name the mask written (R51, R87). -/
structure FRK where
  g : BitVec 2
  s : BitVec 3
  r : BitVec 1
  b : RegCode
  a : RegCode
  k : BitVec 3
  deriving DecidableEq, Repr

/-- F-R of a mask operation: kb in n, ka in m, kd in k (R51, R89). -/
structure FRM where
  g : BitVec 2
  s : BitVec 3
  r : BitVec 1
  n : BitVec 3
  m : BitVec 3
  k : BitVec 3
  deriving DecidableEq, Repr

/-- F-R of NETMV: the network register stands in bits [21:20] (R136). -/
structure FRN where
  g : BitVec 2
  s : BitVec 3
  r : BitVec 1
  n : BitVec 2
  a : RegCode
  d : RegCode
  deriving DecidableEq, Repr

/-- The header of a request (R366): the fields that a request chooses; `pad` stands in bytes 0x18 to 0x1F, and `key` is the key with which the transport authenticates
the controller. -/
structure Header where
  magic : BitVec 32
  type : BitVec 8
  version : BitVec 8
  status : BitVec 16
  reqid : Word
  length : BitVec 32
  job : BitVec 32
  pad : Word
  key : List Byte
  deriving DecidableEq, Repr

/-- The squad that a DEBUG request names (R367): 16 names the crew's stream. -/
structure DebugAt where
  lid : Nat
  crew : Nat
  squad : Nat
  deriving DecidableEq, Repr

/-- Where an error is found (R179, R332, R334, R339): in a line of DRAM, or of it in the die cache; of a scratchpad; of a stack slice; in a register line; in a lane of an
operand store; in a matrix array, a rind slot or a staging buffer; on a fabric link or a port; in the SRAM of the service cores. Which line, slot, node, link or
port it is, is an operand of its own. -/
inductive ErrorSite
  | dramLine
  | dieCacheLine
  | scratchLine (lid crew : Nat)
  | stackLine (lid crew squad lane : Nat)
  | registerLine (q : Nat)
  | operandStore (q : Nat)
  | matrixArray (core : Nat)
  | rindSlot (core : Nat)
  | staging (lid crew : Nat)
  | fabricLink
  | networkPort
  | storagePort
  | serviceSram
  deriving DecidableEq, Repr

/-- A lane whose outstanding results land, and what lands in it (R57, R221): with 0 the first group of results that land together; with n + 1 its n-th load that is open is
performed anew. -/
structure LandPart where
  lane : Nat
  n : Nat
  deriving DecidableEq, Repr

/-- Where a corrected error is found (R333): the site, and which line, slot, node, link or port of it. -/
structure ErrorAt where
  site : ErrorSite
  n : Nat
  deriving DecidableEq, Repr

/-- Operation n of a core's engine, and the part k of what it has still to access (R216). -/
structure OpPart where
  core : Nat
  n : Nat
  k : Nat
  deriving DecidableEq, Repr

/-- A core's engine, and the part k of the row that is taken in next (R216, R276). -/
structure RowPart where
  core : Nat
  k : Nat
  deriving DecidableEq, Repr

/-- A node of a graph, by its number, and which of the accesses that it can make now (R216, R286). -/
structure NodePart where
  node : Nat
  k : Nat
  deriving DecidableEq, Repr

/-- The bind records to be written: each crew with its core, and the value of STATE (R107, R318, R319). -/
structure BindSet where
  places : List (Nat × Nat)
  state : BitVec 8
  deriving DecidableEq, Repr

/-- A message, by its sender where it is not this module (the job and the peer), and its number (R360); the number of the key with which a peer's acknowledgement of ours
was made (R359). -/
structure MsgName where
  sender : Option (Nat × Nat)
  num : Nat
  key : Nat := 0
  deriving DecidableEq, Repr

/-- A network port of a peer, or of this module (R361). -/
structure LinkEnd where
  peer : Option Nat
  port : Nat
  deriving DecidableEq, Repr

/-- A message of ours that a NACK names, and the number of the key with which the NACK was made (R359). -/
structure NackName where
  num : Nat
  key : Nat
  deriving DecidableEq, Repr

/-- What DEBUG_WRITE_STATE writes (R312): a register's data and tag, or the 256 bytes of a network register. -/
structure DebugValue where
  value : Reg
  map : List Byte
  deriving DecidableEq, Repr

/-- Blocks of a storage port's namespace that are not needed any more (R344, R369). -/
structure Discard where
  port : Nat
  blocks : List Nat
  deriving DecidableEq, Repr

/-- A packet that arrives (R359, R360, R363): a peer's write, a peer's read, with the sequence number and the entropy value of its packet, the data of a read of
ours, a packet that was trimmed on its way, or ROD data of a socket, which is held until its turn. -/
inductive Packet
  | write (job peer msg seq count : Nat) (addr : Word) (data : List Byte)
  | readRequest (job peer msg seq entropy : Nat) (addr : Word) (len : Nat)
  | readData (msg seq count off : Nat) (data : List Byte)
  | trimmed (job peer msg : Nat)
  | rod (socket seq : Nat) (data : List Byte)
  | connect (job peer port : Nat)
  | reset (socket : Nat)
  deriving DecidableEq, Repr

/-- A packet as it arrives, with the number of the key that it was made with (R359). -/
structure NetFrame where
  packet : Packet
  key : Nat
  deriving DecidableEq, Repr

/-- The steps of the part. The first 237 constructors are the instructions a thread issues; the others are what the
engines, the network, Driene, the controller and the debugger do (spec/95_what_each_step_holds.md). A q operand is a bind
record, core * 17 + record number (R318). -/
inductive Instr
  | addC (b : BitVec 5) (d : RegCode)
  | subC (b : BitVec 5) (d : RegCode)
  | andC (b : BitVec 5) (d : RegCode)
  | orC (b : BitVec 5) (d : RegCode)
  | xorC (b : BitVec 5) (d : RegCode)
  | shliC (i : BitVec 5) (d : RegCode)
  | shriC (i : BitVec 5) (d : RegCode)
  | addiC (i : BitVec 5) (d : RegCode)
  | movC (b : BitVec 5) (d : RegCode)
  | faddC (b : BitVec 5) (d : RegCode)
  | fmulC (b : BitVec 5) (d : RegCode)
  | fmao (b : BitVec 5) (d : RegCode)
  | ld64C (b : BitVec 5) (d : RegCode)
  | st64C (b : BitVec 5) (d : RegCode)
  | cmpltC (b : BitVec 5) (d : RegCode)
  | nop (i : BitVec 5)
  | invend
  | yield
  | add (f : FR)
  | sub (f : FR)
  | and (f : FR)
  | or (f : FR)
  | xor (f : FR)
  | andn (f : FR)
  | shl (f : FR)
  | shr (f : FR)
  | shrU (f : FR)
  | rol (f : FR)
  | mul (f : FR)
  | mulh (f : FR)
  | mulhU (f : FR)
  | min (f : FR)
  | minU (f : FR)
  | max (f : FR)
  | maxU (f : FR)
  | adds (f : FR)
  | addsU (f : FR)
  | subs (f : FR)
  | subsU (f : FR)
  | mov (f : FRU)
  | fadd (f : FR)
  | fsub (f : FR)
  | fmul (f : FR)
  | fma (f : FR)
  | fnma (f : FR)
  | fmin (f : FR)
  | fmax (f : FR)
  | cmpeq (f : FRK)
  | cmpne (f : FRK)
  | cmplt (f : FRK)
  | cmpltU (f : FRK)
  | cmple (f : FRK)
  | cmpleU (f : FRK)
  | fcmpeq (f : FRK)
  | fcmplt (f : FRK)
  | fcmple (f : FRK)
  | fcmpun (f : FRK)
  | kand (f : FRM)
  | kor (f : FRM)
  | kxor (f : FRM)
  | kandn (f : FRM)
  | netmv (f : FRN)
  | gatherb (f : FR)
  | compose (f : FR)
  | addi (i : BitVec 12) (a : RegCode) (d : RegCode)
  | andi (i : BitVec 12) (a : RegCode) (d : RegCode)
  | ori (i : BitVec 12) (a : RegCode) (d : RegCode)
  | xori (i : BitVec 12) (a : RegCode) (d : RegCode)
  | shli (i : BitVec 6) (a : RegCode) (d : RegCode)
  | shri (i : BitVec 6) (a : RegCode) (d : RegCode)
  | shriU (i : BitVec 6) (a : RegCode) (d : RegCode)
  | muli (i : BitVec 12) (a : RegCode) (d : RegCode)
  | cmpeqi (i : BitVec 12) (a : RegCode) (k : BitVec 3)
  | cmplti (i : BitVec 12) (a : RegCode) (k : BitVec 3)
  | cmpltiU (i : BitVec 12) (a : RegCode) (k : BitVec 3)
  | movi (i : BitVec 12) (d : RegCode)
  | retag (t : BitVec 4) (a : RegCode) (d : RegCode)
  | srd (s : BitVec 12) (d : RegCode)
  | swr (s : BitVec 12) (a : RegCode)
  | swrFrm (a : RegCode)
  | swrFflags (a : RegCode)
  | swrDraw (a : RegCode)
  | swrInj (a : RegCode)
  | jalr (i : BitVec 12) (a : RegCode) (d : RegCode)
  | ldhi (i : BitVec 18) (d : RegCode)
  | pcrel (i : BitVec 18) (d : RegCode)
  | sigchk (i : BitVec 18)
  | ld8 (q : BitVec 2) (o : BitVec 10) (b : RegCode) (d : RegCode)
  | ld8U (q : BitVec 2) (o : BitVec 10) (b : RegCode) (d : RegCode)
  | ld16 (q : BitVec 2) (o : BitVec 10) (b : RegCode) (d : RegCode)
  | ld16U (q : BitVec 2) (o : BitVec 10) (b : RegCode) (d : RegCode)
  | ld32 (q : BitVec 2) (o : BitVec 10) (b : RegCode) (d : RegCode)
  | ld32U (q : BitVec 2) (o : BitVec 10) (b : RegCode) (d : RegCode)
  | ld64 (q : BitVec 2) (o : BitVec 10) (b : RegCode) (d : RegCode)
  | st8 (q : BitVec 2) (o : BitVec 10) (b : RegCode) (d : RegCode)
  | st16 (q : BitVec 2) (o : BitVec 10) (b : RegCode) (d : RegCode)
  | st32 (q : BitVec 2) (o : BitVec 10) (b : RegCode) (d : RegCode)
  | st64 (q : BitVec 2) (o : BitVec 10) (b : RegCode) (d : RegCode)
  | lea (o : BitVec 10) (b : RegCode) (d : RegCode)
  | bra (o : BitVec 18)
  | bk (o : BitVec 18) (k : BitVec 3)
  | bnk (o : BitVec 18) (k : BitVec 3)
  | bz (o : BitVec 18) (c : RegCode)
  | bnz (o : BitVec 18) (c : RegCode)
  | call (o : BitVec 18) (l : RegCode)
  | div (b : RegCode) (a : RegCode) (d : RegCode)
  | divU (b : RegCode) (a : RegCode) (d : RegCode)
  | rem (b : RegCode) (a : RegCode) (d : RegCode)
  | remU (b : RegCode) (a : RegCode) (d : RegCode)
  | popc (a : RegCode) (d : RegCode)
  | clz (a : RegCode) (d : RegCode)
  | ctz (a : RegCode) (d : RegCode)
  | brev (a : RegCode) (d : RegCode)
  | bswap (a : RegCode) (d : RegCode)
  | abs (a : RegCode) (d : RegCode)
  | neg (a : RegCode) (d : RegCode)
  | ext (b : RegCode) (a : RegCode) (d : RegCode)
  | extU (b : RegCode) (a : RegCode) (d : RegCode)
  | ins (b : RegCode) (a : RegCode) (d : RegCode)
  | fdiv (b : RegCode) (a : RegCode) (d : RegCode)
  | fsqrt (r : BitVec 3) (a : RegCode) (d : RegCode)
  | fabs (a : RegCode) (d : RegCode)
  | fneg (a : RegCode) (d : RegCode)
  | fcpys (b : RegCode) (a : RegCode) (d : RegCode)
  | fclass (a : RegCode) (d : RegCode)
  | frint (r : BitVec 3) (a : RegCode) (d : RegCode)
  | cvtF64 (x : BitVec 3) (m : BitVec 3) (a : RegCode) (d : RegCode)
  | cvtF32 (x : BitVec 3) (m : BitVec 3) (a : RegCode) (d : RegCode)
  | cvtF16 (x : BitVec 3) (m : BitVec 3) (a : RegCode) (d : RegCode)
  | cvtBf16 (x : BitVec 3) (m : BitVec 3) (a : RegCode) (d : RegCode)
  | cvtE4m3 (x : BitVec 3) (m : BitVec 3) (a : RegCode) (d : RegCode)
  | cvtE5m2 (x : BitVec 3) (m : BitVec 3) (a : RegCode) (d : RegCode)
  | cvtE2m1 (x : BitVec 3) (m : BitVec 3) (a : RegCode) (d : RegCode)
  | cvtI64 (x : BitVec 3) (m : BitVec 3) (a : RegCode) (d : RegCode)
  | cvtI64U (x : BitVec 3) (m : BitVec 3) (a : RegCode) (d : RegCode)
  | cvtI32 (x : BitVec 3) (m : BitVec 3) (a : RegCode) (d : RegCode)
  | cvtI32U (x : BitVec 3) (m : BitVec 3) (a : RegCode) (d : RegCode)
  | cvtI16 (x : BitVec 3) (m : BitVec 3) (a : RegCode) (d : RegCode)
  | cvtI16U (x : BitVec 3) (m : BitVec 3) (a : RegCode) (d : RegCode)
  | cvtI8 (x : BitVec 3) (m : BitVec 3) (a : RegCode) (d : RegCode)
  | cvtI8U (x : BitVec 3) (m : BitVec 3) (a : RegCode) (d : RegCode)
  | pack (b : RegCode) (a : RegCode) (d : RegCode)
  | unpackLo (b : RegCode) (a : RegCode) (d : RegCode)
  | unpackHi (b : RegCode) (a : RegCode) (d : RegCode)
  | split (j : BitVec 2)
  | rejoin (j : BitVec 2)
  | exit
  | tail
  | voteAll (m : BitVec 3) (k : BitVec 3)
  | voteAny (m : BitVec 3) (k : BitVec 3)
  | ballot (m : BitVec 3) (d : RegCode)
  | matchLanes (a : RegCode) (d : RegCode)
  | scanAdd (a : RegCode) (d : RegCode)
  | scanMin (a : RegCode) (d : RegCode)
  | scanMax (a : RegCode) (d : RegCode)
  | reduceAdd (a : RegCode) (d : RegCode)
  | reduceMin (a : RegCode) (d : RegCode)
  | reduceMax (a : RegCode) (d : RegCode)
  | setnet (a : RegCode) (n : BitVec 2)
  | fuse (a : RegCode)
  | barC
  | barG (a : RegCode)
  | arriveG (a : RegCode)
  | waitG (a : RegCode)
  | scanMinU (a : RegCode) (d : RegCode)
  | scanMaxU (a : RegCode) (d : RegCode)
  | reduceMinU (a : RegCode) (d : RegCode)
  | reduceMaxU (a : RegCode) (d : RegCode)
  | reduceAnd (a : RegCode) (d : RegCode)
  | reduceOr (a : RegCode) (d : RegCode)
  | reduceXor (a : RegCode) (d : RegCode)
  | ldt (q : BitVec 2) (t : BitVec 4) (b : RegCode) (a : RegCode) (d : RegCode)
  | aadd (o : BitVec 1) (b : RegCode) (a : RegCode) (d : RegCode)
  | aand (o : BitVec 1) (b : RegCode) (a : RegCode) (d : RegCode)
  | aor (o : BitVec 1) (b : RegCode) (a : RegCode) (d : RegCode)
  | axor (o : BitVec 1) (b : RegCode) (a : RegCode) (d : RegCode)
  | amin (o : BitVec 1) (b : RegCode) (a : RegCode) (d : RegCode)
  | aminU (o : BitVec 1) (b : RegCode) (a : RegCode) (d : RegCode)
  | amax (o : BitVec 1) (b : RegCode) (a : RegCode) (d : RegCode)
  | amaxU (o : BitVec 1) (b : RegCode) (a : RegCode) (d : RegCode)
  | axchg (o : BitVec 1) (b : RegCode) (a : RegCode) (d : RegCode)
  | acas (o : BitVec 1) (b : RegCode) (a : RegCode) (d : RegCode)
  | afx (o : BitVec 1) (b : RegCode) (a : RegCode)
  | afxrd (o : BitVec 1) (a : RegCode) (d : RegCode)
  | fenceSquad
  | fenceCrew
  | fenceGang
  | fenceDevice
  | fenceSystem
  | fenceFull
  | waitcrew (a : RegCode)
  | valloc (b : RegCode) (a : RegCode) (d : RegCode)
  | vdup (b : RegCode) (a : RegCode) (d : RegCode)
  | vsplit (b : RegCode) (a : RegCode) (d : RegCode)
  | vnarrow (b : RegCode) (a : RegCode) (d : RegCode)
  | vdrop (a : RegCode)
  | vquery (b : RegCode) (a : RegCode) (d : RegCode)
  | vbound (s : BitVec 2) (a : RegCode) (d : RegCode)
  | runnew
  | enum (b : RegCode) (a : RegCode) (d : RegCode)
  | enumOne (b : RegCode) (d : RegCode)
  | merge (m : BitVec 3) (a : RegCode) (d : RegCode)
  | endch (a : RegCode) (d : RegCode)
  | choose (b : RegCode) (a : RegCode) (d : RegCode)
  | mmaQE4m3 (s : BitVec 6) (a : RegCode) (h : BitVec 2) (t : BitVec 3)
  | mmaQE5m2 (s : BitVec 6) (a : RegCode) (h : BitVec 2) (t : BitVec 3)
  | mmaQMxfp4 (s : BitVec 6) (a : RegCode) (h : BitVec 2) (t : BitVec 3)
  | mmaQBf16 (s : BitVec 6) (a : RegCode) (h : BitVec 2) (t : BitVec 3)
  | mmaQI8 (s : BitVec 6) (a : RegCode) (h : BitVec 2) (t : BitVec 3)
  | bld (s : BitVec 6) (a : RegCode) (h : BitVec 2) (f : BitVec 3)
  | tzero (a : RegCode) (t : BitVec 3)
  | tld (b : RegCode) (a : RegCode) (t : BitVec 3)
  | tst (b : RegCode) (a : RegCode) (t : BitVec 3)
  | trd (t : BitVec 3) (a : RegCode) (d : RegCode)
  | tver (t : BitVec 3) (d : RegCode)
  | mfence (d : RegCode)
  | mwait (a : RegCode)
  | gsub (b : RegCode) (a : RegCode) (d : RegCode)
  | waitobj (b : RegCode) (a : RegCode) (d : RegCode)
  | pollobj (b : RegCode) (a : RegCode) (d : RegCode)
  | qcfg (a : RegCode) (q : BitVec 3)
  | qpush (b : RegCode) (a : RegCode) (q : BitVec 3)
  | qpop (q : BitVec 3) (d : RegCode)
  | feed (b : RegCode) (a : RegCode) (d : RegCode)
  | sloop (o : BitVec 12) (d : RegCode)
  | dqpush (a : RegCode)
  | dqpop (d : RegCode)
  | dqsteal (a : RegCode) (d : RegCode)
  | syscall
  | brk (c : BitVec 6)
  | icinv
  | clk (d : RegCode)
  | rand (d : RegCode)
  | inv (t : BitVec 3) (k : BitVec 2) (g : RegCode) (i : RegCode) (o : RegCode)
  | invDec (t : BitVec 3) (k : BitVec 2) (g : RegCode) (i : RegCode) (o : RegCode)
  | bset (k : BitVec 2) (a : RegCode)
  | bget (k : BitVec 2) (d : RegCode)
  | stallElapsed (q lane : Nat)
  | scoreboardWriteLands (q : Nat) (part : LandPart)
  | registerLineArrives (q line : Nat)
  | setnetConfigLands (q : Nat)
  | yieldExpires (q : Nat)
  | writeLands (n : Nat)
  | atomicPerformed (q : Nat)
  | fenceComplete (q : Nat)
  | icinvComplete (q : Nat)
  | rejoinRelease (q j : Nat)
  | barrierPhaseComplete (lid : Nat) (group : Bool) (n : Nat)
  | enumGroupAssembled (lid crew base : Nat)
  | mergeGathering (lid crew base : Nat)
  | endchMapWrite (lid crew base : Nat)
  | tileVersionAccept (q : Nat)
  | microTileLand (part : RowPart)
  | bldComplete (part : OpPart) (bad : Bool)
  | tileTransferComplete (part : OpPart) (bad : Bool)
  | wheyDecrement
  | granuleFree (job : Nat) (va : Word)
  | squadRetire (q : Nat)
  | trackerEntryDrained (core n : Nat)
  | crewComplete (lid crew : Nat)
  | watchdogTimeout (lid n : Nat)
  | trapTaken (q : Nat)
  | launchEnded (lid : Nat)
  | relaunchDecision (lid crew : Nat)
  | singleStepStop (q : Nat)
  | copyNode (lid crew : Nat) (part : NodePart)
  | xformNode (lid crew : Nat) (part : NodePart)
  | checkNode (lid crew : Nat) (part : NodePart)
  | launchNode (lid crew : Nat) (part : NodePart)
  | signalNode (lid crew : Nat) (part : NodePart)
  | putNode (lid crew : Nat) (part : NodePart)
  | getNode (lid crew : Nat) (part : NodePart)
  | nodeFinish (lid crew node : Nat)
  | errorAreaWrite (lid crew : Nat)
  | bind (lid : Nat) (records : BindSet)
  | waitingSetBind (lid : Nat) (records : BindSet)
  | timeSliceExpiry (lid crew : Nat)
  | preemptRequest (lid crew : Nat)
  | preemptionTakesEffect (lid crew : Nat)
  | shootdown (job : Nat) (va entry : Word)
  | shootdownComplete (job : Nat) (va : Word)
  | pageSplit (job : Nat) (va : Word) (join : Bool)
  | keySlotLoad (slot : BitVec 8)
  | bankClear (bank : Nat)
  | correctedError (found : ErrorAt) (addr : Word) (info : BitVec 128)
  | uncorrectableError (site : ErrorSite) (n : Nat) (addr : Word) (info : BitVec 128)
  | writebackScan
  | writebackDrained (job : Nat) (va : Word)
  | writebackComplete (job : Nat) (va : Word) (ok : Bool)
  | nvmeCompletion (n : Nat) (ok : Bool)
  | patrolScrub (line : Nat) (corrected uncorrectable : Bool)
  | calibrationWindow
  | telemetrySample
  | packetArrival (frame : NetFrame)
  | messageAcknowledged (msg : MsgName)
  | packetNack (msg : NackName) (cause : BitVec 8) (addr : Word)
  | linkFailure (link : LinkEnd)
  | peerUnreachable (job peer : Nat)
  | moduleReset
  | bootImageRead
  | drieneInit
  | thermalTrip
  | jobopen (h : Header) (number : Nat) (fabric : Word) (peers : List (Nat × Word)) (key : List Byte)
  | jobclose (h : Header)
  | loadObject (h : Header) (image : List Byte)
  | launch (h : Header) (record : List Byte) (lid : BitVec 32)
  | launchResident (lid : Nat)
  | cancel (h : Header) (lid : BitVec 32)
  | attest (h : Header) (nonce : List Byte) (handle : Nat)
  | fusestep (h : Header) (value : Nat) (sign : List Byte)
  | fuseBlow
  | recovery (h : Header) (image : List Byte)
  | unlistedMessage (h : Header)
  | debugReadState (h : Header) (at_ : DebugAt) (lane reg : Nat)
  | debugWriteState (h : Header) (at_ : DebugAt) (lane reg : Nat) (value : DebugValue)
  | debugAdvance (h : Header) (at_ : DebugAt)
  | debugResume (h : Header) (at_ : DebugAt)
  | debugStep (h : Header) (at_ : DebugAt) (pc : Option Word)
  | debugPlantBreakpoint (h : Header) (va : Word) (block : List Byte)
  | debugRemoveBreakpoint (h : Header) (va : Word) (block : List Byte)
  | fileOpen (q : Nat)
  | fileClose (q : Nat)
  | fileRead (q : Nat)
  | fileWrite (q : Nat)
  | fileFlush (q : Nat)
  | fileSize (q : Nat)
  | sockConnect (q : Nat)
  | sockListen (q : Nat)
  | sockSend (q : Nat)
  | sockRecv (q : Nat)
  | sockShutdown (q : Nat)
  | mmaQIntakeEnd (q : Nat)
  | wearManagement (blocks : Discard)
  | injectionEnable (job : Nat)
  | codeSigningKeyEnrol (keyid : List Byte)
  | debuggerAttach (lid : Nat)
  deriving DecidableEq, Repr

end Sys2Proof
end

