-- ==== Sys2Proof/WellFormed.lean ====
section
/-!
DEFINITION. WellFormed.lean: the checks of one instruction on its own fields that decoding makes (R48 and the field
limits the instructions' descriptions give). A term that fails one is an illegal instruction.
-/
namespace Sys2Proof

/-- Register code 63 is reserved (R8, R48). -/
abbrev notRes (c : RegCode) : Bool := c != 63

/-- The code names g0 to g55 (R151, R165, R201). -/
abbrev isG (c : RegCode) : Bool := c.toNat < 56

/-- Rounding controls 5 and 6 are reserved (R82, R84). -/
abbrev rmOk (r : BitVec 3) : Bool := r != 5 && r != 6

/-- The highest bit of a mask of three, 0 for none (R151). -/
def topBit (m : BitVec 3) : Nat := if m.getLsbD 2 then 2 else if m.getLsbD 1 then 1 else 0

/-- The field checks of R8, R48, R51-R54, R82, R84, R95, R151, R165, R201, R258 and R299, and the operand sizes the request
channel fixes (R103, R356, R357, R367). -/
def Instr.wf : Instr → Bool
  | .addC _ d => notRes d
  | .subC _ d => notRes d
  | .andC _ d => notRes d
  | .orC _ d => notRes d
  | .xorC _ d => notRes d
  | .shliC _ d => notRes d
  | .shriC _ d => notRes d
  | .addiC _ d => notRes d
  | .movC _ d => notRes d
  | .faddC _ d => notRes d
  | .fmulC _ d => notRes d
  | .fmao _ d => notRes d
  | .ld64C _ d => notRes d
  | .st64C _ d => notRes d
  | .cmpltC _ d => notRes d
  | .add f => notRes f.b && notRes f.a && notRes f.d
  | .sub f => notRes f.b && notRes f.a && notRes f.d
  | .and f => notRes f.b && notRes f.a && notRes f.d
  | .or f => notRes f.b && notRes f.a && notRes f.d
  | .xor f => notRes f.b && notRes f.a && notRes f.d
  | .andn f => notRes f.b && notRes f.a && notRes f.d
  | .shl f => notRes f.b && notRes f.a && notRes f.d
  | .shr f => notRes f.b && notRes f.a && notRes f.d
  | .shrU f => notRes f.b && notRes f.a && notRes f.d
  | .rol f => notRes f.b && notRes f.a && notRes f.d
  | .mul f => notRes f.b && notRes f.a && notRes f.d
  | .mulh f => notRes f.b && notRes f.a && notRes f.d
  | .mulhU f => notRes f.b && notRes f.a && notRes f.d
  | .min f => notRes f.b && notRes f.a && notRes f.d
  | .minU f => notRes f.b && notRes f.a && notRes f.d
  | .max f => notRes f.b && notRes f.a && notRes f.d
  | .maxU f => notRes f.b && notRes f.a && notRes f.d
  | .adds f => notRes f.b && notRes f.a && notRes f.d
  | .addsU f => notRes f.b && notRes f.a && notRes f.d
  | .subs f => notRes f.b && notRes f.a && notRes f.d
  | .subsU f => notRes f.b && notRes f.a && notRes f.d
  | .mov f => notRes f.a && notRes f.d
  | .fadd f => notRes f.b && notRes f.a && notRes f.d
  | .fsub f => notRes f.b && notRes f.a && notRes f.d
  | .fmul f => notRes f.b && notRes f.a && notRes f.d
  | .fma f => notRes f.b && notRes f.a && notRes f.d
  | .fnma f => notRes f.b && notRes f.a && notRes f.d
  | .fmin f => notRes f.b && notRes f.a && notRes f.d
  | .fmax f => notRes f.b && notRes f.a && notRes f.d
  | .cmpeq f => notRes f.b && notRes f.a && f.k != 0
  | .cmpne f => notRes f.b && notRes f.a && f.k != 0
  | .cmplt f => notRes f.b && notRes f.a && f.k != 0
  | .cmpltU f => notRes f.b && notRes f.a && f.k != 0
  | .cmple f => notRes f.b && notRes f.a && f.k != 0
  | .cmpleU f => notRes f.b && notRes f.a && f.k != 0
  | .fcmpeq f => notRes f.b && notRes f.a && f.k != 0
  | .fcmplt f => notRes f.b && notRes f.a && f.k != 0
  | .fcmple f => notRes f.b && notRes f.a && f.k != 0
  | .fcmpun f => notRes f.b && notRes f.a && f.k != 0
  | .kand f => f.k != 0
  | .kor f => f.k != 0
  | .kxor f => f.k != 0
  | .kandn f => f.k != 0
  | .netmv f => notRes f.a && notRes f.d
  | .gatherb f => notRes f.b && notRes f.a && notRes f.d
  | .compose f => notRes f.b && notRes f.a && notRes f.d
  | .addi _ a d => notRes a && notRes d
  | .andi _ a d => notRes a && notRes d
  | .ori _ a d => notRes a && notRes d
  | .xori _ a d => notRes a && notRes d
  | .shli _ a d => notRes a && notRes d
  | .shri _ a d => notRes a && notRes d
  | .shriU _ a d => notRes a && notRes d
  | .muli _ a d => notRes a && notRes d
  | .cmpeqi _ a k => notRes a && k != 0
  | .cmplti _ a k => notRes a && k != 0
  | .cmpltiU _ a k => notRes a && k != 0
  | .movi _ d => notRes d
  | .retag t a d => notRes a && notRes d && t != 0xD && t != 0xF
  | .srd s d => notRes d && s.toNat < 0x14
  | .swr s a => notRes a && s.toNat < 0x14 && s != 0x00F && s != 0x010 && s != 0x00C && s != 0x012
  | .swrFrm a => notRes a
  | .swrFflags a => notRes a
  | .swrDraw a => notRes a
  | .swrInj a => notRes a
  | .jalr _ a d => notRes a && notRes d
  | .ldhi _ d => notRes d
  | .pcrel _ d => notRes d
  | .ld8 _ _ b d => notRes b && notRes d
  | .ld8U _ _ b d => notRes b && notRes d
  | .ld16 _ _ b d => notRes b && notRes d
  | .ld16U _ _ b d => notRes b && notRes d
  | .ld32 _ _ b d => notRes b && notRes d
  | .ld32U _ _ b d => notRes b && notRes d
  | .ld64 _ _ b d => notRes b && notRes d
  | .st8 _ _ b d => notRes b && notRes d
  | .st16 _ _ b d => notRes b && notRes d
  | .st32 _ _ b d => notRes b && notRes d
  | .st64 _ _ b d => notRes b && notRes d
  | .lea _ b d => notRes b && notRes d
  | .bz _ c => notRes c
  | .bnz _ c => notRes c
  | .call _ l => notRes l
  | .div b a d => notRes b && notRes a && notRes d
  | .divU b a d => notRes b && notRes a && notRes d
  | .rem b a d => notRes b && notRes a && notRes d
  | .remU b a d => notRes b && notRes a && notRes d
  | .popc a d => notRes a && notRes d
  | .clz a d => notRes a && notRes d
  | .ctz a d => notRes a && notRes d
  | .brev a d => notRes a && notRes d
  | .bswap a d => notRes a && notRes d
  | .abs a d => notRes a && notRes d
  | .neg a d => notRes a && notRes d
  | .ext b a d => notRes b && notRes a && notRes d
  | .extU b a d => notRes b && notRes a && notRes d
  | .ins b a d => notRes b && notRes a && notRes d
  | .fdiv b a d => notRes b && notRes a && notRes d
  | .fsqrt r a d => notRes a && notRes d && rmOk r
  | .fabs a d => notRes a && notRes d
  | .fneg a d => notRes a && notRes d
  | .fcpys b a d => notRes b && notRes a && notRes d
  | .fclass a d => notRes a && notRes d
  | .frint r a d => notRes a && notRes d && rmOk r
  | .cvtF64 _ m a d => notRes a && notRes d && rmOk m
  | .cvtF32 _ m a d => notRes a && notRes d && rmOk m
  | .cvtF16 _ m a d => notRes a && notRes d && rmOk m
  | .cvtBf16 _ m a d => notRes a && notRes d && rmOk m
  | .cvtE4m3 _ m a d => notRes a && notRes d && rmOk m
  | .cvtE5m2 _ m a d => notRes a && notRes d && rmOk m
  | .cvtE2m1 x m a d => notRes a && notRes d && rmOk m && x.toNat % 2 == 0
  | .cvtI64 _ m a d => notRes a && notRes d && rmOk m
  | .cvtI64U _ m a d => notRes a && notRes d && rmOk m
  | .cvtI32 _ m a d => notRes a && notRes d && rmOk m
  | .cvtI32U _ m a d => notRes a && notRes d && rmOk m
  | .cvtI16 _ m a d => notRes a && notRes d && rmOk m
  | .cvtI16U _ m a d => notRes a && notRes d && rmOk m
  | .cvtI8 _ m a d => notRes a && notRes d && rmOk m
  | .cvtI8U _ m a d => notRes a && notRes d && rmOk m
  | .pack b a d => notRes b && notRes a && notRes d
  | .unpackLo b a d => notRes b && notRes a && notRes d
  | .unpackHi b a d => notRes b && notRes a && notRes d
  | .voteAll _ k => k != 0
  | .voteAny _ k => k != 0
  | .ballot _ d => notRes d
  | .matchLanes a d => notRes a && notRes d
  | .scanAdd a d => notRes a && notRes d
  | .scanMin a d => notRes a && notRes d
  | .scanMax a d => notRes a && notRes d
  | .reduceAdd a d => notRes a && notRes d
  | .reduceMin a d => notRes a && notRes d
  | .reduceMax a d => notRes a && notRes d
  | .setnet a _ => notRes a
  | .fuse a => notRes a
  | .barG a => notRes a
  | .arriveG a => notRes a
  | .waitG a => notRes a
  | .scanMinU a d => notRes a && notRes d
  | .scanMaxU a d => notRes a && notRes d
  | .reduceMinU a d => notRes a && notRes d
  | .reduceMaxU a d => notRes a && notRes d
  | .reduceAnd a d => notRes a && notRes d
  | .reduceOr a d => notRes a && notRes d
  | .reduceXor a d => notRes a && notRes d
  | .ldt _ t b a d => notRes b && notRes a && notRes d && t != 0xD && t != 0xF
  | .aadd _ b a d => notRes b && notRes a && notRes d
  | .aand _ b a d => notRes b && notRes a && notRes d
  | .aor _ b a d => notRes b && notRes a && notRes d
  | .axor _ b a d => notRes b && notRes a && notRes d
  | .amin _ b a d => notRes b && notRes a && notRes d
  | .aminU _ b a d => notRes b && notRes a && notRes d
  | .amax _ b a d => notRes b && notRes a && notRes d
  | .amaxU _ b a d => notRes b && notRes a && notRes d
  | .axchg _ b a d => notRes b && notRes a && notRes d
  | .acas _ b a d => notRes b && notRes a && notRes d
  | .afx _ b a => notRes b && notRes a
  | .afxrd _ a d => notRes a && notRes d
  | .waitcrew a => notRes a
  | .valloc b a d => notRes b && notRes a && notRes d && isG d
  | .vdup b a d => notRes b && notRes a && notRes d && isG d
  | .vsplit b a d => notRes b && notRes a && notRes d && isG d
  | .vnarrow b a d => notRes b && notRes a && notRes d && isG d
  | .vdrop a => notRes a
  | .vquery b a d => notRes b && notRes a && notRes d
  | .vbound _ a d => notRes a && notRes d
  | .enum b a d => notRes b && notRes a && notRes d && isG d
  | .enumOne b d => notRes b && notRes d && isG d
  | .merge m a d => notRes a && notRes d && isG a && (if m = 0 then d == 0 else isG d && d.toNat + topBit m < 56)
  | .endch a d => notRes a && notRes d && isG a
  | .choose b a d => notRes b && notRes a && notRes d
  | .mmaQE4m3 _ a _ _ => notRes a
  | .mmaQE5m2 _ a _ _ => notRes a
  | .mmaQMxfp4 _ a _ _ => notRes a
  | .mmaQBf16 _ a _ _ => notRes a
  | .mmaQI8 _ a _ _ => notRes a
  | .bld _ a _ f => notRes a && f.toNat < 5
  | .tzero a _ => notRes a
  | .tld b a _ => notRes b && notRes a
  | .tst b a _ => notRes b && notRes a
  | .trd _ a d => notRes a && notRes d
  | .tver _ d => notRes d
  | .mfence d => notRes d
  | .mwait a => notRes a
  | .gsub b a d => notRes b && notRes a && notRes d
  | .waitobj b a d => notRes b && notRes a && notRes d
  | .pollobj b a d => notRes b && notRes a && notRes d
  | .qcfg a _ => notRes a
  | .qpush b a _ => notRes b && notRes a
  | .qpop _ d => notRes d
  | .feed b a d => notRes b && notRes a && notRes d
  | .sloop o d => notRes d && o != 0
  | .dqpush a => notRes a
  | .dqpop d => notRes d
  | .dqsteal a d => notRes a && notRes d
  | .clk d => notRes d
  | .rand d => notRes d
  | .inv _ _ g i o => notRes g && notRes i && notRes o && isG g && isG i && isG o && o != i
  | .invDec _ _ g i o => notRes g && notRes i && notRes o && isG g && isG i && isG o && o != i
  | .bset _ a => notRes a && isG a
  | .bget _ d => notRes d && isG d
  | .jobopen _ number _ peers _ => number < 32768 && peers.length < 32768
  | .launch _ record _ => record.length == 128
  | .attest _ nonce _ => nonce.length == 32
  | .codeSigningKeyEnrol keyid => keyid.length == 64
  | _ => true

end Sys2Proof
end

