-- ==== Sys2Proof/Decode.lean ====
section
/-!
DEFINITION. Decode.lean: from bytes to an instruction, total on any bytes, and the encoder, both from the encoding tables
of spec/03_encoding_and_assembly.md.
-/
namespace Sys2Proof

/-- Bits [lo + n - 1 : lo] of a word. -/
abbrev fld (w lo n : Nat) : BitVec n := BitVec.ofNat n (w / 2 ^ lo)

/-- One encoding: the fields that are fixed (lowest bit, width, value), reserved bits among them, and the instruction
that the other fields give. -/
structure Row where
  name : String
  fixed : List (Nat × Nat × Nat)
  build : Nat → Instr

/-- Every fixed field of the row has its value in the word (R48). -/
def Row.fits (r : Row) (w : Nat) : Bool :=
  r.fixed.all fun (lo, n, v) => w / 2 ^ lo % 2 ^ n == v

/-- The rows of the 16-bit forms (R49, R50). -/
def rows16 : List Row :=
  [⟨"ADD_C", [(0, 5, 0x0)], fun w => .addC (fld w 11 5) (fld w 5 6)⟩,
   ⟨"SUB_C", [(0, 5, 0x2)], fun w => .subC (fld w 11 5) (fld w 5 6)⟩,
   ⟨"AND_C", [(0, 5, 0x4)], fun w => .andC (fld w 11 5) (fld w 5 6)⟩,
   ⟨"OR_C", [(0, 5, 0x6)], fun w => .orC (fld w 11 5) (fld w 5 6)⟩,
   ⟨"XOR_C", [(0, 5, 0x8)], fun w => .xorC (fld w 11 5) (fld w 5 6)⟩,
   ⟨"SHLI_C", [(0, 5, 0xA)], fun w => .shliC (fld w 11 5) (fld w 5 6)⟩,
   ⟨"SHRI_C", [(0, 5, 0xC)], fun w => .shriC (fld w 11 5) (fld w 5 6)⟩,
   ⟨"ADDI_C", [(0, 5, 0xE)], fun w => .addiC (fld w 11 5) (fld w 5 6)⟩,
   ⟨"MOV_C", [(0, 5, 0x10)], fun w => .movC (fld w 11 5) (fld w 5 6)⟩,
   ⟨"FADD_C", [(0, 5, 0x12)], fun w => .faddC (fld w 11 5) (fld w 5 6)⟩,
   ⟨"FMUL_C", [(0, 5, 0x14)], fun w => .fmulC (fld w 11 5) (fld w 5 6)⟩,
   ⟨"FMAO", [(0, 5, 0x16)], fun w => .fmao (fld w 11 5) (fld w 5 6)⟩,
   ⟨"LD64_C", [(0, 5, 0x18)], fun w => .ld64C (fld w 11 5) (fld w 5 6)⟩,
   ⟨"ST64_C", [(0, 5, 0x1A)], fun w => .st64C (fld w 11 5) (fld w 5 6)⟩,
   ⟨"CMPLT_C", [(0, 5, 0x1C)], fun w => .cmpltC (fld w 11 5) (fld w 5 6)⟩,
   ⟨"NOP", [(0, 11, 0x1E)], fun w => .nop (fld w 11 5)⟩,
   ⟨"INVEND", [(0, 16, 0x3E)], fun _ => .invend⟩,
   ⟨"YIELD", [(0, 16, 0x5E)], fun _ => .yield⟩]

/-- Rows of the 32-bit forms, part 1 (R51-R54, R61, R62). -/
def rows32_a : List Row :=
  [⟨"ADD", [(0, 8, 0x1)], fun w => .add ⟨fld w 30 2, fld w 27 3, fld w 26 1, fld w 20 6, fld w 14 6, fld w 8 6⟩⟩,
   ⟨"SUB", [(0, 8, 0x3)], fun w => .sub ⟨fld w 30 2, fld w 27 3, fld w 26 1, fld w 20 6, fld w 14 6, fld w 8 6⟩⟩,
   ⟨"AND", [(0, 8, 0x5)], fun w => .and ⟨fld w 30 2, fld w 27 3, fld w 26 1, fld w 20 6, fld w 14 6, fld w 8 6⟩⟩,
   ⟨"OR", [(0, 8, 0x7)], fun w => .or ⟨fld w 30 2, fld w 27 3, fld w 26 1, fld w 20 6, fld w 14 6, fld w 8 6⟩⟩,
   ⟨"XOR", [(0, 8, 0x9)], fun w => .xor ⟨fld w 30 2, fld w 27 3, fld w 26 1, fld w 20 6, fld w 14 6, fld w 8 6⟩⟩,
   ⟨"ANDN", [(0, 8, 0xB)], fun w => .andn ⟨fld w 30 2, fld w 27 3, fld w 26 1, fld w 20 6, fld w 14 6, fld w 8 6⟩⟩,
   ⟨"SHL", [(0, 8, 0xD)], fun w => .shl ⟨fld w 30 2, fld w 27 3, fld w 26 1, fld w 20 6, fld w 14 6, fld w 8 6⟩⟩,
   ⟨"SHR", [(0, 8, 0xF)], fun w => .shr ⟨fld w 30 2, fld w 27 3, fld w 26 1, fld w 20 6, fld w 14 6, fld w 8 6⟩⟩,
   ⟨"SHR_U", [(0, 8, 0x11)], fun w => .shrU ⟨fld w 30 2, fld w 27 3, fld w 26 1, fld w 20 6, fld w 14 6, fld w 8 6⟩⟩,
   ⟨"ROL", [(0, 8, 0x13)], fun w => .rol ⟨fld w 30 2, fld w 27 3, fld w 26 1, fld w 20 6, fld w 14 6, fld w 8 6⟩⟩,
   ⟨"MUL", [(0, 8, 0x15)], fun w => .mul ⟨fld w 30 2, fld w 27 3, fld w 26 1, fld w 20 6, fld w 14 6, fld w 8 6⟩⟩,
   ⟨"MULH", [(0, 8, 0x17)], fun w => .mulh ⟨fld w 30 2, fld w 27 3, fld w 26 1, fld w 20 6, fld w 14 6, fld w 8 6⟩⟩,
   ⟨"MULH_U", [(0, 8, 0x19)], fun w => .mulhU ⟨fld w 30 2, fld w 27 3, fld w 26 1, fld w 20 6, fld w 14 6, fld w 8 6⟩⟩,
   ⟨"MIN", [(0, 8, 0x1B)], fun w => .min ⟨fld w 30 2, fld w 27 3, fld w 26 1, fld w 20 6, fld w 14 6, fld w 8 6⟩⟩,
   ⟨"MIN_U", [(0, 8, 0x1D)], fun w => .minU ⟨fld w 30 2, fld w 27 3, fld w 26 1, fld w 20 6, fld w 14 6, fld w 8 6⟩⟩,
   ⟨"MAX", [(0, 8, 0x1F)], fun w => .max ⟨fld w 30 2, fld w 27 3, fld w 26 1, fld w 20 6, fld w 14 6, fld w 8 6⟩⟩,
   ⟨"MAX_U", [(0, 8, 0x21)], fun w => .maxU ⟨fld w 30 2, fld w 27 3, fld w 26 1, fld w 20 6, fld w 14 6, fld w 8 6⟩⟩,
   ⟨"ADDS", [(0, 8, 0x23)], fun w => .adds ⟨fld w 30 2, fld w 27 3, fld w 26 1, fld w 20 6, fld w 14 6, fld w 8 6⟩⟩,
   ⟨"ADDS_U", [(0, 8, 0x25)], fun w => .addsU ⟨fld w 30 2, fld w 27 3, fld w 26 1, fld w 20 6, fld w 14 6, fld w 8 6⟩⟩,
   ⟨"SUBS", [(0, 8, 0x27)], fun w => .subs ⟨fld w 30 2, fld w 27 3, fld w 26 1, fld w 20 6, fld w 14 6, fld w 8 6⟩⟩,
   ⟨"SUBS_U", [(0, 8, 0x29)], fun w => .subsU ⟨fld w 30 2, fld w 27 3, fld w 26 1, fld w 20 6, fld w 14 6, fld w 8 6⟩⟩,
   ⟨"MOV", [(0, 8, 0x2D), (20, 6, 0x0)], fun w => .mov ⟨fld w 30 2, fld w 27 3, fld w 26 1, fld w 14 6, fld w 8 6⟩⟩,
   ⟨"FADD", [(0, 8, 0x31)], fun w => .fadd ⟨fld w 30 2, fld w 27 3, fld w 26 1, fld w 20 6, fld w 14 6, fld w 8 6⟩⟩,
   ⟨"FSUB", [(0, 8, 0x33)], fun w => .fsub ⟨fld w 30 2, fld w 27 3, fld w 26 1, fld w 20 6, fld w 14 6, fld w 8 6⟩⟩,
   ⟨"FMUL", [(0, 8, 0x35)], fun w => .fmul ⟨fld w 30 2, fld w 27 3, fld w 26 1, fld w 20 6, fld w 14 6, fld w 8 6⟩⟩,
   ⟨"FMA", [(0, 8, 0x37)], fun w => .fma ⟨fld w 30 2, fld w 27 3, fld w 26 1, fld w 20 6, fld w 14 6, fld w 8 6⟩⟩,
   ⟨"FNMA", [(0, 8, 0x39)], fun w => .fnma ⟨fld w 30 2, fld w 27 3, fld w 26 1, fld w 20 6, fld w 14 6, fld w 8 6⟩⟩,
   ⟨"FMIN", [(0, 8, 0x3B)], fun w => .fmin ⟨fld w 30 2, fld w 27 3, fld w 26 1, fld w 20 6, fld w 14 6, fld w 8 6⟩⟩,
   ⟨"FMAX", [(0, 8, 0x3D)], fun w => .fmax ⟨fld w 30 2, fld w 27 3, fld w 26 1, fld w 20 6, fld w 14 6, fld w 8 6⟩⟩,
   ⟨"CMPEQ", [(0, 8, 0x41), (11, 3, 0x0)], fun w => .cmpeq ⟨fld w 30 2, fld w 27 3, fld w 26 1, fld w 20 6, fld w 14 6, fld w 8 3⟩⟩,
   ⟨"CMPNE", [(0, 8, 0x43), (11, 3, 0x0)], fun w => .cmpne ⟨fld w 30 2, fld w 27 3, fld w 26 1, fld w 20 6, fld w 14 6, fld w 8 3⟩⟩,
   ⟨"CMPLT", [(0, 8, 0x45), (11, 3, 0x0)], fun w => .cmplt ⟨fld w 30 2, fld w 27 3, fld w 26 1, fld w 20 6, fld w 14 6, fld w 8 3⟩⟩,
   ⟨"CMPLT_U", [(0, 8, 0x47), (11, 3, 0x0)], fun w => .cmpltU ⟨fld w 30 2, fld w 27 3, fld w 26 1, fld w 20 6, fld w 14 6, fld w 8 3⟩⟩,
   ⟨"CMPLE", [(0, 8, 0x49), (11, 3, 0x0)], fun w => .cmple ⟨fld w 30 2, fld w 27 3, fld w 26 1, fld w 20 6, fld w 14 6, fld w 8 3⟩⟩,
   ⟨"CMPLE_U", [(0, 8, 0x4B), (11, 3, 0x0)], fun w => .cmpleU ⟨fld w 30 2, fld w 27 3, fld w 26 1, fld w 20 6, fld w 14 6, fld w 8 3⟩⟩,
   ⟨"FCMPEQ", [(0, 8, 0x4D), (11, 3, 0x0)], fun w => .fcmpeq ⟨fld w 30 2, fld w 27 3, fld w 26 1, fld w 20 6, fld w 14 6, fld w 8 3⟩⟩,
   ⟨"FCMPLT", [(0, 8, 0x4F), (11, 3, 0x0)], fun w => .fcmplt ⟨fld w 30 2, fld w 27 3, fld w 26 1, fld w 20 6, fld w 14 6, fld w 8 3⟩⟩,
   ⟨"FCMPLE", [(0, 8, 0x51), (11, 3, 0x0)], fun w => .fcmple ⟨fld w 30 2, fld w 27 3, fld w 26 1, fld w 20 6, fld w 14 6, fld w 8 3⟩⟩,
   ⟨"FCMPUN", [(0, 8, 0x53), (11, 3, 0x0)], fun w => .fcmpun ⟨fld w 30 2, fld w 27 3, fld w 26 1, fld w 20 6, fld w 14 6, fld w 8 3⟩⟩,
   ⟨"KAND", [(0, 8, 0x55), (11, 3, 0x0), (17, 3, 0x0), (23, 3, 0x0)], fun w => .kand ⟨fld w 30 2, fld w 27 3, fld w 26 1, fld w 20 3, fld w 14 3, fld w 8 3⟩⟩]

/-- Rows of the 32-bit forms, part 2 (R51-R54, R61, R62). -/
def rows32_b : List Row :=
  [⟨"KOR", [(0, 8, 0x57), (11, 3, 0x0), (17, 3, 0x0), (23, 3, 0x0)], fun w => .kor ⟨fld w 30 2, fld w 27 3, fld w 26 1, fld w 20 3, fld w 14 3, fld w 8 3⟩⟩,
   ⟨"KXOR", [(0, 8, 0x59), (11, 3, 0x0), (17, 3, 0x0), (23, 3, 0x0)], fun w => .kxor ⟨fld w 30 2, fld w 27 3, fld w 26 1, fld w 20 3, fld w 14 3, fld w 8 3⟩⟩,
   ⟨"KANDN", [(0, 8, 0x5B), (11, 3, 0x0), (17, 3, 0x0), (23, 3, 0x0)], fun w => .kandn ⟨fld w 30 2, fld w 27 3, fld w 26 1, fld w 20 3, fld w 14 3, fld w 8 3⟩⟩,
   ⟨"NETMV", [(0, 8, 0x61), (22, 4, 0x0)], fun w => .netmv ⟨fld w 30 2, fld w 27 3, fld w 26 1, fld w 20 2, fld w 14 6, fld w 8 6⟩⟩,
   ⟨"GATHERB", [(0, 8, 0x63)], fun w => .gatherb ⟨fld w 30 2, fld w 27 3, fld w 26 1, fld w 20 6, fld w 14 6, fld w 8 6⟩⟩,
   ⟨"COMPOSE", [(0, 8, 0x65)], fun w => .compose ⟨fld w 30 2, fld w 27 3, fld w 26 1, fld w 20 6, fld w 14 6, fld w 8 6⟩⟩,
   ⟨"ADDI", [(0, 8, 0x81)], fun w => .addi (fld w 20 12) (fld w 14 6) (fld w 8 6)⟩,
   ⟨"ANDI", [(0, 8, 0x83)], fun w => .andi (fld w 20 12) (fld w 14 6) (fld w 8 6)⟩,
   ⟨"ORI", [(0, 8, 0x85)], fun w => .ori (fld w 20 12) (fld w 14 6) (fld w 8 6)⟩,
   ⟨"XORI", [(0, 8, 0x87)], fun w => .xori (fld w 20 12) (fld w 14 6) (fld w 8 6)⟩,
   ⟨"SHLI", [(0, 8, 0x89), (26, 5, 0x0), (31, 1, 0x0)], fun w => .shli (fld w 20 6) (fld w 14 6) (fld w 8 6)⟩,
   ⟨"SHRI", [(0, 8, 0x8B), (26, 5, 0x0), (31, 1, 0x0)], fun w => .shri (fld w 20 6) (fld w 14 6) (fld w 8 6)⟩,
   ⟨"SHRI_U", [(0, 8, 0x8D), (26, 5, 0x0), (31, 1, 0x0)], fun w => .shriU (fld w 20 6) (fld w 14 6) (fld w 8 6)⟩,
   ⟨"MULI", [(0, 8, 0x8F)], fun w => .muli (fld w 20 12) (fld w 14 6) (fld w 8 6)⟩,
   ⟨"CMPEQI", [(0, 8, 0x91), (11, 3, 0x0)], fun w => .cmpeqi (fld w 20 12) (fld w 14 6) (fld w 8 3)⟩,
   ⟨"CMPLTI", [(0, 8, 0x93), (11, 3, 0x0)], fun w => .cmplti (fld w 20 12) (fld w 14 6) (fld w 8 3)⟩,
   ⟨"CMPLTI_U", [(0, 8, 0x95), (11, 3, 0x0)], fun w => .cmpltiU (fld w 20 12) (fld w 14 6) (fld w 8 3)⟩,
   ⟨"MOVI", [(0, 8, 0x97), (14, 6, 0x0)], fun w => .movi (fld w 20 12) (fld w 8 6)⟩,
   ⟨"RETAG", [(0, 8, 0x99), (24, 2, 0x0), (26, 5, 0x0), (31, 1, 0x0)], fun w => .retag (fld w 20 4) (fld w 14 6) (fld w 8 6)⟩,
   ⟨"SRD", [(0, 8, 0x9B), (14, 6, 0x0)], fun w => .srd (fld w 20 12) (fld w 8 6)⟩,
   ⟨"SWR_FRM", [(0, 8, 0x9D), (8, 6, 0x0), (20, 6, 0xF), (26, 5, 0x0), (31, 1, 0x0)], fun w => .swrFrm (fld w 14 6)⟩,
   ⟨"SWR_FFLAGS", [(0, 8, 0x9D), (8, 6, 0x0), (20, 6, 0x10), (26, 5, 0x0), (31, 1, 0x0)], fun w => .swrFflags (fld w 14 6)⟩,
   ⟨"SWR_DRAW", [(0, 8, 0x9D), (8, 6, 0x0), (20, 6, 0xC), (26, 5, 0x0), (31, 1, 0x0)], fun w => .swrDraw (fld w 14 6)⟩,
   ⟨"SWR_INJ", [(0, 8, 0x9D), (8, 6, 0x0), (20, 6, 0x12), (26, 5, 0x0), (31, 1, 0x0)], fun w => .swrInj (fld w 14 6)⟩,
   ⟨"SWR", [(0, 8, 0x9D), (8, 6, 0x0)], fun w => .swr (fld w 20 12) (fld w 14 6)⟩,
   ⟨"JALR", [(0, 8, 0x9F)], fun w => .jalr (fld w 20 12) (fld w 14 6) (fld w 8 6)⟩,
   ⟨"LDHI", [(0, 8, 0xA1)], fun w => .ldhi (fld w 14 18) (fld w 8 6)⟩,
   ⟨"PCREL", [(0, 8, 0xA3)], fun w => .pcrel (fld w 14 18) (fld w 8 6)⟩,
   ⟨"SIGCHK", [(0, 8, 0xA5), (8, 6, 0x0)], fun w => .sigchk (fld w 14 18)⟩,
   ⟨"LD8", [(0, 8, 0xA9)], fun w => .ld8 (fld w 30 2) (fld w 20 10) (fld w 14 6) (fld w 8 6)⟩,
   ⟨"LD8_U", [(0, 8, 0xAB)], fun w => .ld8U (fld w 30 2) (fld w 20 10) (fld w 14 6) (fld w 8 6)⟩,
   ⟨"LD16", [(0, 8, 0xAD)], fun w => .ld16 (fld w 30 2) (fld w 20 10) (fld w 14 6) (fld w 8 6)⟩,
   ⟨"LD16_U", [(0, 8, 0xAF)], fun w => .ld16U (fld w 30 2) (fld w 20 10) (fld w 14 6) (fld w 8 6)⟩,
   ⟨"LD32", [(0, 8, 0xB1)], fun w => .ld32 (fld w 30 2) (fld w 20 10) (fld w 14 6) (fld w 8 6)⟩,
   ⟨"LD32_U", [(0, 8, 0xB3)], fun w => .ld32U (fld w 30 2) (fld w 20 10) (fld w 14 6) (fld w 8 6)⟩,
   ⟨"LD64", [(0, 8, 0xB5)], fun w => .ld64 (fld w 30 2) (fld w 20 10) (fld w 14 6) (fld w 8 6)⟩,
   ⟨"ST8", [(0, 8, 0xB7)], fun w => .st8 (fld w 30 2) (fld w 20 10) (fld w 14 6) (fld w 8 6)⟩,
   ⟨"ST16", [(0, 8, 0xB9)], fun w => .st16 (fld w 30 2) (fld w 20 10) (fld w 14 6) (fld w 8 6)⟩,
   ⟨"ST32", [(0, 8, 0xBB)], fun w => .st32 (fld w 30 2) (fld w 20 10) (fld w 14 6) (fld w 8 6)⟩,
   ⟨"ST64", [(0, 8, 0xBD)], fun w => .st64 (fld w 30 2) (fld w 20 10) (fld w 14 6) (fld w 8 6)⟩]

/-- Rows of the 32-bit forms, part 3 (R51-R54, R61, R62). -/
def rows32_c : List Row :=
  [⟨"LEA", [(0, 8, 0xBF), (30, 1, 0x0), (31, 1, 0x0)], fun w => .lea (fld w 20 10) (fld w 14 6) (fld w 8 6)⟩,
   ⟨"BRA", [(0, 8, 0xC1), (8, 6, 0x0)], fun w => .bra (fld w 14 18)⟩,
   ⟨"BK", [(0, 8, 0xC3), (11, 3, 0x0)], fun w => .bk (fld w 14 18) (fld w 8 3)⟩,
   ⟨"BNK", [(0, 8, 0xC5), (11, 3, 0x0)], fun w => .bnk (fld w 14 18) (fld w 8 3)⟩,
   ⟨"BZ", [(0, 8, 0xC7)], fun w => .bz (fld w 14 18) (fld w 8 6)⟩,
   ⟨"BNZ", [(0, 8, 0xC9)], fun w => .bnz (fld w 14 18) (fld w 8 6)⟩,
   ⟨"CALL", [(0, 8, 0xCB)], fun w => .call (fld w 14 18) (fld w 8 6)⟩,
   ⟨"DIV", [(0, 8, 0xD1), (26, 5, 0x0), (31, 1, 0x0)], fun w => .div (fld w 20 6) (fld w 14 6) (fld w 8 6)⟩,
   ⟨"DIV_U", [(0, 8, 0xD1), (26, 5, 0x1), (31, 1, 0x0)], fun w => .divU (fld w 20 6) (fld w 14 6) (fld w 8 6)⟩,
   ⟨"REM", [(0, 8, 0xD1), (26, 5, 0x2), (31, 1, 0x0)], fun w => .rem (fld w 20 6) (fld w 14 6) (fld w 8 6)⟩,
   ⟨"REM_U", [(0, 8, 0xD1), (26, 5, 0x3), (31, 1, 0x0)], fun w => .remU (fld w 20 6) (fld w 14 6) (fld w 8 6)⟩,
   ⟨"POPC", [(0, 8, 0xD1), (20, 6, 0x0), (26, 5, 0x4), (31, 1, 0x0)], fun w => .popc (fld w 14 6) (fld w 8 6)⟩,
   ⟨"CLZ", [(0, 8, 0xD1), (20, 6, 0x0), (26, 5, 0x5), (31, 1, 0x0)], fun w => .clz (fld w 14 6) (fld w 8 6)⟩,
   ⟨"CTZ", [(0, 8, 0xD1), (20, 6, 0x0), (26, 5, 0x6), (31, 1, 0x0)], fun w => .ctz (fld w 14 6) (fld w 8 6)⟩,
   ⟨"BREV", [(0, 8, 0xD1), (20, 6, 0x0), (26, 5, 0x7), (31, 1, 0x0)], fun w => .brev (fld w 14 6) (fld w 8 6)⟩,
   ⟨"BSWAP", [(0, 8, 0xD1), (20, 6, 0x0), (26, 5, 0x8), (31, 1, 0x0)], fun w => .bswap (fld w 14 6) (fld w 8 6)⟩,
   ⟨"ABS", [(0, 8, 0xD1), (20, 6, 0x0), (26, 5, 0x9), (31, 1, 0x0)], fun w => .abs (fld w 14 6) (fld w 8 6)⟩,
   ⟨"NEG", [(0, 8, 0xD1), (20, 6, 0x0), (26, 5, 0xA), (31, 1, 0x0)], fun w => .neg (fld w 14 6) (fld w 8 6)⟩,
   ⟨"EXT", [(0, 8, 0xD1), (26, 5, 0xB), (31, 1, 0x0)], fun w => .ext (fld w 20 6) (fld w 14 6) (fld w 8 6)⟩,
   ⟨"EXT_U", [(0, 8, 0xD1), (26, 5, 0xC), (31, 1, 0x0)], fun w => .extU (fld w 20 6) (fld w 14 6) (fld w 8 6)⟩,
   ⟨"INS", [(0, 8, 0xD1), (26, 5, 0xD), (31, 1, 0x0)], fun w => .ins (fld w 20 6) (fld w 14 6) (fld w 8 6)⟩,
   ⟨"FDIV", [(0, 8, 0xD3), (26, 5, 0x0), (31, 1, 0x0)], fun w => .fdiv (fld w 20 6) (fld w 14 6) (fld w 8 6)⟩,
   ⟨"FSQRT", [(0, 8, 0xD3), (23, 3, 0x0), (26, 5, 0x1), (31, 1, 0x0)], fun w => .fsqrt (fld w 20 3) (fld w 14 6) (fld w 8 6)⟩,
   ⟨"FABS", [(0, 8, 0xD3), (20, 6, 0x0), (26, 5, 0x2), (31, 1, 0x0)], fun w => .fabs (fld w 14 6) (fld w 8 6)⟩,
   ⟨"FNEG", [(0, 8, 0xD3), (20, 6, 0x0), (26, 5, 0x3), (31, 1, 0x0)], fun w => .fneg (fld w 14 6) (fld w 8 6)⟩,
   ⟨"FCPYS", [(0, 8, 0xD3), (26, 5, 0x4), (31, 1, 0x0)], fun w => .fcpys (fld w 20 6) (fld w 14 6) (fld w 8 6)⟩,
   ⟨"FCLASS", [(0, 8, 0xD3), (20, 6, 0x0), (26, 5, 0x5), (31, 1, 0x0)], fun w => .fclass (fld w 14 6) (fld w 8 6)⟩,
   ⟨"FRINT", [(0, 8, 0xD3), (23, 3, 0x0), (26, 5, 0x6), (31, 1, 0x0)], fun w => .frint (fld w 20 3) (fld w 14 6) (fld w 8 6)⟩,
   ⟨"CVT_F64", [(0, 8, 0xD5), (26, 5, 0x0), (31, 1, 0x0)], fun w => .cvtF64 (fld w 23 3) (fld w 20 3) (fld w 14 6) (fld w 8 6)⟩,
   ⟨"CVT_F32", [(0, 8, 0xD5), (26, 5, 0x1), (31, 1, 0x0)], fun w => .cvtF32 (fld w 23 3) (fld w 20 3) (fld w 14 6) (fld w 8 6)⟩,
   ⟨"CVT_F16", [(0, 8, 0xD5), (26, 5, 0x2), (31, 1, 0x0)], fun w => .cvtF16 (fld w 23 3) (fld w 20 3) (fld w 14 6) (fld w 8 6)⟩,
   ⟨"CVT_BF16", [(0, 8, 0xD5), (26, 5, 0x3), (31, 1, 0x0)], fun w => .cvtBf16 (fld w 23 3) (fld w 20 3) (fld w 14 6) (fld w 8 6)⟩,
   ⟨"CVT_E4M3", [(0, 8, 0xD5), (26, 5, 0x4), (31, 1, 0x0)], fun w => .cvtE4m3 (fld w 23 3) (fld w 20 3) (fld w 14 6) (fld w 8 6)⟩,
   ⟨"CVT_E5M2", [(0, 8, 0xD5), (26, 5, 0x5), (31, 1, 0x0)], fun w => .cvtE5m2 (fld w 23 3) (fld w 20 3) (fld w 14 6) (fld w 8 6)⟩,
   ⟨"CVT_E2M1", [(0, 8, 0xD5), (26, 5, 0x6), (31, 1, 0x0)], fun w => .cvtE2m1 (fld w 23 3) (fld w 20 3) (fld w 14 6) (fld w 8 6)⟩,
   ⟨"CVT_I64", [(0, 8, 0xD5), (26, 5, 0x7), (31, 1, 0x0)], fun w => .cvtI64 (fld w 23 3) (fld w 20 3) (fld w 14 6) (fld w 8 6)⟩,
   ⟨"CVT_I64_U", [(0, 8, 0xD5), (26, 5, 0x8), (31, 1, 0x0)], fun w => .cvtI64U (fld w 23 3) (fld w 20 3) (fld w 14 6) (fld w 8 6)⟩,
   ⟨"CVT_I32", [(0, 8, 0xD5), (26, 5, 0x9), (31, 1, 0x0)], fun w => .cvtI32 (fld w 23 3) (fld w 20 3) (fld w 14 6) (fld w 8 6)⟩,
   ⟨"CVT_I32_U", [(0, 8, 0xD5), (26, 5, 0xA), (31, 1, 0x0)], fun w => .cvtI32U (fld w 23 3) (fld w 20 3) (fld w 14 6) (fld w 8 6)⟩,
   ⟨"CVT_I16", [(0, 8, 0xD5), (26, 5, 0xB), (31, 1, 0x0)], fun w => .cvtI16 (fld w 23 3) (fld w 20 3) (fld w 14 6) (fld w 8 6)⟩]

/-- Rows of the 32-bit forms, part 4 (R51-R54, R61, R62). -/
def rows32_d : List Row :=
  [⟨"CVT_I16_U", [(0, 8, 0xD5), (26, 5, 0xC), (31, 1, 0x0)], fun w => .cvtI16U (fld w 23 3) (fld w 20 3) (fld w 14 6) (fld w 8 6)⟩,
   ⟨"CVT_I8", [(0, 8, 0xD5), (26, 5, 0xD), (31, 1, 0x0)], fun w => .cvtI8 (fld w 23 3) (fld w 20 3) (fld w 14 6) (fld w 8 6)⟩,
   ⟨"CVT_I8_U", [(0, 8, 0xD5), (26, 5, 0xE), (31, 1, 0x0)], fun w => .cvtI8U (fld w 23 3) (fld w 20 3) (fld w 14 6) (fld w 8 6)⟩,
   ⟨"PACK", [(0, 8, 0xD5), (26, 5, 0x10), (31, 1, 0x0)], fun w => .pack (fld w 20 6) (fld w 14 6) (fld w 8 6)⟩,
   ⟨"UNPACK_LO", [(0, 8, 0xD5), (26, 5, 0x11), (31, 1, 0x0)], fun w => .unpackLo (fld w 20 6) (fld w 14 6) (fld w 8 6)⟩,
   ⟨"UNPACK_HI", [(0, 8, 0xD5), (26, 5, 0x12), (31, 1, 0x0)], fun w => .unpackHi (fld w 20 6) (fld w 14 6) (fld w 8 6)⟩,
   ⟨"SPLIT", [(0, 8, 0xD7), (10, 4, 0x0), (14, 6, 0x0), (20, 6, 0x0), (26, 5, 0x0), (31, 1, 0x0)], fun w => .split (fld w 8 2)⟩,
   ⟨"REJOIN", [(0, 8, 0xD7), (10, 4, 0x0), (14, 6, 0x0), (20, 6, 0x0), (26, 5, 0x1), (31, 1, 0x0)], fun w => .rejoin (fld w 8 2)⟩,
   ⟨"EXIT", [(0, 8, 0xD7), (8, 6, 0x0), (14, 6, 0x0), (20, 6, 0x0), (26, 5, 0x2), (31, 1, 0x0)], fun _ => .exit⟩,
   ⟨"TAIL", [(0, 8, 0xD7), (8, 6, 0x0), (14, 6, 0x0), (20, 6, 0x0), (26, 5, 0x3), (31, 1, 0x0)], fun _ => .tail⟩,
   ⟨"VOTE_ALL", [(0, 8, 0xD9), (11, 3, 0x0), (17, 3, 0x0), (20, 6, 0x0), (26, 5, 0x0), (31, 1, 0x0)], fun w => .voteAll (fld w 14 3) (fld w 8 3)⟩,
   ⟨"VOTE_ANY", [(0, 8, 0xD9), (11, 3, 0x0), (17, 3, 0x0), (20, 6, 0x0), (26, 5, 0x1), (31, 1, 0x0)], fun w => .voteAny (fld w 14 3) (fld w 8 3)⟩,
   ⟨"BALLOT", [(0, 8, 0xD9), (17, 3, 0x0), (20, 6, 0x0), (26, 5, 0x2), (31, 1, 0x0)], fun w => .ballot (fld w 14 3) (fld w 8 6)⟩,
   ⟨"MATCH", [(0, 8, 0xD9), (20, 6, 0x0), (26, 5, 0x3), (31, 1, 0x0)], fun w => .matchLanes (fld w 14 6) (fld w 8 6)⟩,
   ⟨"SCAN_ADD", [(0, 8, 0xD9), (20, 6, 0x0), (26, 5, 0x4), (31, 1, 0x0)], fun w => .scanAdd (fld w 14 6) (fld w 8 6)⟩,
   ⟨"SCAN_MIN", [(0, 8, 0xD9), (20, 6, 0x0), (26, 5, 0x5), (31, 1, 0x0)], fun w => .scanMin (fld w 14 6) (fld w 8 6)⟩,
   ⟨"SCAN_MAX", [(0, 8, 0xD9), (20, 6, 0x0), (26, 5, 0x6), (31, 1, 0x0)], fun w => .scanMax (fld w 14 6) (fld w 8 6)⟩,
   ⟨"REDUCE_ADD", [(0, 8, 0xD9), (20, 6, 0x0), (26, 5, 0x7), (31, 1, 0x0)], fun w => .reduceAdd (fld w 14 6) (fld w 8 6)⟩,
   ⟨"REDUCE_MIN", [(0, 8, 0xD9), (20, 6, 0x0), (26, 5, 0x8), (31, 1, 0x0)], fun w => .reduceMin (fld w 14 6) (fld w 8 6)⟩,
   ⟨"REDUCE_MAX", [(0, 8, 0xD9), (20, 6, 0x0), (26, 5, 0x9), (31, 1, 0x0)], fun w => .reduceMax (fld w 14 6) (fld w 8 6)⟩,
   ⟨"SETNET", [(0, 8, 0xD9), (10, 4, 0x0), (20, 6, 0x0), (26, 5, 0xA), (31, 1, 0x0)], fun w => .setnet (fld w 14 6) (fld w 8 2)⟩,
   ⟨"FUSE", [(0, 8, 0xD9), (8, 6, 0x0), (20, 6, 0x0), (26, 5, 0xB), (31, 1, 0x0)], fun w => .fuse (fld w 14 6)⟩,
   ⟨"BAR_C", [(0, 8, 0xD9), (8, 6, 0x0), (14, 6, 0x0), (20, 6, 0x0), (26, 5, 0xC), (31, 1, 0x0)], fun _ => .barC⟩,
   ⟨"BAR_G", [(0, 8, 0xD9), (8, 6, 0x0), (20, 6, 0x0), (26, 5, 0xD), (31, 1, 0x0)], fun w => .barG (fld w 14 6)⟩,
   ⟨"ARRIVE_G", [(0, 8, 0xD9), (8, 6, 0x0), (20, 6, 0x0), (26, 5, 0xE), (31, 1, 0x0)], fun w => .arriveG (fld w 14 6)⟩,
   ⟨"WAIT_G", [(0, 8, 0xD9), (8, 6, 0x0), (20, 6, 0x0), (26, 5, 0xF), (31, 1, 0x0)], fun w => .waitG (fld w 14 6)⟩,
   ⟨"SCAN_MIN_U", [(0, 8, 0xD9), (20, 6, 0x0), (26, 5, 0x10), (31, 1, 0x0)], fun w => .scanMinU (fld w 14 6) (fld w 8 6)⟩,
   ⟨"SCAN_MAX_U", [(0, 8, 0xD9), (20, 6, 0x0), (26, 5, 0x11), (31, 1, 0x0)], fun w => .scanMaxU (fld w 14 6) (fld w 8 6)⟩,
   ⟨"REDUCE_MIN_U", [(0, 8, 0xD9), (20, 6, 0x0), (26, 5, 0x12), (31, 1, 0x0)], fun w => .reduceMinU (fld w 14 6) (fld w 8 6)⟩,
   ⟨"REDUCE_MAX_U", [(0, 8, 0xD9), (20, 6, 0x0), (26, 5, 0x13), (31, 1, 0x0)], fun w => .reduceMaxU (fld w 14 6) (fld w 8 6)⟩,
   ⟨"REDUCE_AND", [(0, 8, 0xD9), (20, 6, 0x0), (26, 5, 0x14), (31, 1, 0x0)], fun w => .reduceAnd (fld w 14 6) (fld w 8 6)⟩,
   ⟨"REDUCE_OR", [(0, 8, 0xD9), (20, 6, 0x0), (26, 5, 0x15), (31, 1, 0x0)], fun w => .reduceOr (fld w 14 6) (fld w 8 6)⟩,
   ⟨"REDUCE_XOR", [(0, 8, 0xD9), (20, 6, 0x0), (26, 5, 0x16), (31, 1, 0x0)], fun w => .reduceXor (fld w 14 6) (fld w 8 6)⟩,
   ⟨"LDT", [(0, 8, 0xDB)], fun w => .ldt (fld w 30 2) (fld w 26 4) (fld w 20 6) (fld w 14 6) (fld w 8 6)⟩,
   ⟨"AADD", [(0, 8, 0xDD), (26, 5, 0x0)], fun w => .aadd (fld w 31 1) (fld w 20 6) (fld w 14 6) (fld w 8 6)⟩,
   ⟨"AAND", [(0, 8, 0xDD), (26, 5, 0x1)], fun w => .aand (fld w 31 1) (fld w 20 6) (fld w 14 6) (fld w 8 6)⟩,
   ⟨"AOR", [(0, 8, 0xDD), (26, 5, 0x2)], fun w => .aor (fld w 31 1) (fld w 20 6) (fld w 14 6) (fld w 8 6)⟩,
   ⟨"AXOR", [(0, 8, 0xDD), (26, 5, 0x3)], fun w => .axor (fld w 31 1) (fld w 20 6) (fld w 14 6) (fld w 8 6)⟩,
   ⟨"AMIN", [(0, 8, 0xDD), (26, 5, 0x4)], fun w => .amin (fld w 31 1) (fld w 20 6) (fld w 14 6) (fld w 8 6)⟩,
   ⟨"AMIN_U", [(0, 8, 0xDD), (26, 5, 0x5)], fun w => .aminU (fld w 31 1) (fld w 20 6) (fld w 14 6) (fld w 8 6)⟩]

/-- Rows of the 32-bit forms, part 5 (R51-R54, R61, R62). -/
def rows32_e : List Row :=
  [⟨"AMAX", [(0, 8, 0xDD), (26, 5, 0x6)], fun w => .amax (fld w 31 1) (fld w 20 6) (fld w 14 6) (fld w 8 6)⟩,
   ⟨"AMAX_U", [(0, 8, 0xDD), (26, 5, 0x7)], fun w => .amaxU (fld w 31 1) (fld w 20 6) (fld w 14 6) (fld w 8 6)⟩,
   ⟨"AXCHG", [(0, 8, 0xDD), (26, 5, 0x8)], fun w => .axchg (fld w 31 1) (fld w 20 6) (fld w 14 6) (fld w 8 6)⟩,
   ⟨"ACAS", [(0, 8, 0xDD), (26, 5, 0x9)], fun w => .acas (fld w 31 1) (fld w 20 6) (fld w 14 6) (fld w 8 6)⟩,
   ⟨"AFX", [(0, 8, 0xDD), (8, 6, 0x0), (26, 5, 0xA)], fun w => .afx (fld w 31 1) (fld w 20 6) (fld w 14 6)⟩,
   ⟨"AFXRD", [(0, 8, 0xDD), (20, 6, 0x0), (26, 5, 0xB)], fun w => .afxrd (fld w 31 1) (fld w 14 6) (fld w 8 6)⟩,
   ⟨"FENCE_SQUAD", [(0, 8, 0xDD), (8, 6, 0x0), (14, 6, 0x0), (20, 6, 0x0), (26, 5, 0x10), (31, 1, 0x0)], fun _ => .fenceSquad⟩,
   ⟨"FENCE_CREW", [(0, 8, 0xDD), (8, 6, 0x0), (14, 6, 0x0), (20, 6, 0x0), (26, 5, 0x11), (31, 1, 0x0)], fun _ => .fenceCrew⟩,
   ⟨"FENCE_GANG", [(0, 8, 0xDD), (8, 6, 0x0), (14, 6, 0x0), (20, 6, 0x0), (26, 5, 0x12), (31, 1, 0x0)], fun _ => .fenceGang⟩,
   ⟨"FENCE_DEVICE", [(0, 8, 0xDD), (8, 6, 0x0), (14, 6, 0x0), (20, 6, 0x0), (26, 5, 0x13), (31, 1, 0x0)], fun _ => .fenceDevice⟩,
   ⟨"FENCE_SYSTEM", [(0, 8, 0xDD), (8, 6, 0x0), (14, 6, 0x0), (20, 6, 0x0), (26, 5, 0x14), (31, 1, 0x0)], fun _ => .fenceSystem⟩,
   ⟨"FENCE_FULL", [(0, 8, 0xDD), (8, 6, 0x0), (14, 6, 0x0), (20, 6, 0x0), (26, 5, 0x15), (31, 1, 0x0)], fun _ => .fenceFull⟩,
   ⟨"WAITCREW", [(0, 8, 0xDD), (8, 6, 0x0), (20, 6, 0x0), (26, 5, 0x16), (31, 1, 0x0)], fun w => .waitcrew (fld w 14 6)⟩,
   ⟨"VALLOC", [(0, 8, 0xDF), (26, 5, 0x0), (31, 1, 0x0)], fun w => .valloc (fld w 20 6) (fld w 14 6) (fld w 8 6)⟩,
   ⟨"VDUP", [(0, 8, 0xDF), (26, 5, 0x1), (31, 1, 0x0)], fun w => .vdup (fld w 20 6) (fld w 14 6) (fld w 8 6)⟩,
   ⟨"VSPLIT", [(0, 8, 0xDF), (26, 5, 0x2), (31, 1, 0x0)], fun w => .vsplit (fld w 20 6) (fld w 14 6) (fld w 8 6)⟩,
   ⟨"VNARROW", [(0, 8, 0xDF), (26, 5, 0x3), (31, 1, 0x0)], fun w => .vnarrow (fld w 20 6) (fld w 14 6) (fld w 8 6)⟩,
   ⟨"VDROP", [(0, 8, 0xDF), (8, 6, 0x0), (20, 6, 0x0), (26, 5, 0x4), (31, 1, 0x0)], fun w => .vdrop (fld w 14 6)⟩,
   ⟨"VQUERY", [(0, 8, 0xDF), (26, 5, 0x5), (31, 1, 0x0)], fun w => .vquery (fld w 20 6) (fld w 14 6) (fld w 8 6)⟩,
   ⟨"VBOUND", [(0, 8, 0xDF), (22, 4, 0x0), (26, 5, 0x6), (31, 1, 0x0)], fun w => .vbound (fld w 20 2) (fld w 14 6) (fld w 8 6)⟩,
   ⟨"RUNNEW", [(0, 8, 0xE1), (8, 6, 0x0), (14, 6, 0x0), (20, 6, 0x0), (26, 5, 0x0), (31, 1, 0x0)], fun _ => .runnew⟩,
   ⟨"ENUM", [(0, 8, 0xE1), (26, 5, 0x1), (31, 1, 0x0)], fun w => .enum (fld w 20 6) (fld w 14 6) (fld w 8 6)⟩,
   ⟨"ENUM_ONE", [(0, 8, 0xE1), (14, 6, 0x0), (26, 5, 0x2), (31, 1, 0x0)], fun w => .enumOne (fld w 20 6) (fld w 8 6)⟩,
   ⟨"MERGE", [(0, 8, 0xE1), (23, 3, 0x0), (26, 5, 0x3), (31, 1, 0x0)], fun w => .merge (fld w 20 3) (fld w 14 6) (fld w 8 6)⟩,
   ⟨"ENDCH", [(0, 8, 0xE1), (20, 6, 0x0), (26, 5, 0x4), (31, 1, 0x0)], fun w => .endch (fld w 14 6) (fld w 8 6)⟩,
   ⟨"CHOOSE", [(0, 8, 0xE1), (26, 5, 0x5), (31, 1, 0x0)], fun w => .choose (fld w 20 6) (fld w 14 6) (fld w 8 6)⟩,
   ⟨"MMA_Q_E4M3", [(0, 8, 0xE3), (13, 1, 0x0), (26, 5, 0x0), (31, 1, 0x0)], fun w => .mmaQE4m3 (fld w 20 6) (fld w 14 6) (fld w 11 2) (fld w 8 3)⟩,
   ⟨"MMA_Q_E5M2", [(0, 8, 0xE3), (13, 1, 0x0), (26, 5, 0x1), (31, 1, 0x0)], fun w => .mmaQE5m2 (fld w 20 6) (fld w 14 6) (fld w 11 2) (fld w 8 3)⟩,
   ⟨"MMA_Q_MXFP4", [(0, 8, 0xE3), (13, 1, 0x0), (26, 5, 0x2), (31, 1, 0x0)], fun w => .mmaQMxfp4 (fld w 20 6) (fld w 14 6) (fld w 11 2) (fld w 8 3)⟩,
   ⟨"MMA_Q_BF16", [(0, 8, 0xE3), (13, 1, 0x0), (26, 5, 0x3), (31, 1, 0x0)], fun w => .mmaQBf16 (fld w 20 6) (fld w 14 6) (fld w 11 2) (fld w 8 3)⟩,
   ⟨"MMA_Q_I8", [(0, 8, 0xE3), (13, 1, 0x0), (26, 5, 0x4), (31, 1, 0x0)], fun w => .mmaQI8 (fld w 20 6) (fld w 14 6) (fld w 11 2) (fld w 8 3)⟩,
   ⟨"BLD", [(0, 8, 0xE3), (13, 1, 0x0), (26, 5, 0x8), (31, 1, 0x0)], fun w => .bld (fld w 20 6) (fld w 14 6) (fld w 11 2) (fld w 8 3)⟩,
   ⟨"TZERO", [(0, 8, 0xE3), (11, 3, 0x0), (20, 6, 0x0), (26, 5, 0x9), (31, 1, 0x0)], fun w => .tzero (fld w 14 6) (fld w 8 3)⟩,
   ⟨"TLD", [(0, 8, 0xE3), (11, 3, 0x0), (26, 5, 0xA), (31, 1, 0x0)], fun w => .tld (fld w 20 6) (fld w 14 6) (fld w 8 3)⟩,
   ⟨"TST", [(0, 8, 0xE3), (11, 3, 0x0), (26, 5, 0xB), (31, 1, 0x0)], fun w => .tst (fld w 20 6) (fld w 14 6) (fld w 8 3)⟩,
   ⟨"TRD", [(0, 8, 0xE3), (23, 3, 0x0), (26, 5, 0xC), (31, 1, 0x0)], fun w => .trd (fld w 20 3) (fld w 14 6) (fld w 8 6)⟩,
   ⟨"TVER", [(0, 8, 0xE3), (14, 6, 0x0), (23, 3, 0x0), (26, 5, 0xD), (31, 1, 0x0)], fun w => .tver (fld w 20 3) (fld w 8 6)⟩,
   ⟨"MFENCE", [(0, 8, 0xE3), (14, 6, 0x0), (20, 6, 0x0), (26, 5, 0xE), (31, 1, 0x0)], fun w => .mfence (fld w 8 6)⟩,
   ⟨"MWAIT", [(0, 8, 0xE3), (8, 6, 0x0), (20, 6, 0x0), (26, 5, 0xF), (31, 1, 0x0)], fun w => .mwait (fld w 14 6)⟩,
   ⟨"GSUB", [(0, 8, 0xE5), (26, 5, 0x0), (31, 1, 0x0)], fun w => .gsub (fld w 20 6) (fld w 14 6) (fld w 8 6)⟩]

/-- Rows of the 32-bit forms, part 6 (R51-R54, R61, R62). -/
def rows32_f : List Row :=
  [⟨"WAITOBJ", [(0, 8, 0xE5), (26, 5, 0x1), (31, 1, 0x0)], fun w => .waitobj (fld w 20 6) (fld w 14 6) (fld w 8 6)⟩,
   ⟨"POLLOBJ", [(0, 8, 0xE5), (26, 5, 0x2), (31, 1, 0x0)], fun w => .pollobj (fld w 20 6) (fld w 14 6) (fld w 8 6)⟩,
   ⟨"QCFG", [(0, 8, 0xE5), (11, 3, 0x0), (20, 6, 0x0), (26, 5, 0x3), (31, 1, 0x0)], fun w => .qcfg (fld w 14 6) (fld w 8 3)⟩,
   ⟨"QPUSH", [(0, 8, 0xE5), (11, 3, 0x0), (26, 5, 0x4), (31, 1, 0x0)], fun w => .qpush (fld w 20 6) (fld w 14 6) (fld w 8 3)⟩,
   ⟨"QPOP", [(0, 8, 0xE5), (14, 6, 0x0), (23, 3, 0x0), (26, 5, 0x5), (31, 1, 0x0)], fun w => .qpop (fld w 20 3) (fld w 8 6)⟩,
   ⟨"FEED", [(0, 8, 0xE5), (26, 5, 0x6), (31, 1, 0x0)], fun w => .feed (fld w 20 6) (fld w 14 6) (fld w 8 6)⟩,
   ⟨"SLOOP", [(0, 8, 0xE5), (26, 5, 0x7), (31, 1, 0x0)], fun w => .sloop (fld w 14 12) (fld w 8 6)⟩,
   ⟨"DQPUSH", [(0, 8, 0xE5), (8, 6, 0x0), (20, 6, 0x0), (26, 5, 0x8), (31, 1, 0x0)], fun w => .dqpush (fld w 14 6)⟩,
   ⟨"DQPOP", [(0, 8, 0xE5), (14, 6, 0x0), (20, 6, 0x0), (26, 5, 0x9), (31, 1, 0x0)], fun w => .dqpop (fld w 8 6)⟩,
   ⟨"DQSTEAL", [(0, 8, 0xE5), (20, 6, 0x0), (26, 5, 0xA), (31, 1, 0x0)], fun w => .dqsteal (fld w 14 6) (fld w 8 6)⟩,
   ⟨"SYSCALL", [(0, 8, 0xE7), (8, 6, 0x0), (14, 6, 0x0), (20, 6, 0x0), (26, 5, 0x0), (31, 1, 0x0)], fun _ => .syscall⟩,
   ⟨"BRK", [(0, 8, 0xE7), (8, 6, 0x0), (14, 6, 0x0), (26, 5, 0x1), (31, 1, 0x0)], fun w => .brk (fld w 20 6)⟩,
   ⟨"ICINV", [(0, 8, 0xE7), (8, 6, 0x0), (14, 6, 0x0), (20, 6, 0x0), (26, 5, 0x2), (31, 1, 0x0)], fun _ => .icinv⟩,
   ⟨"CLK", [(0, 8, 0xE7), (14, 6, 0x0), (20, 6, 0x0), (26, 5, 0x3), (31, 1, 0x0)], fun w => .clk (fld w 8 6)⟩,
   ⟨"RAND", [(0, 8, 0xE7), (14, 6, 0x0), (20, 6, 0x0), (26, 5, 0x4), (31, 1, 0x0)], fun w => .rand (fld w 8 6)⟩]

/-- The rows of the 32-bit forms but for F-P (R61, R62). -/
def rows32 : List Row :=
  rows32_a ++ rows32_b ++ rows32_c ++ rows32_d ++ rows32_e ++ rows32_f

/-- What a decoder answers: an instruction and its length in bytes, an illegal encoding (R48), or too few bytes. -/
inductive Decoded
  | ok (i : Instr) (len : Nat)
  | illegal
  | short
  deriving DecidableEq, Repr

/-- The instruction of the first row that fits, if it is well formed. -/
def decodeRows (rows : List Row) (w : Nat) : Option Instr :=
  match rows.find? (fun r => r.fits w) with
  | some r => if (r.build w).wf then some (r.build w) else none
  | none => none

/-- An F-P word (R54). Followed directly by INVEND it is a bracket move (R168), otherwise INV or INV.DEC (R165). -/
def decodeFP (w : Nat) (next : Option Nat) : Option Instr :=
  let tol := fld w 29 3
  let k := fld w 26 2
  let tgt := fld w 20 6
  let inn := fld w 14 6
  let out := fld w 8 6
  let dec := w / 2 ^ 28 % 2 == 1
  let i : Option Instr :=
    if next = some 0x3E then
      if dec then (if tol = 0 ∧ tgt = 0 ∧ inn = 0 then some (.bget k out) else none)
      else (if tol = 0 ∧ tgt = 0 ∧ out = 0 then some (.bset k inn) else none)
    else if dec then some (.invDec tol k tgt inn out) else some (.inv tol k tgt inn out)
  match i with
  | some i => if i.wf then some i else none
  | none => none

/-- One instruction from its halfwords: the first, the second where there is one, and the third, which only an F-P word
looks at (R46, R168). -/
def decodeHalves (h0 : Nat) (h1 h2 : Option Nat) : Decoded :=
  if h0 % 2 = 0 then
    match decodeRows rows16 h0 with
    | some i => .ok i 2
    | none => .illegal
  else
    match h1 with
    | none => .short
    | some h1 =>
      let w := h0 + h1 * 2 ^ 16
      if w / 2 % 2 ^ 7 = 0x78 then
        match decodeFP w h2 with
        | some i => .ok i (if h2 = some 0x3E then 6 else 4)
        | none => .illegal
      else
        match decodeRows rows32 w with
        | some i => .ok i 4
        | none => .illegal

/-- The halfword at the front of a byte list, little-endian (R3). -/
def halfAt : List Byte → Option Nat
  | b0 :: b1 :: _ => some (b0.toNat + b1.toNat * 2 ^ 8)
  | _ => none

/-- The decoder: the instruction at the front of a list of bytes, total on any list. -/
def decode (bs : List Byte) : Decoded :=
  match halfAt bs with
  | none => .short
  | some h0 => decodeHalves h0 (halfAt (bs.drop 2)) (halfAt (bs.drop 4))

/-- The n low bytes of a number, lowest first (R3). -/
def bytesOfNat : Nat → Nat → List Byte
  | 0, _ => []
  | n + 1, v => BitVec.ofNat 8 v :: bytesOfNat n (v / 2 ^ 8)

/-- The longest instruction with its INVEND, in bytes (R168). -/
abbrev longestInstr : Nat := 6

/-- The instruction the decoder reads from an instruction whose bits are w, numbered as spec/opcode_table.json numbers
them; every bit above nbits is 0. -/
def decodeTableWord (nbits w : Nat) : Option Instr :=
  match decode (bytesOfNat longestInstr (w % 2 ^ nbits)) with
  | .ok i _ => some i
  | _ => none

/-- A field at its place in a word. -/
def pk (x : BitVec n) (lo : Nat) : Nat := x.toNat * 2 ^ lo

/-- The fixed bits of an encoding and its fields. -/
def word (base : Nat) (fields : List Nat) : Nat := base + fields.sum

/-- The word of an instruction, its first halfword lowest (R46, R49-R54); BSET and BGET with their INVEND above the
F-P word (R168). An event row has no word. -/
def encode : Instr → Nat
  | .addC b d => word 0x0 [pk b 11, pk d 5]
  | .subC b d => word 0x2 [pk b 11, pk d 5]
  | .andC b d => word 0x4 [pk b 11, pk d 5]
  | .orC b d => word 0x6 [pk b 11, pk d 5]
  | .xorC b d => word 0x8 [pk b 11, pk d 5]
  | .shliC i d => word 0xA [pk i 11, pk d 5]
  | .shriC i d => word 0xC [pk i 11, pk d 5]
  | .addiC i d => word 0xE [pk i 11, pk d 5]
  | .movC b d => word 0x10 [pk b 11, pk d 5]
  | .faddC b d => word 0x12 [pk b 11, pk d 5]
  | .fmulC b d => word 0x14 [pk b 11, pk d 5]
  | .fmao b d => word 0x16 [pk b 11, pk d 5]
  | .ld64C b d => word 0x18 [pk b 11, pk d 5]
  | .st64C b d => word 0x1A [pk b 11, pk d 5]
  | .cmpltC b d => word 0x1C [pk b 11, pk d 5]
  | .nop i => word 0x1E [pk i 11]
  | .invend => word 0x3E []
  | .yield => word 0x5E []
  | .add f => word 0x1 [pk f.g 30, pk f.s 27, pk f.r 26, pk f.b 20, pk f.a 14, pk f.d 8]
  | .sub f => word 0x3 [pk f.g 30, pk f.s 27, pk f.r 26, pk f.b 20, pk f.a 14, pk f.d 8]
  | .and f => word 0x5 [pk f.g 30, pk f.s 27, pk f.r 26, pk f.b 20, pk f.a 14, pk f.d 8]
  | .or f => word 0x7 [pk f.g 30, pk f.s 27, pk f.r 26, pk f.b 20, pk f.a 14, pk f.d 8]
  | .xor f => word 0x9 [pk f.g 30, pk f.s 27, pk f.r 26, pk f.b 20, pk f.a 14, pk f.d 8]
  | .andn f => word 0xB [pk f.g 30, pk f.s 27, pk f.r 26, pk f.b 20, pk f.a 14, pk f.d 8]
  | .shl f => word 0xD [pk f.g 30, pk f.s 27, pk f.r 26, pk f.b 20, pk f.a 14, pk f.d 8]
  | .shr f => word 0xF [pk f.g 30, pk f.s 27, pk f.r 26, pk f.b 20, pk f.a 14, pk f.d 8]
  | .shrU f => word 0x11 [pk f.g 30, pk f.s 27, pk f.r 26, pk f.b 20, pk f.a 14, pk f.d 8]
  | .rol f => word 0x13 [pk f.g 30, pk f.s 27, pk f.r 26, pk f.b 20, pk f.a 14, pk f.d 8]
  | .mul f => word 0x15 [pk f.g 30, pk f.s 27, pk f.r 26, pk f.b 20, pk f.a 14, pk f.d 8]
  | .mulh f => word 0x17 [pk f.g 30, pk f.s 27, pk f.r 26, pk f.b 20, pk f.a 14, pk f.d 8]
  | .mulhU f => word 0x19 [pk f.g 30, pk f.s 27, pk f.r 26, pk f.b 20, pk f.a 14, pk f.d 8]
  | .min f => word 0x1B [pk f.g 30, pk f.s 27, pk f.r 26, pk f.b 20, pk f.a 14, pk f.d 8]
  | .minU f => word 0x1D [pk f.g 30, pk f.s 27, pk f.r 26, pk f.b 20, pk f.a 14, pk f.d 8]
  | .max f => word 0x1F [pk f.g 30, pk f.s 27, pk f.r 26, pk f.b 20, pk f.a 14, pk f.d 8]
  | .maxU f => word 0x21 [pk f.g 30, pk f.s 27, pk f.r 26, pk f.b 20, pk f.a 14, pk f.d 8]
  | .adds f => word 0x23 [pk f.g 30, pk f.s 27, pk f.r 26, pk f.b 20, pk f.a 14, pk f.d 8]
  | .addsU f => word 0x25 [pk f.g 30, pk f.s 27, pk f.r 26, pk f.b 20, pk f.a 14, pk f.d 8]
  | .subs f => word 0x27 [pk f.g 30, pk f.s 27, pk f.r 26, pk f.b 20, pk f.a 14, pk f.d 8]
  | .subsU f => word 0x29 [pk f.g 30, pk f.s 27, pk f.r 26, pk f.b 20, pk f.a 14, pk f.d 8]
  | .mov f => word 0x2D [pk f.g 30, pk f.s 27, pk f.r 26, pk f.a 14, pk f.d 8]
  | .fadd f => word 0x31 [pk f.g 30, pk f.s 27, pk f.r 26, pk f.b 20, pk f.a 14, pk f.d 8]
  | .fsub f => word 0x33 [pk f.g 30, pk f.s 27, pk f.r 26, pk f.b 20, pk f.a 14, pk f.d 8]
  | .fmul f => word 0x35 [pk f.g 30, pk f.s 27, pk f.r 26, pk f.b 20, pk f.a 14, pk f.d 8]
  | .fma f => word 0x37 [pk f.g 30, pk f.s 27, pk f.r 26, pk f.b 20, pk f.a 14, pk f.d 8]
  | .fnma f => word 0x39 [pk f.g 30, pk f.s 27, pk f.r 26, pk f.b 20, pk f.a 14, pk f.d 8]
  | .fmin f => word 0x3B [pk f.g 30, pk f.s 27, pk f.r 26, pk f.b 20, pk f.a 14, pk f.d 8]
  | .fmax f => word 0x3D [pk f.g 30, pk f.s 27, pk f.r 26, pk f.b 20, pk f.a 14, pk f.d 8]
  | .cmpeq f => word 0x41 [pk f.g 30, pk f.s 27, pk f.r 26, pk f.b 20, pk f.a 14, pk f.k 8]
  | .cmpne f => word 0x43 [pk f.g 30, pk f.s 27, pk f.r 26, pk f.b 20, pk f.a 14, pk f.k 8]
  | .cmplt f => word 0x45 [pk f.g 30, pk f.s 27, pk f.r 26, pk f.b 20, pk f.a 14, pk f.k 8]
  | .cmpltU f => word 0x47 [pk f.g 30, pk f.s 27, pk f.r 26, pk f.b 20, pk f.a 14, pk f.k 8]
  | .cmple f => word 0x49 [pk f.g 30, pk f.s 27, pk f.r 26, pk f.b 20, pk f.a 14, pk f.k 8]
  | .cmpleU f => word 0x4B [pk f.g 30, pk f.s 27, pk f.r 26, pk f.b 20, pk f.a 14, pk f.k 8]
  | .fcmpeq f => word 0x4D [pk f.g 30, pk f.s 27, pk f.r 26, pk f.b 20, pk f.a 14, pk f.k 8]
  | .fcmplt f => word 0x4F [pk f.g 30, pk f.s 27, pk f.r 26, pk f.b 20, pk f.a 14, pk f.k 8]
  | .fcmple f => word 0x51 [pk f.g 30, pk f.s 27, pk f.r 26, pk f.b 20, pk f.a 14, pk f.k 8]
  | .fcmpun f => word 0x53 [pk f.g 30, pk f.s 27, pk f.r 26, pk f.b 20, pk f.a 14, pk f.k 8]
  | .kand f => word 0x55 [pk f.g 30, pk f.s 27, pk f.r 26, pk f.n 20, pk f.m 14, pk f.k 8]
  | .kor f => word 0x57 [pk f.g 30, pk f.s 27, pk f.r 26, pk f.n 20, pk f.m 14, pk f.k 8]
  | .kxor f => word 0x59 [pk f.g 30, pk f.s 27, pk f.r 26, pk f.n 20, pk f.m 14, pk f.k 8]
  | .kandn f => word 0x5B [pk f.g 30, pk f.s 27, pk f.r 26, pk f.n 20, pk f.m 14, pk f.k 8]
  | .netmv f => word 0x61 [pk f.g 30, pk f.s 27, pk f.r 26, pk f.n 20, pk f.a 14, pk f.d 8]
  | .gatherb f => word 0x63 [pk f.g 30, pk f.s 27, pk f.r 26, pk f.b 20, pk f.a 14, pk f.d 8]
  | .compose f => word 0x65 [pk f.g 30, pk f.s 27, pk f.r 26, pk f.b 20, pk f.a 14, pk f.d 8]
  | .addi i a d => word 0x81 [pk i 20, pk a 14, pk d 8]
  | .andi i a d => word 0x83 [pk i 20, pk a 14, pk d 8]
  | .ori i a d => word 0x85 [pk i 20, pk a 14, pk d 8]
  | .xori i a d => word 0x87 [pk i 20, pk a 14, pk d 8]
  | .shli i a d => word 0x89 [pk i 20, pk a 14, pk d 8]
  | .shri i a d => word 0x8B [pk i 20, pk a 14, pk d 8]
  | .shriU i a d => word 0x8D [pk i 20, pk a 14, pk d 8]
  | .muli i a d => word 0x8F [pk i 20, pk a 14, pk d 8]
  | .cmpeqi i a k => word 0x91 [pk i 20, pk a 14, pk k 8]
  | .cmplti i a k => word 0x93 [pk i 20, pk a 14, pk k 8]
  | .cmpltiU i a k => word 0x95 [pk i 20, pk a 14, pk k 8]
  | .movi i d => word 0x97 [pk i 20, pk d 8]
  | .retag t a d => word 0x99 [pk t 20, pk a 14, pk d 8]
  | .srd s d => word 0x9B [pk s 20, pk d 8]
  | .swr s a => word 0x9D [pk s 20, pk a 14]
  | .swrFrm a => word 0xF0009D [pk a 14]
  | .swrFflags a => word 0x100009D [pk a 14]
  | .swrDraw a => word 0xC0009D [pk a 14]
  | .swrInj a => word 0x120009D [pk a 14]
  | .jalr i a d => word 0x9F [pk i 20, pk a 14, pk d 8]
  | .ldhi i d => word 0xA1 [pk i 14, pk d 8]
  | .pcrel i d => word 0xA3 [pk i 14, pk d 8]
  | .sigchk i => word 0xA5 [pk i 14]
  | .ld8 q o b d => word 0xA9 [pk q 30, pk o 20, pk b 14, pk d 8]
  | .ld8U q o b d => word 0xAB [pk q 30, pk o 20, pk b 14, pk d 8]
  | .ld16 q o b d => word 0xAD [pk q 30, pk o 20, pk b 14, pk d 8]
  | .ld16U q o b d => word 0xAF [pk q 30, pk o 20, pk b 14, pk d 8]
  | .ld32 q o b d => word 0xB1 [pk q 30, pk o 20, pk b 14, pk d 8]
  | .ld32U q o b d => word 0xB3 [pk q 30, pk o 20, pk b 14, pk d 8]
  | .ld64 q o b d => word 0xB5 [pk q 30, pk o 20, pk b 14, pk d 8]
  | .st8 q o b d => word 0xB7 [pk q 30, pk o 20, pk b 14, pk d 8]
  | .st16 q o b d => word 0xB9 [pk q 30, pk o 20, pk b 14, pk d 8]
  | .st32 q o b d => word 0xBB [pk q 30, pk o 20, pk b 14, pk d 8]
  | .st64 q o b d => word 0xBD [pk q 30, pk o 20, pk b 14, pk d 8]
  | .lea o b d => word 0xBF [pk o 20, pk b 14, pk d 8]
  | .bra o => word 0xC1 [pk o 14]
  | .bk o k => word 0xC3 [pk o 14, pk k 8]
  | .bnk o k => word 0xC5 [pk o 14, pk k 8]
  | .bz o c => word 0xC7 [pk o 14, pk c 8]
  | .bnz o c => word 0xC9 [pk o 14, pk c 8]
  | .call o l => word 0xCB [pk o 14, pk l 8]
  | .div b a d => word 0xD1 [pk b 20, pk a 14, pk d 8]
  | .divU b a d => word 0x40000D1 [pk b 20, pk a 14, pk d 8]
  | .rem b a d => word 0x80000D1 [pk b 20, pk a 14, pk d 8]
  | .remU b a d => word 0xC0000D1 [pk b 20, pk a 14, pk d 8]
  | .popc a d => word 0x100000D1 [pk a 14, pk d 8]
  | .clz a d => word 0x140000D1 [pk a 14, pk d 8]
  | .ctz a d => word 0x180000D1 [pk a 14, pk d 8]
  | .brev a d => word 0x1C0000D1 [pk a 14, pk d 8]
  | .bswap a d => word 0x200000D1 [pk a 14, pk d 8]
  | .abs a d => word 0x240000D1 [pk a 14, pk d 8]
  | .neg a d => word 0x280000D1 [pk a 14, pk d 8]
  | .ext b a d => word 0x2C0000D1 [pk b 20, pk a 14, pk d 8]
  | .extU b a d => word 0x300000D1 [pk b 20, pk a 14, pk d 8]
  | .ins b a d => word 0x340000D1 [pk b 20, pk a 14, pk d 8]
  | .fdiv b a d => word 0xD3 [pk b 20, pk a 14, pk d 8]
  | .fsqrt r a d => word 0x40000D3 [pk r 20, pk a 14, pk d 8]
  | .fabs a d => word 0x80000D3 [pk a 14, pk d 8]
  | .fneg a d => word 0xC0000D3 [pk a 14, pk d 8]
  | .fcpys b a d => word 0x100000D3 [pk b 20, pk a 14, pk d 8]
  | .fclass a d => word 0x140000D3 [pk a 14, pk d 8]
  | .frint r a d => word 0x180000D3 [pk r 20, pk a 14, pk d 8]
  | .cvtF64 x m a d => word 0xD5 [pk x 23, pk m 20, pk a 14, pk d 8]
  | .cvtF32 x m a d => word 0x40000D5 [pk x 23, pk m 20, pk a 14, pk d 8]
  | .cvtF16 x m a d => word 0x80000D5 [pk x 23, pk m 20, pk a 14, pk d 8]
  | .cvtBf16 x m a d => word 0xC0000D5 [pk x 23, pk m 20, pk a 14, pk d 8]
  | .cvtE4m3 x m a d => word 0x100000D5 [pk x 23, pk m 20, pk a 14, pk d 8]
  | .cvtE5m2 x m a d => word 0x140000D5 [pk x 23, pk m 20, pk a 14, pk d 8]
  | .cvtE2m1 x m a d => word 0x180000D5 [pk x 23, pk m 20, pk a 14, pk d 8]
  | .cvtI64 x m a d => word 0x1C0000D5 [pk x 23, pk m 20, pk a 14, pk d 8]
  | .cvtI64U x m a d => word 0x200000D5 [pk x 23, pk m 20, pk a 14, pk d 8]
  | .cvtI32 x m a d => word 0x240000D5 [pk x 23, pk m 20, pk a 14, pk d 8]
  | .cvtI32U x m a d => word 0x280000D5 [pk x 23, pk m 20, pk a 14, pk d 8]
  | .cvtI16 x m a d => word 0x2C0000D5 [pk x 23, pk m 20, pk a 14, pk d 8]
  | .cvtI16U x m a d => word 0x300000D5 [pk x 23, pk m 20, pk a 14, pk d 8]
  | .cvtI8 x m a d => word 0x340000D5 [pk x 23, pk m 20, pk a 14, pk d 8]
  | .cvtI8U x m a d => word 0x380000D5 [pk x 23, pk m 20, pk a 14, pk d 8]
  | .pack b a d => word 0x400000D5 [pk b 20, pk a 14, pk d 8]
  | .unpackLo b a d => word 0x440000D5 [pk b 20, pk a 14, pk d 8]
  | .unpackHi b a d => word 0x480000D5 [pk b 20, pk a 14, pk d 8]
  | .split j => word 0xD7 [pk j 8]
  | .rejoin j => word 0x40000D7 [pk j 8]
  | .exit => word 0x80000D7 []
  | .tail => word 0xC0000D7 []
  | .voteAll m k => word 0xD9 [pk m 14, pk k 8]
  | .voteAny m k => word 0x40000D9 [pk m 14, pk k 8]
  | .ballot m d => word 0x80000D9 [pk m 14, pk d 8]
  | .matchLanes a d => word 0xC0000D9 [pk a 14, pk d 8]
  | .scanAdd a d => word 0x100000D9 [pk a 14, pk d 8]
  | .scanMin a d => word 0x140000D9 [pk a 14, pk d 8]
  | .scanMax a d => word 0x180000D9 [pk a 14, pk d 8]
  | .reduceAdd a d => word 0x1C0000D9 [pk a 14, pk d 8]
  | .reduceMin a d => word 0x200000D9 [pk a 14, pk d 8]
  | .reduceMax a d => word 0x240000D9 [pk a 14, pk d 8]
  | .setnet a n => word 0x280000D9 [pk a 14, pk n 8]
  | .fuse a => word 0x2C0000D9 [pk a 14]
  | .barC => word 0x300000D9 []
  | .barG a => word 0x340000D9 [pk a 14]
  | .arriveG a => word 0x380000D9 [pk a 14]
  | .waitG a => word 0x3C0000D9 [pk a 14]
  | .scanMinU a d => word 0x400000D9 [pk a 14, pk d 8]
  | .scanMaxU a d => word 0x440000D9 [pk a 14, pk d 8]
  | .reduceMinU a d => word 0x480000D9 [pk a 14, pk d 8]
  | .reduceMaxU a d => word 0x4C0000D9 [pk a 14, pk d 8]
  | .reduceAnd a d => word 0x500000D9 [pk a 14, pk d 8]
  | .reduceOr a d => word 0x540000D9 [pk a 14, pk d 8]
  | .reduceXor a d => word 0x580000D9 [pk a 14, pk d 8]
  | .ldt q t b a d => word 0xDB [pk q 30, pk t 26, pk b 20, pk a 14, pk d 8]
  | .aadd o b a d => word 0xDD [pk o 31, pk b 20, pk a 14, pk d 8]
  | .aand o b a d => word 0x40000DD [pk o 31, pk b 20, pk a 14, pk d 8]
  | .aor o b a d => word 0x80000DD [pk o 31, pk b 20, pk a 14, pk d 8]
  | .axor o b a d => word 0xC0000DD [pk o 31, pk b 20, pk a 14, pk d 8]
  | .amin o b a d => word 0x100000DD [pk o 31, pk b 20, pk a 14, pk d 8]
  | .aminU o b a d => word 0x140000DD [pk o 31, pk b 20, pk a 14, pk d 8]
  | .amax o b a d => word 0x180000DD [pk o 31, pk b 20, pk a 14, pk d 8]
  | .amaxU o b a d => word 0x1C0000DD [pk o 31, pk b 20, pk a 14, pk d 8]
  | .axchg o b a d => word 0x200000DD [pk o 31, pk b 20, pk a 14, pk d 8]
  | .acas o b a d => word 0x240000DD [pk o 31, pk b 20, pk a 14, pk d 8]
  | .afx o b a => word 0x280000DD [pk o 31, pk b 20, pk a 14]
  | .afxrd o a d => word 0x2C0000DD [pk o 31, pk a 14, pk d 8]
  | .fenceSquad => word 0x400000DD []
  | .fenceCrew => word 0x440000DD []
  | .fenceGang => word 0x480000DD []
  | .fenceDevice => word 0x4C0000DD []
  | .fenceSystem => word 0x500000DD []
  | .fenceFull => word 0x540000DD []
  | .waitcrew a => word 0x580000DD [pk a 14]
  | .valloc b a d => word 0xDF [pk b 20, pk a 14, pk d 8]
  | .vdup b a d => word 0x40000DF [pk b 20, pk a 14, pk d 8]
  | .vsplit b a d => word 0x80000DF [pk b 20, pk a 14, pk d 8]
  | .vnarrow b a d => word 0xC0000DF [pk b 20, pk a 14, pk d 8]
  | .vdrop a => word 0x100000DF [pk a 14]
  | .vquery b a d => word 0x140000DF [pk b 20, pk a 14, pk d 8]
  | .vbound s a d => word 0x180000DF [pk s 20, pk a 14, pk d 8]
  | .runnew => word 0xE1 []
  | .enum b a d => word 0x40000E1 [pk b 20, pk a 14, pk d 8]
  | .enumOne b d => word 0x80000E1 [pk b 20, pk d 8]
  | .merge m a d => word 0xC0000E1 [pk m 20, pk a 14, pk d 8]
  | .endch a d => word 0x100000E1 [pk a 14, pk d 8]
  | .choose b a d => word 0x140000E1 [pk b 20, pk a 14, pk d 8]
  | .mmaQE4m3 s a h t => word 0xE3 [pk s 20, pk a 14, pk h 11, pk t 8]
  | .mmaQE5m2 s a h t => word 0x40000E3 [pk s 20, pk a 14, pk h 11, pk t 8]
  | .mmaQMxfp4 s a h t => word 0x80000E3 [pk s 20, pk a 14, pk h 11, pk t 8]
  | .mmaQBf16 s a h t => word 0xC0000E3 [pk s 20, pk a 14, pk h 11, pk t 8]
  | .mmaQI8 s a h t => word 0x100000E3 [pk s 20, pk a 14, pk h 11, pk t 8]
  | .bld s a h f => word 0x200000E3 [pk s 20, pk a 14, pk h 11, pk f 8]
  | .tzero a t => word 0x240000E3 [pk a 14, pk t 8]
  | .tld b a t => word 0x280000E3 [pk b 20, pk a 14, pk t 8]
  | .tst b a t => word 0x2C0000E3 [pk b 20, pk a 14, pk t 8]
  | .trd t a d => word 0x300000E3 [pk t 20, pk a 14, pk d 8]
  | .tver t d => word 0x340000E3 [pk t 20, pk d 8]
  | .mfence d => word 0x380000E3 [pk d 8]
  | .mwait a => word 0x3C0000E3 [pk a 14]
  | .gsub b a d => word 0xE5 [pk b 20, pk a 14, pk d 8]
  | .waitobj b a d => word 0x40000E5 [pk b 20, pk a 14, pk d 8]
  | .pollobj b a d => word 0x80000E5 [pk b 20, pk a 14, pk d 8]
  | .qcfg a q => word 0xC0000E5 [pk a 14, pk q 8]
  | .qpush b a q => word 0x100000E5 [pk b 20, pk a 14, pk q 8]
  | .qpop q d => word 0x140000E5 [pk q 20, pk d 8]
  | .feed b a d => word 0x180000E5 [pk b 20, pk a 14, pk d 8]
  | .sloop o d => word 0x1C0000E5 [pk o 14, pk d 8]
  | .dqpush a => word 0x200000E5 [pk a 14]
  | .dqpop d => word 0x240000E5 [pk d 8]
  | .dqsteal a d => word 0x280000E5 [pk a 14, pk d 8]
  | .syscall => word 0xE7 []
  | .brk c => word 0x40000E7 [pk c 20]
  | .icinv => word 0x80000E7 []
  | .clk d => word 0xC0000E7 [pk d 8]
  | .rand d => word 0x100000E7 [pk d 8]
  | .inv t k g i o => word 0xF1 [pk t 29, pk k 26, pk g 20, pk i 14, pk o 8]
  | .invDec t k g i o => word 0x100000F1 [pk t 29, pk k 26, pk g 20, pk i 14, pk o 8]
  | .bset k a => word 0x3E000000F1 [pk k 26, pk a 14]
  | .bget k d => word 0x3E100000F1 [pk k 26, pk d 8]
  | _ => 0

/-- The bytes an instruction takes (R46, R168); 0 for an event row. -/
def Instr.len : Instr → Nat
  | .addC .. => 2
  | .subC .. => 2
  | .andC .. => 2
  | .orC .. => 2
  | .xorC .. => 2
  | .shliC .. => 2
  | .shriC .. => 2
  | .addiC .. => 2
  | .movC .. => 2
  | .faddC .. => 2
  | .fmulC .. => 2
  | .fmao .. => 2
  | .ld64C .. => 2
  | .st64C .. => 2
  | .cmpltC .. => 2
  | .nop .. => 2
  | .invend => 2
  | .yield => 2
  | .add _ => 4
  | .sub _ => 4
  | .and _ => 4
  | .or _ => 4
  | .xor _ => 4
  | .andn _ => 4
  | .shl _ => 4
  | .shr _ => 4
  | .shrU _ => 4
  | .rol _ => 4
  | .mul _ => 4
  | .mulh _ => 4
  | .mulhU _ => 4
  | .min _ => 4
  | .minU _ => 4
  | .max _ => 4
  | .maxU _ => 4
  | .adds _ => 4
  | .addsU _ => 4
  | .subs _ => 4
  | .subsU _ => 4
  | .mov _ => 4
  | .fadd _ => 4
  | .fsub _ => 4
  | .fmul _ => 4
  | .fma _ => 4
  | .fnma _ => 4
  | .fmin _ => 4
  | .fmax _ => 4
  | .cmpeq _ => 4
  | .cmpne _ => 4
  | .cmplt _ => 4
  | .cmpltU _ => 4
  | .cmple _ => 4
  | .cmpleU _ => 4
  | .fcmpeq _ => 4
  | .fcmplt _ => 4
  | .fcmple _ => 4
  | .fcmpun _ => 4
  | .kand _ => 4
  | .kor _ => 4
  | .kxor _ => 4
  | .kandn _ => 4
  | .netmv _ => 4
  | .gatherb _ => 4
  | .compose _ => 4
  | .addi .. => 4
  | .andi .. => 4
  | .ori .. => 4
  | .xori .. => 4
  | .shli .. => 4
  | .shri .. => 4
  | .shriU .. => 4
  | .muli .. => 4
  | .cmpeqi .. => 4
  | .cmplti .. => 4
  | .cmpltiU .. => 4
  | .movi .. => 4
  | .retag .. => 4
  | .srd .. => 4
  | .swr .. => 4
  | .swrFrm .. => 4
  | .swrFflags .. => 4
  | .swrDraw .. => 4
  | .swrInj .. => 4
  | .jalr .. => 4
  | .ldhi .. => 4
  | .pcrel .. => 4
  | .sigchk .. => 4
  | .ld8 .. => 4
  | .ld8U .. => 4
  | .ld16 .. => 4
  | .ld16U .. => 4
  | .ld32 .. => 4
  | .ld32U .. => 4
  | .ld64 .. => 4
  | .st8 .. => 4
  | .st16 .. => 4
  | .st32 .. => 4
  | .st64 .. => 4
  | .lea .. => 4
  | .bra .. => 4
  | .bk .. => 4
  | .bnk .. => 4
  | .bz .. => 4
  | .bnz .. => 4
  | .call .. => 4
  | .div .. => 4
  | .divU .. => 4
  | .rem .. => 4
  | .remU .. => 4
  | .popc .. => 4
  | .clz .. => 4
  | .ctz .. => 4
  | .brev .. => 4
  | .bswap .. => 4
  | .abs .. => 4
  | .neg .. => 4
  | .ext .. => 4
  | .extU .. => 4
  | .ins .. => 4
  | .fdiv .. => 4
  | .fsqrt .. => 4
  | .fabs .. => 4
  | .fneg .. => 4
  | .fcpys .. => 4
  | .fclass .. => 4
  | .frint .. => 4
  | .cvtF64 .. => 4
  | .cvtF32 .. => 4
  | .cvtF16 .. => 4
  | .cvtBf16 .. => 4
  | .cvtE4m3 .. => 4
  | .cvtE5m2 .. => 4
  | .cvtE2m1 .. => 4
  | .cvtI64 .. => 4
  | .cvtI64U .. => 4
  | .cvtI32 .. => 4
  | .cvtI32U .. => 4
  | .cvtI16 .. => 4
  | .cvtI16U .. => 4
  | .cvtI8 .. => 4
  | .cvtI8U .. => 4
  | .pack .. => 4
  | .unpackLo .. => 4
  | .unpackHi .. => 4
  | .split .. => 4
  | .rejoin .. => 4
  | .exit => 4
  | .tail => 4
  | .voteAll .. => 4
  | .voteAny .. => 4
  | .ballot .. => 4
  | .matchLanes .. => 4
  | .scanAdd .. => 4
  | .scanMin .. => 4
  | .scanMax .. => 4
  | .reduceAdd .. => 4
  | .reduceMin .. => 4
  | .reduceMax .. => 4
  | .setnet .. => 4
  | .fuse .. => 4
  | .barC => 4
  | .barG .. => 4
  | .arriveG .. => 4
  | .waitG .. => 4
  | .scanMinU .. => 4
  | .scanMaxU .. => 4
  | .reduceMinU .. => 4
  | .reduceMaxU .. => 4
  | .reduceAnd .. => 4
  | .reduceOr .. => 4
  | .reduceXor .. => 4
  | .ldt .. => 4
  | .aadd .. => 4
  | .aand .. => 4
  | .aor .. => 4
  | .axor .. => 4
  | .amin .. => 4
  | .aminU .. => 4
  | .amax .. => 4
  | .amaxU .. => 4
  | .axchg .. => 4
  | .acas .. => 4
  | .afx .. => 4
  | .afxrd .. => 4
  | .fenceSquad => 4
  | .fenceCrew => 4
  | .fenceGang => 4
  | .fenceDevice => 4
  | .fenceSystem => 4
  | .fenceFull => 4
  | .waitcrew .. => 4
  | .valloc .. => 4
  | .vdup .. => 4
  | .vsplit .. => 4
  | .vnarrow .. => 4
  | .vdrop .. => 4
  | .vquery .. => 4
  | .vbound .. => 4
  | .runnew => 4
  | .enum .. => 4
  | .enumOne .. => 4
  | .merge .. => 4
  | .endch .. => 4
  | .choose .. => 4
  | .mmaQE4m3 .. => 4
  | .mmaQE5m2 .. => 4
  | .mmaQMxfp4 .. => 4
  | .mmaQBf16 .. => 4
  | .mmaQI8 .. => 4
  | .bld .. => 4
  | .tzero .. => 4
  | .tld .. => 4
  | .tst .. => 4
  | .trd .. => 4
  | .tver .. => 4
  | .mfence .. => 4
  | .mwait .. => 4
  | .gsub .. => 4
  | .waitobj .. => 4
  | .pollobj .. => 4
  | .qcfg .. => 4
  | .qpush .. => 4
  | .qpop .. => 4
  | .feed .. => 4
  | .sloop .. => 4
  | .dqpush .. => 4
  | .dqpop .. => 4
  | .dqsteal .. => 4
  | .syscall => 4
  | .brk .. => 4
  | .icinv => 4
  | .clk .. => 4
  | .rand .. => 4
  | .inv .. => 4
  | .invDec .. => 4
  | .bset .. => 6
  | .bget .. => 6
  | _ => 0

/-- The bytes of an instruction in memory, lowest address first (R3, R46). -/
def Instr.bytes (i : Instr) : List Byte := bytesOfNat i.len (encode i)

end Sys2Proof
end

