-- ==== Sys2Proof/Config.lean ====
section
/-!
DEFINITION. Config.lean: what one part, or one implementation, fixes, and the free values (opaque constants with no
body: nothing can evaluate them, so whatever is proved holds for every value of them).
-/
namespace Sys2Proof.Config

/-- Cores per die, dies per module (R2, R350). -/
abbrev coresPerDie : Nat := 96
abbrev dies : Nat := 4
abbrev cores : Nat := 384

/-- Squad records per core and the number of the producer record (R318). -/
abbrev squadSlots : Nat := 16
abbrev producerRecord : Nat := 16

/-- Entries of the view table (R199), of a deque (R330), of a retirement tracker (R119), of a graph queue (R291). -/
abbrev viewEntries : Nat := 1048576
abbrev dequeEntries : Nat := 64
abbrev trackerEntries : Nat := 32
abbrev graphEntries : Nat := 256

/-- Bytes of DRAM: 768 GiB (R2). -/
abbrev dramBytes : Nat := 824633720832

/-- Bytes of the service cores' SRAM: 16 MiB (R2). -/
abbrev sramBytes : Nat := 16777216

/-- The shipped stepping B0 (R60). -/
abbrev stepping : BitVec 16 := 0x00B0

/-- A free value: nothing constrains it. The argument is a number drawn from State.freeCtr, so that each use is a
value of its own (free value, log 9). -/
opaque freeByte : Nat → Byte

/-- A free choice of a number, used where the spec leaves an order or a place open (free value, log 9). -/
opaque freeNat : Nat → Nat

/-- The version of a 16-byte code block, of those that may be held, that a fetch takes: the number of the fetch and the block (R315; free value, log 9). -/
opaque freeBlock : Nat → Nat → Nat

/-- A 64-byte line written under one key (AES-256-XTS, R189) and read under another: the number of the key of writing, that of the key of reading, the line's
address and its bytes give what is read (free value, log 64). -/
opaque rekey : Nat → Nat → Nat → List Byte → List Byte

/-- How far a core's cycle counter stands from the module's, before it is cut to the bound of R97 (DESIGN CHOICE, log 10). -/
opaque clkSkew : Nat → Nat

/-- The DRAM channel that holds a line: the spec gives the channels an error bank each (R332) and not the lines they hold
(DESIGN CHOICE, log 14). -/
opaque dramChannel : Nat → Nat

/-- The entropy value of a packet, formed from its node's address and its sequence number (R360 gives no formula; DESIGN CHOICE, log 73). -/
opaque entropy : Nat → Nat → Nat

/-- The port through which packets of an entropy value leave (R361: adaptive routing; DESIGN CHOICE, log 73). -/
opaque portOf : Nat → Nat

/-- The key, enrolled at installation, with which the transport authenticates a controller (R366; fixed for one module, DESIGN CHOICE, log 73). -/
opaque installKey : List Byte

/-- One less than the decrement events that the whey queue holds: R206 names a full queue and gives no size (DESIGN CHOICE, log 25). -/
opaque wheyRoom : Nat

/-- Logical blocks of 4 KiB (R369) of files that the attached flash holds (R368 names an error for full flash and gives no size; DESIGN CHOICE, log 14). -/
opaque flashBlocks : Nat

/-- SHAKE256 of a byte string, to a length in bytes: named by R353, R356 and R357 and not given there (DESIGN CHOICE, log 13). -/
opaque shake256 : List Byte → Nat → List Byte

/-- Falcon-1024: does the signature verify over the digest under the key whose digest is given (R353, R358; DESIGN CHOICE, log 13)? -/
opaque falconVerify : List Byte → List Byte → List Byte → Bool

/-- Falcon-1024: the signature the module's identity key makes over a digest; the first argument is the key seed
(R356; DESIGN CHOICE, log 13). -/
opaque falconSign : List Byte → List Byte → List Byte

/-- The digest of the vendor public key that is fused into the module, the device secret and the serial number (R353,
R356): fixed for one module. -/
opaque vendorKeyDigest : List Byte
opaque deviceSecret : List Byte
opaque serialNumber : List Byte

end Sys2Proof.Config
end

