-- ==== Sys2Proof/Machine/Map.lean ====
section
/-!
DEFINITION. Machine/Map.lean: sparse storage as plain data: a list of (key, value) pairs with keys strictly rising and no
entry that holds what an unlisted key reads as. Equal contents are equal lists.
-/
namespace Sys2Proof.Machine

/-- Sparse storage with numbers as keys. -/
abbrev SMap (α : Type) := List (Nat × α)

/-- The value at a key; `dflt` where the key is not listed. -/
def SMap.get (dflt : α) (m : SMap α) (k : Nat) : α :=
  match m with
  | [] => dflt
  | (j, v) :: rest => if j = k then v else SMap.get dflt rest k

/-- The map without a key. -/
def SMap.erase (m : SMap α) (k : Nat) : SMap α := m.filter fun e => e.1 != k

/-- An entry put before the first greater key. -/
def SMap.insert (m : SMap α) (k : Nat) (v : α) : SMap α :=
  match m with
  | [] => [(k, v)]
  | (j, w) :: rest => if k < j then (k, v) :: (j, w) :: rest else (j, w) :: SMap.insert rest k v

/-- The map with the value at a key: writing what an unlisted key reads as removes the entry. -/
def SMap.set [DecidableEq α] (dflt : α) (m : SMap α) (k : Nat) (v : α) : SMap α :=
  if v = dflt then SMap.erase m k else SMap.insert (SMap.erase m k) k v

/-- The keys listed. -/
def SMap.keys (m : SMap α) : List Nat := m.map (·.1)

/-- The values listed. -/
def SMap.vals (m : SMap α) : List α := m.map (·.2)

/-- The canonical form: keys strictly rising, and no entry equal to what an unlisted key reads as. -/
def SMap.wf [DecidableEq α] (dflt : α) : SMap α → Bool
  | [] => true
  | (k, v) :: rest => v != dflt && rest.all (fun e => k < e.1) && SMap.wf dflt rest

/-- Memory: (address, byte) pairs (Host.Cell); an unlisted address reads as 0. -/
abbrev Memory := List Host.Cell

/-- What an address that nothing has written reads as: Driene zeroes all DRAM before it opens the request channel (R353),
scratchpad and stack slices start at zero (R107, R184). -/
abbrev Memory.unlisted : Byte := 0

/-- One byte of memory. -/
def Memory.read (m : Memory) (a : Nat) : Byte := SMap.get Memory.unlisted m a

/-- One byte written. -/
def Memory.write (m : Memory) (a : Nat) (b : Byte) : Memory := SMap.set Memory.unlisted m a b

/-- The memory is in its canonical form. -/
def Memory.wf (m : Memory) : Bool := SMap.wf Memory.unlisted m

/-- n bytes from an address on, lowest address first (R3). -/
def Memory.readBytes (m : Memory) (a : Nat) : Nat → List Byte
  | 0 => []
  | n + 1 => m.read a :: Memory.readBytes m (a + 1) n

/-- Bytes written from an address on. -/
def Memory.writeBytes (m : Memory) (a : Nat) : List Byte → Memory
  | [] => m
  | b :: bs => Memory.writeBytes (m.write a b) (a + 1) bs

end Sys2Proof.Machine
end

