-- ==== Sys2Proof/Machine/State.lean ====
section
/-!
DEFINITION. Machine/State.lean: everything the spec gives the machine to hold, as plain data; the reasons a step can stop;
the machine right after module reset.
-/
namespace Sys2Proof.Machine

/-- An outstanding register or mask-bit write of a thread (R57). `dst` is a register code 0-61, or 72 + n for the thread's
bit of kn (bit 0 of the data). The register itself already holds the new value; `old` is what a read that comes too early
in scheduled mode still returns. `due` is the cycle before which it does not land; a scoreboarded write (`sb`) lands in its own time from then on, and its
readers wait for it. `iss` is the cycle in which its instruction issued: the scoreboarded writes of one issue land together (DEDUCED, log 75). `src` is the access number
of the load whose value it brings, as long as that load may still be performed anew (R223). -/
structure RegWrite where
  dst : Nat
  old : Reg
  due : Nat
  sb : Bool
  iss : Nat := 0
  src : Option Nat := none
  deriving DecidableEq, Repr

/-- Where a byte stands: DRAM by physical address, with the key under which it is accessed (R189; 0 for Driene's own accesses), or a crew's scratchpad by
offset. -/
inductive Place
  | dram (pa key : Nat)
  | scratch (lid crew off : Nat)
  deriving DecidableEq, Repr

/-- A leaf entry with the address of the first entry of its group (R185). -/
structure Leaf where
  at_ : Nat
  raw : Nat
  deriving DecidableEq, Repr

/-- Where an access goes: DRAM with its key, its page by job and address, and its leaf; a crew's scratchpad; or the thread's stack slice. -/
inductive Loc
  | dram (pa key job va : Nat) (leaf : Leaf)
  | scratch (lid crew off : Nat)
  | stack (off : Nat)
  deriving DecidableEq, Repr

/-- What a thread waits at (R111): nothing; a REJOIN; a barrier phase; the end of the phase it has arrived at, before it arrives again (R143); FUSE, ENUM,
MERGE or ENDCH with the operands its release needs, as the instruction read them (R22); being parked (R154); ICINV, with its number in the order of
accesses; an atomic that has passed its checks and is held until it can be performed (R194, R250), with its address, its location, whether the page was
under write-back when it passed them, and the instruction; a load that has passed its checks (R304) and must follow a write that cannot be performed yet,
with its address, its location and the instruction; a fence, with its scope (1 squad, 2 crew, 3 gang, 4 device and system), whether it is FENCE.FULL, and
its number in the order of accesses (R226); a tile version (R260); the intake of an MMA.Q; an MFENCE at the completion of a batch (R274); or the condition
of another wait instruction, which is issued again from its own PC once the condition holds. -/
inductive Wait
  | run
  | rejoin (j : Nat)
  | barC (phase : Nat)
  | barG (group phase : Nat)
  | arrive (group phase : Nat) (i : Instr)
  | fuse (mask partner : Nat)
  | enum (d : Nat) (a : Reg) (desc : Word)
  | merge (a : Reg) (key : List Reg)
  | endch (d : Nat) (a : Reg)
  | parked
  | fence (scope : Nat) (full : Bool) (n : Nat)
  | icinv (n : Nat)
  | atomic (addr : Word) (loc : Loc) (held : Bool) (i : Instr)
  | load (addr : Word) (loc : Loc) (i : Instr)
  | tile (t v : Nat) (i : Instr)
  | intake
  | batch (n : BitVec 16) (i : Instr)
  | blocked (i : Instr)
  deriving DecidableEq, Repr

/-- One thread (R7): its registers by code (0-55 g, 56-59 o, 60 e0, 61 e1), bracket registers, mask bits (bit n is the thread's bit of kn), floating
status, DRAW, SIG, and its place in the squad's progress; its stack slice, with its number in the launch's pool and the lines that carry an uncorrectable
error (R184, R334); the barrier phases it has arrived at, each with the number of its arrival in the order of accesses (R142, R144). While it waits its PC
stays at the wait instruction, whose signature word (R340: it enters SIG when the instruction completes) is `word`; `mtAt` is the MMA.Q at which its bit of
MTDONE was set (R271); `prior` is the stamp it had before that instruction issued (R303), and `since` the cycle of that issue, in which its operands were
read (R22). -/
structure Thread where
  pc : Word := 0
  regs : SMap Reg := []
  brk : SMap Reg := []
  k : BitVec 8 := 0
  fflags : BitVec 5 := 0
  frm : BitVec 3 := 0
  draw : BitVec 32 := 0
  sig : BitVec 32 := 0
  live : Bool := false
  wait : Wait := .run
  stamp : Nat := 0
  prior : Nat := 0
  since : Nat := 0
  readyAt : Nat := 0
  pend : List RegWrite := []
  arrC : Option (Nat × Nat) := none
  arrG : SMap (Option (Nat × Nat)) := []
  stack : Memory := []
  slice : Nat := 0
  stackPoison : SMap (BitVec 64) := []
  lstop : BitVec 8 := 0
  held : Nat := 0
  word : BitVec 32 := 0
  mtAt : Word := 0
  deriving DecidableEq, Repr

/-- A squad's standing: it issues; a trap stopped it and Driene has not acted yet (R303); Driene serves the system calls
of the lanes named (R309); it is stopped for a debugger (R312), is about to step one instruction at a PC, or has issued it from a
PC for some lanes (R313). -/
inductive SquadStatus
  | running
  | trapped
  | serving (lanes : BitVec 32)
  | debug
  | stepping (pc : Word)
  | stepped (pc : Word) (lanes : BitVec 32)
  deriving DecidableEq, Repr

/-- An MMA.Q in intake (R267): the instruction, the lanes whose rows are still to be taken in with their row descriptors,
the lanes of the issue set, and the number of its acceptance; `got`: the parts of the next row that have been read, by their offsets in the record (R216); `bad`: one of
them carried an uncorrectable error (R272). -/
structure Intake where
  instr : Instr
  left : List (Nat × Word)
  got : List (Nat × List Byte)
  lanes : BitVec 32
  id : Nat
  bad : Bool := false
  deriving DecidableEq, Repr

/-- A lane of an INV between steps: its domain and brackets, its results' tag and values at them, its target (R170). -/
structure InvLane where
  lane : Nat
  dom : Tag
  lo : Nat
  hi : Nat
  tag : Tag
  flo : Nat
  fhi : Nat
  goal : Nat
  deriving DecidableEq, Repr

/-- An INV between two issue slots (R172): the prefix with its address, its lanes, what each read from the bracket register and the target when the prefix issued, the
routine with the addresses of its instructions and the address after its INVEND, the step under way (0 that at the brackets, 1 a midpoint, 2 the final
evaluation), how many routine instructions of it have issued, the registers that these write with the cycles at which the results are ready, and the lanes at work. -/
structure InvRun where
  pc : Word
  instr : Instr
  lanes : BitVec 32
  args : List (Nat × Reg × Reg)
  body : List (Word × Instr)
  fin : Word
  step : Nat
  idx : Nat
  due : List (Nat × Nat)
  work : List InvLane
  deriving DecidableEq, Repr

/-- A write of a network configuration under way (R135): the configuration, its map, the cycle from which it lands, and the threads that issued the SETNET. -/
structure NetWrite where
  n : Nat
  map : List Byte
  due : Nat
  lanes : BitVec 32
  deriving DecidableEq, Repr

/-- One squad, or a producer stream (record 16, one thread in lane 0), in its bind record (R101, R297, R318): LAUNCH, CREW, SQUAD, PRIO, SET and TILE, CTX
(`ctx`: the address of its context image) and STATE (`state`: 1 bound, 2 evictable, 3 draining; an empty record holds no squad). `retired`: its last thread
has ended by EXIT, and it keeps its slot until its writes have landed (R118). `rejoins`: a thread of it ended since its last slot, so that releases of R116
and mismatches of R117 wait for its next slot (R131). `brkCode`: the code of the BRK at which its most recent trap came (R311), for the signature of a
thread that is resumed past it (R340). `missing`: register lines that have not arrived; `home`: the core where the lines of a saved squad are still
resident (R326). -/
structure Squad where
  ctx : Nat := 0
  state : Nat := 1
  retired : Bool := false
  rejoins : Bool := false
  home : Option Nat := none
  invs : List InvRun := []
  lid : Nat := 0
  crew : Nat := 0
  num : Nat := 0
  prio : Nat := 0
  set : Nat := 0
  tile : Bool := false
  threads : SMap Thread := []
  j : SMap (BitVec 32) := []
  n : SMap (List Byte) := []
  nPend : List NetWrite := []
  mtdone : BitVec 32 := 0
  closed : BitVec 16 := 0
  done : BitVec 16 := 0
  tcause : Word := 0
  tlanes : Word := 0
  taddr : Word := 0
  tepc : Word := 0
  brkCode : Option (BitVec 6) := none
  status : SquadStatus := .running
  slot : Nat := 0
  last : BitVec 32 := 0
  yielded : Nat := 0
  portAt : Nat := 0
  readySince : Nat := 0
  missing : List Nat := []
  intake : Option Intake := none
  deriving DecidableEq, Repr

/-- A squad named by launch, crew and squad number: who issued an engine operation, a write or an event. -/
structure SquadRef where
  lid : Nat
  crew : Nat
  num : Nat
  deriving DecidableEq, Repr

/-- A node that was launched and has not started: a number of its own, its address, its root's error area, whether it is a root, the thread that submitted
the root with the number of the submission (R206, R286), what has been read of its 64 bytes, by the offsets of the parts (R216), and whether it has been
retried (R288). -/
structure Node where
  id : Nat
  addr : Word
  err : Word
  root : Bool
  by_ : SquadRef
  lane : Nat
  seq : Nat
  got : List (Nat × List Byte)
  retried : Bool := false
  deriving DecidableEq, Repr

/-- A queue in scratchpad (R293): tag, element size bit, depth (0: unconfigured), offset, the elements in order, and the place of each in the ring. -/
structure Queue where
  tag : Tag := .raw64
  es : Bool := false
  depth : Nat := 0
  offset : Nat := 0
  elems : List (Word × Word) := []
  places : List Nat := []
  deriving DecidableEq, Repr

/-- An open or pending chunk (R147): its descriptor's fields, whether ENUM.ONE opened it, whether it awaits CHOOSE, entries
used, read filter, candidates by group lane (R149), and for ENUM.ONE the running lane and its entry state. -/
structure Chunk where
  gbase : Nat
  gsize : Nat
  entries : Nat
  offset : Nat
  one : Bool
  pending : Bool
  used : Nat
  readF : BitVec 2048
  cand : List Byte
  runLane : Nat
  entry : Byte
  deriving DecidableEq, Repr

/-- The data of a node that is under way between two stops (R216, R288): how many bytes, the parts of the source that have not been read and those of the destination that
have not been written (offset in the data, address, bytes), the bytes read so far by offset, and those that have passed the staging buffer, in order. -/
structure Piece where
  len : Nat
  src : List (Nat × Nat × Nat)
  dst : List (Nat × Nat × Nat)
  got : Memory
  out : List Byte
  deriving DecidableEq, Repr

/-- A node that runs (R286): its 64 bytes as they were read, the bytes done, the running checksum, whether it has been
retried (R288), whether its body is complete, status code, DETAIL, the network message that is under way for it, its data under way, the number of the acceptance
of an XFORM by the matrix engine (R260, R283), and how many actions of its finish are done; where an XFORM's source stands, as (place, bytes), and whether a write has
changed it since the node started (R288). -/
structure RunNode where
  node : Node
  bytes : List Byte
  prog : Nat
  out : BitVec 32
  retried : Bool
  done : Bool
  code : Nat
  detail : BitVec 32
  msg : Option Nat
  piece : Option Piece
  op : Option Nat
  fin : Nat
  srcAt : List (Place × Nat) := []
  changed : Bool := false
  deriving DecidableEq, Repr

/-- A failure that has halted a graph queue and whose record has not been written (R287): the node, cause, address and kind, DISCARDED, and the nodes that were running
at the halt and still are. -/
structure Failure where
  node : Node
  cause : Nat
  addr : Word
  kind : Nat
  discarded : BitVec 32
  waits : List Nat
  deriving DecidableEq, Repr

/-- A crew's graph queue (R286, R287): halted or not, nodes launched and not started, nodes that run, and the failures whose records are still to be written. -/
structure Graph where
  halted : Bool := false
  queued : List Node := []
  running : List RunNode := []
  failures : List Failure := []
  deriving DecidableEq, Repr

/-- INJ and what it has counted (R345). -/
structure Inj where
  skip : Nat := 0
  bit : Nat := 0
  target : Nat := 0
  mode : Nat := 0
  arm : Bool := false
  fired : Bool := false
  seen : Nat := 0
  deriving DecidableEq, Repr

/-- A tile register (R253, R259): tag (none: INVALID; some false: ACC48; some true: ACCI48), version, cells by 128 r + c,
and whether a writing instruction is in progress (R260). -/
structure Tile where
  tag : Option Bool := none
  ver : BitVec 16 := 0
  cells : SMap (BitVec 48) := []
  writer : Bool := false
  deriving DecidableEq, Repr

/-- A rind slot with its share of the slot-scale store (R253, R257): tag (the format code; none: INVALID), the image bytes, and whether the last fill of it ended with an
uncorrectable error (R258, R269). -/
structure Slot where
  fmt : Option Nat := none
  image : Memory := []
  bad : Bool := false
  deriving DecidableEq, Repr

/-- What an accepted engine operation still has to do: land a row taken in (R269); fill a slot (R258); finish TZERO, TLD
or TST (R262); or what an XFORM node does to a tile or a slot (R283). -/
inductive EngWork
  | row (mma tile slot fmt row lane : Nat) (sa : BitVec 32) (bytes : List Byte)
  | bld (slot fmt : Nat) (addr : Word)
  | tzero (tile : Nat) (int : Bool)
  | tld (tile : Nat) (int : Bool) (addr : Word)
  | tst (tile : Nat) (addr : Word)
  | xtile (tile : Nat)
  | xslot (slot fmt : Nat)
  deriving DecidableEq, Repr

/-- An engine operation with the squad and batch it belongs to (R273), the threads that issued it, by lane (R229), and the number of its acceptance, by which
operations on one tile or slot are ordered (R258, R260); the parts of its memory that it has not accessed, as (offset, address, bytes) (R216), the bytes read, by offset,
and whether it has met an uncorrectable error. -/
structure EngOp where
  by_ : SquadRef
  lanes : List Nat
  batch : BitVec 16
  seq : Nat
  work : EngWork
  left : List (Nat × Nat × Nat) := []
  got : Memory := []
  bad : Bool := false
  deriving DecidableEq, Repr

/-- An MMA.Q that was accepted and has not advanced its tile's version: in intake or not, its rows not yet landed, and, where its intake was interrupted (R272), the PC at
which it is issued again. -/
structure Mma where
  id : Nat
  tile : Nat
  by_ : SquadRef
  batch : BitVec 16
  open_ : Bool
  left : Nat
  paused : Option Word := none
  deriving DecidableEq, Repr

/-- The matrix engine of a core (R253). `doomed` holds tiles with the version at which a failed or discarded XFORM makes
their tag INVALID (R287). -/
structure Engine where
  owner : Option (Nat × Nat) := none
  tiles : SMap Tile := []
  slots : SMap Slot := []
  ops : List EngOp := []
  mmas : List Mma := []
  doomed : List (Nat × Nat) := []
  deriving DecidableEq, Repr

/-- What one core holds beside its squads (R119, R253, R330): the matrix engine, the deque, the tracker, the ports given in this cycle, and the
code blocks that its instruction caches and fetch buffers may hold: by 16-byte block of DRAM, the contents fetched since they were last emptied (R315, R316);
`given`: the cycle after that in which each slot was last given a port (R321). -/
structure Core where
  engine : Engine := {}
  deque : List Reg := []
  dqOwner : Option Nat := none
  tracker : List SquadRef := []
  ports : Nat := 0
  given : SMap Nat := []
  code : SMap (List (List Byte)) := []
  deriving DecidableEq, Repr

/-- A crew (R101): its scratchpad, queues, run filter, chunks, graph, barrier phase, retired squads, INJ, and, while it is
not bound, its squads' contexts by number (16: the stream), its engine contents (R324) and the cycle in which it left its core (R323); `image`: the address of its
context images in Driene's memory (R178, R318). -/
structure Crew where
  lid : Nat := 0
  idx : Nat := 0
  core : Option Nat := none
  started : Bool := false
  stopReq : Bool := false
  boundAt : Nat := 0
  idleSince : Nat := 0
  scratch : Memory := []
  poison : SMap (BitVec 64) := []
  queues : SMap Queue := []
  filter : BitVec 2048 := 0
  chunks : List Chunk := []
  graph : Graph := {}
  barPhase : Nat := 0
  retired : List Nat := []
  inj : Inj := {}
  saved : SMap Squad := []
  savedEngine : Option Engine := none
  image : Option Nat := none
  completed : Bool := false
  deriving DecidableEq, Repr

/-- A watched wait (R145, R308): a crew barrier or a group barrier phase, an ENUM gathering, a tile version wait. -/
inductive Watch
  | barC (crew phase : Nat)
  | barG (group phase : Nat)
  | enum (crew off gbase gsize : Nat)
  | tile (crew num tile ver : Nat)
  deriving DecidableEq, Repr

/-- A declared range (R190). -/
structure Range where
  base : Nat
  length : Nat
  rights : BitVec 8
  ord : Nat
  cls : Nat
  key : Nat
  home : Nat
  psize : Nat
  arg : Word
  deriving DecidableEq, Repr

/-- A launch's standing (R105, R191, R306): admitted and not yet resident; resident, its crews being bound and run; ending
with a cause code; over. -/
inductive LaunchStatus
  | admitted
  | running
  | ending (cause : Nat)
  | ended
  deriving DecidableEq, Repr

/-- A file handle or a socket handle of a launch (R368). -/
inductive Handle
  | file (path : List Byte) (rd wr : Bool)
  | sock (n : Nat)
  deriving DecidableEq, Repr

/-- The arrival of a squad at a phase of a group's barrier, kept when the squad has retired since (R142): its threads that arrived, and the number of the last
arrival of them in the order of accesses (R144). -/
structure Arrival where
  crew : Nat
  num : Nat
  group : Nat
  phase : Nat
  lanes : BitVec 32
  n : Nat
  deriving DecidableEq, Repr

/-- A launch: the fields of its record (R103), its groups (R104), ranges in its lease, what it may only read and what it may also execute (R190, R191), the
stretches of DRAM that its stack slices take (R184), where it stands, and the cycle in which its ranges became resident. `merged` holds (crew, W, V) for
squads that fused (R140); `arrived` the arrivals of squads that have retired since (R142); `killing` the crews of sets that are being killed, `killCauses`
the cause by set; `savedDeques` the deques that pre-emption saved (R324); `cancel` the CANCEL that waits for its end (R367). -/
structure Launch where
  lid : Nat := 0
  job : Nat := 0
  reqid : Word := 0
  entry : Word := 0
  arg : Word := 0
  seed : Word := 0
  crews : Nat := 1
  squads : Nat := 1
  gang : Nat := 1
  prio : Nat := 0
  det : Bool := false
  replay : Bool := false
  chk : Bool := false
  ilk : Bool := true
  frm : BitVec 3 := 0
  scratch : Nat := 0
  stack : Nat := 0
  wdog : Nat := 0
  groups : List (List (Nat × Nat)) := []
  groupTab : Word := 0
  rangeTab : Word := 0
  ranges : List Range := []
  leaseRO : List (Nat × Nat) := []
  leaseX : List (Nat × Nat) := []
  doneObj : Word := 0
  object : Word := 0
  marked : Bool := false
  deques : Bool := false
  pool : List (Nat × Nat) := []
  streamLo : Nat := 0
  streamLen : Nat := 0
  status : LaunchStatus := .admitted
  since : Nat := 0
  phases : SMap Nat := []
  merged : List (Nat × Nat × Nat) := []
  arrived : List Arrival := []
  watches : List (Watch × Nat) := []
  debugger : Bool := false
  replied : Bool := false
  kills : SMap Nat := []
  killing : List (Nat × Nat) := []
  killCauses : SMap Nat := []
  savedDeques : List (List Reg) := []
  cancel : Option Word := none
  narrowed : List Nat := []
  signalled : List Nat := []
  views : List (Nat × Nat × Nat) := []
  handles : SMap (Option Handle) := []
  records : List (List Byte) := []
  deriving DecidableEq, Repr

/-- A loaded object (R357, R358). -/
structure Object where
  handle : Nat
  stepping : BitVec 16
  secver : Nat
  matrix : Bool
  deques : Bool
  text : Nat × Nat
  data : Nat × Nat
  stream : Nat × Nat
  digest : List Byte
  deriving DecidableEq, Repr

/-- A job (R185, R345, R357, R367): its page-table root and the other tables, module numbers, controller key, the key of its network traffic by a number of the model's
own (R359), injection, objects, and the JOBCLOSE that waits for its end. -/
structure Job where
  num : Nat
  module : Nat
  fabric : Word
  peers : List (Nat × Word)
  ckey : List Byte
  root : Nat
  tables : List Nat := []
  net : Nat := 0
  inj : Bool
  objects : List Object
  closing : Option Word
  deriving DecidableEq, Repr

/-- A view-table entry (R199). -/
structure View where
  cbase : Word := 0
  clen : Nat := 0
  lo : Nat := 0
  hi : Nat := 0
  gen : BitVec 20 := 0
  live : Bool := false
  region : BitVec 16 := 0
  rights : BitVec 7 := 0
  job : Nat := 0
  deriving DecidableEq, Repr

/-- A granule's coverage count, PRESENT, and the frame it holds (R198). -/
structure Granule where
  count : Nat := 0
  present : Bool := false
  frame : Nat := 0
  deriving DecidableEq, Repr

/-- A decrement event of the whey queue: the granule and the thread that posted it (R206). -/
structure Decrement where
  job : Nat
  va : Word
  by_ : SquadRef
  lane : Nat
  seq : Nat
  deriving DecidableEq, Repr

/-- A write that has not been performed for every party (R223): its number in the order of accesses, its thread, its place and bytes, the ORD of its page
(R185; 1 for a window), whether it is a release (R222), the job and the address of its page (job 0 for a window), whether it was issued while the page was under
write-back and so waits for that to end (R194), and the numbers at which it was performed for its thread's squad, crew and gang, as far as it has been (R213). -/
structure Write where
  seq : Nat
  by_ : SquadRef
  lane : Nat
  place : Place
  data : List Byte
  ord : Nat
  rel : Bool
  job : Nat
  va : Nat
  held : Bool
  times : List Nat
  deriving DecidableEq, Repr

/-- A load whose value is not fixed for good (R223): its access number, its thread, its location and form, whether it is an acquire and whether it is performed at the
atomic point (R222, R236). `least`: it may still return only writes of parties whose scope with its thread is at least this (R224): as accesses that must
follow it at a scope are performed, the value is fixed for the parties of that scope. -/
structure Read where
  seq : Nat
  by_ : SquadRef
  lane : Nat
  loc : Loc
  size : Nat
  sgn : Bool
  tag : Tag
  aq : Bool
  fresh : Bool
  least : Nat := 1
  deriving DecidableEq, Repr

/-- A translation that a TLB may still hold after Driene changed the entry (R195): job, page address, size in bytes, the
old entry; and what follows when the shootdown is complete: the stretches of DRAM that are given back, and the file, with an offset, that a dirty page is saved to. -/
structure Stale where
  job : Nat
  va : Nat
  size : Nat
  entry : Word
  give : List (Nat × Nat)
  file : Option (List Byte × Nat)
  deriving DecidableEq, Repr

/-- An error bank (R332, R333): V, UC, OVER, CEDROP and COUNT of STATUS, ADDR and INFO. UNIT is fixed by the bank. -/
structure Bank where
  v : Bool := false
  uc : Bool := false
  ovf : Bool := false
  cedrop : Bool := false
  count : BitVec 32 := 0
  addr : Word := 0
  info : BitVec 128 := 0
  deriving DecidableEq, Repr

/-- An error of the present cycle that is still to enter its bank (R333): the bank, uncorrectable or corrected, ADDR and INFO. -/
structure BankError where
  bank : Nat
  uc : Bool
  addr : Word
  info : BitVec 128
  deriving DecidableEq, Repr

/-- A file on flash (R368): its path and bytes, and writes queued and not yet on flash. -/
structure File where
  path : List Byte
  data : List Byte
  deriving DecidableEq, Repr

/-- The admin commands that Driene issues (R369). -/
inductive AdminOp
  | deleteSq
  | createSq
  | getLogPage
  | deleteCq
  | createCq
  | identify
  | setFeatures
  | getFeatures
  deriving DecidableEq, Repr

/-- A storage port as Driene has set it up (R369): its device has told that it offers every NVM command that Driene issues; its completion and submission queues. -/
structure StoragePort where
  offers : Bool := false
  cq : Bool := false
  sq : Bool := false
  deriving DecidableEq, Repr

/-- A command given to a storage port (R369): an admin command; a page written back, with what it held when its stores had drained (R193); bytes of a file
written, or read into a buffer, zeroes written from the end of a file up to an offset, or a flush, with the thread whose call waits for it and its handle;
blocks given back on the flash of a port (R350: the module has two). -/
inductive Nvme
  | admin (port : Nat) (op : AdminOp)
  | page (job : Nat) (va : Word) (data : List Byte)
  | write (path : List Byte) (off : Nat) (data : List Byte) (by_ : SquadRef) (lane handle : Nat)
  | read (path : List Byte) (off len : Nat) (buf : Word) (by_ : SquadRef) (lane handle : Nat)
  | zeroes (path : List Byte) (stop : Nat) (by_ : SquadRef) (lane handle : Nat)
  | flush (by_ : SquadRef) (lane handle : Nat)
  | deallocate (port : Nat) (blocks : List Nat)
  deriving DecidableEq, Repr

/-- A network message under way (R360, R363): a piece of a PUT or GET node of ours (a GET's packets by number, offset and
data), or a peer's write being placed. -/
inductive Message
  | put (id job peer lid crew node : Nat) (len : Nat)
  | get (id job peer lid crew node : Nat) (len : Nat) (arrived : List (Nat × Nat × List Byte))
  | inbound (id job peer count : Nat) (arrived : List Nat)
  deriving DecidableEq, Repr

/-- A socket (R368): the launch, port and peer, connected or listening, bytes received and not yet read, ROD packets held
for their turn (R360), how it ended, and the number of its next packet to the peer. -/
structure Socket where
  n : Nat
  lid : Nat
  job : Nat
  peer : Nat
  port : Nat
  up : Bool
  rx : List Byte
  next : Nat
  heldPkts : List (Nat × List Byte)
  eof : Bool
  broken : Bool
  out : Nat := 0
  deriving DecidableEq, Repr

/-- A packet to a peer (R359, R360, R363, R368): data of a PUT, a GET's request, or data of a peer's GET, each with its sequence number and entropy value; an answer to a
peer's message; the opening, the bytes and the end of a socket, in the order of their numbers. -/
inductive OutPacket
  | putData (msg seq entropy : Nat) (addr : Word) (data : List Byte)
  | getRequest (msg seq entropy : Nat) (addr : Word) (len : Nat)
  | readData (msg seq entropy : Nat) (data : List Byte)
  | ack (msg : Nat)
  | nack (msg cause : Nat) (addr : Word)
  | sockOpen (n port : Nat)
  | socket (n seq : Nat) (data : List Byte)
  | sockEnd (n seq : Nat)
  deriving DecidableEq, Repr

/-- What the module sends (R359, R360, R363, R366, R367): a packet of a job's traffic to a peer, with the number of the key it is made with and the port it leaves by, if a
path is left (R361); a reply or report of the request channel; a trap record for a debugger, or the fault of a bind record (R319); a telemetry sample. -/
inductive Sent
  | packet (job peer key : Nat) (port : Option Nat) (p : OutPacket)
  | reply (type : Nat) (status : Nat) (reqid : Word) (job : Nat) (body : List Byte)
  | report (type : Nat) (job : Nat) (body : List Byte)
  | toDebugger (lid : Nat) (record : List Byte)
  | recordFault (lid : Nat) (record : List Byte)
  | telemetry (cycle : Nat)
  deriving DecidableEq, Repr

/-- Boot (R352, R353): the ROM reads copy A or B; Driene starts; it runs; recovery; stopped by the thermal trip. -/
inductive Boot
  | rom (copy : Nat)
  | starting
  | running
  | recovery
  | tripped
  deriving DecidableEq, Repr

/-- The module's memories and what stands beside them. `poison` gives, for a poisoned 64-byte line, the bytes that have not been rewritten (R334); `latent`
the lines whose next read corrects an injected flip (R345); `errors` the errors of the present cycle that have not entered their banks (R333); `free` the
stretches of DRAM (address, bytes) that hold no frame, table or other data of Driene's; `homed` the frames that lie wholly on one die (address, bytes, die;
R188). `keys` gives the key that a slot holds, by a number of the model's own (0: none, R189), `nextKey` the number of the next key that Driene loads;
`frameKeys` the key under which a mapped frame (address, bytes, key) is kept, `lineKeys` that of a line last written under another. -/
structure Mem where
  dram : Memory := []
  poison : SMap (BitVec 64) := []
  writes : List Write := []
  reads : List Read := []
  stale : List Stale := []
  views : SMap View := []
  viewFresh : Nat := 0
  viewFreed : List Nat := []
  granules : SMap Granule := []
  whey : List Decrement := []
  free : List (Nat × Nat) := []
  homed : List (Nat × Nat × Nat) := []
  keys : SMap Nat := []
  nextKey : Nat := 257
  frameKeys : List (Nat × Nat × Nat) := []
  lineKeys : SMap Nat := []
  banks : SMap Bank := []
  latent : List Place := []
  errors : List BankError := []
  deriving DecidableEq, Repr

/-- A request of the channel that waits its turn (R366, R367), with its header. -/
inductive Request
  | unlistedMessage (h : Header)
  | jobopen (h : Header) (number : Nat) (fabric : Word) (peers : List (Nat × Word)) (key : List Byte)
  | jobclose (h : Header)
  | loadObject (h : Header) (image : List Byte)
  | launch (h : Header) (record : List Byte) (lid : BitVec 32)
  | cancel (h : Header) (lid : BitVec 32)
  | attest (h : Header) (nonce : List Byte) (handle : Nat)
  | fusestep (h : Header) (value : Nat) (sign : List Byte)
  | recovery (h : Header) (image : List Byte)
  | debugReadState (h : Header) (at_ : DebugAt) (lane reg : Nat)
  | debugWriteState (h : Header) (at_ : DebugAt) (lane reg : Nat) (value : DebugValue)
  | debugAdvance (h : Header) (at_ : DebugAt)
  | debugResume (h : Header) (at_ : DebugAt)
  | debugStep (h : Header) (at_ : DebugAt) (pc : Option Word)
  | debugPlantBreakpoint (h : Header) (va : Word) (block : List Byte)
  | debugRemoveBreakpoint (h : Header) (va : Word) (block : List Byte)
  deriving DecidableEq, Repr

/-- A peer's message that was refused (R363): the job, the peer and its number, with the cause and the address of the check that failed. -/
structure Refused where
  job : Nat
  peer : Nat
  msg : Nat
  cause : Nat
  addr : Word
  deriving DecidableEq, Repr

/-- The storage and network sides (R359-R369): `ports` the two storage ports (R350); `acked` the peers' messages that have been acknowledged (job, peer,
number), and `refused` those that have been refused: of both nothing more is placed (R230, R362); `requests` the requests that wait their turn, in arrival
order (R366); links that are out of the routing tables, own ports and ports of peers (R361). -/
structure Io where
  bootA : List Byte := []
  bootB : List Byte := []
  files : List File := []
  ports : SMap StoragePort := []
  nvme : List Nvme := []
  messages : List Message := []
  sockets : List Socket := []
  acked : List (Nat × Nat × Nat) := []
  refused : List Refused := []
  requests : List Request := []
  linksDown : List Nat := []
  peerLinksDown : List (Nat × Nat) := []
  peersDown : List (Nat × Nat) := []
  sent : List Sent := []
  deriving DecidableEq, Repr

/-- The executing issue set: its bind record, PC, lanes, the number of the issue slot (R113) and the cycle in which it issued. The model's own, set by
step before exec (DESIGN CHOICE, log 1). -/
structure Cur where
  q : Nat := 0
  pc : Word := 0
  lanes : BitVec 32 := 0
  slot : Nat := 0
  at_ : Nat := 0
  deriving DecidableEq, Repr

/-- One choice of what moves next (DESIGN CHOICE, log 1): an event row, the issue of a squad's set at a PC, or the passing of a cycle. -/
inductive Choice
  | event (i : Instr)
  | issue (q : Nat) (pc : Word)
  | tick
  deriving DecidableEq, Repr

/-- The service complex (R2, R350, R353): how many of its 8 RV64GC cores run, what its SRAM of 16 MiB holds of the image that the ROM read, and whether the ROM is locked.
Driene's own program is no part of the model: what it does is modelled as the events of the opcode table. -/
structure Service where
  cores : Nat := 1
  sram : List Byte := []
  romLocked : Bool := false
  deriving DecidableEq, Repr

/-- The module; `timeSlice` is Driene's setting in cycles (R323: 20 ms by default, at the 4.0 GHz of R352). -/
structure State where
  boot : Boot := .rom 0
  service : Service := {}
  timeSlice : Nat := 80000000
  cycle : Nat := 0
  fuses : Nat := 0
  fuseStep : Option (Nat × Word) := none
  digest : List Byte := []
  secver : Nat := 0
  keyids : List (List Byte) := []
  jobs : SMap (Option Job) := []
  launches : SMap (Option Launch) := []
  crews : SMap Crew := []
  cores : SMap Core := []
  squads : SMap (Option Squad) := []
  mem : Mem := {}
  io : Io := {}
  seq : Nat := 0
  nextHandle : Nat := 1
  nextSocket : Nat := 1
  nextMsg : Nat := 1
  freeCtr : Nat := 0
  cur : Cur := {}
  agenda : List Choice := []
  deriving DecidableEq, Repr

/-- The module right after module reset (R353 step 1): every core and engine held in reset, service core 0 in the boot ROM,
the cycle counters at 0 (R97), no job, launch, crew or squad. Where the spec names no value, log 3 does. -/
def State.reset : State := {}

/-- Why the machine stops with a fault. No meaning raises one: the part's own faults are traps, which Driene handles in
a next state (R303-R306). -/
inductive Fault
  /-- Raised by step where the thermal trip has stopped every core (R352: the module needs a reset) and the agenda holds no
  event. Safe: the machine stops where nothing more happens. -/
  | thermalStop
  deriving DecidableEq, Repr

/-- Why the model gives no next state. -/
inductive Refusal
  /-- Raised by an arm of exec that has no meaning yet. Safe. -/
  | notModelled (mnemonic : String)
  deriving DecidableEq, Repr

end Sys2Proof.Machine
end

