-- ==== Sys2Proof/Machine/Operands.lean ====
section
/-!
DEFINITION. Machine/Operands.lean: how an operand is read: tag codes, element layouts (R24), the tag classes and pairings
of R44 and R45, elements as numbers, and the register results built from them.
-/
namespace Sys2Proof.Machine

/-- A trap condition: its cause (R306) and the address the cause names, 0 where it names none. -/
structure Trap where
  cause : Nat
  addr : Word := 0
  deriving DecidableEq, Repr

/-- The tag of a 4-bit code (R12). -/
def tagOf : Nat → Tag
  | 0 => .raw64 | 1 => .i64 | 2 => .i32x2 | 3 => .i16x4 | 4 => .i8x8 | 5 => .f64 | 6 => .f32x2 | 7 => .bf16x4
  | 8 => .f16x4 | 9 => .e4m3x8 | 10 => .e5m2x8 | 11 => .e2m1x16 | 12 => .map8 | 13 => .view | 14 => .scale | _ => .poison

/-- The 4-bit code of a tag (R12). -/
def tagCode : Tag → Nat
  | .raw64 => 0 | .i64 => 1 | .i32x2 => 2 | .i16x4 => 3 | .i8x8 => 4 | .f64 => 5 | .f32x2 => 6 | .bf16x4 => 7
  | .f16x4 => 8 | .e4m3x8 => 9 | .e5m2x8 => 10 | .e2m1x16 => 11 | .map8 => 12 | .view => 13 | .scale => 14 | .poison => 15

/-- Element width w of a tag (R24). -/
def tagWidth : Tag → Nat
  | .raw64 | .i64 | .f64 | .view | .poison => 64
  | .i32x2 | .f32x2 => 32
  | .i16x4 | .bf16x4 | .f16x4 => 16
  | .i8x8 | .e4m3x8 | .e5m2x8 | .map8 | .scale => 8
  | .e2m1x16 => 4

/-- Element count n of a tag (R24). -/
def tagCount (t : Tag) : Nat := 64 / tagWidth t

/-- The integer class of R44. -/
def isIntTag : Tag → Bool
  | .raw64 | .i64 | .i32x2 | .i16x4 | .i8x8 => true
  | _ => false

/-- The float class of R44. -/
def isFloatTag : Tag → Bool
  | .f64 | .f32x2 | .f16x4 | .bf16x4 => true
  | _ => false

/-- The bitwise class of R44. -/
def isBitTag : Tag → Bool
  | .view | .poison => false
  | _ => true

/-- Address bases, indexes and descriptors: RAW64 or I64 (R44). -/
def isAddrTag : Tag → Bool
  | .raw64 | .i64 => true
  | _ => false

/-- A source that must carry an accepted tag: POISON is a machine check, another tag a format mismatch (R13). -/
def need (ok : Tag → Bool) (r : Reg) : Except Trap Unit :=
  if r.tag = .poison then .error ⟨0x11, 0⟩ else if ok r.tag then .ok () else .error ⟨0x02, 0⟩

/-- Two integer-class sources: equal tags, or one of them RAW64 (R44, R45). -/
def layoutInt (a b : Reg) : Except Trap Tag := do
  need isIntTag a
  need isIntTag b
  if a.tag = b.tag then .ok a.tag else if a.tag = .raw64 then .ok b.tag else if b.tag = .raw64 then .ok a.tag
  else .error ⟨0x02, 0⟩

/-- Float-class sources: equal float tags, RAW64 taking the layout of the others; RAW64 alone has none (R44, R45). Of three sources two may be RAW64 (DESIGN CHOICE,
log 66: R45 speaks of pairs). -/
def layoutFloat (rs : List Reg) : Except Trap Tag := do
  rs.forM (need fun t => isFloatTag t || t == .raw64)
  match (rs.map (·.tag)).filter (· != .raw64) with
  | [] => .error ⟨0x02, 0⟩
  | t :: ts => if ts.all (· == t) then .ok t else .error ⟨0x02, 0⟩

/-- Element i of width w, as its bits (R24). -/
def elem (d : Word) (w i : Nat) : Nat := d.toNat / 2 ^ (w * i) % 2 ^ w

/-- All elements in a tag's layout, element 0 first. -/
def elems (t : Tag) (d : Word) : List Nat := (List.range (tagCount t)).map (elem d (tagWidth t))

/-- The two's-complement value of w bits (R25). -/
def signed (w n : Nat) : Int := if n < 2 ^ (w - 1) then (n : Int) else (n : Int) - (2 : Int) ^ w

/-- The w bits of an integer (R25: arithmetic wraps modulo 2^w). -/
def wrap (w : Nat) (v : Int) : Nat := (v % (2 : Int) ^ w).toNat

/-- 64 data bits from elements of width w, element 0 first. -/
def ofElems (w : Nat) (es : List Nat) : Word := BitVec.ofNat 64 (es.foldr (fun e acc => e % 2 ^ w + 2 ^ w * acc) 0)

/-- Sat of R42 to a signed w-bit integer, as bits. -/
def satS (w : Nat) (v : Int) : Nat :=
  if v < -(2 : Int) ^ (w - 1) then wrap w (-(2 : Int) ^ (w - 1))
  else if v > (2 : Int) ^ (w - 1) - 1 then wrap w ((2 : Int) ^ (w - 1) - 1) else wrap w v

/-- Sat of R42 to an unsigned w-bit integer, as bits. -/
def satU (w : Nat) (v : Int) : Nat :=
  if v < 0 then 0 else if v > (2 : Int) ^ w - 1 then 2 ^ w - 1 else v.toNat

/-- Element-wise operation on two registers read in one layout (R73). -/
def zipElems (t : Tag) (f : Nat → Nat → Nat → Nat) (a b : Word) : Word :=
  ofElems (tagWidth t) ((elems t a).zipWith (f (tagWidth t)) (elems t b))

/-- Element-wise operation on one register. -/
def mapElems (t : Tag) (f : Nat → Nat → Nat) (a : Word) : Word :=
  ofElems (tagWidth t) ((elems t a).map (f (tagWidth t)))

/-- An immediate applied to every element: its low w bits (R45, R75). -/
def immElems (t : Tag) (v : Word) : Word :=
  ofElems (tagWidth t) (List.replicate (tagCount t) (v.toNat % 2 ^ tagWidth t))

/-- Sign extension of an immediate field to 64 bits (R52). -/
def sext {n : Nat} (v : BitVec n) : Word := v.signExtend 64

/-- Bits [lo + n - 1 : lo] of a number. -/
abbrev bitsOf (x lo n : Nat) : Nat := x / 2 ^ lo % 2 ^ n

/-- Bytes of a number, lowest address first (R3). -/
def bytesLE (n v : Nat) : List Byte := (List.range n).map fun i => BitVec.ofNat 8 (v / 2 ^ (8 * i))

/-- The number that bytes hold, lowest address first (R3). -/
def natLE : List Byte → Nat
  | [] => 0
  | b :: bs => b.toNat + 256 * natLE bs

/-- A little-endian field of n bytes at offset o. -/
def field (bs : List Byte) (o n : Nat) : Nat := natLE ((bs.drop o).take n)

/-- The lanes of a mask, ascending. -/
def lanesOf (m : BitVec 32) : List Nat := (List.range 32).filter m.getLsbD

/-- The mask of lanes. -/
def maskOf (ls : List Nat) : BitVec 32 := ls.foldl (fun m l => m ||| (1#32 <<< l)) 0#32

end Sys2Proof.Machine
end

