-- ==== Sys2Proof/Machine/Admit.lean ====
section
/-!
DEFINITION. Machine/Admit.lean: what issue reads off an instruction: the registers it reads and writes (R57, R111), and
where it may run: an enumerated region (R154, R238), a stream (R298), an INV routine (R166).
-/
namespace Sys2Proof.Machine

/-- The registers and mask bits an instruction reads (R57): codes as in RegWrite.dst; k0 (72) and z (62) name nothing. -/
def instrSrcs : Instr → List Nat
  | .addC b d => [d.toNat, b.toNat]
  | .subC b d => [d.toNat, b.toNat]
  | .andC b d => [d.toNat, b.toNat]
  | .orC b d => [d.toNat, b.toNat]
  | .xorC b d => [d.toNat, b.toNat]
  | .shliC _ d => [d.toNat]
  | .shriC _ d => [d.toNat]
  | .addiC _ d => [d.toNat]
  | .movC b _ => [b.toNat]
  | .faddC b d => [d.toNat, b.toNat]
  | .fmulC b d => [d.toNat, b.toNat]
  | .fmao b d => [d.toNat, 56, b.toNat]
  | .ld64C b _ => [b.toNat]
  | .st64C b d => [b.toNat, d.toNat]
  | .cmpltC b d => [d.toNat, b.toNat]
  | .add f => [f.a.toNat, f.b.toNat, 72 + f.g.toNat]
  | .sub f => [f.a.toNat, f.b.toNat, 72 + f.g.toNat]
  | .and f => [f.a.toNat, f.b.toNat, 72 + f.g.toNat]
  | .or f => [f.a.toNat, f.b.toNat, 72 + f.g.toNat]
  | .xor f => [f.a.toNat, f.b.toNat, 72 + f.g.toNat]
  | .andn f => [f.a.toNat, f.b.toNat, 72 + f.g.toNat]
  | .shl f => [f.a.toNat, f.b.toNat, 72 + f.g.toNat]
  | .shr f => [f.a.toNat, f.b.toNat, 72 + f.g.toNat]
  | .shrU f => [f.a.toNat, f.b.toNat, 72 + f.g.toNat]
  | .rol f => [f.a.toNat, f.b.toNat, 72 + f.g.toNat]
  | .mul f => [f.a.toNat, f.b.toNat, 72 + f.g.toNat]
  | .mulh f => [f.a.toNat, f.b.toNat, 72 + f.g.toNat]
  | .mulhU f => [f.a.toNat, f.b.toNat, 72 + f.g.toNat]
  | .min f => [f.a.toNat, f.b.toNat, 72 + f.g.toNat]
  | .minU f => [f.a.toNat, f.b.toNat, 72 + f.g.toNat]
  | .max f => [f.a.toNat, f.b.toNat, 72 + f.g.toNat]
  | .maxU f => [f.a.toNat, f.b.toNat, 72 + f.g.toNat]
  | .adds f => [f.a.toNat, f.b.toNat, 72 + f.g.toNat]
  | .addsU f => [f.a.toNat, f.b.toNat, 72 + f.g.toNat]
  | .subs f => [f.a.toNat, f.b.toNat, 72 + f.g.toNat]
  | .subsU f => [f.a.toNat, f.b.toNat, 72 + f.g.toNat]
  | .mov f => [f.a.toNat, 72 + f.g.toNat]
  | .fadd f => [f.a.toNat, f.b.toNat, 72 + f.g.toNat]
  | .fsub f => [f.a.toNat, f.b.toNat, 72 + f.g.toNat]
  | .fmul f => [f.a.toNat, f.b.toNat, 72 + f.g.toNat]
  | .fma f => [f.a.toNat, f.b.toNat, f.d.toNat, 72 + f.g.toNat]
  | .fnma f => [f.a.toNat, f.b.toNat, f.d.toNat, 72 + f.g.toNat]
  | .fmin f => [f.a.toNat, f.b.toNat, 72 + f.g.toNat]
  | .fmax f => [f.a.toNat, f.b.toNat, 72 + f.g.toNat]
  | .cmpeq f => [f.a.toNat, f.b.toNat, 72 + f.g.toNat]
  | .cmpne f => [f.a.toNat, f.b.toNat, 72 + f.g.toNat]
  | .cmplt f => [f.a.toNat, f.b.toNat, 72 + f.g.toNat]
  | .cmpltU f => [f.a.toNat, f.b.toNat, 72 + f.g.toNat]
  | .cmple f => [f.a.toNat, f.b.toNat, 72 + f.g.toNat]
  | .cmpleU f => [f.a.toNat, f.b.toNat, 72 + f.g.toNat]
  | .fcmpeq f => [f.a.toNat, f.b.toNat, 72 + f.g.toNat]
  | .fcmplt f => [f.a.toNat, f.b.toNat, 72 + f.g.toNat]
  | .fcmple f => [f.a.toNat, f.b.toNat, 72 + f.g.toNat]
  | .fcmpun f => [f.a.toNat, f.b.toNat, 72 + f.g.toNat]
  | .kand f => [72 + f.n.toNat, 72 + f.m.toNat, 72 + f.g.toNat]
  | .kor f => [72 + f.n.toNat, 72 + f.m.toNat, 72 + f.g.toNat]
  | .kxor f => [72 + f.n.toNat, 72 + f.m.toNat, 72 + f.g.toNat]
  | .kandn f => [72 + f.n.toNat, 72 + f.m.toNat, 72 + f.g.toNat]
  | .netmv f => [f.a.toNat, 72 + f.g.toNat]
  | .gatherb f => [f.a.toNat, f.b.toNat, 72 + f.g.toNat]
  | .compose f => [f.a.toNat, f.b.toNat, 72 + f.g.toNat]
  | .addi _ a _ => [a.toNat]
  | .andi _ a _ => [a.toNat]
  | .ori _ a _ => [a.toNat]
  | .xori _ a _ => [a.toNat]
  | .shli _ a _ => [a.toNat]
  | .shri _ a _ => [a.toNat]
  | .shriU _ a _ => [a.toNat]
  | .muli _ a _ => [a.toNat]
  | .cmpeqi _ a _ => [a.toNat]
  | .cmplti _ a _ => [a.toNat]
  | .cmpltiU _ a _ => [a.toNat]
  | .retag _ a _ => [a.toNat]
  | .swr _ a => [a.toNat]
  | .swrFrm a => [a.toNat]
  | .swrFflags a => [a.toNat]
  | .swrDraw a => [a.toNat]
  | .swrInj a => [a.toNat]
  | .jalr _ a _ => [a.toNat]
  | .ld8 q _ b _ => [(if q = 3 then 59 else 62), b.toNat]
  | .ld8U q _ b _ => [(if q = 3 then 59 else 62), b.toNat]
  | .ld16 q _ b _ => [(if q = 3 then 59 else 62), b.toNat]
  | .ld16U q _ b _ => [(if q = 3 then 59 else 62), b.toNat]
  | .ld32 q _ b _ => [(if q = 3 then 59 else 62), b.toNat]
  | .ld32U q _ b _ => [(if q = 3 then 59 else 62), b.toNat]
  | .ld64 q _ b _ => [(if q = 3 then 59 else 62), b.toNat]
  | .st8 q _ b d => [(if q = 3 then 59 else 62), b.toNat, d.toNat]
  | .st16 q _ b d => [(if q = 3 then 59 else 62), b.toNat, d.toNat]
  | .st32 q _ b d => [(if q = 3 then 59 else 62), b.toNat, d.toNat]
  | .st64 q _ b d => [(if q = 3 then 59 else 62), b.toNat, d.toNat]
  | .lea _ b _ => [b.toNat]
  | .bk _ k => [72 + k.toNat]
  | .bnk _ k => [72 + k.toNat]
  | .bz _ c => [c.toNat]
  | .bnz _ c => [c.toNat]
  | .div b a _ => [a.toNat, b.toNat]
  | .divU b a _ => [a.toNat, b.toNat]
  | .rem b a _ => [a.toNat, b.toNat]
  | .remU b a _ => [a.toNat, b.toNat]
  | .popc a _ => [a.toNat]
  | .clz a _ => [a.toNat]
  | .ctz a _ => [a.toNat]
  | .brev a _ => [a.toNat]
  | .bswap a _ => [a.toNat]
  | .abs a _ => [a.toNat]
  | .neg a _ => [a.toNat]
  | .ext b a _ => [a.toNat, b.toNat]
  | .extU b a _ => [a.toNat, b.toNat]
  | .ins b a d => [a.toNat, b.toNat, d.toNat]
  | .fdiv b a _ => [a.toNat, b.toNat]
  | .fsqrt _ a _ => [a.toNat]
  | .fabs a _ => [a.toNat]
  | .fneg a _ => [a.toNat]
  | .fcpys b a _ => [a.toNat, b.toNat]
  | .fclass a _ => [a.toNat]
  | .frint _ a _ => [a.toNat]
  | .cvtF64 _ _ a d => [a.toNat, d.toNat, 57]
  | .cvtF32 _ _ a d => [a.toNat, d.toNat, 57]
  | .cvtF16 _ _ a d => [a.toNat, d.toNat, 57]
  | .cvtBf16 _ _ a d => [a.toNat, d.toNat, 57]
  | .cvtE4m3 _ _ a d => [a.toNat, d.toNat, 57]
  | .cvtE5m2 _ _ a d => [a.toNat, d.toNat, 57]
  | .cvtE2m1 _ _ a d => [a.toNat, d.toNat, 57]
  | .cvtI64 _ _ a d => [a.toNat, d.toNat, 57]
  | .cvtI64U _ _ a d => [a.toNat, d.toNat, 57]
  | .cvtI32 _ _ a d => [a.toNat, d.toNat, 57]
  | .cvtI32U _ _ a d => [a.toNat, d.toNat, 57]
  | .cvtI16 _ _ a d => [a.toNat, d.toNat, 57]
  | .cvtI16U _ _ a d => [a.toNat, d.toNat, 57]
  | .cvtI8 _ _ a d => [a.toNat, d.toNat, 57]
  | .cvtI8U _ _ a d => [a.toNat, d.toNat, 57]
  | .pack b a _ => [a.toNat, b.toNat]
  | .unpackLo b a _ => [a.toNat, b.toNat]
  | .unpackHi b a _ => [a.toNat, b.toNat]
  | .voteAll m _ => [72 + m.toNat]
  | .voteAny m _ => [72 + m.toNat]
  | .ballot m _ => [72 + m.toNat]
  | .matchLanes a _ => [a.toNat]
  | .scanAdd a _ => [a.toNat]
  | .scanMin a _ => [a.toNat]
  | .scanMax a _ => [a.toNat]
  | .reduceAdd a _ => [a.toNat]
  | .reduceMin a _ => [a.toNat]
  | .reduceMax a _ => [a.toNat]
  | .setnet a _ => [a.toNat]
  | .fuse a => [a.toNat]
  | .barG a => [a.toNat]
  | .arriveG a => [a.toNat]
  | .waitG a => [a.toNat]
  | .scanMinU a _ => [a.toNat]
  | .scanMaxU a _ => [a.toNat]
  | .reduceMinU a _ => [a.toNat]
  | .reduceMaxU a _ => [a.toNat]
  | .reduceAnd a _ => [a.toNat]
  | .reduceOr a _ => [a.toNat]
  | .reduceXor a _ => [a.toNat]
  | .ldt _ _ b a _ => [a.toNat, b.toNat]
  | .aadd _ b a _ => [a.toNat, b.toNat, 59]
  | .aand _ b a _ => [a.toNat, b.toNat, 59]
  | .aor _ b a _ => [a.toNat, b.toNat, 59]
  | .axor _ b a _ => [a.toNat, b.toNat, 59]
  | .amin _ b a _ => [a.toNat, b.toNat, 59]
  | .aminU _ b a _ => [a.toNat, b.toNat, 59]
  | .amax _ b a _ => [a.toNat, b.toNat, 59]
  | .amaxU _ b a _ => [a.toNat, b.toNat, 59]
  | .axchg _ b a _ => [a.toNat, b.toNat, 59]
  | .acas _ b a d => [a.toNat, b.toNat, d.toNat, 59]
  | .afx _ b a => [a.toNat, b.toNat, 59]
  | .afxrd _ a _ => [a.toNat, 59]
  | .waitcrew a => [a.toNat]
  | .valloc b a _ => [a.toNat, b.toNat]
  | .vdup b a _ => [a.toNat, b.toNat, 57, 58]
  | .vsplit b a _ => [a.toNat, b.toNat]
  | .vnarrow b a _ => [a.toNat, b.toNat, 57, 58]
  | .vdrop a => [a.toNat]
  | .vquery b a _ => [a.toNat, b.toNat]
  | .vbound _ a _ => [a.toNat]
  | .enum b a _ => [a.toNat, b.toNat]
  | .enumOne b d => [b.toNat, d.toNat]
  | .merge _ a d => [a.toNat, d.toNat, d.toNat + 1, d.toNat + 2]
  | .endch a _ => [a.toNat]
  | .choose b a _ => [a.toNat, b.toNat]
  | .mmaQE4m3 _ a _ _ => [a.toNat]
  | .mmaQE5m2 _ a _ _ => [a.toNat]
  | .mmaQMxfp4 _ a _ _ => [a.toNat, 57]
  | .mmaQBf16 _ a _ _ => [a.toNat]
  | .mmaQI8 _ a _ _ => [a.toNat]
  | .bld _ a _ _ => [a.toNat]
  | .tzero a _ => [a.toNat]
  | .tld b a _ => [a.toNat, b.toNat]
  | .tst b a _ => [a.toNat, b.toNat]
  | .trd _ a _ => [a.toNat]
  | .mwait a => [a.toNat]
  | .gsub b a _ => [a.toNat, b.toNat]
  | .waitobj b a _ => [a.toNat, b.toNat]
  | .pollobj b a _ => [a.toNat, b.toNat]
  | .qcfg a _ => [a.toNat]
  | .qpush b a _ => [a.toNat, b.toNat]
  | .feed b a _ => [a.toNat, b.toNat]
  | .sloop _ d => [d.toNat]
  | .dqpush a => [a.toNat]
  | .dqsteal a _ => [a.toNat]
  | .inv _ k g i o => [i.toNat, g.toNat, o.toNat, 64 + k.toNat]
  | .invDec _ k g i o => [i.toNat, g.toNat, o.toNat, 64 + k.toNat]
  | .bset _ a => [a.toNat]
  | .bget k _ => [64 + k.toNat]
  | _ => []

/-- The registers and mask bits an instruction writes by name (R57). -/
def instrDsts : Instr → List Nat
  | .addC _ d => [d.toNat]
  | .subC _ d => [d.toNat]
  | .andC _ d => [d.toNat]
  | .orC _ d => [d.toNat]
  | .xorC _ d => [d.toNat]
  | .shliC _ d => [d.toNat]
  | .shriC _ d => [d.toNat]
  | .addiC _ d => [d.toNat]
  | .movC _ d => [d.toNat]
  | .faddC _ d => [d.toNat]
  | .fmulC _ d => [d.toNat]
  | .fmao _ d => [d.toNat]
  | .ld64C _ d => [d.toNat]
  | .cmpltC _ _ => [73]
  | .add f => [f.d.toNat]
  | .sub f => [f.d.toNat]
  | .and f => [f.d.toNat]
  | .or f => [f.d.toNat]
  | .xor f => [f.d.toNat]
  | .andn f => [f.d.toNat]
  | .shl f => [f.d.toNat]
  | .shr f => [f.d.toNat]
  | .shrU f => [f.d.toNat]
  | .rol f => [f.d.toNat]
  | .mul f => [f.d.toNat]
  | .mulh f => [f.d.toNat]
  | .mulhU f => [f.d.toNat]
  | .min f => [f.d.toNat]
  | .minU f => [f.d.toNat]
  | .max f => [f.d.toNat]
  | .maxU f => [f.d.toNat]
  | .adds f => [f.d.toNat]
  | .addsU f => [f.d.toNat]
  | .subs f => [f.d.toNat]
  | .subsU f => [f.d.toNat]
  | .mov f => [f.d.toNat]
  | .fadd f => [f.d.toNat]
  | .fsub f => [f.d.toNat]
  | .fmul f => [f.d.toNat]
  | .fma f => [f.d.toNat]
  | .fnma f => [f.d.toNat]
  | .fmin f => [f.d.toNat]
  | .fmax f => [f.d.toNat]
  | .cmpeq f => [72 + f.k.toNat]
  | .cmpne f => [72 + f.k.toNat]
  | .cmplt f => [72 + f.k.toNat]
  | .cmpltU f => [72 + f.k.toNat]
  | .cmple f => [72 + f.k.toNat]
  | .cmpleU f => [72 + f.k.toNat]
  | .fcmpeq f => [72 + f.k.toNat]
  | .fcmplt f => [72 + f.k.toNat]
  | .fcmple f => [72 + f.k.toNat]
  | .fcmpun f => [72 + f.k.toNat]
  | .kand f => [72 + f.k.toNat]
  | .kor f => [72 + f.k.toNat]
  | .kxor f => [72 + f.k.toNat]
  | .kandn f => [72 + f.k.toNat]
  | .netmv f => [f.d.toNat]
  | .gatherb f => [f.d.toNat]
  | .compose f => [f.d.toNat]
  | .addi _ _ d => [d.toNat]
  | .andi _ _ d => [d.toNat]
  | .ori _ _ d => [d.toNat]
  | .xori _ _ d => [d.toNat]
  | .shli _ _ d => [d.toNat]
  | .shri _ _ d => [d.toNat]
  | .shriU _ _ d => [d.toNat]
  | .muli _ _ d => [d.toNat]
  | .cmpeqi _ _ k => [72 + k.toNat]
  | .cmplti _ _ k => [72 + k.toNat]
  | .cmpltiU _ _ k => [72 + k.toNat]
  | .movi _ d => [d.toNat]
  | .retag _ _ d => [d.toNat]
  | .srd _ d => [d.toNat]
  | .jalr _ _ d => [d.toNat]
  | .ldhi _ d => [d.toNat]
  | .pcrel _ d => [d.toNat]
  | .ld8 _ _ _ d => [d.toNat]
  | .ld8U _ _ _ d => [d.toNat]
  | .ld16 _ _ _ d => [d.toNat]
  | .ld16U _ _ _ d => [d.toNat]
  | .ld32 _ _ _ d => [d.toNat]
  | .ld32U _ _ _ d => [d.toNat]
  | .ld64 _ _ _ d => [d.toNat]
  | .lea _ _ d => [d.toNat]
  | .call _ l => [l.toNat]
  | .div _ _ d => [d.toNat]
  | .divU _ _ d => [d.toNat]
  | .rem _ _ d => [d.toNat]
  | .remU _ _ d => [d.toNat]
  | .popc _ d => [d.toNat]
  | .clz _ d => [d.toNat]
  | .ctz _ d => [d.toNat]
  | .brev _ d => [d.toNat]
  | .bswap _ d => [d.toNat]
  | .abs _ d => [d.toNat]
  | .neg _ d => [d.toNat]
  | .ext _ _ d => [d.toNat]
  | .extU _ _ d => [d.toNat]
  | .ins _ _ d => [d.toNat]
  | .fdiv _ _ d => [d.toNat]
  | .fsqrt _ _ d => [d.toNat]
  | .fabs _ d => [d.toNat]
  | .fneg _ d => [d.toNat]
  | .fcpys _ _ d => [d.toNat]
  | .fclass _ d => [d.toNat]
  | .frint _ _ d => [d.toNat]
  | .cvtF64 _ _ _ d => [d.toNat]
  | .cvtF32 _ _ _ d => [d.toNat]
  | .cvtF16 _ _ _ d => [d.toNat]
  | .cvtBf16 _ _ _ d => [d.toNat]
  | .cvtE4m3 _ _ _ d => [d.toNat]
  | .cvtE5m2 _ _ _ d => [d.toNat]
  | .cvtE2m1 _ _ _ d => [d.toNat]
  | .cvtI64 _ _ _ d => [d.toNat]
  | .cvtI64U _ _ _ d => [d.toNat]
  | .cvtI32 _ _ _ d => [d.toNat]
  | .cvtI32U _ _ _ d => [d.toNat]
  | .cvtI16 _ _ _ d => [d.toNat]
  | .cvtI16U _ _ _ d => [d.toNat]
  | .cvtI8 _ _ _ d => [d.toNat]
  | .cvtI8U _ _ _ d => [d.toNat]
  | .pack _ _ d => [d.toNat]
  | .unpackLo _ _ d => [d.toNat]
  | .unpackHi _ _ d => [d.toNat]
  | .voteAll _ k => [72 + k.toNat]
  | .voteAny _ k => [72 + k.toNat]
  | .ballot _ d => [d.toNat]
  | .matchLanes _ d => [d.toNat]
  | .scanAdd _ d => [d.toNat]
  | .scanMin _ d => [d.toNat]
  | .scanMax _ d => [d.toNat]
  | .reduceAdd _ d => [d.toNat]
  | .reduceMin _ d => [d.toNat]
  | .reduceMax _ d => [d.toNat]
  | .fuse _ => [73]
  | .scanMinU _ d => [d.toNat]
  | .scanMaxU _ d => [d.toNat]
  | .reduceMinU _ d => [d.toNat]
  | .reduceMaxU _ d => [d.toNat]
  | .reduceAnd _ d => [d.toNat]
  | .reduceOr _ d => [d.toNat]
  | .reduceXor _ d => [d.toNat]
  | .ldt _ _ _ _ d => [d.toNat]
  | .aadd _ _ _ d => [d.toNat]
  | .aand _ _ _ d => [d.toNat]
  | .aor _ _ _ d => [d.toNat]
  | .axor _ _ _ d => [d.toNat]
  | .amin _ _ _ d => [d.toNat]
  | .aminU _ _ _ d => [d.toNat]
  | .amax _ _ _ d => [d.toNat]
  | .amaxU _ _ _ d => [d.toNat]
  | .axchg _ _ _ d => [d.toNat]
  | .acas _ _ _ d => [d.toNat]
  | .afxrd _ _ d => [d.toNat]
  | .valloc _ _ d => [d.toNat, 73]
  | .vdup _ _ d => [d.toNat, 73]
  | .vsplit _ _ d => [d.toNat, 73]
  | .vnarrow _ _ d => [d.toNat, 73]
  | .vquery _ _ d => [d.toNat]
  | .vbound _ _ d => [d.toNat]
  | .enum _ _ d => [d.toNat]
  | .enumOne _ d => [d.toNat]
  | .endch _ d => [d.toNat]
  | .choose _ _ d => [d.toNat, 73]
  | .trd _ _ d => [d.toNat]
  | .tver _ d => [d.toNat]
  | .mfence d => [d.toNat]
  | .gsub _ _ d => [d.toNat]
  | .waitobj _ _ d => [d.toNat]
  | .pollobj _ _ d => [d.toNat, 73]
  | .qpop _ d => [d.toNat]
  | .feed _ _ d => [d.toNat]
  | .sloop _ d => [d.toNat]
  | .dqpush _ => [73]
  | .dqpop d => [d.toNat, 73]
  | .dqsteal _ d => [d.toNat, 73]
  | .clk d => [d.toNat]
  | .rand d => [d.toNat]
  | .inv _ _ _ _ o => [o.toNat]
  | .invDec _ _ _ _ o => [o.toNat]
  | .bget _ d => [d.toNat]
  | _ => []

/-- What a lane may execute inside an enumerated region (R154, R238). -/
def instrInRegion : Instr → Bool
  | .addC .. | .subC .. | .andC .. | .orC .. | .xorC .. | .shliC .. | .shriC .. | .addiC .. | .movC .. | .faddC ..
  | .fmulC .. | .fmao .. | .ld64C .. | .st64C .. | .cmpltC .. | .nop .. | .add .. | .sub .. | .and .. | .or ..
  | .xor .. | .andn .. | .shl .. | .shr .. | .shrU .. | .rol .. | .mul .. | .mulh .. | .mulhU .. | .min ..
  | .minU .. | .max .. | .maxU .. | .adds .. | .addsU .. | .subs .. | .subsU .. | .mov .. | .fadd .. | .fsub ..
  | .fmul .. | .fma .. | .fnma .. | .fmin .. | .fmax .. | .cmpeq .. | .cmpne .. | .cmplt .. | .cmpltU ..
  | .cmple .. | .cmpleU .. | .fcmpeq .. | .fcmplt .. | .fcmple .. | .fcmpun .. | .kand .. | .kor .. | .kxor ..
  | .kandn .. | .addi .. | .andi .. | .ori .. | .xori .. | .shli .. | .shri .. | .shriU .. | .muli .. | .cmpeqi ..
  | .cmplti .. | .cmpltiU .. | .movi .. | .retag .. | .srd .. | .jalr .. | .ldhi .. | .pcrel .. | .ld8 ..
  | .ld8U .. | .ld16 .. | .ld16U .. | .ld32 .. | .ld32U .. | .ld64 .. | .st8 .. | .st16 .. | .st32 .. | .st64 ..
  | .bra .. | .bk .. | .bnk .. | .bz .. | .bnz .. | .call .. | .div .. | .divU .. | .rem .. | .remU .. | .popc ..
  | .clz .. | .ctz .. | .brev .. | .bswap .. | .abs .. | .neg .. | .ext .. | .extU .. | .ins .. | .fdiv ..
  | .fsqrt .. | .fabs .. | .fneg .. | .fcpys .. | .fclass .. | .frint .. | .cvtF64 .. | .cvtF32 .. | .cvtF16 ..
  | .cvtBf16 .. | .cvtE4m3 .. | .cvtE5m2 .. | .cvtE2m1 .. | .cvtI64 .. | .cvtI64U .. | .cvtI32 .. | .cvtI32U ..
  | .cvtI16 .. | .cvtI16U .. | .cvtI8 .. | .cvtI8U .. | .pack .. | .unpackLo .. | .unpackHi .. | .split ..
  | .rejoin .. | .merge .. | .endch .. | .clk .. | .rand .. | .inv .. | .invDec .. | .bset .. | .bget .. => true
  | .ldt q .. => q == 0 || q == 3
  | _ => false

/-- What a stream may execute (R298). -/
def instrInStream : Instr → Bool
  | .addC .. | .subC .. | .andC .. | .orC .. | .xorC .. | .shliC .. | .shriC .. | .addiC .. | .movC .. | .ld64C ..
  | .nop .. | .add .. | .sub .. | .and .. | .or .. | .xor .. | .andn .. | .shl .. | .shr .. | .shrU .. | .rol ..
  | .mul .. | .mulh .. | .mulhU .. | .min .. | .minU .. | .max .. | .maxU .. | .adds .. | .addsU .. | .subs ..
  | .subsU .. | .mov .. | .addi .. | .andi .. | .ori .. | .xori .. | .shli .. | .shri .. | .shriU .. | .muli ..
  | .movi .. | .retag .. | .ldhi .. | .pcrel .. | .lea .. | .pack .. | .unpackLo .. | .unpackHi .. | .exit
  | .qpush .. | .sloop .. => true
  | .ld8 q .. | .ld8U q .. | .ld16 q .. | .ld16U q .. | .ld32 q .. | .ld32U q .. | .ld64 q .. | .ldt q .. => q == 0 || q == 3
  | .cvtF64 _ m .. | .cvtF32 _ m .. | .cvtF16 _ m .. | .cvtBf16 _ m .. | .cvtE4m3 _ m .. | .cvtE5m2 _ m ..
  | .cvtE2m1 _ m .. | .cvtI64 _ m .. | .cvtI64U _ m .. | .cvtI32 _ m .. | .cvtI32U _ m .. | .cvtI16 _ m ..
  | .cvtI16U _ m .. | .cvtI8 _ m .. | .cvtI8U _ m .. => m != 4
  | _ => false

/-- What may stand in an INV routine (R166): the destination the instruction writes, none for NOP; no entry for what may
not stand there. -/
def instrRoutineDst (i : Instr) : Option (List Nat) :=
  match i with
  | .addC .. | .subC .. | .andC .. | .orC .. | .xorC .. | .shliC .. | .shriC .. | .addiC .. | .movC .. | .faddC ..
  | .fmulC .. | .fmao .. | .nop .. | .add .. | .sub .. | .and .. | .or .. | .xor .. | .andn .. | .shl .. | .shr ..
  | .shrU .. | .rol .. | .mul .. | .mulh .. | .mulhU .. | .min .. | .minU .. | .max .. | .maxU .. | .adds ..
  | .addsU .. | .subs .. | .subsU .. | .mov .. | .fadd .. | .fsub .. | .fmul .. | .fma .. | .fnma .. | .fmin ..
  | .fmax .. | .addi .. | .andi .. | .ori .. | .xori .. | .shli .. | .shri .. | .shriU .. | .muli .. | .movi ..
  | .retag .. | .ldhi .. | .pcrel .. | .div .. | .divU .. | .rem .. | .remU .. | .popc .. | .clz .. | .ctz ..
  | .brev .. | .bswap .. | .abs .. | .neg .. | .ext .. | .extU .. | .ins .. | .fdiv .. | .fsqrt .. | .fabs ..
  | .fneg .. | .fcpys .. | .fclass .. | .frint .. | .cvtF64 .. | .cvtF32 .. | .cvtF16 .. | .cvtBf16 ..
  | .cvtE4m3 .. | .cvtE5m2 .. | .cvtE2m1 .. | .cvtI64 .. | .cvtI64U .. | .cvtI32 .. | .cvtI32U .. | .cvtI16 ..
  | .cvtI16U .. | .cvtI8 .. | .cvtI8U .. | .pack .. | .unpackLo .. | .unpackHi .. => some (instrDsts i)
  | _ => none

end Sys2Proof.Machine
end

