-- ==== Sys2Proof/Machine/Flags.lean ====
section
/-!
DEFINITION. Machine/Flags.lean: the floating-point formats of R26-R33 with their exact values, rounding and the flags it
raises (R36-R42), float to integer, FX128, and the order of values.
-/
namespace Sys2Proof.Machine

/-- The exception flags of R15: NX, UF, OF, DZ, NV in bits 0 to 4. -/
abbrev Flags := BitVec 5
abbrev flagNX : Flags := 1
abbrev flagUF : Flags := 2
abbrev flagOF : Flags := 4
abbrev flagDZ : Flags := 8
abbrev flagNV : Flags := 16

/-- The floating-point formats of R26. -/
inductive Fmt
  | b64 | b32 | b16 | bf16 | e4m3 | e5m2 | e2m1 | acc48
  deriving DecidableEq, Repr

/-- Width of the exponent field (R26). -/
def Fmt.ebits : Fmt → Nat
  | .b64 => 11 | .b32 => 8 | .b16 => 5 | .bf16 => 8 | .e4m3 => 4 | .e5m2 => 5 | .e2m1 => 2 | .acc48 => 10

/-- Width of the fraction field (R26). -/
def Fmt.fbits : Fmt → Nat
  | .b64 => 52 | .b32 => 23 | .b16 => 10 | .bf16 => 7 | .e4m3 => 3 | .e5m2 => 2 | .e2m1 => 1 | .acc48 => 37

/-- Exponent bias (R26). -/
def Fmt.bias : Fmt → Int
  | .b64 => 1023 | .b32 => 127 | .b16 => 15 | .bf16 => 127 | .e4m3 => 7 | .e5m2 => 15 | .e2m1 => 1 | .acc48 => 511

/-- Width of the whole encoding (R26). -/
def Fmt.bits (f : Fmt) : Nat := 1 + f.ebits + f.fbits

/-- Formats with an infinity (R26). -/
def Fmt.hasInf : Fmt → Bool
  | .e4m3 | .e2m1 => false
  | _ => true

/-- The canonical NaN (R29); E2M1 has none and takes +0 (R38). -/
def Fmt.nan : Fmt → Nat
  | .b64 => 0x7FF8000000000000 | .b32 => 0x7FC00000 | .b16 => 0x7E00 | .bf16 => 0x7FC0 | .e4m3 => 0x7F | .e5m2 => 0x7E
  | .e2m1 => 0 | .acc48 => 0x7FF000000000

/-- +Infinity (R29). -/
def Fmt.inf : Fmt → Nat
  | .b64 => 0x7FF0000000000000 | .b32 => 0x7F800000 | .b16 => 0x7C00 | .bf16 => 0x7F80 | .e4m3 => 0x7F | .e5m2 => 0x7C
  | .e2m1 => 0x7 | .acc48 => 0x7FE000000000

/-- The positive maximum finite encoding (R29). -/
def Fmt.max : Fmt → Nat
  | .b64 => 0x7FEFFFFFFFFFFFFF | .b32 => 0x7F7FFFFF | .b16 => 0x7BFF | .bf16 => 0x7F7F | .e4m3 => 0x7E | .e5m2 => 0x7B
  | .e2m1 => 0x7 | .acc48 => 0x7FDFFFFFFFFF

/-- An encoding with its sign. -/
def Fmt.signedEnc (f : Fmt) (neg : Bool) (mag : Nat) : Nat := if neg then 2 ^ (f.bits - 1) + mag else mag

/-- An exact value: NaN (signalling or not), an infinity, or a sign with the magnitude n / d * 2^e; d is not 0. -/
inductive FVal
  | nan (sig : Bool)
  | inf (neg : Bool)
  | fin (neg : Bool) (n d : Nat) (e : Int)
  deriving DecidableEq, Repr

/-- The value of an encoding (R27, R29). -/
def Fmt.decode (f : Fmt) (x : Nat) : FVal :=
  let neg := x / 2 ^ (f.bits - 1) % 2 == 1
  let ex := x / 2 ^ f.fbits % 2 ^ f.ebits
  let fr := x % 2 ^ f.fbits
  let top := ex + 1 == 2 ^ f.ebits
  if top && f.hasInf then
    if fr = 0 then .inf neg
    else .nan (match f with
      | .b64 | .b32 | .b16 | .bf16 => fr / 2 ^ (f.fbits - 1) == 0
      | _ => false)
  else if top && f == .e4m3 && fr == 7 then .nan false
  else if ex = 0 then
    if f = .acc48 then .fin neg 0 1 0 else .fin neg fr 1 (1 - f.bias - f.fbits)
  else .fin neg (2 ^ f.fbits + fr) 1 ((ex : Int) - f.bias - f.fbits)

/-- The rounding modes of R36. -/
inductive Rm
  | rne | rtz | rdn | rup | sr
  deriving DecidableEq, Repr

/-- The mode of an RM code (R16); 5 to 7 are reserved and never stored. -/
def rmOf (n : Nat) : Rm :=
  match n with
  | 1 => .rtz | 2 => .rdn | 3 => .rup | 4 => .sr | _ => .rne

/-- Arithmetic other than a conversion reads SR as RNE (R17, R36). -/
def Rm.plain : Rm → Rm
  | .sr => .rne
  | m => m

/-- The integer part of a quotient, rounded under a mode (R36, R37): `neg` is the sign, `rnd` the 16 bits of SR. -/
def roundQuot (neg : Bool) (num den : Nat) (m : Rm) (rnd : Nat) : Nat :=
  let q := num / den
  let r := num % den
  if r = 0 then q else
  match m with
  | .rne => if 2 * r > den || (2 * r == den && q % 2 == 1) then q + 1 else q
  | .rtz => q
  | .rdn => if neg then q + 1 else q
  | .rup => if neg then q else q + 1
  | .sr =>
    -- lo and hi are taken by value: for a negative x the upper neighbour is the one nearer zero
    let d := if neg then (den - r) * 65536 / den else r * 65536 / den
    if d + rnd ≥ 65536 then (if neg then q else q + 1) else (if neg then q + 1 else q)

/-- n / d * 2^e as a quotient in units of 2^q. -/
def scaleQuot (n d : Nat) (e q : Int) : Nat × Nat :=
  if e ≥ q then (n * 2 ^ (e - q).toNat, d) else (n, d * 2 ^ (q - e).toNat)

/-- The binade of a magnitude that is not 0: the k with 2^k ≤ n / d * 2^e < 2^(k+1). -/
def binade (n d : Nat) (e : Int) : Int :=
  let l : Int := (Nat.log2 n : Int) - (Nat.log2 d : Int)
  let (num, den) := scaleQuot n d 0 l
  e + (if num ≥ den then l else l - 1)

/-- a * 2^p < b * 2^q for natural significands. -/
def dyadicLt (a : Nat) (p : Int) (b : Nat) (q : Int) : Bool :=
  if p ≥ q then a * 2 ^ (p - q).toNat < b else a < b * 2 ^ (q - p).toNat

/-- Encode of R38: r * 2^q with r at most 2^(fbits+1), at the format's spacing. -/
def Fmt.encode (f : Fmt) (neg : Bool) (r : Nat) (q : Int) : Nat :=
  let (r, q) := if r ≥ 2 ^ (f.fbits + 1) then (r / 2, q + 1) else (r, q)
  if r < 2 ^ f.fbits then f.signedEnc neg r
  else f.signedEnc neg ((q + f.fbits + f.bias).toNat * 2 ^ f.fbits + (r - 2 ^ f.fbits))

/-- Round of R38. `sat` is the .SATF choice of R39; the mode is one of R36, already read as RNE where R17 and R36 say so. -/
def Fmt.round (f : Fmt) (v : FVal) (m : Rm) (sat : Bool) (rnd : Nat) : Nat × Flags :=
  match v with
  | .nan sig => if f = .e2m1 then (0, flagNV) else (f.nan, if sig then flagNV else 0)
  | .inf neg =>
    if f.hasInf then (f.signedEnc neg f.inf, 0)
    else if f == .e2m1 || sat then (f.signedEnc neg f.max, flagNV)
    else (f.nan, flagNV)
  | .fin neg n d e =>
    if n = 0 then (f.signedEnc neg 0, 0) else
    let k := binade n d e
    let emin : Int := 1 - f.bias
    let qu : Int := k - f.fbits
    let q : Int := if f = .acc48 then qu else (if k < emin then emin else k) - f.fbits
    let (num, den) := scaleQuot n d e q
    let r := roundQuot neg num den m rnd
    let nx := num % den != 0
    let big := match f.decode f.max with
      | .fin _ mn _ me => dyadicLt mn me r q
      | _ => false
    if big then
      let fl := flagOF ||| flagNX
      if f == .e2m1 || ((f == .e4m3 || f == .e5m2) && sat) then (f.signedEnc neg f.max, fl)
      else if m == .rne || m == .sr || (m == .rup && !neg) || (m == .rdn && neg) then
        if f.hasInf then (f.signedEnc neg f.inf, fl) else (f.nan, fl)
      else (f.signedEnc neg f.max, fl)
    else if f == .acc48 && dyadicLt r q 1 emin then (f.signedEnc neg 0, flagUF ||| flagNX)
    else
      let (unum, uden) := scaleQuot n d e qu
      let tiny := nx && dyadicLt (roundQuot neg unum uden m rnd) qu 1 emin
      (f.encode neg r q, (if nx then flagNX else 0) ||| (if tiny then flagUF else 0))

/-- A signed dyadic as an exact value; `negZero` is the sign of a zero. -/
def dyadic (m : Int) (e : Int) (negZero : Bool) : FVal :=
  .fin (if m = 0 then negZero else m < 0) m.natAbs 1 e

/-- The signed significand of a finite value with d = 1. -/
def sigOf (neg : Bool) (n : Nat) : Int := if neg then -(n : Int) else n

/-- Exact sum of two dyadics. -/
def addDyadic (m₁ : Int) (e₁ : Int) (m₂ : Int) (e₂ : Int) : Int × Int :=
  if e₁ ≥ e₂ then (m₁ * 2 ^ (e₁ - e₂).toNat + m₂, e₂) else (m₁ + m₂ * 2 ^ (e₂ - e₁).toNat, e₁)

/-- A NaN among the inputs is signalling (R29). -/
def FVal.isSig : FVal → Bool
  | .nan s => s
  | _ => false

def FVal.isNan : FVal → Bool
  | .nan _ => true
  | _ => false

def FVal.negate : FVal → FVal
  | .nan s => .nan s
  | .inf n => .inf (!n)
  | .fin n a d e => .fin (!n) a d e

/-- NaN inputs give the canonical NaN, and NV only when one is signalling (R81). -/
def nanOf (f : Fmt) (vs : List FVal) (invalid : Bool) : Nat × Flags :=
  (f.nan, if invalid || vs.any FVal.isSig then flagNV else 0)

/-- x + y in one rounding (R80, R81): opposite infinities are invalid, an exact zero of opposite signs is +0, under RDN −0. -/
def Fmt.add (f : Fmt) (m : Rm) (x y : FVal) : Nat × Flags :=
  match x, y with
  | .nan _, _ | _, .nan _ => nanOf f [x, y] false
  | .inf a, .inf b => if a = b then (f.signedEnc a f.inf, 0) else nanOf f [] true
  | .inf a, .fin .. => (f.signedEnc a f.inf, 0)
  | .fin .., .inf b => (f.signedEnc b f.inf, 0)
  | .fin sx nx _ ex, .fin sy ny _ ey =>
    let (s, e) := addDyadic (sigOf sx nx) ex (sigOf sy ny) ey
    f.round (dyadic s e (if sx = sy then sx else m == .rdn)) m false 0

/-- x × y in one rounding (R80, R81). -/
def Fmt.mul (f : Fmt) (m : Rm) (x y : FVal) : Nat × Flags :=
  match x, y with
  | .nan _, _ | _, .nan _ => nanOf f [x, y] false
  | .inf a, .inf b => (f.signedEnc (a != b) f.inf, 0)
  | .inf a, .fin b n _ _ | .fin b n _ _, .inf a => if n = 0 then nanOf f [] true else (f.signedEnc (a != b) f.inf, 0)
  | .fin sx nx _ ex, .fin sy ny _ ey => f.round (.fin (sx != sy) (nx * ny) 1 (ex + ey)) m false 0

/-- d + x × y in one rounding; 0 × ∞ is invalid whatever d holds (R80, R81). -/
def Fmt.fma (f : Fmt) (m : Rm) (d x y : FVal) : Nat × Flags :=
  let bad : Bool := match x, y with
    | .inf _, .fin _ n _ _ | .fin _ n _ _, .inf _ => n == 0
    | _, _ => false
  if bad || d.isNan || x.isNan || y.isNan then nanOf f [d, x, y] bad else
  let prod : FVal := match x, y with
    | .fin sx nx _ ex, .fin sy ny _ ey => .fin (sx != sy) (nx * ny) 1 (ex + ey)
    | .inf a, .inf b | .inf a, .fin b .. | .fin b .., .inf a => .inf (a != b)
    | _, _ => .nan false
  f.add m d prod

/-- x ÷ y (R82). -/
def Fmt.div (f : Fmt) (m : Rm) (x y : FVal) : Nat × Flags :=
  match x, y with
  | .nan _, _ | _, .nan _ => nanOf f [x, y] false
  | .inf _, .inf _ => nanOf f [] true
  | .inf a, .fin b .. => (f.signedEnc (a != b) f.inf, 0)
  | .fin a .., .inf b => (f.signedEnc (a != b) 0, 0)
  | .fin sx nx _ ex, .fin sy ny _ ey =>
    if ny = 0 then if nx = 0 then nanOf f [] true else (f.signedEnc (sx != sy) f.inf, flagDZ)
    else f.round (.fin (sx != sy) nx ny (ex - ey)) m false 0

/-- The integer square root, by trying bits from 2^k down. -/
def isqrtFrom (n : Nat) : Nat → Nat → Nat
  | 0, r => r
  | k + 1, r => isqrtFrom n k (if (r + 2 ^ k) * (r + 2 ^ k) ≤ n then r + 2 ^ k else r)

/-- √x (R82). The root is taken to 64 bits; where it is not exact, half a unit more stands for the rest, which no
rounding of R36 to at most 53 bits can tell apart. -/
def Fmt.sqrt (f : Fmt) (m : Rm) (x : FVal) : Nat × Flags :=
  match x with
  | .nan _ => nanOf f [x] false
  | .inf neg => if neg then nanOf f [] true else (f.inf, 0)
  | .fin neg n _ e =>
    if n = 0 then (f.signedEnc neg 0, 0) else if neg then nanOf f [] true else
    let (n, e) := if e % 2 = 0 then (n, e) else (2 * n, e - 1)
    let big := n * 2 ^ 128
    let r := isqrtFrom big 96 0
    let h : Int := e / 2 - 64
    if r * r = big then f.round (.fin false r 1 h) m false 0 else f.round (.fin false (2 * r + 1) 1 (h - 1)) m false 0

/-- Value order of two values that are not NaN: x < y (−0 and +0 are equal). -/
def FVal.lt (x y : FVal) : Bool :=
  match x, y with
  | .inf a, .inf b => a && !b
  | .inf a, .fin .. => a
  | .fin .., .inf b => !b
  | .fin sx nx _ ex, .fin sy ny _ ey => (addDyadic (sigOf sx nx) ex (-(sigOf sy ny)) ey).1 < 0
  | _, _ => false

/-- Value equality; false with a NaN. -/
def FVal.eq (x y : FVal) : Bool := !x.isNan && !y.isNan && !x.lt y && !y.lt x

/-- The sign of a value; NaN counts as positive. -/
def FVal.neg : FVal → Bool
  | .nan _ => false
  | .inf n => n
  | .fin n .. => n

/-- minimumNumber and maximumNumber on encodings (R80, R81): `mx` asks for the greater. −0 is below +0. -/
def Fmt.minmax (f : Fmt) (mx : Bool) (a b : Nat) : Nat × Flags :=
  let x := f.decode a
  let y := f.decode b
  let fl : Flags := if x.isSig || y.isSig then flagNV else 0
  if x.isNan then (if y.isNan then f.nan else b, fl)
  else if y.isNan then (a, fl)
  else
    let less := x.lt y || (x.eq y && x.neg && !y.neg)
    (if less then (if mx then b else a) else (if mx then a else b), fl)

/-- A finite value rounded to an integer under a mode. -/
def roundInt (neg : Bool) (n d : Nat) (e : Int) (m : Rm) : Int :=
  let (num, den) := scaleQuot n d e 0
  sigOf neg (roundQuot neg num den m 0)

/-- Float to integer (R41): Sat to w bits; NV where it clamps or the source is NaN or infinite; NX where inexact. -/
def toInt (w : Nat) (u : Bool) (m : Rm) (v : FVal) : Nat × Flags :=
  let lo : Int := if u then 0 else -(2 : Int) ^ (w - 1)
  let hi : Int := if u then (2 : Int) ^ w - 1 else (2 : Int) ^ (w - 1) - 1
  match v with
  | .nan _ => (0, flagNV)
  | .inf neg => (wrap w (if neg then lo else hi), flagNV)
  | .fin neg n d e =>
    let r := roundInt neg n d e m
    if r < lo then (wrap w lo, flagNV)
    else if r > hi then (wrap w hi, flagNV)
    else
      let (num, den) := scaleQuot n d e 0
      (wrap w r, if num % den != 0 then flagNX else 0)

/-- FRINT: an integral value in the value's own format; only a signalling NaN raises a flag (R82). -/
def Fmt.rint (f : Fmt) (m : Rm) (x : FVal) (enc : Nat) : Nat × Flags :=
  match x with
  | .nan _ => nanOf f [x] false
  | .inf _ => (enc, 0)
  | .fin neg n d e =>
    let r := (roundInt neg n d e m).natAbs
    ((f.round (.fin neg r 1 0) .rne false 0).1, 0)

/-- FCLASS of R83. -/
def FVal.fclass (f : Fmt) (x : FVal) (enc : Nat) : Nat :=
  match x with
  | .nan sig => if sig then 2 ^ 8 else 2 ^ 9
  | .inf neg => if neg then 1 else 2 ^ 7
  | .fin neg n _ _ =>
    if n = 0 then if neg then 2 ^ 3 else 2 ^ 4
    else if enc / 2 ^ f.fbits % 2 ^ f.ebits = 0 then if neg then 2 ^ 2 else 2 ^ 5
    else if neg then 2 ^ 1 else 2 ^ 6

/-- ToFX of R33 for a finite value: 128 bits. -/
def toFX (v : FVal) : Nat :=
  match v with
  | .fin neg n d e => wrap 128 (roundInt neg n d (e + 64) .rne)
  | _ => 0

/-- FromFX of R33. -/
def fromFX (cell : Nat) : Nat × Flags := Fmt.b64.round (dyadic (signed 128 cell) (-64) false) .rne false 0

/-- The element format of a float tag. -/
def fmtOf : Tag → Fmt
  | .f64 => .b64 | .f32x2 => .b32 | .bf16x4 => .bf16 | .f16x4 => .b16 | .e4m3x8 => .e4m3 | .e5m2x8 => .e5m2
  | .e2m1x16 => .e2m1 | _ => .b64

/-- Element-wise float result with the flags of all elements. -/
def floatElems (t : Tag) (rs : List (Nat × Flags)) : Word × Flags :=
  (ofElems (tagWidth t) (rs.map (·.1)), rs.foldl (fun fl r => fl ||| r.2) 0)

/-- Key of R43; `f32` selects the F32 domain. -/
def keyOf (f32 : Bool) (v : Nat) : Nat :=
  if !f32 || v / 2 ^ 31 % 2 == 0 then v ^^^ 0x80000000 else 0xFFFFFFFF - v

/-- KeyInv of R43. -/
def keyInv (f32 : Bool) (k : Nat) : Nat :=
  if !f32 || k / 2 ^ 31 % 2 == 1 then k ^^^ 0x80000000 else 0xFFFFFFFF - k

end Sys2Proof.Machine
end

