-- ==== Sys2Proof/Machine/Ops.lean ====
section
/-!
DEFINITION. Machine/Ops.lean: the named operations over State: squads, threads, crews, launches and cores; reading and
writing a thread's registers and mask bits (R9, R10, R57); taking a trap (R303, R305) and the return from it; the
skeleton that every instruction runs in (R22, R23, R71).
-/
namespace Sys2Proof.Machine

/-! ### Places of the state -/

/-- The bind record of core c, record n (R318). -/
abbrev recordKey (core rec : Nat) : Nat := core * 17 + rec

/-- The core of a bind record, and the number of the record on it. -/
abbrev coreOf (q : Nat) : Nat := q / 17
abbrev recordOf (q : Nat) : Nat := q % 17

/-- Bytes of a squad's context image (R178, R318): the 238 lines of registers stand at its beginning (DESIGN CHOICE, log 14). -/
abbrev imageBytesOf : Nat := 16384

/-- The key of a crew: its launch and index. -/
abbrev crewKey (lid crew : Nat) : Nat := lid * 4294967296 + crew

def State.squad? (s : State) (q : Nat) : Option Squad := SMap.get none s.squads q

/-- The squad of a record; an empty record reads as a squad without threads. -/
def State.squad (s : State) (q : Nat) : Squad := (s.squad? q).getD {}

def State.setSquad (s : State) (q : Nat) (v : Squad) : State := { s with squads := SMap.set none s.squads q (some v) }

/-- The record is freed (R118, R324). -/
def State.freeRecord (s : State) (q : Nat) : State := { s with squads := SMap.set none s.squads q none }

/-- A change of the squad of a record; nothing where the record is empty. -/
def State.modSquad (s : State) (q : Nat) (f : Squad → Squad) : State :=
  match s.squad? q with
  | none => s
  | some sq => s.setSquad q (f sq)

def Squad.thread (sq : Squad) (l : Nat) : Thread := SMap.get {} sq.threads l

def Squad.setThread (sq : Squad) (l : Nat) (t : Thread) : Squad := { sq with threads := SMap.set {} sq.threads l t }

def State.thread (s : State) (q l : Nat) : Thread := (s.squad q).thread l

def State.setThread (s : State) (q l : Nat) (t : Thread) : State := s.modSquad q fun sq => sq.setThread l t

def State.modThread (s : State) (q l : Nat) (f : Thread → Thread) : State := s.setThread q l (f (s.thread q l))

def State.launch? (s : State) (lid : Nat) : Option Launch := SMap.get none s.launches lid

def State.launchOf (s : State) (lid : Nat) : Launch := (s.launch? lid).getD {}

def State.setLaunch (s : State) (lid : Nat) (l : Launch) : State :=
  { s with launches := SMap.set none s.launches lid (some l) }

def State.modLaunch (s : State) (lid : Nat) (f : Launch → Launch) : State :=
  match s.launch? lid with
  | none => s
  | some l => s.setLaunch lid (f l)

def State.job? (s : State) (j : Nat) : Option Job := SMap.get none s.jobs j

def State.setJob (s : State) (j : Nat) (v : Option Job) : State := { s with jobs := SMap.set none s.jobs j v }

def State.crewOf (s : State) (lid c : Nat) : Crew := SMap.get {} s.crews (crewKey lid c)

def State.setCrew (s : State) (lid c : Nat) (v : Crew) : State := { s with crews := SMap.set {} s.crews (crewKey lid c) v }

def State.modCrew (s : State) (lid c : Nat) (f : Crew → Crew) : State := s.setCrew lid c (f (s.crewOf lid c))

def State.coreAt (s : State) (n : Nat) : Core := SMap.get {} s.cores n

def State.setCore (s : State) (n : Nat) (v : Core) : State := { s with cores := SMap.set {} s.cores n v }

def State.modCore (s : State) (n : Nat) (f : Core → Core) : State := s.setCore n (f (s.coreAt n))

/-- The squad's name apart from where it is bound. -/
def Squad.ref (sq : Squad) : SquadRef := ⟨sq.lid, sq.crew, sq.num⟩

/-- The lanes whose threads have not exited. -/
def Squad.liveLanes (sq : Squad) : List Nat := (List.range 32).filter fun l => (sq.thread l).live

def Squad.liveMask (sq : Squad) : BitVec 32 := maskOf sq.liveLanes

/-- The records that hold a squad or a stream, with what they hold, in ascending order. -/
def State.records (s : State) : List (Nat × Squad) :=
  s.squads.filterMap fun (q, o) => o.map fun sq => (q, sq)

/-- The record of a squad that is bound, by launch, crew and squad number (16: the stream). -/
def State.recordFor (s : State) (r : SquadRef) : Option Nat :=
  (s.records.find? fun (_, sq) => sq.ref == r).map (·.1)

/-- The bound records of a crew. -/
def State.crewRecords (s : State) (lid c : Nat) : List (Nat × Squad) :=
  s.records.filter fun (_, sq) => sq.lid == lid && sq.crew == c

/-- A free value: the counter's number is used up (free value, log 9). -/
def State.drawFree (s : State) : State × Nat := ({ s with freeCtr := s.freeCtr + 1 }, s.freeCtr)

/-- `len` free bytes under number n of the counter (free value, log 9). -/
def freeList (n len : Nat) : List Byte := (List.range len).map fun i => Config.freeByte (n * 16777216 + i)

/-- Something that the module sends, after what it has sent before. -/
def State.note (s : State) (r : Sent) : State := { s with io := { s.io with sent := s.io.sent ++ [r] } }

/-! ### Regions (R147, R154, R156) -/

/-- The chunk a squad belongs to. -/
def Crew.chunkOf (c : Crew) (num : Nat) : Option Chunk :=
  c.chunks.find? fun ch => decide (ch.gbase ≤ num) && decide (num ≤ ch.gbase + ch.gsize)

/-- HOLDSTAT.REGION of a squad: 0 none, 1 ENUM, 2 ENUM.ONE, 3 pending (R156). -/
def State.region (s : State) (sq : Squad) : Nat :=
  match (s.crewOf sq.lid sq.crew).chunkOf sq.num with
  | none => 0
  | some ch => if ch.pending then 3 else if ch.one then 2 else 1

/-! ### The context of one thread's instruction -/

/-- What an instruction of one thread sees beside the thread: where and when it issues, the launch's MODE bits and seed,
its place (R110), its region, and its SIG and stamp as they stood before the instruction. `routine` marks an INV routine, which issues
interlocked and reads SR as RNE (R169). -/
structure Ctx where
  q : Nat := 0
  lane : Nat := 0
  set : BitVec 32 := 0
  pc : Word := 0
  now : Nat := 0
  slot : Nat := 0
  ilk : Bool := true
  chk : Bool := false
  det : Bool := false
  lid : Nat := 0
  crew : Nat := 0
  num : Nat := 0
  seed : Word := 0
  region : Nat := 0
  sig0 : BitVec 32 := 0
  stamp0 : Nat := 0
  routine : Bool := true
  deriving DecidableEq, Repr

/-- The context of lane l of the executing issue set. -/
def State.ctx (s : State) (l : Nat) : Ctx :=
  let sq := s.squad s.cur.q
  let la := s.launchOf sq.lid
  { q := s.cur.q, lane := l, set := s.cur.lanes, pc := s.cur.pc, now := s.cur.at_, slot := s.cur.slot, ilk := la.ilk, chk := la.chk,
    det := la.det, lid := sq.lid, crew := sq.crew, num := sq.num, seed := la.seed, region := s.region sq,
    sig0 := (sq.thread l).sig, stamp0 := (sq.thread l).stamp, routine := false }

/-- The squad of a context, as the party of its accesses. -/
def Ctx.ref (cx : Ctx) : SquadRef := ⟨cx.lid, cx.crew, cx.num⟩

/-! ### Registers and mask bits -/

/-- Latency of a result: cycles (R56), or scoreboarded; `mem n`: scoreboarded, and the value that load number n returns. -/
inductive Lat
  | cycles (n : Nat)
  | sb
  | mem (n : Nat)
  deriving DecidableEq, Repr

abbrev latInt : Lat := .cycles 2
abbrev latFp : Lat := .cycles 4
abbrev latNet : Lat := .cycles 8
abbrev latMap : Lat := .cycles 16

/-- The first write to a place that a read issued now comes too early for (R57): in scheduled mode only, and never a
scoreboarded one, since its readers wait. -/
def Thread.early (t : Thread) (cx : Ctx) (dst : Nat) : Option RegWrite :=
  if cx.ilk || cx.routine then none
  else t.pend.find? fun w => w.dst == dst && !w.sb && decide (cx.now < w.due)

/-- A register read (R8, R9, R57). -/
def Thread.read (t : Thread) (cx : Ctx) (c : RegCode) : Except Trap Reg :=
  if c = 62 then .ok Reg.zero else
  match t.early cx c.toNat with
  | none => .ok (SMap.get Reg.zero t.regs c.toNat)
  | some w => if cx.chk then .error ⟨0x0B, 0⟩ else .ok w.old

/-- The thread's bit of kn as an instruction reads it; k0 reads 1 (R89, R57). -/
def Thread.readK (t : Thread) (cx : Ctx) (k : Nat) : Except Trap Bool :=
  if k = 0 then .ok true else
  match t.early cx (72 + k) with
  | none => .ok (t.k.getLsbD k)
  | some w => if cx.chk then .error ⟨0x0B, 0⟩ else .ok (w.old.data == 1)

/-- The landing cycle of a write: not before an earlier write to the same place (R57). -/
def Thread.dueFor (t : Thread) (dst at_ : Nat) : Nat :=
  (t.pend.filter (·.dst == dst)).foldl (fun m w => max m w.due) at_

/-- The load whose value a register holds, as long as a write that brought it is under way (R223). -/
def Thread.srcOf (t : Thread) (c : Nat) : Option Nat := (t.pend.filter (·.dst == c)).getLast?.bind (·.src)

/-- The record of a write that is under way (R57). -/
def Thread.outstanding (t : Thread) (cx : Ctx) (dst : Nat) (old : Reg) (lat : Lat) (src : Option Nat := none) : List RegWrite :=
  if cx.routine then t.pend else
  match lat with
  | .sb | .mem _ => t.pend ++ [{ dst, old, due := t.dueFor dst (cx.now + 1), sb := true, iss := cx.now, src }]
  | .cycles n => t.pend ++ [{ dst, old, due := t.dueFor dst (cx.now + n), sb := false, iss := cx.now, src }]

/-- One place written (no z here). -/
def Thread.put (t : Thread) (cx : Ctx) (c : Nat) (v : Reg) (lat : Lat) (src : Option Nat := none) : Thread :=
  { t with regs := SMap.set Reg.zero t.regs c v, pend := t.outstanding cx c (SMap.get Reg.zero t.regs c) lat src }

/-- The load that a latency names. -/
def Lat.src : Lat → Option Nat
  | .mem n => some n
  | _ => none

/-- WriteReg of R72: z discards; e1 takes the value alone; e0 shifts into e1; a main or operand-file register is written
with the last-result shift (R9, R10). -/
def Thread.write (t : Thread) (cx : Ctx) (d : RegCode) (v : Reg) (lat : Lat) : Thread :=
  if d = 62 then t
  else if d = 61 then t.put cx 61 v lat lat.src
  else
    let t' := (t.put cx 61 (SMap.get Reg.zero t.regs 60) lat (t.srcOf 60)).put cx 60 v lat lat.src
    if d = 60 then t' else t'.put cx d.toNat v lat lat.src

/-- A register written at the end of a wait, in a cycle: like every result of a wait instruction it is scoreboarded (R56, R57). -/
def Thread.writeAt (t : Thread) (now : Nat) (d : RegCode) (v : Reg) : Thread := t.write { now := now, routine := false } d v .sb

/-- The writes under way when load n returns another value: what stood in a place while the load's value was its newest is that value. `held`: the places
that hold the load's value. -/
def refill (n : Nat) (v : Reg) : List RegWrite → List Nat → List RegWrite × List Nat
  | [], held => ([], held)
  | w :: ws, held =>
    let r := refill n v ws (if w.src = some n then w.dst :: held else held.filter (· != w.dst))
    ((if held.contains w.dst then { w with old := v } else w) :: r.1, r.2)

/-- The places that hold the value of load n. -/
def Thread.holding (t : Thread) (n : Nat) : List Nat := (refill n Reg.zero t.pend []).2

/-- Load n of the thread returns a value: every place that holds what it returned before (R10, R223). -/
def Thread.reload (t : Thread) (n : Nat) (v : Reg) : Thread :=
  { t with
    pend := (refill n v t.pend []).1
    regs := (t.holding n).foldl (fun m c => SMap.set Reg.zero m c v) t.regs }

/-- The thread's bit of kn written. -/
def Thread.writeK (t : Thread) (cx : Ctx) (k : Nat) (b : Bool) (lat : Lat) : Thread :=
  { t with
    k := if b then t.k ||| (1#8 <<< k) else t.k &&& ~~~(1#8 <<< k)
    pend := t.outstanding cx (72 + k) ⟨if t.k.getLsbD k then 1 else 0, .raw64⟩ lat }

/-- Flags raised by an instruction that completes (R15). -/
def Thread.raise (t : Thread) (fl : Flags) : Thread := { t with fflags := t.fflags ||| fl }

/-- Outstanding writes that have landed by a cycle are forgotten; scoreboarded ones land by their event, and a later write to the same place after them (R57). -/
def Thread.settle (t : Thread) (now : Nat) : Thread :=
  { t with pend := t.pend.filter fun w => w.sb || decide (now < w.due) || t.pend.any fun x => x.sb && x.dst == w.dst }

/-- A stop point whose end is not timed: the outstanding writes have landed by then, each in its own time (R57). -/
def Thread.landAll (t : Thread) : Thread := { t with pend := [] }

/-- The cycle by which the writes of some lanes that land by the clock have landed (R57). -/
def Squad.landsBy (sq : Squad) (ls : List Nat) : Nat :=
  ls.foldl (fun m l => ((sq.thread l).pend.filter fun w => !w.sb).foldl (fun m w => max m w.due) m) 0

/-- A thread that becomes ready after a stop point issues nothing before a cycle, so that it reads landed values; a scoreboarded write holds the instruction that names
its place (R57, R116). -/
def Thread.holdTill (t : Thread) (at_ : Nat) : Thread := { t with readyAt := max t.readyAt at_ }

/-! ### Signature and advance -/

/-- rotl32(S, 5) XOR w, times 0x9E37_79B1 (R340). -/
def sigHash (s w : BitVec 32) : BitVec 32 := ((s <<< 5 ||| s >>> 27) ^^^ w) * 0x9E3779B1#32

/-- The signature word of an instruction: its 32-bit word, or the C-form halfword (R340). -/
def sigWord (i : Instr) : BitVec 32 := BitVec.ofNat 32 (encode i)

/-- What an instruction does to every thread of its issue set before its own effect: the PC moves on (R22), the word
enters SIG (R340), and the thread has issued (R56, R113). -/
def Thread.advance (t : Thread) (cx : Ctx) (i : Instr) (stall : Nat) : Thread :=
  { t.settle cx.now with
    pc := cx.pc + BitVec.ofNat 64 i.len
    sig := sigHash t.sig (sigWord i)
    stamp := cx.slot
    readyAt := cx.now + 1 + (if cx.ilk then 0 else stall) }

/-- A thread that its instruction leaves waiting: the PC stays at the instruction, and SIG does not take its word in yet
(R111, R340); the stamp it had is kept, because a trap of the instruction changes none (R303). `t` has been advanced. -/
def Thread.waitAt (t : Thread) (cx : Ctx) (i : Instr) (w : Wait) : Thread :=
  { t with pc := cx.pc, sig := cx.sig0, word := sigWord i, wait := w, prior := cx.stamp0, since := cx.now }

/-- A waiting thread becomes ready at its next instruction, and its wait instruction has completed (R116, R340). -/
def Thread.release (t : Thread) (stamp : Nat) : Thread :=
  { t with pc := t.pc + 4, sig := sigHash t.sig t.word, word := 0, wait := .run, stamp := stamp, prior := 0, since := 0 }

/-- A waiting thread goes back to before its wait instruction, to execute it again: a trap of it changes no stamp (R111, R303). -/
def Thread.unwait (t : Thread) : Thread := { t with wait := .run, word := 0, stamp := t.prior, prior := 0, since := 0 }

/-- The stamp of a thread that is released: the number of the squad's last slot, or in deterministic mode the stamp it held when it began to wait
(R113, R116, R124). A release between two slots of the squad, by another squad's action or by an event, takes the last one's number: R113 does not say which
(DESIGN CHOICE, log 26). -/
def State.releaseStamp (s : State) (sq : Squad) (t : Thread) : Nat :=
  if (s.launchOf sq.lid).det then t.stamp else sq.slot - 1

/-- The stamp of a thread that a REJOIN releases: where an EXIT or a TAIL has left it to be released, the number of the squad's next slot (R116, R131). -/
def State.rejoinStamp (s : State) (sq : Squad) (t : Thread) : Nat :=
  if (s.launchOf sq.lid).det then t.stamp else if sq.rejoins then sq.slot else sq.slot - 1

/-- Threads of a record are released. -/
def State.releaseLanes (s : State) (q : Nat) (ls : List Nat) : State :=
  ls.foldl (fun st l => st.modThread q l fun t => t.release (s.releaseStamp (s.squad q) t)) s

/-- A taken branch, CALL or JALR: the PC moves to the target and SIG restarts (R90, R91, R340). -/
def Thread.goto (t : Thread) (target : Word) : Thread := { t with pc := target, sig := 0 }

/-! ### Traps -/

/-- The squad steps for a debugger (R313). -/
def SquadStatus.isStep : SquadStatus → Bool
  | .stepping _ | .stepped .. => true
  | _ => false

/-- The squad of a record stops at a trap (R303, R305): TCAUSE, TLANES, TADDR and TEPC are written; outstanding writes
land; an INV between two steps is given up, to start again at its prefix (R174); nothing of the squad issues until Driene has acted (R306). -/
def State.takeTrap (s : State) (q : Nat) (cause : Nat) (lanes : BitVec 32) (addr epc : Word) : State :=
  s.modSquad q fun sq => { sq with
    tcause := BitVec.ofNat 64 (cause + (if recordOf q = 16 then 256 else 0) + (if sq.status.isStep then 512 else 0))
    tlanes := lanes.zeroExtend 64
    taddr := addr
    tepc := epc
    brkCode := if cause = 0x21 then some (addr.truncate 6) else none
    invs := []
    status := .trapped
    threads := sq.threads.map fun (l, t) => (l, t.landAll) }

/-- Return from a trap: the squad issues again from its saved PCs and stamps (R309, R312). -/
def State.resume (s : State) (q : Nat) : State := s.modSquad q fun sq => { sq with status := .running }

/-- A lane of an ENUM region stops at a suppressed trap, or with another code of R155, and is parked (R154). -/
def State.park (s : State) (q l : Nat) (code : BitVec 8) : State :=
  s.modThread q l fun t => { t with wait := .parked, lstop := code }

/-- An instruction that cannot be fetched or decoded: the trap of its whole issue set, or in an ENUM region the stop of its
lanes (R22, R48, R154). -/
def State.fetchTrap (s : State) (c : Cur) (t : Trap) : State :=
  let sq := s.squad c.q
  if s.region sq = 1 && decide (1 ≤ t.cause) && decide (t.cause ≤ 9) then
    (lanesOf c.lanes).foldl (fun st l => st.park c.q l (BitVec.ofNat 8 t.cause)) s
  else s.takeTrap c.q t.cause c.lanes t.addr c.pc

/-! ### The skeleton of an instruction -/

/-- The thread's guard: none, or its bit of k1, k2 or k3 (R55). -/
def Thread.guardOn (t : Thread) (cx : Ctx) (g : BitVec 2) : Except Trap Bool := t.readK cx g.toNat

/-- May the instruction run where the lane stands (R154, R164, R298)? -/
def admitted (cx : Ctx) (i : Instr) : Bool :=
  (recordOf cx.q != 16 || instrInStream i) && (!(cx.region == 1 || cx.region == 2) || instrInRegion i)

/-- One lane of an instruction: the checks of R22 in their order, then its effect where the guard holds. -/
def State.laneStep (s : State) (i : Instr) (g : BitVec 2) (stall : Nat) (f : Ctx → State → Except Trap State) (l : Nat) :
    Except Trap State :=
  let cx := s.ctx l
  let t := s.thread cx.q l
  if admitted cx i then
    match t.guardOn cx g with
    | .error e => .error e
    | .ok on =>
      let s' := s.setThread cx.q l (t.advance cx i stall)
      if on then f cx s' else .ok s'
  else .error ⟨0x01, 0⟩

/-- A trap that an ENUM region suppresses (R154). -/
def suppressed (cx : Ctx) (t : Trap) : Bool := cx.region == 1 && decide (1 ≤ t.cause) && decide (t.cause ≤ 9)

/-- The lanes of an issue set in ascending order; the traps they meet are collected. -/
def State.runLanes (i : Instr) (g : BitVec 2) (stall : Nat) (f : Ctx → State → Except Trap State) :
    List Nat → State → List (Nat × Trap) → State × List (Nat × Trap)
  | [], s, ts => (s, ts)
  | l :: ls, s, ts =>
    match s.laneStep i g stall f l with
    | .ok s' => State.runLanes i g stall f ls s' ts
    | .error t =>
      if suppressed (s.ctx l) t then
        State.runLanes i g stall f ls (s.park s.cur.q l (BitVec.ofNat 8 t.cause)) ts
      else State.runLanes i g stall f ls s (ts ++ [(l, t)])

/-- The lanes that a trap names: those that fail with the cause of the lowest failing lane; an undersized stall names the
whole issue set (R23, R57). -/
def trapLanes (s : State) (t : Trap) (ts : List (Nat × Trap)) : BitVec 32 :=
  if t.cause = 0x0B then s.cur.lanes else maskOf ((ts.filter fun x => x.2.cause == t.cause).map (·.1))

/-- An instruction whose threads act one by one: done whole, or a trap that undoes it whole (R22, R23, R71). -/
def State.execLanes (s : State) (i : Instr) (g : BitVec 2) (stall : Nat) (f : Ctx → State → Except Trap State) : State :=
  match State.runLanes i g stall f (lanesOf s.cur.lanes) s [] with
  | (s', []) => s'
  | (_, (l, t) :: ts) => s.takeTrap s.cur.q t.cause (trapLanes s t ((l, t) :: ts)) t.addr s.cur.pc

/-- The effect of one thread on itself alone, as an effect on the state. -/
def onThread (f : Ctx → Thread → Except Trap Thread) (cx : Ctx) (s : State) : Except Trap State :=
  match f cx (s.thread cx.q cx.lane) with
  | .error e => .error e
  | .ok t => .ok (s.setThread cx.q cx.lane t)

/-- An instruction that changes nothing but the threads of its issue set. -/
def State.execThread (s : State) (i : Instr) (g : BitVec 2) (stall : Nat) (f : Ctx → Thread → Except Trap Thread) : State :=
  s.execLanes i g stall (onThread f)

/-- The lanes whose guard is true, or the trap of the guards read too early (R55, R57). -/
def State.activeLanes (s : State) (g : BitVec 2) : Except Trap (List Nat) :=
  (lanesOf s.cur.lanes).filterM fun l => (s.thread s.cur.q l).guardOn (s.ctx l) g

/-- Every thread of the issue set advances past the instruction. -/
def State.advanceAll (s : State) (i : Instr) (stall : Nat) : State :=
  (lanesOf s.cur.lanes).foldl (fun st l => st.setThread s.cur.q l ((s.thread s.cur.q l).advance (s.ctx l) i stall)) s

/-- A failing check of a set of lanes: the trap and the lanes it names. -/
abbrev SetTrap := Trap × BitVec 32

/-- An instruction that its issue set performs together (R127, R128): `f` is given the state with every thread advanced,
the state before, and the active lanes. -/
def State.execSet (s : State) (i : Instr) (g : BitVec 2) (stall : Nat)
    (f : State → State → List Nat → Except SetTrap State) : State :=
  if admitted (s.ctx 0) i then
    match s.activeLanes g with
    | .error e => s.takeTrap s.cur.q e.cause s.cur.lanes e.addr s.cur.pc
    | .ok act =>
      match f (s.advanceAll i stall) s act with
      | .ok s' => s'
      | .error (t, m) => s.takeTrap s.cur.q t.cause (if t.cause = 0x0B then s.cur.lanes else m) t.addr s.cur.pc
  else if (s.ctx 0).region = 1 then
    (lanesOf s.cur.lanes).foldl (fun st l => st.park s.cur.q l 1) s
  else s.takeTrap s.cur.q 0x01 s.cur.lanes 0 s.cur.pc

/-- Per-lane checks of a set: the values, or the cause of the lowest failing lane with the lanes that share it (R23). -/
def gatherLanes (act : List Nat) (f : Nat → Except Trap α) : Except SetTrap (List (Nat × α)) :=
  let rs := act.map fun l => (l, f l)
  let bad := rs.filterMap fun (l, r) => match r with | .error t => some (l, t) | .ok _ => none
  match bad with
  | [] => .ok (rs.filterMap fun (l, r) => match r with | .ok v => some (l, v) | .error _ => none)
  | (_, t) :: _ => .error (t, maskOf ((bad.filter fun x => x.2.cause == t.cause).map (·.1)))

/-- CommonTag of R128: one accepted tag over all active lanes; POISON is a machine check of the lanes that hold it. -/
def commonTag (ok : Tag → Bool) (vs : List (Nat × Reg)) : Except SetTrap Tag :=
  let pois := (vs.filter fun v => v.2.tag == .poison).map (·.1)
  if pois ≠ [] then .error (⟨0x11, 0⟩, maskOf pois) else
  match vs with
  | [] => .ok .raw64
  | (_, r) :: _ =>
    if ok r.tag then
      let odd := (vs.filter fun v => v.2.tag != r.tag).map (·.1)
      if odd = [] then .ok r.tag else .error (⟨0x02, 0⟩, maskOf odd)
    else .error (⟨0x02, 0⟩, maskOf (vs.map (·.1)))

end Sys2Proof.Machine
end

