-- ==== Sys2Proof/Machine/Memory.lean ====
section
/-!
DEFINITION. Machine/Memory.lean: translation (R185, R186), the checks of an access (R93, R182, R192, R200), loads, stores
and the landing of writes (R94, R187, R194, R217-R225, R334, R345), error banks (R333), instruction fetch (R21, R22, R47).
-/
namespace Sys2Proof.Machine

/-! ### Page tables -/

def Leaf.key (l : Leaf) : Nat := bitsOf l.raw 56 8
def Leaf.ord (l : Leaf) : Nat := bitsOf l.raw 54 2
def Leaf.cls (l : Leaf) : Nat := bitsOf l.raw 52 2
def Leaf.home (l : Leaf) : Nat := bitsOf l.raw 49 3
def Leaf.frame (l : Leaf) : Nat := bitsOf l.raw 12 36 * 4096
def Leaf.size (l : Leaf) : Nat := bitsOf l.raw 9 3
def Leaf.bit (l : Leaf) (n : Nat) : Bool := bitsOf l.raw n 1 == 1

/-- Bytes of a page by its SIZE code (R185). -/
def pageBytes : Nat → Nat
  | 0 => 4096
  | 1 => 65536
  | 2 => 2097152
  | 3 => 67108864
  | _ => 2147483648

/-- Entries in the replicated group of a leaf by its SIZE code (R185). -/
def groupLen : Nat → Nat
  | 1 => 16
  | 3 => 32
  | 4 => 2
  | _ => 1

/-- What a walk finds: no valid leaf, an ill-formed entry (R186), or a leaf. -/
inductive Walk
  | none
  | bad
  | leaf (l : Leaf)
  deriving DecidableEq, Repr

/-- Eight bytes of DRAM as a number. -/
def dramWord (m : Memory) (a : Nat) : Nat := natLE (m.readBytes a 8)

/-- Does a leaf's SIZE fit the level (R185)? Levels: 0 is L0. -/
def sizeFits (lvl size : Nat) : Bool :=
  match lvl with
  | 0 => size == 0 || size == 1
  | 1 => size == 2 || size == 3
  | 2 => size == 4
  | _ => false

/-- A leaf entry found at index `i` of a table of level `lvl`: well-formed or not (R186). A FRAME that reaches past the 768 GiB of DRAM that the module has (R2) counts as
ill-formed: R186 does not list it, and the spec names no outcome for it (DESIGN CHOICE, log 76). -/
def checkLeaf (m : Memory) (lvl tbl i raw : Nat) : Walk :=
  let l : Leaf := ⟨0, raw⟩
  let n := groupLen l.size
  let first := tbl + 8 * (i - i % n)
  if sizeFits lvl l.size && l.ord != 3 && l.cls != 3 && decide (l.home < 5) && !l.bit 48 && !l.bit 6
      && l.frame % pageBytes l.size == 0 && decide (l.frame + pageBytes l.size ≤ Config.dramBytes) && (List.range n).all fun k => dramWord m (first + 8 * k) == raw
  then .leaf ⟨first, raw⟩ else .bad

/-- What stands at a table of level `lvl` for an address: nothing, an ill-formed entry, a leaf, or the next table (R185). -/
def walkStep (m : Memory) (va lvl tbl : Nat) : Walk × Option Nat :=
  let i := bitsOf va (12 + 9 * lvl) (if lvl = 4 then 8 else 9)
  let raw := dramWord m (tbl + 8 * i)
  if raw % 2 = 0 then (.none, none)
  else if bitsOf raw 1 1 = 1 then (checkLeaf m lvl tbl i raw, none)
  else if bitsOf raw 48 16 = 0 && bitsOf raw 2 10 = 0 then (.bad, some (bitsOf raw 12 36 * 4096))
  else (.bad, none)

/-- The walk from a table, through as many levels as are left; L0 holds leaves only (R185). -/
def walkFrom (m : Memory) (va : Nat) : Nat → Nat → Walk
  | 0, tbl => (walkStep m va 0 tbl).1
  | lvl + 1, tbl =>
    match walkStep m va (lvl + 1) tbl with
    | (_, some next) => walkFrom m va lvl next
    | (w, none) => w

/-- The five-level walk of a job's tree (R185). -/
def walk (m : Memory) (root va : Nat) : Walk := walkFrom m va 4 root

/-- A shootdown under way that covers an address (R195). -/
def State.staleFor (s : State) (job va : Nat) : Option Stale :=
  s.mem.stale.find? fun st => st.job == job && decide (st.va ≤ va) && decide (va < st.va + st.size)

/-- The translation an access uses: while a shootdown is under way, the old entry or the new one, freely (R195). `pick`
numbers the access. -/
def State.translate (s : State) (j : Job) (va pick : Nat) : Walk :=
  match s.staleFor j.num va with
  | none => walk s.mem.dram j.root va
  | some st =>
    if Config.freeNat pick % 2 = 1 then
      if st.entry.toNat % 2 = 0 then .none else .leaf ⟨0, st.entry.toNat⟩
    else walk s.mem.dram j.root va

/-- The physical address of a byte under a leaf. -/
def Leaf.pa (l : Leaf) (va : Nat) : Nat := l.frame + va % pageBytes l.size

/-! ### Checks of an access -/

/-- What an access needs of its page (R186, R247). -/
inductive Need
  | load
  | store
  | atomic
  | atomicRead
  | fetch
  deriving DecidableEq, Repr

/-- The rights of R186. -/
def Leaf.grants (l : Leaf) : Need → Bool
  | .load => l.bit 2
  | .store => l.bit 3
  | .atomic => l.bit 2 && l.bit 3 && l.bit 4
  | .atomicRead => l.bit 2 && l.bit 4
  | .fetch => l.bit 5

/-- [a, a + n) lies in one of the pieces. -/
def within (ps : List (Nat × Nat)) (a n : Nat) : Bool :=
  ps.any fun (b, len) => decide (b ≤ a) && decide (a + n ≤ b + len)

def rangePieces (rs : List Range) : List (Nat × Nat) := rs.map fun r => (r.base, r.length)

/-- The launches of a job that still hold leases. -/
def State.jobLaunches (s : State) (job : Nat) : List Launch :=
  s.launches.filterMap fun (_, o) => match o with
    | some l => if l.job == job && l.status != .ended then some l else none
    | none => none

/-- The covered ranges of a job (R200). -/
def State.coveredRanges (s : State) (job : Nat) : List Range :=
  (s.jobLaunches job).flatMap fun l => l.ranges.filter (·.cls == 1)

/-- The address lies in a covered range of the job. -/
def State.isCovered (s : State) (job va : Nat) : Bool :=
  (s.coveredRanges job).any fun r => decide (r.base ≤ va) && decide (va < r.base + r.length)

/-- Outside the lease of the launch (R191, R192): its ranges, and read-only its tables, DONE object and sections, of which the
text and stream sections are executable. -/
def Launch.outsideLease (l : Launch) (nd : Need) (a n : Nat) : Bool :=
  !(within (rangePieces l.ranges) a n || (nd == .load && within l.leaseRO a n) || (nd == .fetch && within l.leaseX a n))

/-- Window 0x00 (R93, R182, R186, R189, R192, R200): covered range, mapping and rights, alignment, lease, key slot. -/
def State.resolveGlobal (s : State) (la : Launch) (view : Bool) (nd : Need) (addr : Word) (size pick : Nat) : Except Trap Loc :=
  let va := addr.toNat
  match s.job? la.job with
  | none => .error ⟨0x03, addr⟩
  | some j =>
    if !view && s.isCovered la.job va then .error ⟨0x06, addr⟩
    else if 2 ^ 56 < va + size then .error ⟨0x03, addr⟩ else
    match s.translate j va pick, s.translate j (va + size - 1) pick with
    | .bad, _ | _, .bad => .error ⟨0x11, addr⟩
    | .none, _ | _, .none => .error ⟨0x03, addr⟩
    | .leaf l, .leaf l' =>
      if !(l.grants nd && l'.grants nd) then .error ⟨0x03, addr⟩
      else if va % size ≠ 0 then .error ⟨0x07, addr⟩
      else if la.outsideLease nd va size then .error ⟨0x04, addr⟩
      else if SMap.get 0 s.mem.keys l.key = 0 then .error ⟨0x11, addr⟩
      else .ok (.dram (l.pa va) (SMap.get 0 s.mem.keys l.key) j.num va l)

/-- Check of R93 for a thread of a crew: the windows of R20 and R182 with their bounds. -/
def State.resolve (s : State) (cx : Ctx) (view : Bool) (nd : Need) (addr : Word) (size : Nat) : Except Trap Loc :=
  let la := s.launchOf cx.lid
  let off := addr.toNat % 2 ^ 56
  match addr.toNat / 2 ^ 56 with
  | 0 => s.resolveGlobal la view nd addr size (s.freeCtr * 64 + cx.lane)
  | 1 =>
    let m := off / 2 ^ 20
    let o := off % 2 ^ 20
    if m < la.gang && decide (o + size ≤ la.scratch) then
      if addr.toNat % size ≠ 0 then .error ⟨0x07, addr⟩
      else .ok (.scratch cx.lid (cx.crew - cx.crew % la.gang + m) o)
    else .error ⟨0x03, addr⟩
  | 2 =>
    if off + size ≤ la.stack && recordOf cx.q != 16 then
      if addr.toNat % size ≠ 0 then .error ⟨0x07, addr⟩ else .ok (.stack off)
    else .error ⟨0x03, addr⟩
  | _ => .error ⟨0x03, addr⟩

/-! ### Views (R200) -/

/-- The fields of a handle (R35). -/
def hIndex (h : Word) : Nat := bitsOf h.toNat 0 20
def hGen (h : Word) : Nat := bitsOf h.toNat 20 20
def hRegion (h : Word) : Nat := bitsOf h.toNat 40 16
def hRights (h : Word) : BitVec 7 := BitVec.ofNat 7 (bitsOf h.toNat 56 7)

/-- Rights of a view by bit (R35, R199): RD, WR, AT, DS, NA, DR, EN. -/
abbrev vRD : BitVec 7 := 1
abbrev vWR : BitVec 7 := 2
abbrev vAT : BitVec 7 := 4
abbrev vDS : BitVec 7 := 8
abbrev vNA : BitVec 7 := 16
abbrev vDR : BitVec 7 := 32
abbrev vEN : BitVec 7 := 64

/-- The covered range of the launch's lease that a region number names (R200). -/
def Launch.coveredRegion (l : Launch) (region : Nat) : Option Range :=
  l.ranges.find? fun r => r.cls == 1 && r.arg.toNat % 65536 == region

/-- A handle resolved up to the generation check (R200, R201). -/
def State.resolveView (s : State) (la : Launch) (h : Word) : Except Trap View :=
  if h.getLsbD 63 then .error ⟨0x05, 0⟩ else
  let e := SMap.get {} s.mem.views (hIndex h)
  if (la.coveredRegion (hRegion h)).isNone then .error ⟨0x04, 0⟩
  else if !e.live || e.gen.toNat ≠ hGen h || e.region.toNat ≠ hRegion h then .error ⟨0x06, 0⟩
  else .ok e

/-- ViewCheck of R200 up to the final check: the address named. -/
def State.viewAddr (s : State) (la : Launch) (h : Word) (off : Int) (size : Nat) (rights : BitVec 7) : Except Trap Word :=
  match s.resolveView la h with
  | .error t => .error t
  | .ok e =>
    let addr := e.cbase + BitVec.ofInt 64 off
    if (hRights h &&& e.rights) &&& rights ≠ rights then .error ⟨0x05, addr⟩
    else if off < 0 || off + size > e.clen then .error ⟨0x05, addr⟩
    else if off < e.lo || off + size > e.hi then .error ⟨0x06, addr⟩
    else .ok addr

/-- The rights an access needs of a view (R200, R247). -/
def Need.viewRights : Need → BitVec 7
  | .load => vRD
  | .store => vWR
  | .atomic => vRD ||| vWR ||| vAT
  | .atomicRead => vRD ||| vAT
  | .fetch => 0

/-- A view-relative access resolved whole (R200). -/
def State.resolveV (s : State) (cx : Ctx) (h : Reg) (off : Int) (nd : Need) (size : Nat) : Except Trap Loc :=
  if h.tag ≠ .view then .error ⟨0x02, 0⟩ else
  match s.viewAddr (s.launchOf cx.lid) h.data off size nd.viewRights with
  | .error t => .error t
  | .ok addr => s.resolve cx true nd addr size

/-! ### Bytes -/

/-- The place of a location that is not a stack slice. -/
def Loc.place : Loc → Option Place
  | .dram pa key _ _ _ => some (.dram pa key)
  | .scratch l c o => some (.scratch l c o)
  | .stack _ => none

/-- The place n bytes on. -/
def Place.plus (p : Place) (n : Nat) : Place :=
  match p with
  | .dram pa key => .dram (pa + n) key
  | .scratch l c o => .scratch l c (o + n)

/-- The 64-byte line of a place, whatever the key. -/
def Place.line : Place → Place
  | .dram pa _ => .dram (pa / 64 * 64) 0
  | .scratch l c o => .scratch l c (o / 64 * 64)

/-- The key under which a line of DRAM was last written (R189); 0 where it belongs to no mapped frame. -/
def State.lineKey (s : State) (line : Nat) : Nat :=
  match SMap.get 0 s.mem.lineKeys line with
  | 0 => ((s.mem.frameKeys.find? fun f => decide (f.1 ≤ line * 64) && decide (line * 64 < f.1 + f.2.1)).map (·.2.2)).getD 0
  | k => k

/-- The 64 bytes that a line written under key k shows under another key: data written under another key is decrypted to something else, which the
spec does not state (R189, log 64). -/
def State.rekeyed (s : State) (k key line : Nat) : List Byte :=
  let bs := Config.rekey k key line (s.mem.dram.readBytes (line * 64) 64)
  (List.range 64).map fun i => (bs[i]?).getD 0

/-- A byte of DRAM as an access under a key sees it (R189). -/
def State.dramByte (s : State) (pa key : Nat) : Byte :=
  let k := s.lineKey (pa / 64)
  if key = 0 || k = 0 || k = key then s.mem.dram.read pa
  else ((s.rekeyed k key (pa / 64))[pa % 64]?).getD 0

/-- A landed byte. -/
def State.byteAt (s : State) (p : Place) : Byte :=
  match p with
  | .dram pa key => s.dramByte pa key
  | .scratch l c o => (s.crewOf l c).scratch.read o

/-- The byte that a write gives a place, if it covers it. -/
def Write.covers (w : Write) (p : Place) : Option Byte :=
  match w.place, p with
  | .dram a _, .dram b _ => if a ≤ b then w.data[b - a]? else none
  | .scratch l c a, .scratch l' c' b => if l = l' && c = c' && decide (a ≤ b) then w.data[b - a]? else none
  | _, _ => none

/-- A write and an access of n bytes share a byte. -/
def Write.overlaps (w : Write) (p : Place) (n : Nat) : Bool := (List.range n).any fun i => (w.covers (p.plus i)).isSome

/-! ### For whom a write has been performed (R213, R223)

A write is performed for its own thread when it issues, then for its squad, its crew, its gang, and last for the module and the system, when it lands. -/

/-- The writes of an engine operation or of a message carry a party's number from here on in place of a squad's. -/
abbrev partyBase : Nat := 64

/-- The party of an engine operation, by the number of its acceptance (R213). -/
def partyRef (lid crew seq : Nat) : SquadRef := ⟨lid, crew, partyBase + seq⟩

/-- The party is an engine operation. -/
def SquadRef.isEngine (r : SquadRef) : Bool := decide (partyBase ≤ r.num)

/-- The smallest scope that holds two threads (R213): 0 one thread, 1 squad, 2 crew, 3 gang of `gang` crews, 4 device and system. -/
def scopeOf (gang : Nat) (a : SquadRef) (la : Nat) (b : SquadRef) (lb : Nat) : Nat :=
  if a = b then (if la = lb then 0 else 1)
  else if a.lid ≠ b.lid || a.isEngine || b.isEngine then 4
  else if a.crew = b.crew then 2
  else if a.crew / gang = b.crew / gang then 3 else 4

/-- Crews in a gang of a launch. -/
def State.gangOf (s : State) (lid : Nat) : Nat := (s.launchOf lid).gang

/-- The widest scope a write has been performed for: 0 its thread alone. -/
abbrev Write.stage (w : Write) : Nat := w.times.length

/-- A write has been performed for a thread. -/
def State.sees (s : State) (r : SquadRef) (lane : Nat) (w : Write) : Bool :=
  decide (scopeOf (s.gangOf r.lid) r lane w.by_ w.lane ≤ w.stage)

/-- A write was performed for a thread before access number n of it, or is an earlier write of its own (R226, R228). -/
def State.seenBefore (s : State) (r : SquadRef) (lane n : Nat) (w : Write) : Bool :=
  match scopeOf (s.gangOf r.lid) r lane w.by_ w.lane with
  | 0 => decide (w.seq < n)
  | k + 1 => match w.times[k]? with
    | some t => decide (t < n)
    | none => false

/-- The byte a thread reads: of the writes performed for it that have not landed, the latest in the narrowest scope; else what has landed (R94, R217). -/
def State.byteFor (s : State) (r : SquadRef) (lane : Nat) (p : Place) : Byte :=
  let best := s.mem.writes.foldl (fun (b : Option (Nat × Byte)) w =>
    match w.covers p with
    | none => b
    | some v =>
      if s.sees r lane w then
        match b with
        | some (k, _) => if w.stage ≤ k then some (w.stage, v) else b
        | none => some (w.stage, v)
      else b) none
  match best with
  | some (_, v) => v
  | none => s.byteAt p

/-- Bytes a thread reads at a place. -/
def State.bytesFor (s : State) (r : SquadRef) (lane : Nat) (p : Place) (n : Nat) : List Byte :=
  (List.range n).map fun i => s.byteFor r lane (p.plus i)

/-- Is the line of the place poisoned (R334)? -/
def State.poisoned (s : State) (p : Place) : Bool :=
  match p with
  | .dram pa _ => SMap.get 0 s.mem.poison (pa / 64) != 0
  | .scratch l c o => SMap.get 0 (s.crewOf l c).poison (o / 64) != 0

/-- The bytes of a location as a thread reads them, and whether they carry an uncorrectable error (R241); a stack slice is device memory (R184). -/
def State.readLoc (s : State) (cx : Ctx) (loc : Loc) (n : Nat) : List Byte × Bool :=
  match loc.place with
  | some p => (s.bytesFor ⟨cx.lid, cx.crew, cx.num⟩ cx.lane p n, s.poisoned p)
  | none =>
    match loc with
    | .stack off =>
      let t := s.thread cx.q cx.lane
      (t.stack.readBytes off n, SMap.get 0 t.stackPoison (off / 64) != 0)
    | _ => ([], false)

/-! ### Error banks -/

/-- The number of a unit's bank: its unit code of R332 and its index. -/
abbrev bankOf (unit idx : Nat) : Nat := unit * 65536 + idx

def satInc (c : BitVec 32) : BitVec 32 := if c = 0xFFFFFFFF then c else c + 1

/-- A corrected error enters a bank (R333). -/
def Bank.corrected (b : Bank) (addr : Word) (info : BitVec 128) : Bank :=
  if !b.v then { v := true, uc := false, count := 1, addr := addr, info := info }
  else if b.uc then { b with cedrop := true }
  else { b with count := satInc b.count }

/-- An uncorrectable error enters a bank (R333). -/
def Bank.uncorrectable (b : Bank) (addr : Word) (info : BitVec 128) : Bank :=
  if b.v && b.uc then { b with ovf := true, count := satInc b.count }
  else { v := true, uc := true, ovf := b.ovf, cedrop := b.cedrop, count := 1, addr := addr, info := info }

def State.modBank (s : State) (n : Nat) (f : Bank → Bank) : State :=
  { s with mem := { s.mem with banks := SMap.set {} s.mem.banks n (f (SMap.get {} s.mem.banks n)) } }

/-- STATUS of a bank of a unit (R332). -/
def Bank.status (b : Bank) (unit : Nat) : Word :=
  let bit := fun (v : Bool) (n : Nat) => if v then 2 ^ n else 0
  BitVec.ofNat 64 (bit b.v 63 + bit b.uc 62 + bit b.ovf 61 + bit b.cedrop 60 + unit % 256 * 2 ^ 48 + b.count.toNat)

/-- The 32 bytes of bank n as the service cores read them (R332). -/
def State.bankBytes (s : State) (n : Nat) : List Byte :=
  let b := SMap.get {} s.mem.banks n
  bytesLE 8 (b.status (n / 65536)).toNat ++ bytesLE 8 b.addr.toNat ++ bytesLE 16 b.info.toNat

/-- The units that have a bank (R332), by their codes: how many of each the module has (R2, R350, R353); the DRAM channels are not numbered by the spec (log 14). -/
def unitCount : Nat → Nat
  | 0x01 | 0x02 | 0x03 | 0x04 | 0x05 | 0x06 => 384
  | 0x07 => 4
  | 0x08 => 65536
  | 0x09 => 4
  | 0x0A => 12
  | 0x0B => 2
  | 0x0C => 1
  | _ => 0

/-- The number names a bank. -/
def isBank (n : Nat) : Bool := decide (n % 65536 < unitCount (n / 65536))

/-- An error of the present cycle, which enters its bank when the cycle ends (R333). -/
def State.logError (s : State) (bank : Nat) (uc : Bool) (addr : Word) (info : BitVec 128) : State :=
  { s with mem := { s.mem with errors := s.mem.errors ++ [⟨bank, uc, addr, info⟩] } }

/-- An error put among others: uncorrectable ones first, then by ascending ADDR (R333). -/
def insertError (e : BankError) : List BankError → List BankError
  | [] => [e]
  | x :: xs => if (e.uc && !x.uc) || (e.uc == x.uc && decide (e.addr.toNat < x.addr.toNat)) then e :: x :: xs else x :: insertError e xs

/-- An error enters its bank (R333). -/
def State.enterError (s : State) (e : BankError) : State :=
  s.modBank e.bank fun b => if e.uc then b.uncorrectable e.addr e.info else b.corrected e.addr e.info

/-- The errors of a cycle enter their banks, uncorrectable ones first, then by ascending ADDR, and after a clear of the same cycle (R333). -/
def State.settleErrors (s : State) : State :=
  let es := s.mem.errors.foldl (fun acc e => insertError e acc) []
  es.foldl State.enterError { s with mem := { s.mem with errors := [] } }

/-- The bank of the unit that holds a line (R332). -/
def State.bankFor (s : State) (p : Place) : Nat :=
  match p with
  | .dram pa _ => bankOf 0x08 (Config.dramChannel (pa / 64) % 65536)
  | .scratch l c _ => bankOf 0x03 ((s.crewOf l c).core.getD 0)

/-- The first read of a line after an injected flip of MODE 1 corrects it and records it (R345). -/
def State.noteRead (s : State) (p : Place) : State :=
  if s.mem.latent.contains p.line then
    let a := match p.line with | .dram pa _ => pa | .scratch _ _ o => o
    { s with mem := { s.mem with latent := s.mem.latent.filter (· != p.line) } }.logError (s.bankFor p) false (BitVec.ofNat 64 a) 0
  else s

/-! ### Landing -/

/-- A line of DRAM is about to be written under a key: what it held under another key becomes what that key reads there (R189). -/
def State.rekeyLine (s : State) (key line : Nat) : State :=
  let k := s.lineKey line
  if key = 0 || k = 0 || k = key then s else
  { s with mem := { s.mem with dram := s.mem.dram.writeBytes (line * 64) (s.rekeyed k key line), lineKeys := SMap.set 0 s.mem.lineKeys line key } }

/-- The 64-byte lines that n bytes from an address on touch. -/
def linesOf (a n : Nat) : List Nat := if n = 0 then [] else (List.range ((a + n - 1) / 64 - a / 64 + 1)).map (a / 64 + ·)

/-- Bytes put at a place. -/
def State.putBytes (s : State) (p : Place) (data : List Byte) : State :=
  match p with
  | .dram pa key =>
    let s := (linesOf pa data.length).foldl (fun st l => st.rekeyLine key l) s
    { s with mem := { s.mem with dram := s.mem.dram.writeBytes pa data } }
  | .scratch l c o => s.modCrew l c fun cr => { cr with scratch := cr.scratch.writeBytes o data }

/-- Bytes [lo, lo + n) of a poisoned line have been rewritten (R334). -/
def healMask (m : BitVec 64) (lo n : Nat) : BitVec 64 :=
  (List.range n).foldl (fun m i => m &&& ~~~(1#64 <<< (lo + i))) m

/-- A write of n bytes ends the poison of the bytes it writes; a line all of whose bytes are rewritten is clean (R334). -/
def healLine (ps : SMap (BitVec 64)) (a n : Nat) : SMap (BitVec 64) :=
  (linesOf a n).foldl (fun ps l =>
    let lo := max a (64 * l)
    SMap.set 0 ps l (healMask (SMap.get 0 ps l) (lo - 64 * l) (min (a + n) (64 * l + 64) - lo))) ps

def State.heal (s : State) (p : Place) (n : Nat) : State :=
  match p with
  | .dram pa _ => { s with mem := { s.mem with poison := healLine s.mem.poison pa n } }
  | .scratch l c o => s.modCrew l c fun cr => { cr with poison := healLine cr.poison o n }

/-- Bits set in, and cleared from, every entry of a leaf's group (R185, R187). -/
def setLeaf (m : Memory) (l : Leaf) (raw : Nat) : Memory :=
  (List.range (groupLen l.size)).foldl (fun m k => m.writeBytes (l.at_ + 8 * k) (bytesLE 8 raw)) m

/-- The leaf entry that a job's tree holds for an address now. -/
def State.leafNow (s : State) (job va : Nat) : Option Leaf :=
  match s.job? job with
  | none => none
  | some j => match walk s.mem.dram j.root va with
    | .leaf l => some l
    | _ => none

/-- A shootdown under way whose old entry maps an address to a physical one. -/
def State.staleMap (s : State) (job va pa : Nat) : Option Stale :=
  (s.staleFor job va).filter fun st => (⟨0, st.entry.toNat⟩ : Leaf).pa va == pa

/-- The page through which an address reaches a physical one is under write-back (R194). -/
def State.pageHeld (s : State) (job va pa : Nat) : Bool :=
  match (s.leafNow job va).filter fun l => l.pa va == pa with
  | some l => l.bit 7
  | none => match s.staleMap job va pa with
    | some st => st.entry.getLsbD 7
    | none => false

/-- The same for a place; a window is never written back. -/
def State.placeHeld (s : State) (job va : Nat) : Place → Bool
  | .dram pa _ => job != 0 && s.pageHeld job va pa
  | .scratch .. => false

/-- D is set before the first store into a clean page lands: in the entry that maps the page now, or in the old entry while its shootdown is under way
(R187, R195). -/
def State.setDirty (s : State) (job va pa : Nat) : State :=
  match (s.leafNow job va).filter fun l => l.pa va == pa with
  | some l => if l.bit 8 then s else { s with mem := { s.mem with dram := setLeaf s.mem.dram l (l.raw + 256) } }
  | none =>
    if (s.staleMap job va pa).isNone then s else
    { s with mem := { s.mem with stale := s.mem.stale.map fun st =>
        if st.job = job && decide (st.va ≤ va) && decide (va < st.va + st.size) then { st with entry := st.entry ||| 256 } else st } }

/-- One bit of a place's line turned over. -/
def State.flipBit (s : State) (p : Place) (bit : Nat) : State :=
  let q := p.line.plus (bit / 8)
  s.putBytes q [s.byteAt q ^^^ (1#8 <<< (bit % 8))]

/-- INJ counts a write that lands and fires at number SKIP + 1 (R345). -/
def State.injectWrite (s : State) (lid c : Nat) (target : Nat) (p : Place) : State :=
  let inj := (s.crewOf lid c).inj
  if !inj.arm || inj.mode = 0 || inj.target ≠ target then s
  else if inj.seen < inj.skip then s.modCrew lid c fun cr => { cr with inj := { inj with seen := inj.seen + 1 } }
  else
    let s' := s.modCrew lid c fun cr => { cr with inj := { inj with seen := inj.seen + 1, arm := false, fired := true } }
    if inj.mode = 2 then s'.flipBit p inj.bit
    else { s' with mem := { s'.mem with latent := s'.mem.latent ++ [p.line] } }

/-- n bytes at a place and m at another share a byte. -/
def Place.meets (p : Place) (n : Nat) (q : Place) (m : Nat) : Bool :=
  match p, q with
  | .dram a _, .dram b _ => decide (a < b + m) && decide (b < a + n)
  | .scratch l c a, .scratch l' c' b => l == l' && c == c' && decide (a < b + m) && decide (b < a + n)
  | _, _ => false

/-- A running node has its source in bytes at a place. -/
def RunNode.readsAt (r : RunNode) (p : Place) (n : Nat) : Bool := r.srcAt.any fun x => x.1.meets x.2 p n

/-- Bytes that are about to land change the source of XFORM nodes that run (R288). -/
def State.noteSource (s : State) (p : Place) (data : List Byte) : State :=
  if s.crews.all (fun c => c.2.graph.running.all fun r => !r.readsAt p data.length)
      || (List.range data.length).map (fun i => s.byteAt (p.plus i)) == data then s
  else { s with crews := s.crews.map fun x => (x.1, { x.2 with graph := { x.2.graph with
    running := x.2.graph.running.map fun r => if r.readsAt p data.length then { r with changed := true } else r } }) }

/-- One single-copy atomic part lands (R215, R216): D, the bytes, poison, and the armed injection. `lid` and `c` name the crew
whose party writes, `job` and `va` the page (job 0 for a window). -/
def State.landPart (s : State) (lid c : Nat) (p : Place) (job va : Nat) (data : List Byte) : State :=
  let s := s.noteSource p data
  match p with
  | .dram pa _ => ((((if job = 0 then s else s.setDirty job va pa).putBytes p data).heal p data.length)).injectWrite lid c 2 p
  | .scratch l c' _ => ((s.putBytes p data).heal p data.length).injectWrite l c' 1 p

/-! ### The order in which writes are performed (R217-R225) -/

/-- The write goes to the allocation of its own crew (R224, note 1). -/
def Write.ownScratch (w : Write) : Bool :=
  match w.place with
  | .scratch l c _ => l == w.by_.lid && c == w.by_.crew
  | .dram .. => false

/-- The release counts at a scope (R214): window 0x01 acts at gang scope, window 0x00 at system scope. -/
def Write.releasesAt (w : Write) (scope : Nat) : Bool :=
  w.rel && match w.place with
    | .dram .. => true
    | .scratch .. => decide (scope ≤ 3)

/-- The cell of the matrix of a scope for two writes of one thread, earlier and later, is K (R219, R221, R224). -/
def kept (scope : Nat) (e w : Write) : Bool :=
  e.ord != 2 && w.ord != 2 && ((e.ord == 0 && w.ord == 0) || w.releasesAt scope || scope == 1
    || (decide (scope ≤ 3) && e.ownScratch && w.ownScratch))

/-- The scope at which an acquire, a release or an ordered atomic acts at a location (R214); the model's numbers of scopes, 4 for the system. -/
def Loc.scope : Loc → Nat
  | .dram .. => 4
  | .scratch .. => 3
  | .stack _ => 1

/-- The ORD of a location's page; a window is ordered as RC (R185, R220). -/
def Loc.ord : Loc → Nat
  | .dram _ _ _ _ l => l.ord
  | _ => 1

/-- The access is to bytes of the write. -/
def Write.meets (w : Write) (loc : Loc) (n : Nat) : Bool :=
  match loc.place with
  | some p => w.overlaps p n
  | none => false

/-- The location is in the allocation of the crew itself (R224, note 1). -/
def Loc.ownScratch (loc : Loc) (r : SquadRef) : Bool :=
  match loc with
  | .scratch l c _ => l == r.lid && c == r.crew
  | _ => false

/-- Two accesses, of n and m bytes, share a byte. -/
def Loc.meets (a : Loc) (n : Nat) (b : Loc) (m : Nat) : Bool :=
  match a, b with
  | .dram p .., .dram q .. => decide (p < q + m) && decide (q < p + n)
  | .scratch l c o, .scratch l' c' o' => l == l' && c == c' && decide (o < o' + m) && decide (o' < o + n)
  | _, _ => false

/-! ### Loads that are not fixed (R217, R219-R224)

A load is performed when its value is fixed. It has a value from its issue on, and may take a later one until its result lands, or until an access that must be
performed after it has been. -/

/-- The widest scope at which a load keeps its order before a later load of its thread, or a store or atomic that is performed at once: 4 where both are to bytes they
share; nothing for UO pages; `rel`: the scope at which the later access is ordered (R217, R219, R221, R224). -/
def Read.keeps (r : Read) (loc : Loc) (size rel : Nat) : Nat :=
  if r.loc.meets r.size loc size then 4
  else if r.loc.ord == 2 || loc.ord == 2 then 0
  else if r.loc.ord == 0 && loc.ord == 0 then 4
  else max (if r.aq then r.loc.scope else 0) (max rel (if r.loc.ownScratch r.by_ && loc.ownScratch r.by_ then 3 else 1))

/-- The cell of the matrix of a scope for a load and a later store of one thread is K (R219, R221, R224). -/
def Read.keptAt (r : Read) (scope : Nat) (w : Write) : Bool :=
  r.loc.ord != 2 && w.ord != 2 && ((r.loc.ord == 0 && w.ord == 0) || w.releasesAt scope || scope == 1
    || (r.aq && decide (scope ≤ r.loc.scope)) || (decide (scope ≤ 3) && r.loc.ownScratch r.by_ && w.ownScratch))

/-- The load's value is fixed for the parties of a scope (0: of none), and so for good at scope 4. -/
def Read.fixedAt (r : Read) (scope : Nat) : Option Read := if 4 ≤ scope then none else some { r with least := max r.least (scope + 1) }

/-- A load's value may still change: its thread runs, its result has not landed, and its page is mapped as it was. -/
def State.readOpen (s : State) (r : Read) : Bool :=
  match s.recordFor r.by_ with
  | none => false
  | some q =>
    let t := s.thread q r.lane
    t.live && t.pend.any (fun w => w.src == some r.seq) && match r.loc with
      | .dram pa _ job va _ => (s.leafNow job va).any fun l => l.pa va == pa
      | _ => true

/-- Loads are fixed, each at a scope. -/
def State.fixReads (s : State) (f : Read → Nat) : State :=
  if s.mem.reads == [] then s else { s with mem := { s.mem with reads := s.mem.reads.filterMap fun r => r.fixedAt (f r) } }

/-- Loads of one thread are fixed, each at a scope. -/
def State.fixOwn (s : State) (r : SquadRef) (lane : Nat) (f : Read → Nat) : State :=
  s.fixReads fun x => if x.by_ == r && x.lane == lane then f x else 0

/-- A fence of a thread at a scope is complete: the earlier loads are fixed; FENCE.FULL takes in UO pages (R221, R226). -/
def State.fixFence (s : State) (r : SquadRef) (lane scope : Nat) (full : Bool) : State :=
  s.fixOwn r lane fun x => if full || x.loc.ord != 2 then scope else 0

/-- A load of another thread must not return a write that is performed for it now, at a scope for which its value is fixed. -/
def State.mustMiss (s : State) (r : Read) (by_ : SquadRef) (lane stage t : Nat) : Bool :=
  let sc := scopeOf (s.gangOf r.by_.lid) r.by_ r.lane by_ lane
  decide (stage < sc) && decide (sc ≤ t) && decide (sc < r.least)

/-- What a write's step to a scope fixes: the loads of its thread that it must follow, and loads that must not return it (R224). -/
def State.fixedBy (s : State) (w : Write) (t : Nat) (r : Read) : Nat :=
  if r.by_ = w.by_ && r.lane == w.lane then
    if w.seq < r.seq then 0
    else (List.range (t - w.stage)).foldl (fun m i => if r.keptAt (w.stage + 1 + i) w then w.stage + 1 + i else m) 0
  else if (match r.loc.place with | some p => w.overlaps p r.size | none => false) && s.mustMiss r w.by_ w.lane w.stage t then 4
  else 0

/-- The widest scope that the next step of a write performs it for: an access to an SO page, and a release, become visible at one moment to every party
of the system, or of the gang for window 0x01 (R219, R225); an engine operation's writes are performed for the device (R213). -/
def Write.next (w : Write) : Nat :=
  if w.ord = 0 || w.by_.isEngine then 4
  else if w.rel then (match w.place with | .dram .. => 4 | .scratch .. => if w.stage < 3 then 3 else 4)
  else w.stage + 1

/-- Must write e be performed at scope t before write w is (R217, R219, R223-R225, R228)? Where they overlap, the one that came first to a scope leaves it
first; within a thread a K cell keeps program order; a release follows all that was performed for its thread before it, at the scope at which the release acts (R214): what
R177 says of a slot's release holds for the parties of that scope, since its last row names none (DEDUCED, log 80). -/
def State.holdsBack (s : State) (t : Nat) (e w : Write) : Bool :=
  let sc := scopeOf (s.gangOf w.by_.lid) w.by_ w.lane e.by_ e.lane
  e.stage < t && e.seq != w.seq && (
    (decide (sc ≤ e.stage) && decide (w.stage ≤ e.stage) && (w.overlaps e.place e.data.length || e.overlaps w.place w.data.length)
      && (decide (w.stage < e.stage) || s.mem.writes.findIdx (·.seq == e.seq) < s.mem.writes.findIdx (·.seq == w.seq)))
    || (sc == 0 && !e.by_.isEngine && decide (e.seq < w.seq)
      && (List.range (t - e.stage)).any fun i => kept (e.stage + 1 + i) e w)
    || (w.releasesAt t && e.ord != 2 && w.ord != 2 && s.seenBefore w.by_ w.lane w.seq e))

/-- Write number n of the outstanding ones may take its next step: no write-back holds it (R194, R233), and nothing must go before it. -/
def State.canLand (s : State) (n : Nat) : Bool :=
  match s.mem.writes[n]? with
  | none => false
  | some w => !(w.held && s.placeHeld w.job w.va w.place) && s.mem.writes.all fun e => !s.holdsBack w.next e w

/-- A write takes its next step: it is performed for a wider scope, or it lands (R223). -/
def State.landNth (s : State) (n : Nat) : State :=
  match s.mem.writes[n]? with
  | none => s
  | some w =>
    let rest := s.mem.writes.eraseIdx n
    let t := w.next
    let s := s.fixReads (s.fixedBy w t)
    if 4 ≤ t then { s with seq := s.seq + 1, mem := { s.mem with writes := rest } }.landPart w.by_.lid w.by_.crew w.place w.job w.va w.data
    else { s with
      seq := s.seq + 1
      mem := { s.mem with writes := rest ++ [{ w with times := w.times ++ List.replicate (t - w.stage) s.seq }] } }

/-- Writes of a squad are not yet performed for every party (R118, R206, R229). -/
def State.hasWrites (s : State) (by_ : SquadRef) : Bool := s.mem.writes.any fun w => w.by_ == by_

/-- A write is brought to a scope, as far as it can be now, after all that must go before it: the spec sets no time for a write (R223), and an operation
that must follow it need not wait for the write's own time. -/
def State.push (s : State) (t seq : Nat) : Nat → State
  | 0 => s
  | fuel + 1 =>
    match s.mem.writes.find? (·.seq == seq) with
    | none => s
    | some w =>
      if t ≤ w.stage then s else
      let s1 := (s.mem.writes.filter fun e => s.holdsBack w.next e w).foldl (fun st e => State.push st w.next e.seq fuel) s
      let n := s1.mem.writes.findIdx (·.seq == seq)
      if s1.canLand n then State.push (s1.landNth n) t seq fuel else s1

/-- Every outstanding write that satisfies a test is brought to a scope, as far as it can be. -/
def State.pushAll (s : State) (t : Nat) (p : Write → Bool) : State :=
  if s.mem.writes == [] then s
  else (s.mem.writes.filter p).foldl (fun st w => st.push t w.seq (4 * s.mem.writes.length + 4)) s

/-! ### Stores -/

/-- A store of a thread (R94, R223): to the stack slice, which no other thread can name, at once; elsewhere it waits to be performed. -/
def State.storeLoc (s : State) (cx : Ctx) (loc : Loc) (data : List Byte) (rel : Bool) : State :=
  let s := s.fixOwn ⟨cx.lid, cx.crew, cx.num⟩ cx.lane fun r => if r.loc.meets r.size loc data.length then 4 else 0
  let w := fun (p : Place) (ord job va : Nat) (held : Bool) =>
    ({ seq := s.seq, by_ := ⟨cx.lid, cx.crew, cx.num⟩, lane := cx.lane, place := p, data := data, ord := ord, rel := rel, job := job, va := va,
       held := held, times := [] } : Write)
  match loc with
  | .stack off => s.modThread cx.q cx.lane fun t =>
    { t with stack := t.stack.writeBytes off data, stackPoison := healLine t.stackPoison off data.length }
  | .dram pa key job va l =>
    { s with seq := s.seq + 1, mem := { s.mem with writes := s.mem.writes ++ [w (.dram pa key) l.ord job va (s.pageHeld job va pa)] } }
  | .scratch l c o => { s with seq := s.seq + 1, mem := { s.mem with writes := s.mem.writes ++ [w (.scratch l c o) 1 0 0 false] } }

/-- A write of an engine operation or a message, single-copy atomic, waits to land (R216, R223, R229). -/
def State.postPart (s : State) (r : SquadRef) (p : Place) (job va : Nat) (data : List Byte) : State :=
  let w : Write := { seq := s.seq, by_ := r, lane := 0, place := p, data := data, ord := 1, rel := false, job := job, va := va,
                     held := s.placeHeld job va p, times := [] }
  { s with seq := s.seq + 1, mem := { s.mem with writes := s.mem.writes ++ [w] } }

/-! ### Fetch (R21, R22, R46, R47, R315) -/

/-- The contents, other than the present ones, in which a core may still hold a code block (R315). -/
def Core.heldBlocks (c : Core) (block : Nat) (now : List Byte) : List (List Byte) := (SMap.get [] c.code block).filter (· != now)

/-- The block as a fetch of the core sees it: the present contents, or freely one it may still hold; none where the present contents are taken and carry an
uncorrectable error. -/
def State.codeBlock (s : State) (core pa key pick : Nat) : Option (List Byte) :=
  let block := pa / 16
  let now := (List.range 16).map fun i => s.dramByte (block * 16 + i) key
  let fresh := if s.poisoned (.dram pa key) then none else some now
  match (s.coreAt core).heldBlocks block now with
  | [] => fresh
  | v :: vs =>
    match (v :: vs)[Config.freeBlock pick block % (vs.length + 2)]? with
    | some old => some old
    | none => fresh

/-- One halfword of code, read within its 16-byte block (R315). A poisoned line cannot be decoded: a machine check (DEDUCED, log 16). -/
def State.fetchHalf (s : State) (la : Launch) (core : Nat) (addr : Word) (pick : Nat) : Except Trap Nat :=
  if addr.toNat / 2 ^ 56 ≠ 0 then .error ⟨0x03, addr⟩ else
  match s.resolveGlobal la false .fetch addr 2 pick with
  | .error t => .error t
  | .ok loc =>
    match loc with
    | .dram pa key _ _ _ =>
      match s.codeBlock core pa key pick with
      | none => .error ⟨0x11, addr⟩
      | some bs => .ok (natLE ((bs.drop (pa % 16)).take 2))
    | _ => .error ⟨0x03, addr⟩

/-- The instruction at a PC, decoded, or the trap that fetching or decoding it raises. The halfword after a 32-bit instruction is looked at only for an F-P
word, which is a bracket move where INVEND follows (R168); where that halfword cannot be fetched, the word is taken as INV or INV.DEC, whose routine's fetch then
reports the fault (DESIGN CHOICE, log 16). -/
def State.fetch (s : State) (la : Launch) (core : Nat) (pc : Word) (pick : Nat) : Except Trap Instr :=
  match s.fetchHalf la core pc pick with
  | .error t => .error t
  | .ok h0 =>
    if h0 % 2 = 0 then
      match decodeHalves h0 none none with
      | .ok i _ => .ok i
      | _ => .error ⟨0x01, 0⟩
    else
      match s.fetchHalf la core (pc + 2) pick with
      | .error t => .error t
      | .ok h1 =>
        let h2 := (s.fetchHalf la core (pc + 4) pick).toOption
        match decodeHalves h0 (some h1) h2 with
        | .ok i _ => .ok i
        | _ => .error ⟨0x01, 0⟩

/-- The code block that holds an address enters the core's caches as it stands (R315); that reads its line (R345). -/
def State.cacheBlock (s : State) (la : Launch) (core : Nat) (addr : Word) (pick : Nat) : State :=
  match s.resolveGlobal la false .fetch addr 2 pick with
  | .ok (.dram pa key _ _ _) =>
    let now := (List.range 16).map fun i => s.dramByte (pa / 16 * 16 + i) key
    let held := SMap.get [] (s.coreAt core).code (pa / 16)
    if held.contains now || s.poisoned (.dram pa key) then s
    else (s.noteRead (.dram pa 0)).modCore core fun c => { c with code := SMap.set [] c.code (pa / 16) (held ++ [now]) }
  | _ => s

/-- The blocks of a fetched instruction of `len` bytes. -/
def State.cacheCode (s : State) (la : Launch) (core : Nat) (pc : Word) (len pick : Nat) : State :=
  (List.range ((len + 1) / 2)).foldl (fun st i => st.cacheBlock la core (pc + BitVec.ofNat 64 (2 * i)) pick) s

/-- Every instruction cache and fetch buffer of the module is emptied (R316). An INV between two slots goes back to its prefix, with the brackets of its last whole
step, and reads its routine again, as after a trap (R174; DESIGN CHOICE, log 67). -/
def State.emptyCode (s : State) : State :=
  { s with
    cores := s.cores.map fun (n, c) => (n, { c with code := [] })
    squads := s.squads.map fun (n, o) => (n, o.map fun sq => { sq with invs := [] }) }

end Sys2Proof.Machine
end

