-- ==== Sys2Proof/Machine/Issue.lean ====
section
/-!
DEFINITION. Machine/Issue.lean: which issue set issues next (R111-R114, R124, R321, R322), joined sets (R108), and what the
passing of a cycle changes: ports, waiting times, YIELD, the watched waits (R145, R329).
-/
namespace Sys2Proof.Machine

/-! ### Groups and joined sets -/

/-- A crew lies in one of the inclusive ranges. -/
def inRanges (rs : List (Nat × Nat)) (c : Nat) : Bool := rs.any fun (a, b) => decide (a ≤ c) && decide (c ≤ b)

/-- Two lists of inclusive ranges share a crew. -/
def rangesMeet (xs ys : List (Nat × Nat)) : Bool :=
  xs.any fun (a, b) => ys.any fun (c, d) => decide (a ≤ d) && decide (c ≤ b)

/-- The crews of group n (R104). -/
def Launch.group (l : Launch) (n : Nat) : List (Nat × Nat) := l.groups[n]?.getD []

/-- Ranges widened to whole gangs (R102, R108). -/
def Launch.gangs (l : Launch) (rs : List (Nat × Nat)) : List (Nat × Nat) :=
  rs.map fun (a, b) => (a - a % l.gang, b - b % l.gang + l.gang - 1)

/-- One widening of a set: every group that shares a crew with it joins, with the gangs of its crews (R108). -/
def Launch.joinStep (l : Launch) (rs : List (Nat × Nat)) : List (Nat × Nat) :=
  rs ++ l.gangs ((l.groups.filter fun g => rangesMeet g rs).flatten)

/-- The joined set of a crew, as inclusive ranges of crews; a crew outside every group has its gang alone (R108). -/
def Launch.joined (l : Launch) (c : Nat) : List (Nat × Nat) :=
  (List.range l.groups.length).foldl (fun rs _ => l.joinStep rs) (l.gangs [(c, c)])

/-- The crews of a launch that have been started. -/
def State.crewsOf (s : State) (lid : Nat) : List Crew := s.crews.filterMap fun (_, c) => if c.lid == lid && c.started then some c else none

/-- The started crews of a joined set. -/
def State.joinedCrews (s : State) (lid c : Nat) : List Crew :=
  (s.crewsOf lid).filter fun cr => inRanges ((s.launchOf lid).joined c) cr.idx

/-! ### Readiness -/

/-- The squads of the record's crew may issue: the module runs, the launch runs, its set is not being killed or stopped for
pre-emption (R306, R324, R335). -/
def State.crewRuns (s : State) (sq : Squad) : Bool :=
  let l := s.launchOf sq.lid
  s.boot == .running && l.status == .running && !(s.crewOf sq.lid sq.crew).stopReq && !inRanges l.killing sq.crew

/-- An outstanding scoreboarded write of a register or mask bit that the instruction names (R57). -/
def Thread.awaits (t : Thread) (i : Instr) : Bool :=
  t.pend.any fun w => w.sb && ((instrSrcs i).contains w.dst || (instrDsts i).contains w.dst)

/-- A NETMV whose configuration is still being written waits, and so does a SETNET that would write it again (R57, R135). -/
def Squad.netWaits (sq : Squad) (i : Instr) : Bool :=
  match i with
  | .netmv f => sq.nPend.any (·.n == f.n.toNat)
  | .setnet _ n => sq.nPend.any (·.n == n.toNat)
  | _ => false

/-- The register lines that hold register code c of a lane, with its tag (R178); the operand store has none (R180). -/
def registerLines (c l : Nat) : List Nat := if c < 56 then [c * 4 + l / 8, 224 + c / 4] else []

/-- A register line that the instruction reads or writes has not arrived yet (R179). -/
def Squad.lineWaits (sq : Squad) (i : Instr) (l : Nat) : Bool :=
  sq.missing != [] && (instrSrcs i ++ instrDsts i).any fun c => (registerLines c l).any sq.missing.contains

/-- The INV between two slots to which a lane belongs (R172). -/
def Squad.runOf (sq : Squad) (l : Nat) : Option InvRun := sq.invs.find? fun r => r.lanes.getLsbD l

/-- The routine instruction that issues next. -/
def InvRun.next (r : InvRun) : Option Instr := (r.body[r.idx % r.body.length]?).map (·.2)

/-- An INV's next routine instruction waits for every operand, in every mode (R169): for the routine's own results, and for what the thread had under way. -/
def InvRun.waits (r : InvRun) (t : Thread) (now : Nat) : Bool :=
  match r.next with
  | none => false
  | some i => (instrSrcs i).any fun c =>
    r.due.any (fun x => x.1 == c && decide (now < x.2)) || t.pend.any fun w => w.dst == c && (w.sb || decide (now < w.due))

/-- A thread of the squad of record q is ready, but for the issue-set switch (R111). -/
def State.threadReady (s : State) (q : Nat) (sq : Squad) (l : Nat) : Bool :=
  let t := sq.thread l
  t.live && t.wait == .run && decide (t.readyAt ≤ s.cycle) &&
    match sq.runOf l with
    | some r => !r.waits t s.cycle && !sq.lineWaits r.instr l
    | none =>
      match s.fetch (s.launchOf sq.lid) (coreOf q) t.pc s.freeCtr with
      | .ok i => !t.awaits i && !sq.netWaits i && !sq.lineWaits i l
      | .error _ => true

/-- The thread has writes that have not landed. -/
def Thread.unlanded (t : Thread) (now : Nat) : Bool := t.pend.any fun w => w.sb || decide (now < w.due)

/-- A lane has writes that have not landed, or a network configuration that its SETNET writes (R57, R135). -/
def Squad.unlanded (sq : Squad) (now l : Nat) : Bool := (sq.thread l).unlanded now || sq.nPend.any fun x => x.lanes.getLsbD l

/-- In interlocked mode an instruction waits for every operand: its issue set is held until the writes to what it reads have
landed (R57). -/
def State.setHeld (s : State) (q : Nat) (sq : Squad) (pc : Word) (m : BitVec 32) : Bool :=
  let la := s.launchOf sq.lid
  la.ilk && match s.fetch la (coreOf q) pc s.freeCtr with
    | .ok i => (lanesOf m).any fun l => (sq.runOf l).isNone &&
        (sq.thread l).pend.any fun w => decide (s.cycle < w.due) && (instrSrcs i).contains w.dst
    | .error _ => false

/-- The lane with the smallest stamp, the lowest among ties (R113). -/
def Squad.oldest (sq : Squad) (ls : List Nat) : Option Nat :=
  ls.foldl (fun best l =>
    match best with
    | none => some l
    | some b => if (sq.thread l).stamp < (sq.thread b).stamp then some l else some b) none

/-- Two threads issue together: they stand at one PC, and in the same INV if in one (R111, R172). -/
def Squad.together (sq : Squad) (l m : Nat) : Bool :=
  (sq.thread l).pc == (sq.thread m).pc && (sq.runOf l).map (·.lanes) == (sq.runOf m).map (·.lanes)

/-- Of lanes, those that the issue-set switch lets issue: their set is the one that issued last, or all that they wrote has landed (R57, R111).
R57's condition is circular where threads with unlanded writes stand ready at one PC with others: who is held decides which set is about to issue, and the set decides who
is held. The set compared with the last one is all that stand at the PC otherwise ready, so that a newcomer makes the threads of the last set wait too (DESIGN CHOICE, log 79). -/
def State.switched (s : State) (sq : Squad) (ls : List Nat) : List Nat :=
  ls.filter fun l => maskOf (ls.filter (sq.together l)) == sq.last || !sq.unlanded s.cycle l

/-- An atomic of the squad that has not been performed holds its next issue (R304). -/
def Squad.holdsIssue (sq : Squad) : Bool := sq.liveLanes.any fun l => match (sq.thread l).wait with | .atomic .. => true | _ => false

/-- An atomic or a load of the squad that has passed its checks has not been performed: what it writes is outstanding (R57, R304). -/
def Squad.accessing (sq : Squad) : Bool := sq.liveLanes.any fun l => match (sq.thread l).wait with | .atomic .. | .load .. => true | _ => false

/-- The issue set that a squad's slot would go to: its PC and lanes (R111, R113, R124). -/
def State.nextSet (s : State) (q : Nat) (sq : Squad) : Option (Word × BitVec 32) :=
  if sq.holdsIssue then none else
  if (s.launchOf sq.lid).det then
    let ls := sq.liveLanes.filter fun l => (sq.thread l).wait == .run
    match sq.oldest ls with
    | none => none
    | some b =>
      let set := ls.filter (sq.together b)
      if set.all (s.threadReady q sq) && s.switched sq set == set then some ((sq.thread b).pc, maskOf set) else none
  else
    let ls := s.switched sq (sq.liveLanes.filter fun l => s.threadReady q sq l)
    match sq.oldest ls with
    | none => none
    | some b => some ((sq.thread b).pc, maskOf (ls.filter (sq.together b)))

/-- The issue set of a squad in this cycle. -/
def State.readySet (s : State) (q : Nat) (sq : Squad) : Option (Word × BitVec 32) :=
  (s.nextSet q sq).filter fun x => !s.setHeld q sq x.1 x.2

/-- The ready threads at a PC that a debugger names (R313). -/
def State.setAt (s : State) (q : Nat) (sq : Squad) (pc : Word) : BitVec 32 :=
  let m := maskOf ((s.switched sq (sq.liveLanes.filter fun l => s.threadReady q sq l)).filter fun l => (sq.thread l).pc == pc)
  if sq.holdsIssue || s.setHeld q sq pc m then 0 else m

/-- The issue set that a squad may give a port to: that of R113 while it runs; while it steps for a debugger, the set of its step, or the rest of the INV that it steps
(R172, R313). The device dispatches only from records whose STATE is 1 (R319). -/
def State.setOf (s : State) (q : Nat) (sq : Squad) : Option (Word × BitVec 32) :=
  if sq.state ≠ 1 then none else
  match sq.status with
  | .running => s.readySet q sq
  | .stepping pc => if s.setAt q sq pc = 0 then none else some (pc, s.setAt q sq pc)
  | .stepped _ m => (sq.invs.find? fun r => r.lanes &&& m == r.lanes && (lanesOf r.lanes).all (s.threadReady q sq)).map fun r => (r.pc, r.lanes)
  | _ => none

/-- A record that could use a port: its key, squad, PC and lanes. -/
abbrev Candidate := Nat × Squad × Word × BitVec 32

/-- The records with a ready issue set. -/
def State.readyRecords (s : State) : List Candidate :=
  s.records.filterMap fun (q, sq) =>
    if s.crewRuns sq then (s.setOf q sq).map fun (pc, m) => (q, sq, pc, m) else none

/-- Another slot of the core of record q has a ready issue set in this cycle, or had one and has issued it (R322). -/
def State.coreContended (s : State) (rs : List Candidate) (q : Nat) : Bool :=
  rs.any (fun (q', _, _, _) => coreOf q' == coreOf q && q' != q)
    || s.records.any fun (q', sq) => coreOf q' == coreOf q && q' != q && sq.portAt == s.cycle + 1

/-- The records that may be given a port: one port a cycle each, two on a core, none under YIELD while another slot of the
core is ready (R112, R321, R322). -/
def State.candidates (s : State) : List Candidate :=
  let rs := s.readyRecords
  rs.filter fun (q, sq, _, _) =>
    decide ((s.coreAt (coreOf q)).ports < 2) && sq.portAt != s.cycle + 1
      && (decide (sq.yielded ≤ 1) || !s.coreContended rs q)

/-- How long a record has been ready without a port. -/
def waited (now : Nat) (sq : Squad) : Nat := if sq.readySince = 0 then 0 else now + 1 - sq.readySince

/-- Candidate x goes before y (R321); cores take no part in one another's choice and go in ascending order (DESIGN CHOICE, log 1). -/
def goesBefore (now : Nat) (x y : Candidate) : Bool :=
  let sx := x.2.1
  let sy := y.2.1
  if coreOf x.1 ≠ coreOf y.1 then coreOf x.1 < coreOf y.1 else
  let wx := waited now sx
  let wy := waited now sy
  if 1024 ≤ wx || 1024 ≤ wy then wy < wx
  else if sx.prio ≠ sy.prio then sy.prio < sx.prio
  else sx.portAt < sy.portAt

/-- The candidate that goes first of some. -/
def firstOf (now : Nat) (cs : List Candidate) : Option Candidate :=
  cs.foldl (fun b c =>
    match b with
    | none => some c
    | some b => if goesBefore now c b then some c else some b) none

/-- The issue set of a candidate. -/
def Candidate.cur (c : Candidate) : Cur := { q := c.1, pc := c.2.2.1, lanes := c.2.2.2, slot := c.2.1.slot }

/-- The issue set that issues next, if any (R321). -/
def State.nextIssue (s : State) : Option Cur := (firstOf s.cycle s.candidates).map (·.cur)

/-- The code blocks of the instruction that an issue set executes stand in its core's caches (R315); the routine instructions of an INV were read with its prefix. -/
def State.cacheIssue (s : State) (c : Cur) : State :=
  let sq := s.squad c.q
  if (lanesOf c.lanes).any fun l => (sq.runOf l).isSome then s else
  let la := s.launchOf sq.lid
  match s.fetch la (coreOf c.q) c.pc s.freeCtr with
  | .ok i => s.cacheCode la (coreOf c.q) c.pc i.len s.freeCtr
  | .error _ => s

/-- A record is given a port for an issue set: the slot is numbered and used (R112, R113, R321). -/
def State.beginIssue (s : State) (c : Cur) : State :=
  let s := (s.cacheIssue c).modSquad c.q fun sq =>
    { sq with slot := c.slot + 1, last := c.lanes, portAt := s.cycle + 1, readySince := 0, rejoins := false,
              status := match sq.status with | .stepping _ => .stepped c.pc c.lanes | x => x }
  let s := s.modCore (coreOf c.q) fun co => { co with ports := co.ports + 1, given := SMap.set 0 co.given (recordOf c.q) (s.cycle + 1) }
  { s with cur := { c with at_ := s.cycle }, freeCtr := s.freeCtr + 1 }

/-- When a slot was last given a port (R321). -/
def State.givenAt (s : State) (q : Nat) : Nat := SMap.get 0 (s.coreAt (coreOf q)).given (recordOf q)

/-- A squad takes a slot: its turn for a port follows what the slot was given (R321). -/
def State.placeSquad (s : State) (q : Nat) (sq : Squad) : State := s.setSquad q { sq with portAt := s.givenAt q }

/-! ### Watched waits (R145, R329) -/

/-- The watched wait that a thread's wait is part of. -/
def watchOf (sq : Squad) : Wait → Option Watch
  | .barC p => some (.barC sq.crew p)
  | .barG g p => some (.barG g p)
  | .arrive g p _ => some (.barG g p)
  | .enum _ _ desc => some (.enum sq.crew (bitsOf desc.toNat 0 20) (bitsOf desc.toNat 56 4) (bitsOf desc.toNat 48 3))
  | .tile t v _ => some (.tile sq.crew sq.num t v)
  | _ => none

/-- All squads of a launch, bound or saved. -/
def State.allSquads (s : State) (lid : Nat) : List Squad :=
  ((s.records.filter fun (_, sq) => sq.lid == lid).map (·.2)) ++ (s.crewsOf lid).flatMap fun c => c.saved.map (·.2)

/-- The watched waits of a launch now. -/
def State.watchedNow (s : State) (lid : Nat) : List Watch :=
  ((s.allSquads lid).flatMap fun sq => sq.liveLanes.filterMap fun l => watchOf sq (sq.thread l).wait).eraseDups

/-- The crews concerned with a watched wait (R145). -/
def State.concerned (s : State) (lid : Nat) : Watch → List Crew
  | .barC c _ => s.joinedCrews lid c
  | .barG g _ =>
    match (s.launchOf lid).group g with
    | [] => []
    | (c, _) :: _ => s.joinedCrews lid c
  | .enum c .. | .tile c .. => (s.crewsOf lid).filter (·.idx == c)

/-- The count advances in this cycle: every crew concerned that has not completed is bound, and none of their squads is
stopped for a debugger (R145, R314). -/
def State.watchCounts (s : State) (lid : Nat) (w : Watch) : Bool :=
  (s.concerned lid w).all fun c => (c.completed || c.core.isSome) &&
    (s.crewRecords lid c.idx).all fun (_, sq) => sq.status != .debug

/-- The counts of a launch after this cycle: a wait that is over is forgotten, a new one begins. -/
def State.nextWatches (s : State) (lid : Nat) (l : Launch) : List (Watch × Nat) :=
  (s.watchedNow lid).map fun w =>
    let n := ((l.watches.find? (·.1 == w)).map (·.2)).getD 0
    (w, if s.watchCounts lid w then n + 1 else n)

/-- The barrier limit of a launch in cycles (R103, R329). -/
def Launch.limit (l : Launch) : Nat := (if l.wdog = 0 then 65536 else l.wdog) * 4096

/-! ### A cycle passes -/

/-- A record at the end of a cycle: how long it has been ready, and YIELD's contended cycles after that of its issue (R321,
R322). -/
def State.tickSquad (s : State) (rs : List Candidate) (q : Nat) (sq : Squad) : Squad :=
  let isReady := rs.any fun c => c.1 == q
  let contended := s.coreContended rs q && sq.portAt != s.cycle + 1
  { sq with
    readySince := if !isReady || sq.portAt = s.cycle + 1 then 0 else if sq.readySince = 0 then s.cycle + 1 else sq.readySince
    yielded := if contended && decide (1 < sq.yielded) then sq.yielded - 1 else sq.yielded }

/-- The passing of one arithmetic-clock cycle; its errors enter their banks (R333), and loads whose values are fixed are forgotten. -/
def State.tick (s : State) : State :=
  let rs := s.readyRecords
  let s' : State := { s with
    cycle := s.cycle + 1
    mem := { s.mem with reads := s.mem.reads.filter s.readOpen }
    squads := s.squads.map fun (q, o) => (q, o.map (s.tickSquad rs q))
    cores := s.cores.map fun (n, c) => (n, { c with ports := 0 })
    launches := s.launches.map fun (lid, o) =>
      (lid, o.map fun l => if l.status = .running then { l with watches := s.nextWatches lid l } else l) }
  s'.settleErrors

end Sys2Proof.Machine
end

