-- ==== Sys2Proof/Machine/Integer.lean ====
section
/-!
DEFINITION. Machine/Integer.lean: integer and bitwise operations, immediates, MOV, RETAG, LDHI and PCREL, the extended integer
page, integer compares and mask operations (R73-R79, R87, R89, R95). `do...` is the effect on one thread, which an INV
routine uses too (R166); `exec...` the instruction of an issue set.
-/
namespace Sys2Proof.Machine

/-! ### Element operations (R73, R77) -/

def addE (w x y : Nat) : Nat := (x + y) % 2 ^ w
def subE (w x y : Nat) : Nat := (x + (2 ^ w - y % 2 ^ w)) % 2 ^ w
def shlE (w x s : Nat) : Nat := if s ≥ w then 0 else x * 2 ^ s % 2 ^ w
def shrE (w x s : Nat) : Nat := wrap w (signed w x / (2 : Int) ^ (if s ≥ w then w else s))
def shrUE (w x s : Nat) : Nat := if s ≥ w then 0 else x / 2 ^ s
def rolE (w x s : Nat) : Nat := (x * 2 ^ (s % w) + x / 2 ^ (w - s % w)) % 2 ^ w
def mulE (w x y : Nat) : Nat := x * y % 2 ^ w
def mulhE (w x y : Nat) : Nat := wrap w (signed w x * signed w y / (2 : Int) ^ w)
def mulhUE (w x y : Nat) : Nat := x * y / 2 ^ w
def minE (w x y : Nat) : Nat := if signed w x ≤ signed w y then x else y
def minUE (_w x y : Nat) : Nat := if x ≤ y then x else y
def maxE (w x y : Nat) : Nat := if signed w x ≥ signed w y then x else y
def maxUE (_w x y : Nat) : Nat := if x ≥ y then x else y
def addsE (w x y : Nat) : Nat := satS w (signed w x + signed w y)
def addsUE (w x y : Nat) : Nat := satU w ((x : Int) + y)
def subsE (w x y : Nat) : Nat := satS w (signed w x - signed w y)
def subsUE (w x y : Nat) : Nat := satU w ((x : Int) - y)

/-- DIV: truncated towards zero; division by 0 gives all ones; the most negative value by −1 stays itself (R77). -/
def divE (w x y : Nat) : Nat := if y = 0 then 2 ^ w - 1 else wrap w ((signed w x).tdiv (signed w y))
def divUE (w x y : Nat) : Nat := if y = 0 then 2 ^ w - 1 else x / y
def remE (w x y : Nat) : Nat := if y = 0 then x else wrap w ((signed w x).tmod (signed w y))
def remUE (_w x y : Nat) : Nat := if y = 0 then x else x % y

/-- The bits of an element, bit 0 first. -/
def bitsLE (w x : Nat) : List Bool := (List.range w).map x.testBit
def ofBitsLE (bs : List Bool) : Nat := bs.foldr (fun b acc => (if b then 1 else 0) + 2 * acc) 0

def popcE (w x : Nat) : Nat := ((bitsLE w x).filter id).length
def clzE (w x : Nat) : Nat := ((bitsLE w x).reverse.takeWhile (!·)).length
def ctzE (w x : Nat) : Nat := ((bitsLE w x).takeWhile (!·)).length
def brevE (w x : Nat) : Nat := ofBitsLE (bitsLE w x).reverse
def bswapE (w x : Nat) : Nat := natLE (bytesLE (w / 8) x).reverse
def absE (w x : Nat) : Nat := wrap w (signed w x).natAbs
def negE (w x : Nat) : Nat := wrap w (-(signed w x))

/-! ### Operand forms -/

/-- A source register with its tag check (R13, R22, R23). -/
def Thread.src (t : Thread) (cx : Ctx) (ok : Tag → Bool) (c : RegCode) : Except Trap Reg :=
  match t.read cx c with
  | .error e => .error e
  | .ok r =>
    match need ok r with
    | .error e => .error e
    | .ok _ => .ok r

/-- Two integer-class sources, element-wise (R73). -/
def Thread.int2 (t : Thread) (cx : Ctx) (op : Nat → Nat → Nat → Nat) (b a d : RegCode) (lat : Lat) : Except Trap Thread := do
  let x ← t.src cx isIntTag a
  let y ← t.src cx isIntTag b
  let g ← layoutInt x y
  .ok (t.write cx d ⟨zipElems g op x.data y.data, g⟩ lat)

/-- Two bitwise-class sources, all 64 bits, tag of a (R44, R73). -/
def Thread.bit2 (t : Thread) (cx : Ctx) (op : Word → Word → Word) (b a d : RegCode) : Except Trap Thread := do
  let x ← t.src cx isBitTag a
  let y ← t.src cx isBitTag b
  .ok (t.write cx d ⟨op x.data y.data, x.tag⟩ latInt)

/-- An integer-class source and an immediate on every element (R75). -/
def Thread.intImm (t : Thread) (cx : Ctx) (op : Nat → Nat → Nat → Nat) (v : Word) (a d : RegCode) : Except Trap Thread := do
  let x ← t.src cx isIntTag a
  .ok (t.write cx d ⟨zipElems x.tag op x.data (immElems x.tag v), x.tag⟩ latInt)

/-- A bitwise-class source and an immediate on every element (R75). -/
def Thread.bitImm (t : Thread) (cx : Ctx) (op : Word → Word → Word) (v : Word) (a d : RegCode) : Except Trap Thread := do
  let x ← t.src cx isBitTag a
  .ok (t.write cx d ⟨op x.data (immElems x.tag v), x.tag⟩ latInt)

/-- One integer-class source, element-wise, scoreboarded (R77). -/
def Thread.int1 (t : Thread) (cx : Ctx) (op : Nat → Nat → Nat) (a d : RegCode) : Except Trap Thread := do
  let x ← t.src cx isIntTag a
  .ok (t.write cx d ⟨mapElems x.tag op x.data, x.tag⟩ .sb)

/-- MOV: data and tag of every tag but POISON (R74). -/
def Thread.copy (t : Thread) (cx : Ctx) (a d : RegCode) : Except Trap Thread := do
  let x ← t.src cx (fun _ => true) a
  .ok (t.write cx d x latInt)

/-- pos and the clipped length of EXT and INS (R78). -/
def extField (b : Word) : Nat × Nat :=
  let pos := bitsOf b.toNat 0 6
  (pos, min (bitsOf b.toNat 8 6 + 1) (64 - pos))

/-- EXT and EXT.U (R78). -/
def Thread.extract (t : Thread) (cx : Ctx) (u : Bool) (b a d : RegCode) : Except Trap Thread := do
  let x ← t.src cx isAddrTag a
  let y ← t.src cx isAddrTag b
  let (pos, len) := extField y.data
  let v := x.data.toNat / 2 ^ pos % 2 ^ len
  .ok (t.write cx d ⟨BitVec.ofNat 64 (if u then v else wrap 64 (signed len v)), .i64⟩ .sb)

/-- INS: the field of d is replaced by the low bits of a (R78); d is checked after b, which R23 leaves open (DESIGN CHOICE, log 66). -/
def Thread.insert (t : Thread) (cx : Ctx) (b a d : RegCode) : Except Trap Thread := do
  let x ← t.src cx isAddrTag a
  let y ← t.src cx isAddrTag b
  let old ← t.src cx isAddrTag d
  let (pos, len) := extField y.data
  let m : Word := BitVec.ofNat 64 ((2 ^ len - 1) * 2 ^ pos)
  .ok (t.write cx d ⟨(old.data &&& ~~~m) ||| ((x.data <<< pos) &&& m), .i64⟩ .sb)

/-- A compare of two integer-class sources: the relation in every element (R87). -/
def Thread.cmp2 (t : Thread) (cx : Ctx) (rel : Nat → Nat → Nat → Bool) (b a : RegCode) (k : Nat) : Except Trap Thread := do
  let x ← t.src cx isIntTag a
  let y ← t.src cx isIntTag b
  let g ← layoutInt x y
  .ok (t.writeK cx k (((elems g x.data).zip (elems g y.data)).all fun (x, y) => rel (tagWidth g) x y) latInt)

/-- A compare with an immediate (R75, R87). -/
def Thread.cmpImm (t : Thread) (cx : Ctx) (rel : Nat → Nat → Nat → Bool) (v : Word) (a : RegCode) (k : Nat) :
    Except Trap Thread := do
  let x ← t.src cx isIntTag a
  let y := immElems x.tag v
  let w := tagWidth x.tag
  .ok (t.writeK cx k (((elems x.tag x.data).zip (elems x.tag y)).all fun (x, y) => rel w x y) latInt)

def eqE (_w x y : Nat) : Bool := x == y
def neE (_w x y : Nat) : Bool := x != y
def ltE (w x y : Nat) : Bool := decide (signed w x < signed w y)
def ltUE (_w x y : Nat) : Bool := decide (x < y)
def leE (w x y : Nat) : Bool := decide (signed w x ≤ signed w y)
def leUE (_w x y : Nat) : Bool := decide (x ≤ y)

/-- A mask operation on the thread's bits of two masks (R89). -/
def Thread.maskOp (t : Thread) (cx : Ctx) (op : Bool → Bool → Bool) (f : FRM) : Except Trap Thread := do
  let x ← t.readK cx f.m.toNat
  let y ← t.readK cx f.n.toNat
  .ok (t.writeK cx f.k.toNat (op x y) latInt)

/-- The register a C form names in its b field: g0 to g31 (R49). -/
abbrev cReg (b : BitVec 5) : RegCode := b.zeroExtend 6

/-! ### Instructions -/

/-- ADD (R73): (x + y) mod 2^w. -/
def doAdd (f : FR) (cx : Ctx) (t : Thread) : Except Trap Thread := t.int2 cx addE f.b f.a f.d latInt

def execAdd (f : FR) (s : State) : Host.Outcome State Fault Refusal :=
  .next (s.execThread (.add f) f.g f.s.toNat (doAdd f))

/-- SUB (R73): (x − y) mod 2^w. -/
def doSub (f : FR) (cx : Ctx) (t : Thread) : Except Trap Thread := t.int2 cx subE f.b f.a f.d latInt

def execSub (f : FR) (s : State) : Host.Outcome State Fault Refusal :=
  .next (s.execThread (.sub f) f.g f.s.toNat (doSub f))

/-- SHL (R73): x shifted left by y. -/
def doShl (f : FR) (cx : Ctx) (t : Thread) : Except Trap Thread := t.int2 cx shlE f.b f.a f.d latInt

def execShl (f : FR) (s : State) : Host.Outcome State Fault Refusal :=
  .next (s.execThread (.shl f) f.g f.s.toNat (doShl f))

/-- SHR (R73): x shifted right, sign-filled. -/
def doShr (f : FR) (cx : Ctx) (t : Thread) : Except Trap Thread := t.int2 cx shrE f.b f.a f.d latInt

def execShr (f : FR) (s : State) : Host.Outcome State Fault Refusal :=
  .next (s.execThread (.shr f) f.g f.s.toNat (doShr f))

/-- SHRU (R73): x shifted right, zero-filled. -/
def doShrU (f : FR) (cx : Ctx) (t : Thread) : Except Trap Thread := t.int2 cx shrUE f.b f.a f.d latInt

def execShrU (f : FR) (s : State) : Host.Outcome State Fault Refusal :=
  .next (s.execThread (.shrU f) f.g f.s.toNat (doShrU f))

/-- ROL (R73): x rotated left by y mod w. -/
def doRol (f : FR) (cx : Ctx) (t : Thread) : Except Trap Thread := t.int2 cx rolE f.b f.a f.d latInt

def execRol (f : FR) (s : State) : Host.Outcome State Fault Refusal :=
  .next (s.execThread (.rol f) f.g f.s.toNat (doRol f))

/-- MUL (R73): low half of the product. -/
def doMul (f : FR) (cx : Ctx) (t : Thread) : Except Trap Thread := t.int2 cx mulE f.b f.a f.d latInt

def execMul (f : FR) (s : State) : Host.Outcome State Fault Refusal :=
  .next (s.execThread (.mul f) f.g f.s.toNat (doMul f))

/-- MULH (R73): high half of the signed product. -/
def doMulh (f : FR) (cx : Ctx) (t : Thread) : Except Trap Thread := t.int2 cx mulhE f.b f.a f.d latInt

def execMulh (f : FR) (s : State) : Host.Outcome State Fault Refusal :=
  .next (s.execThread (.mulh f) f.g f.s.toNat (doMulh f))

/-- MULHU (R73): high half of the unsigned product. -/
def doMulhU (f : FR) (cx : Ctx) (t : Thread) : Except Trap Thread := t.int2 cx mulhUE f.b f.a f.d latInt

def execMulhU (f : FR) (s : State) : Host.Outcome State Fault Refusal :=
  .next (s.execThread (.mulhU f) f.g f.s.toNat (doMulhU f))

/-- MIN (R73): lesser, signed. -/
def doMin (f : FR) (cx : Ctx) (t : Thread) : Except Trap Thread := t.int2 cx minE f.b f.a f.d latInt

def execMin (f : FR) (s : State) : Host.Outcome State Fault Refusal :=
  .next (s.execThread (.min f) f.g f.s.toNat (doMin f))

/-- MINU (R73): lesser, unsigned. -/
def doMinU (f : FR) (cx : Ctx) (t : Thread) : Except Trap Thread := t.int2 cx minUE f.b f.a f.d latInt

def execMinU (f : FR) (s : State) : Host.Outcome State Fault Refusal :=
  .next (s.execThread (.minU f) f.g f.s.toNat (doMinU f))

/-- MAX (R73): greater, signed. -/
def doMax (f : FR) (cx : Ctx) (t : Thread) : Except Trap Thread := t.int2 cx maxE f.b f.a f.d latInt

def execMax (f : FR) (s : State) : Host.Outcome State Fault Refusal :=
  .next (s.execThread (.max f) f.g f.s.toNat (doMax f))

/-- MAXU (R73): greater, unsigned. -/
def doMaxU (f : FR) (cx : Ctx) (t : Thread) : Except Trap Thread := t.int2 cx maxUE f.b f.a f.d latInt

def execMaxU (f : FR) (s : State) : Host.Outcome State Fault Refusal :=
  .next (s.execThread (.maxU f) f.g f.s.toNat (doMaxU f))

/-- ADDS (R73): Sat of the sum, signed. -/
def doAdds (f : FR) (cx : Ctx) (t : Thread) : Except Trap Thread := t.int2 cx addsE f.b f.a f.d latInt

def execAdds (f : FR) (s : State) : Host.Outcome State Fault Refusal :=
  .next (s.execThread (.adds f) f.g f.s.toNat (doAdds f))

/-- ADDSU (R73): Sat of the sum, unsigned. -/
def doAddsU (f : FR) (cx : Ctx) (t : Thread) : Except Trap Thread := t.int2 cx addsUE f.b f.a f.d latInt

def execAddsU (f : FR) (s : State) : Host.Outcome State Fault Refusal :=
  .next (s.execThread (.addsU f) f.g f.s.toNat (doAddsU f))

/-- SUBS (R73): Sat of the difference, signed. -/
def doSubs (f : FR) (cx : Ctx) (t : Thread) : Except Trap Thread := t.int2 cx subsE f.b f.a f.d latInt

def execSubs (f : FR) (s : State) : Host.Outcome State Fault Refusal :=
  .next (s.execThread (.subs f) f.g f.s.toNat (doSubs f))

/-- SUBSU (R73): Sat of the difference, unsigned. -/
def doSubsU (f : FR) (cx : Ctx) (t : Thread) : Except Trap Thread := t.int2 cx subsUE f.b f.a f.d latInt

def execSubsU (f : FR) (s : State) : Host.Outcome State Fault Refusal :=
  .next (s.execThread (.subsU f) f.g f.s.toNat (doSubsU f))

/-- AND (R73): on all 64 bits, with the tag of a. -/
def doAnd (f : FR) (cx : Ctx) (t : Thread) : Except Trap Thread := t.bit2 cx (· &&& ·) f.b f.a f.d

def execAnd (f : FR) (s : State) : Host.Outcome State Fault Refusal :=
  .next (s.execThread (.and f) f.g f.s.toNat (doAnd f))

/-- OR (R73): on all 64 bits, with the tag of a. -/
def doOr (f : FR) (cx : Ctx) (t : Thread) : Except Trap Thread := t.bit2 cx (· ||| ·) f.b f.a f.d

def execOr (f : FR) (s : State) : Host.Outcome State Fault Refusal :=
  .next (s.execThread (.or f) f.g f.s.toNat (doOr f))

/-- XOR (R73): on all 64 bits, with the tag of a. -/
def doXor (f : FR) (cx : Ctx) (t : Thread) : Except Trap Thread := t.bit2 cx (· ^^^ ·) f.b f.a f.d

def execXor (f : FR) (s : State) : Host.Outcome State Fault Refusal :=
  .next (s.execThread (.xor f) f.g f.s.toNat (doXor f))

/-- ANDN (R73): on all 64 bits, with the tag of a. -/
def doAndn (f : FR) (cx : Ctx) (t : Thread) : Except Trap Thread := t.bit2 cx (fun x y => x &&& ~~~y) f.b f.a f.d

def execAndn (f : FR) (s : State) : Host.Outcome State Fault Refusal :=
  .next (s.execThread (.andn f) f.g f.s.toNat (doAndn f))

/-- MOV (R74). -/
def doMov (f : FRU) (cx : Ctx) (t : Thread) : Except Trap Thread := t.copy cx f.a f.d

def execMov (f : FRU) (s : State) : Host.Outcome State Fault Refusal :=
  .next (s.execThread (.mov f) f.g f.s.toNat (doMov f))

/-- C form of ADD with a equal to d (R49). -/
def doAddC (b : BitVec 5) (d : RegCode) (cx : Ctx) (t : Thread) : Except Trap Thread := t.int2 cx addE (cReg b) d d latInt

def execAddC (b : BitVec 5) (d : RegCode) (s : State) : Host.Outcome State Fault Refusal :=
  .next (s.execThread (.addC b d) 0 0 (doAddC b d))

/-- C form of SUB with a equal to d (R49). -/
def doSubC (b : BitVec 5) (d : RegCode) (cx : Ctx) (t : Thread) : Except Trap Thread := t.int2 cx subE (cReg b) d d latInt

def execSubC (b : BitVec 5) (d : RegCode) (s : State) : Host.Outcome State Fault Refusal :=
  .next (s.execThread (.subC b d) 0 0 (doSubC b d))

/-- C form of AND with a equal to d (R49). -/
def doAndC (b : BitVec 5) (d : RegCode) (cx : Ctx) (t : Thread) : Except Trap Thread := t.bit2 cx (· &&& ·) (cReg b) d d

def execAndC (b : BitVec 5) (d : RegCode) (s : State) : Host.Outcome State Fault Refusal :=
  .next (s.execThread (.andC b d) 0 0 (doAndC b d))

/-- C form of OR with a equal to d (R49). -/
def doOrC (b : BitVec 5) (d : RegCode) (cx : Ctx) (t : Thread) : Except Trap Thread := t.bit2 cx (· ||| ·) (cReg b) d d

def execOrC (b : BitVec 5) (d : RegCode) (s : State) : Host.Outcome State Fault Refusal :=
  .next (s.execThread (.orC b d) 0 0 (doOrC b d))

/-- C form of XOR with a equal to d (R49). -/
def doXorC (b : BitVec 5) (d : RegCode) (cx : Ctx) (t : Thread) : Except Trap Thread := t.bit2 cx (· ^^^ ·) (cReg b) d d

def execXorC (b : BitVec 5) (d : RegCode) (s : State) : Host.Outcome State Fault Refusal :=
  .next (s.execThread (.xorC b d) 0 0 (doXorC b d))

/-- C form of SHLI: imm5 unsigned (R49). -/
def doShliC (i : BitVec 5) (d : RegCode) (cx : Ctx) (t : Thread) : Except Trap Thread := t.intImm cx shlE (i.zeroExtend 64) d d

def execShliC (i : BitVec 5) (d : RegCode) (s : State) : Host.Outcome State Fault Refusal :=
  .next (s.execThread (.shliC i d) 0 0 (doShliC i d))

/-- C form of SHRI: imm5 unsigned (R49). -/
def doShriC (i : BitVec 5) (d : RegCode) (cx : Ctx) (t : Thread) : Except Trap Thread := t.intImm cx shrE (i.zeroExtend 64) d d

def execShriC (i : BitVec 5) (d : RegCode) (s : State) : Host.Outcome State Fault Refusal :=
  .next (s.execThread (.shriC i d) 0 0 (doShriC i d))

/-- C form of ADDI: imm5 signed (R49). -/
def doAddiC (i : BitVec 5) (d : RegCode) (cx : Ctx) (t : Thread) : Except Trap Thread := t.intImm cx addE (sext i) d d

def execAddiC (i : BitVec 5) (d : RegCode) (s : State) : Host.Outcome State Fault Refusal :=
  .next (s.execThread (.addiC i d) 0 0 (doAddiC i d))

/-- C form of MOV (R49, R74). -/
def doMovC (b : BitVec 5) (d : RegCode) (cx : Ctx) (t : Thread) : Except Trap Thread := t.copy cx (cReg b) d

def execMovC (b : BitVec 5) (d : RegCode) (s : State) : Host.Outcome State Fault Refusal :=
  .next (s.execThread (.movC b d) 0 0 (doMovC b d))

/-- ADDI (R75). -/
def doAddi (i : BitVec 12) (a : RegCode) (d : RegCode) (cx : Ctx) (t : Thread) : Except Trap Thread := t.intImm cx addE (sext i) a d

def execAddi (i : BitVec 12) (a : RegCode) (d : RegCode) (s : State) : Host.Outcome State Fault Refusal :=
  .next (s.execThread (.addi i a d) 0 0 (doAddi i a d))

/-- ANDI (R75). -/
def doAndi (i : BitVec 12) (a : RegCode) (d : RegCode) (cx : Ctx) (t : Thread) : Except Trap Thread := t.bitImm cx (· &&& ·) (sext i) a d

def execAndi (i : BitVec 12) (a : RegCode) (d : RegCode) (s : State) : Host.Outcome State Fault Refusal :=
  .next (s.execThread (.andi i a d) 0 0 (doAndi i a d))

/-- ORI (R75). -/
def doOri (i : BitVec 12) (a : RegCode) (d : RegCode) (cx : Ctx) (t : Thread) : Except Trap Thread := t.bitImm cx (· ||| ·) (sext i) a d

def execOri (i : BitVec 12) (a : RegCode) (d : RegCode) (s : State) : Host.Outcome State Fault Refusal :=
  .next (s.execThread (.ori i a d) 0 0 (doOri i a d))

/-- XORI (R75). -/
def doXori (i : BitVec 12) (a : RegCode) (d : RegCode) (cx : Ctx) (t : Thread) : Except Trap Thread := t.bitImm cx (· ^^^ ·) (sext i) a d

def execXori (i : BitVec 12) (a : RegCode) (d : RegCode) (s : State) : Host.Outcome State Fault Refusal :=
  .next (s.execThread (.xori i a d) 0 0 (doXori i a d))

/-- SHLI (R75): as SHL with s = imm. -/
def doShli (i : BitVec 6) (a : RegCode) (d : RegCode) (cx : Ctx) (t : Thread) : Except Trap Thread := t.intImm cx shlE (i.zeroExtend 64) a d

def execShli (i : BitVec 6) (a : RegCode) (d : RegCode) (s : State) : Host.Outcome State Fault Refusal :=
  .next (s.execThread (.shli i a d) 0 0 (doShli i a d))

/-- SHRI (R75): as SHR with s = imm. -/
def doShri (i : BitVec 6) (a : RegCode) (d : RegCode) (cx : Ctx) (t : Thread) : Except Trap Thread := t.intImm cx shrE (i.zeroExtend 64) a d

def execShri (i : BitVec 6) (a : RegCode) (d : RegCode) (s : State) : Host.Outcome State Fault Refusal :=
  .next (s.execThread (.shri i a d) 0 0 (doShri i a d))

/-- SHRI.U (R75): as SHR.U with s = imm. -/
def doShriU (i : BitVec 6) (a : RegCode) (d : RegCode) (cx : Ctx) (t : Thread) : Except Trap Thread := t.intImm cx shrUE (i.zeroExtend 64) a d

def execShriU (i : BitVec 6) (a : RegCode) (d : RegCode) (s : State) : Host.Outcome State Fault Refusal :=
  .next (s.execThread (.shriU i a d) 0 0 (doShriU i a d))

/-- MULI (R75). -/
def doMuli (i : BitVec 12) (a : RegCode) (d : RegCode) (cx : Ctx) (t : Thread) : Except Trap Thread := t.intImm cx mulE (sext i) a d

def execMuli (i : BitVec 12) (a : RegCode) (d : RegCode) (s : State) : Host.Outcome State Fault Refusal :=
  .next (s.execThread (.muli i a d) 0 0 (doMuli i a d))

/-- MOVI (R75): the sign-extended immediate, tag I64. -/
def doMovi (i : BitVec 12) (d : RegCode) (cx : Ctx) (t : Thread) : Except Trap Thread := .ok (t.write cx d ⟨sext i, .i64⟩ latInt)

def execMovi (i : BitVec 12) (d : RegCode) (s : State) : Host.Outcome State Fault Refusal :=
  .next (s.execThread (.movi i d) 0 0 (doMovi i d))

/-- RETAG (R95): the data of a with another tag. -/
def doRetag (x : BitVec 4) (a : RegCode) (d : RegCode) (cx : Ctx) (t : Thread) : Except Trap Thread := do
  let v ← t.src cx (fun _ => true) a
  .ok (t.write cx d ⟨v.data, tagOf x.toNat⟩ latInt)

def execRetag (x : BitVec 4) (a : RegCode) (d : RegCode) (s : State) : Host.Outcome State Fault Refusal :=
  .next (s.execThread (.retag x a d) 0 0 (doRetag x a d))

/-- LDHI (R76). -/
def doLdhi (i : BitVec 18) (d : RegCode) (cx : Ctx) (t : Thread) : Except Trap Thread := .ok (t.write cx d ⟨sext i * 4096, .i64⟩ latInt)

def execLdhi (i : BitVec 18) (d : RegCode) (s : State) : Host.Outcome State Fault Refusal :=
  .next (s.execThread (.ldhi i d) 0 0 (doLdhi i d))

/-- PCREL (R76). -/
def doPcrel (i : BitVec 18) (d : RegCode) (cx : Ctx) (t : Thread) : Except Trap Thread := .ok (t.write cx d ⟨(cx.pc &&& ~~~0xFFF) + sext i * 4096, .i64⟩ latInt)

def execPcrel (i : BitVec 18) (d : RegCode) (s : State) : Host.Outcome State Fault Refusal :=
  .next (s.execThread (.pcrel i d) 0 0 (doPcrel i d))

/-- DIV (R77). -/
def doDiv (b : RegCode) (a : RegCode) (d : RegCode) (cx : Ctx) (t : Thread) : Except Trap Thread := t.int2 cx divE b a d .sb

def execDiv (b : RegCode) (a : RegCode) (d : RegCode) (s : State) : Host.Outcome State Fault Refusal :=
  .next (s.execThread (.div b a d) 0 0 (doDiv b a d))

/-- DIVU (R77). -/
def doDivU (b : RegCode) (a : RegCode) (d : RegCode) (cx : Ctx) (t : Thread) : Except Trap Thread := t.int2 cx divUE b a d .sb

def execDivU (b : RegCode) (a : RegCode) (d : RegCode) (s : State) : Host.Outcome State Fault Refusal :=
  .next (s.execThread (.divU b a d) 0 0 (doDivU b a d))

/-- REM (R77). -/
def doRem (b : RegCode) (a : RegCode) (d : RegCode) (cx : Ctx) (t : Thread) : Except Trap Thread := t.int2 cx remE b a d .sb

def execRem (b : RegCode) (a : RegCode) (d : RegCode) (s : State) : Host.Outcome State Fault Refusal :=
  .next (s.execThread (.rem b a d) 0 0 (doRem b a d))

/-- REMU (R77). -/
def doRemU (b : RegCode) (a : RegCode) (d : RegCode) (cx : Ctx) (t : Thread) : Except Trap Thread := t.int2 cx remUE b a d .sb

def execRemU (b : RegCode) (a : RegCode) (d : RegCode) (s : State) : Host.Outcome State Fault Refusal :=
  .next (s.execThread (.remU b a d) 0 0 (doRemU b a d))

/-- POPC (R77). -/
def doPopc (a : RegCode) (d : RegCode) (cx : Ctx) (t : Thread) : Except Trap Thread := t.int1 cx popcE a d

def execPopc (a : RegCode) (d : RegCode) (s : State) : Host.Outcome State Fault Refusal :=
  .next (s.execThread (.popc a d) 0 0 (doPopc a d))

/-- CLZ (R77). -/
def doClz (a : RegCode) (d : RegCode) (cx : Ctx) (t : Thread) : Except Trap Thread := t.int1 cx clzE a d

def execClz (a : RegCode) (d : RegCode) (s : State) : Host.Outcome State Fault Refusal :=
  .next (s.execThread (.clz a d) 0 0 (doClz a d))

/-- CTZ (R77). -/
def doCtz (a : RegCode) (d : RegCode) (cx : Ctx) (t : Thread) : Except Trap Thread := t.int1 cx ctzE a d

def execCtz (a : RegCode) (d : RegCode) (s : State) : Host.Outcome State Fault Refusal :=
  .next (s.execThread (.ctz a d) 0 0 (doCtz a d))

/-- BREV (R77). -/
def doBrev (a : RegCode) (d : RegCode) (cx : Ctx) (t : Thread) : Except Trap Thread := t.int1 cx brevE a d

def execBrev (a : RegCode) (d : RegCode) (s : State) : Host.Outcome State Fault Refusal :=
  .next (s.execThread (.brev a d) 0 0 (doBrev a d))

/-- BSWAP (R77). -/
def doBswap (a : RegCode) (d : RegCode) (cx : Ctx) (t : Thread) : Except Trap Thread := t.int1 cx bswapE a d

def execBswap (a : RegCode) (d : RegCode) (s : State) : Host.Outcome State Fault Refusal :=
  .next (s.execThread (.bswap a d) 0 0 (doBswap a d))

/-- ABS (R77). -/
def doAbs (a : RegCode) (d : RegCode) (cx : Ctx) (t : Thread) : Except Trap Thread := t.int1 cx absE a d

def execAbs (a : RegCode) (d : RegCode) (s : State) : Host.Outcome State Fault Refusal :=
  .next (s.execThread (.abs a d) 0 0 (doAbs a d))

/-- NEG (R77). -/
def doNeg (a : RegCode) (d : RegCode) (cx : Ctx) (t : Thread) : Except Trap Thread := t.int1 cx negE a d

def execNeg (a : RegCode) (d : RegCode) (s : State) : Host.Outcome State Fault Refusal :=
  .next (s.execThread (.neg a d) 0 0 (doNeg a d))

/-- EXT (R78). -/
def doExt (b : RegCode) (a : RegCode) (d : RegCode) (cx : Ctx) (t : Thread) : Except Trap Thread := t.extract cx false b a d

def execExt (b : RegCode) (a : RegCode) (d : RegCode) (s : State) : Host.Outcome State Fault Refusal :=
  .next (s.execThread (.ext b a d) 0 0 (doExt b a d))

/-- EXT.U (R78). -/
def doExtU (b : RegCode) (a : RegCode) (d : RegCode) (cx : Ctx) (t : Thread) : Except Trap Thread := t.extract cx true b a d

def execExtU (b : RegCode) (a : RegCode) (d : RegCode) (s : State) : Host.Outcome State Fault Refusal :=
  .next (s.execThread (.extU b a d) 0 0 (doExtU b a d))

/-- INS (R78). -/
def doIns (b : RegCode) (a : RegCode) (d : RegCode) (cx : Ctx) (t : Thread) : Except Trap Thread := t.insert cx b a d

def execIns (b : RegCode) (a : RegCode) (d : RegCode) (s : State) : Host.Outcome State Fault Refusal :=
  .next (s.execThread (.ins b a d) 0 0 (doIns b a d))

/-- CMPEQ (R87). -/
def doCmpeq (f : FRK) (cx : Ctx) (t : Thread) : Except Trap Thread := t.cmp2 cx eqE f.b f.a f.k.toNat

def execCmpeq (f : FRK) (s : State) : Host.Outcome State Fault Refusal :=
  .next (s.execThread (.cmpeq f) f.g f.s.toNat (doCmpeq f))

/-- CMPNE (R87). -/
def doCmpne (f : FRK) (cx : Ctx) (t : Thread) : Except Trap Thread := t.cmp2 cx neE f.b f.a f.k.toNat

def execCmpne (f : FRK) (s : State) : Host.Outcome State Fault Refusal :=
  .next (s.execThread (.cmpne f) f.g f.s.toNat (doCmpne f))

/-- CMPLT (R87). -/
def doCmplt (f : FRK) (cx : Ctx) (t : Thread) : Except Trap Thread := t.cmp2 cx ltE f.b f.a f.k.toNat

def execCmplt (f : FRK) (s : State) : Host.Outcome State Fault Refusal :=
  .next (s.execThread (.cmplt f) f.g f.s.toNat (doCmplt f))

/-- CMPLTU (R87). -/
def doCmpltU (f : FRK) (cx : Ctx) (t : Thread) : Except Trap Thread := t.cmp2 cx ltUE f.b f.a f.k.toNat

def execCmpltU (f : FRK) (s : State) : Host.Outcome State Fault Refusal :=
  .next (s.execThread (.cmpltU f) f.g f.s.toNat (doCmpltU f))

/-- CMPLE (R87). -/
def doCmple (f : FRK) (cx : Ctx) (t : Thread) : Except Trap Thread := t.cmp2 cx leE f.b f.a f.k.toNat

def execCmple (f : FRK) (s : State) : Host.Outcome State Fault Refusal :=
  .next (s.execThread (.cmple f) f.g f.s.toNat (doCmple f))

/-- CMPLEU (R87). -/
def doCmpleU (f : FRK) (cx : Ctx) (t : Thread) : Except Trap Thread := t.cmp2 cx leUE f.b f.a f.k.toNat

def execCmpleU (f : FRK) (s : State) : Host.Outcome State Fault Refusal :=
  .next (s.execThread (.cmpleU f) f.g f.s.toNat (doCmpleU f))

/-- CMPEQI (R87). -/
def doCmpeqi (i : BitVec 12) (a : RegCode) (k : BitVec 3) (cx : Ctx) (t : Thread) : Except Trap Thread := t.cmpImm cx eqE (sext i) a k.toNat

def execCmpeqi (i : BitVec 12) (a : RegCode) (k : BitVec 3) (s : State) : Host.Outcome State Fault Refusal :=
  .next (s.execThread (.cmpeqi i a k) 0 0 (doCmpeqi i a k))

/-- CMPLTI (R87). -/
def doCmplti (i : BitVec 12) (a : RegCode) (k : BitVec 3) (cx : Ctx) (t : Thread) : Except Trap Thread := t.cmpImm cx ltE (sext i) a k.toNat

def execCmplti (i : BitVec 12) (a : RegCode) (k : BitVec 3) (s : State) : Host.Outcome State Fault Refusal :=
  .next (s.execThread (.cmplti i a k) 0 0 (doCmplti i a k))

/-- CMPLTIU (R87). -/
def doCmpltiU (i : BitVec 12) (a : RegCode) (k : BitVec 3) (cx : Ctx) (t : Thread) : Except Trap Thread := t.cmpImm cx ltUE (sext i) a k.toNat

def execCmpltiU (i : BitVec 12) (a : RegCode) (k : BitVec 3) (s : State) : Host.Outcome State Fault Refusal :=
  .next (s.execThread (.cmpltiU i a k) 0 0 (doCmpltiU i a k))

/-- C form of CMPLT: k1 alone is written (R79). -/
def doCmpltC (b : BitVec 5) (d : RegCode) (cx : Ctx) (t : Thread) : Except Trap Thread := t.cmp2 cx ltE (cReg b) d 1

def execCmpltC (b : BitVec 5) (d : RegCode) (s : State) : Host.Outcome State Fault Refusal :=
  .next (s.execThread (.cmpltC b d) 0 0 (doCmpltC b d))

/-- KAND (R89). -/
def doKand (f : FRM) (cx : Ctx) (t : Thread) : Except Trap Thread := t.maskOp cx (· && ·) f

def execKand (f : FRM) (s : State) : Host.Outcome State Fault Refusal :=
  .next (s.execThread (.kand f) f.g f.s.toNat (doKand f))

/-- KOR (R89). -/
def doKor (f : FRM) (cx : Ctx) (t : Thread) : Except Trap Thread := t.maskOp cx (· || ·) f

def execKor (f : FRM) (s : State) : Host.Outcome State Fault Refusal :=
  .next (s.execThread (.kor f) f.g f.s.toNat (doKor f))

/-- KXOR (R89). -/
def doKxor (f : FRM) (cx : Ctx) (t : Thread) : Except Trap Thread := t.maskOp cx (· != ·) f

def execKxor (f : FRM) (s : State) : Host.Outcome State Fault Refusal :=
  .next (s.execThread (.kxor f) f.g f.s.toNat (doKxor f))

/-- KANDN (R89). -/
def doKandn (f : FRM) (cx : Ctx) (t : Thread) : Except Trap Thread := t.maskOp cx (fun x y => x && !y) f

def execKandn (f : FRM) (s : State) : Host.Outcome State Fault Refusal :=
  .next (s.execThread (.kandn f) f.g f.s.toNat (doKandn f))

end Sys2Proof.Machine
end

