-- ==== Sys2Proof/Machine/LoadStore.lean ====
section
/-!
DEFINITION. Machine/LoadStore.lean: plain, qualified, view-relative and tagged loads and stores, LEA (R92-R94, R235-R241),
and what becomes of them inside an enumerated region (R150, R154, R162-R164).
-/
namespace Sys2Proof.Machine

/-! ### The hold queue and the filters of a region -/

/-- A change of the chunk of the group of squads that begins at `gbase`: a squad belongs to one chunk, so that two chunks never begin alike (R147). -/
def Crew.modChunk (c : Crew) (gbase : Nat) (f : Chunk → Chunk) : Crew :=
  { c with chunks := c.chunks.map fun ch => if ch.gbase = gbase then f ch else ch }

/-- The two bits that a line sets in a filter (R162). -/
def lineBits (addr : Word) : BitVec 2048 :=
  let x := addr.toNat / 64
  let h1 := (x ^^^ x / 2 ^ 10 ^^^ x / 2 ^ 20 ^^^ x / 2 ^ 30 ^^^ x / 2 ^ 40 ^^^ x / 2 ^ 50) % 1024
  let y := (x % 2 ^ 32) ^^^ (x / 2 ^ 32)
  let h2 := (y * 0x9E3779B1) % 2 ^ 32 / 2 ^ 22
  (1#2048 <<< h1) ||| (1#2048 <<< (1024 + h2))

/-- Hit of R162: a common bit in each half. -/
def filtersHit (r w : BitVec 2048) : Bool :=
  (r &&& w).extractLsb' 0 1024 != 0 && (r &&& w).extractLsb' 1024 1024 != 0

/-- A hold-queue entry (R150), as it stands in scratchpad. -/
structure HoldEntry where
  addr : Word
  data : Word
  mask : BitVec 8
  lane : Nat
  seq : Nat
  viaView : Bool
  view : Word
  deriving DecidableEq, Repr

def HoldEntry.bytes (e : HoldEntry) : List Byte :=
  bytesLE 8 e.addr.toNat ++ bytesLE 8 e.data.toNat ++ [e.mask] ++ bytesLE 1 e.lane ++ bytesLE 2 e.seq
    ++ [if e.viaView then 1 else 0, 0, 0, 0] ++ bytesLE 8 e.view.toNat

/-- Entry n of a chunk area; the header takes entries 0 to 31 (R149, R150). -/
def holdEntryAt (scratch : Memory) (off n : Nat) : HoldEntry :=
  let a := off + 32 * n
  let f := fun o k => natLE (scratch.readBytes (a + o) k)
  { addr := BitVec.ofNat 64 (f 0 8), data := BitVec.ofNat 64 (f 8 8), mask := BitVec.ofNat 8 (f 16 1), lane := f 17 1,
    seq := f 18 2, viaView := f 20 1 % 2 == 1, view := BitVec.ofNat 64 (f 24 8) }

/-- The entries of a chunk in the order in which they were appended. -/
def chunkEntries (c : Crew) (ch : Chunk) : List HoldEntry :=
  (List.range ch.used).map fun n => holdEntryAt c.scratch ch.offset (32 + n)

/-- The chunk's capacity (R149). -/
def Chunk.cap (ch : Chunk) : Nat := ch.entries - 32

/-- The number of a lane within its enumeration group (R149). -/
def Chunk.groupLane (ch : Chunk) (num lane : Nat) : Nat := 32 * (num - ch.gbase) + lane

/-- Bytes that the device itself writes to a crew's scratchpad, in 16-byte parts (R216, R345); `n` parts may still follow. -/
def State.putParts (s : State) (lid crew : Nat) : Nat → Nat → List Byte → State
  | 0, _, _ => s
  | n + 1, off, bs =>
    let k := 16 - off % 16
    match bs with
    | [] => s
    | _ => State.putParts (s.landPart lid crew (.scratch lid crew off) 0 0 (bs.take k)) lid crew n (off + k) (bs.drop k)

def State.putScratch (s : State) (lid crew off : Nat) (bs : List Byte) : State := s.putParts lid crew (bs.length / 16 + 2) off bs

/-- An entry appended to the hold queue of the chunk at an offset, where it has room (R149, R154). -/
def State.appendEntry (s : State) (lid crew : Nat) (ch : Chunk) (e : HoldEntry) : State :=
  (s.putScratch lid crew (ch.offset + 32 * (32 + ch.used)) e.bytes).modCrew lid crew fun c =>
    c.modChunk ch.gbase fun ch => { ch with used := ch.used + 1 }

/-- The byte that a lane's latest store entry wrote at an address (R154). -/
def heldByte (es : List HoldEntry) (lane : Nat) (addr : Word) : Option Byte :=
  es.foldl (fun b e =>
    if e.mask ≠ 0 && e.lane = lane && e.addr = (addr &&& ~~~7) && e.mask.getLsbD (addr.toNat % 8) then
      some (BitVec.ofNat 8 (e.data.toNat / 2 ^ (8 * (addr.toNat % 8))))
    else b) none

/-! ### Addresses -/

/-- What names the bytes of an access: an address, or a byte within a view (R53, R235). -/
inductive AddrOp
  | plain (addr : Word)
  | view (h : Reg) (off : Int)
  deriving DecidableEq, Repr

/-- The address operands of an F-M form (R53, R92, R235, R237). -/
def Thread.addrFM (t : Thread) (cx : Ctx) (q : BitVec 2) (o : BitVec 10) (b : RegCode) (size : Nat) : Except Trap AddrOp :=
  if q = 3 then do
    let h ← t.src cx (· == .view) b
    let o3 ← t.src cx isAddrTag 59
    .ok (.view h ((o3.data.toNat : Int) + o.toInt * size))
  else do
    let v ← t.src cx isAddrTag b
    .ok (.plain (v.data + sext o * BitVec.ofNat 64 size))

/-- The address operands of LDT (R240). -/
def Thread.addrLDT (t : Thread) (cx : Ctx) (q : BitVec 2) (b a : RegCode) : Except Trap AddrOp :=
  if q = 3 then do
    let h ← t.src cx (· == .view) a
    let v ← t.src cx isAddrTag b
    .ok (.view h v.data.toNat)
  else do
    let v ← t.src cx isAddrTag a
    let w ← t.src cx isAddrTag b
    .ok (.plain (v.data + w.data))

/-- The address and location of an access, after every check of R93 and R200. -/
def State.locate (s : State) (cx : Ctx) (a : AddrOp) (nd : Need) (size : Nat) : Except Trap (Word × Loc) :=
  match a with
  | .plain addr => do
    let loc ← s.resolve cx false nd addr size
    .ok (addr, loc)
  | .view h off => do
    let addr ← s.viewAddr (s.launchOf cx.lid) h.data off size nd.viewRights
    let loc ← s.resolve cx true nd addr size
    .ok (addr, loc)

/-! ### Loads and stores -/

/-- The bytes a load returns, whether they are poisoned, and the state after: in an ENUM region a lane's own entries stand
before memory, and the line enters the read filter (R154, R162); elsewhere memory as the squad sees it. -/
def State.loadBytes (s : State) (cx : Ctx) (addr : Word) (loc : Loc) (size : Nat) : List Byte × Bool × State :=
  let (bs, bad) := s.readLoc cx loc size
  let s1 := match loc.place with
    | some p => s.noteRead p
    | none => s
  if cx.region = 1 then
    let c := s1.crewOf cx.lid cx.crew
    match c.chunkOf cx.num with
    | none => (bs, bad, s1)
    | some ch =>
      let es := chunkEntries c ch
      let own := (List.range size).map fun i => heldByte es (ch.groupLane cx.num cx.lane) (addr + BitVec.ofNat 64 i)
      (own.zipWith (fun o b => o.getD b) bs, bad && own.any (·.isNone),
        s1.setCrew cx.lid cx.crew (c.modChunk ch.gbase fun ch => { ch with readF := ch.readF ||| lineBits addr }))
  else (bs, bad, s1)

/-- A load's register result: sign- or zero-extended, or POISON (R92, R241). -/
def loadResult (sgn : Bool) (g : Tag) (bs : List Byte) (bad : Bool) : Reg :=
  let v := natLE bs
  ⟨BitVec.ofNat 64 (if sgn then wrap 64 (signed (8 * bs.length) v) else v), if bad then .poison else g⟩

/-- How a load observes writes: plainly; as an acquire; or fresh, at the atomic point, as an acquire does too (R222, R236). Inside an ENUM region the
qualifiers have no effect (R238). -/
structure LoadKind where
  aq : Bool
  fresh : Bool
  deriving DecidableEq, Repr

def loadKind (cx : Ctx) (q : BitVec 2) : LoadKind :=
  let on := cx.region != 1
  ⟨on && q == 1, on && (q == 1 || q == 2)⟩

/-- The scope at which a release acts (R214). -/
def Write.scope (w : Write) : Nat :=
  match w.place with
  | .dram .. => 4
  | .scratch .. => 3

/-- The scope at which a write must have been performed before a load of a thread is (0: none): a fresh load is performed at the atomic point (R217, R236);
accesses to SO pages keep their order (R219); an acquire follows the thread's releases (R224), but not to UO pages (R221). -/
def State.loadNeeds (s : State) (cx : Ctx) (loc : Loc) (k : LoadKind) (n : Nat) (w : Write) : Nat :=
  let own := w.by_ == cx.ref && w.lane == cx.lane
  if k.fresh && w.meets loc n && s.sees cx.ref cx.lane w then 4
  else if own && loc.ord == 0 && w.ord == 0 then 4
  else if own && k.aq && w.rel && loc.ord != 2 && w.ord != 2 then min loc.scope w.scope
  else 0

/-- The writes that must have been performed at some scope are brought there, as far as they can be; whether they all got there. -/
def State.bring (s : State) (need : Write → Nat) : State × Bool :=
  let s1 := (s.mem.writes.filter fun w => decide (w.stage < need w)).foldl
    (fun st w => st.push (need w) w.seq (4 * s.mem.writes.length + 4)) s
  (s1, s1.mem.writes.all fun w => decide (need w ≤ w.stage))

/-- The scope at which a write must have been performed before a fence of a thread completes, which is number n in the order of accesses: those of its own
earlier writes, and those performed for it before; FENCE.FULL takes in UO pages (R221, R226, R227). -/
def State.fenceNeeds (s : State) (r : SquadRef) (lane scope : Nat) (full : Bool) (n : Nat) (w : Write) : Nat :=
  if (full || w.ord != 2) && s.seenBefore r lane n w then scope else 0

/-- A fence that a lane waits in is complete. -/
def State.fenced (s : State) (r : SquadRef) (lane scope : Nat) (full : Bool) (n : Nat) : Bool :=
  s.mem.writes.all fun w => decide (s.fenceNeeds r lane scope full n w ≤ w.stage)

/-- The lane waits with its instruction undone, and issues it again when it can go on (R111). -/
def State.block (s : State) (cx : Ctx) (i : Instr) : State :=
  s.modThread cx.q cx.lane fun t => t.waitAt cx i (.blocked i)

/-- A load of a thread has a value: it fixes the earlier loads that it must follow, and takes its number in the order of accesses; its own value may still
change, except in a region (R231) and where no other thread can write (R223, R224). -/
def State.noteLoad (s : State) (cx : Ctx) (loc : Loc) (k : LoadKind) (size : Nat) (sgn : Bool) (g : Tag) : State :=
  let s := s.fixOwn cx.ref cx.lane fun r => r.keeps loc size 0
  let r : Read := { seq := s.seq, by_ := cx.ref, lane := cx.lane, loc := loc, size := size, sgn := sgn, tag := g, aq := k.aq, fresh := k.fresh }
  { s with seq := s.seq + 1, mem := { s.mem with reads := if cx.region = 0 && loc.place.isSome then s.mem.reads ++ [r] else s.mem.reads } }

/-- What a load does beside its checks (R92, R235, R240). -/
structure LoadForm where
  q : BitVec 2
  size : Nat
  sgn : Bool
  tag : Tag
  d : RegCode
  deriving DecidableEq, Repr

/-- A load that has passed its checks: the writes it must follow, data, register (R92, R93); it waits where a write that it must follow cannot be performed yet, and
its checks are not made again (R304). -/
def finishLoad (i : Instr) (f : LoadForm) (addr : Word) (loc : Loc) (cx : Ctx) (s : State) : State :=
  let (s, ready) := s.bring (s.loadNeeds cx loc (loadKind cx f.q) f.size)
  if !ready then s.modThread cx.q cx.lane fun t => t.waitAt cx i (.load addr loc i) else
  let (bs, bad, s') := s.loadBytes cx addr loc f.size
  (s'.noteLoad cx loc (loadKind cx f.q) f.size f.sgn f.tag).modThread cx.q cx.lane fun t => t.write cx f.d (loadResult f.sgn f.tag bs bad) (.mem s'.seq)

/-- A load of a thread: operands, checks, and then its data (R92, R93). -/
def loadLane (i : Instr) (opnd : Ctx → Thread → Except Trap AddrOp) (f : LoadForm) (cx : Ctx) (s : State) : Except Trap State := do
  let a ← opnd cx (s.thread cx.q cx.lane)
  let (addr, loc) ← s.locate cx a .load f.size
  .ok (finishLoad i f addr loc cx s)

/-- A store withheld in the hold queue, or the lane's stop when it is full (R154). -/
def State.hold (s : State) (cx : Ctx) (a : AddrOp) (addr : Word) (size : Nat) (data : Word) : State :=
  let c := s.crewOf cx.lid cx.crew
  match c.chunkOf cx.num with
  | none => s
  | some ch =>
    if ch.used = ch.cap then s.modThread cx.q cx.lane fun t => { t with pc := cx.pc, sig := cx.sig0, wait := .parked, lstop := 0xFE }
    else
      let t := s.thread cx.q cx.lane
      let b := addr.toNat % 8
      let e : HoldEntry :=
        { addr := addr &&& ~~~7
          data := BitVec.ofNat 64 (data.toNat % 2 ^ (8 * size) * 2 ^ (8 * b))
          mask := BitVec.ofNat 8 ((2 ^ size - 1) * 2 ^ b)
          lane := ch.groupLane cx.num cx.lane
          seq := t.held
          viaView := match a with | .view .. => true | .plain _ => false
          view := match a with | .view h _ => h.data | .plain _ => 0 }
      (s.appendEntry cx.lid cx.crew ch e).modThread cx.q cx.lane fun t => { t with held := t.held + 1 }

/-- A line enters the crew's written-line filter (R163). -/
def State.noteWritten (s : State) (lid crew : Nat) (addr : Word) : State :=
  s.modCrew lid crew fun c => { c with filter := c.filter ||| lineBits addr }

/-- A store of a thread: operands, checks, and the write or its withholding (R92, R93, R154, R164). -/
def storeLane (opnd : Ctx → Thread → Except Trap AddrOp) (size : Nat) (rel : Bool) (d : RegCode) (cx : Ctx) (s : State) :
    Except Trap State := do
  let t := s.thread cx.q cx.lane
  let a ← opnd cx t
  let v ← t.src cx (fun _ => true) d
  let (addr, loc) ← s.locate cx a .store size
  if cx.region = 1 then .ok (s.hold cx a addr size v.data)
  else
    let s' := s.storeLoc cx loc (bytesLE size v.data.toNat) rel
    .ok (if cx.region = 2 then s'.noteWritten cx.lid cx.crew addr else s')

/-! ### Instructions -/

/-- LD8 (R92, R235): 1 byte. -/
def execLd8 (q : BitVec 2) (o : BitVec 10) (b : RegCode) (d : RegCode) (s : State) : Host.Outcome State Fault Refusal :=
  .next (s.execLanes (.ld8 q o b d) 0 0 (loadLane (.ld8 q o b d) (fun cx t => t.addrFM cx q o b 1) ⟨q, 1, true, .i64, d⟩))

/-- LD8U (R92, R235): 1 byte. -/
def execLd8U (q : BitVec 2) (o : BitVec 10) (b : RegCode) (d : RegCode) (s : State) : Host.Outcome State Fault Refusal :=
  .next (s.execLanes (.ld8U q o b d) 0 0 (loadLane (.ld8U q o b d) (fun cx t => t.addrFM cx q o b 1) ⟨q, 1, false, .i64, d⟩))

/-- LD16 (R92, R235): 2 bytes. -/
def execLd16 (q : BitVec 2) (o : BitVec 10) (b : RegCode) (d : RegCode) (s : State) : Host.Outcome State Fault Refusal :=
  .next (s.execLanes (.ld16 q o b d) 0 0 (loadLane (.ld16 q o b d) (fun cx t => t.addrFM cx q o b 2) ⟨q, 2, true, .i64, d⟩))

/-- LD16U (R92, R235): 2 bytes. -/
def execLd16U (q : BitVec 2) (o : BitVec 10) (b : RegCode) (d : RegCode) (s : State) : Host.Outcome State Fault Refusal :=
  .next (s.execLanes (.ld16U q o b d) 0 0 (loadLane (.ld16U q o b d) (fun cx t => t.addrFM cx q o b 2) ⟨q, 2, false, .i64, d⟩))

/-- LD32 (R92, R235): 4 bytes. -/
def execLd32 (q : BitVec 2) (o : BitVec 10) (b : RegCode) (d : RegCode) (s : State) : Host.Outcome State Fault Refusal :=
  .next (s.execLanes (.ld32 q o b d) 0 0 (loadLane (.ld32 q o b d) (fun cx t => t.addrFM cx q o b 4) ⟨q, 4, true, .i64, d⟩))

/-- LD32U (R92, R235): 4 bytes. -/
def execLd32U (q : BitVec 2) (o : BitVec 10) (b : RegCode) (d : RegCode) (s : State) : Host.Outcome State Fault Refusal :=
  .next (s.execLanes (.ld32U q o b d) 0 0 (loadLane (.ld32U q o b d) (fun cx t => t.addrFM cx q o b 4) ⟨q, 4, false, .i64, d⟩))

/-- LD64 (R92, R235): 8 bytes. -/
def execLd64 (q : BitVec 2) (o : BitVec 10) (b : RegCode) (d : RegCode) (s : State) : Host.Outcome State Fault Refusal :=
  .next (s.execLanes (.ld64 q o b d) 0 0 (loadLane (.ld64 q o b d) (fun cx t => t.addrFM cx q o b 8) ⟨q, 8, false, .raw64, d⟩))

/-- ST8 (R92, R235): 1 byte; qualifier 1 is a release. -/
def execSt8 (q : BitVec 2) (o : BitVec 10) (b : RegCode) (d : RegCode) (s : State) : Host.Outcome State Fault Refusal :=
  .next (s.execLanes (.st8 q o b d) 0 0 (storeLane (fun cx t => t.addrFM cx q o b 1) 1 (q == 1) d))

/-- ST16 (R92, R235): 2 bytes; qualifier 1 is a release. -/
def execSt16 (q : BitVec 2) (o : BitVec 10) (b : RegCode) (d : RegCode) (s : State) : Host.Outcome State Fault Refusal :=
  .next (s.execLanes (.st16 q o b d) 0 0 (storeLane (fun cx t => t.addrFM cx q o b 2) 2 (q == 1) d))

/-- ST32 (R92, R235): 4 bytes; qualifier 1 is a release. -/
def execSt32 (q : BitVec 2) (o : BitVec 10) (b : RegCode) (d : RegCode) (s : State) : Host.Outcome State Fault Refusal :=
  .next (s.execLanes (.st32 q o b d) 0 0 (storeLane (fun cx t => t.addrFM cx q o b 4) 4 (q == 1) d))

/-- ST64 (R92, R235): 8 bytes; qualifier 1 is a release. -/
def execSt64 (q : BitVec 2) (o : BitVec 10) (b : RegCode) (d : RegCode) (s : State) : Host.Outcome State Fault Refusal :=
  .next (s.execLanes (.st64 q o b d) 0 0 (storeLane (fun cx t => t.addrFM cx q o b 8) 8 (q == 1) d))

/-- C form of LD64: offset 0, plain (R79). -/
def execLd64C (b : BitVec 5) (d : RegCode) (s : State) : Host.Outcome State Fault Refusal :=
  .next (s.execLanes (.ld64C b d) 0 0 (loadLane (.ld64C b d) (fun cx t => t.addrFM cx 0 0 (cReg b) 8) ⟨0, 8, false, .raw64, d⟩))

/-- C form of ST64: offset 0, plain (R79). -/
def execSt64C (b : BitVec 5) (d : RegCode) (s : State) : Host.Outcome State Fault Refusal :=
  .next (s.execLanes (.st64C b d) 0 0 (storeLane (fun cx t => t.addrFM cx 0 0 (cReg b) 8) 8 false d))

/-- LDT (R240): eight bytes with the tag named. -/
def execLdt (q : BitVec 2) (t : BitVec 4) (b : RegCode) (a : RegCode) (d : RegCode) (s : State) : Host.Outcome State Fault Refusal :=
  .next (s.execLanes (.ldt q t b a d) 0 0 (loadLane (.ldt q t b a d) (fun cx th => th.addrLDT cx q b a) ⟨q, 8, false, tagOf t.toNat, d⟩))

/-- The loads, by what each does. -/
def loadForm : Instr → Option LoadForm
  | .ld8 q _ _ d => some ⟨q, 1, true, .i64, d⟩
  | .ld8U q _ _ d => some ⟨q, 1, false, .i64, d⟩
  | .ld16 q _ _ d => some ⟨q, 2, true, .i64, d⟩
  | .ld16U q _ _ d => some ⟨q, 2, false, .i64, d⟩
  | .ld32 q _ _ d => some ⟨q, 4, true, .i64, d⟩
  | .ld32U q _ _ d => some ⟨q, 4, false, .i64, d⟩
  | .ld64 q _ _ d => some ⟨q, 8, false, .raw64, d⟩
  | .ld64C _ d => some ⟨0, 8, false, .raw64, d⟩
  | .ldt q t _ _ d => some ⟨q, 8, false, tagOf t.toNat, d⟩
  | _ => none

/-- A load that a lane waits to perform, tried again at the location that its checks found (R304); its register lines have arrived (R179). -/
def State.retryLoad (s : State) (q l : Nat) : State :=
  let sq := s.squad q
  let t := sq.thread l
  match t.wait with
  | .load addr loc i =>
    match loadForm i with
    | none => s
    | some f =>
      if sq.lineWaits i l then s else
      let c : Cur := { q := q, pc := t.pc, lanes := maskOf [l], slot := t.stamp, at_ := t.since }
      let s' := { (s.modThread q l Thread.unwait) with cur := c }.execLanes i 0 0 fun cx st => .ok (finishLoad i f addr loc cx st)
      if (s'.thread q l).wait = t.wait then s else s'
  | _ => s

/-- LEA (R239): base plus the byte offset, tag I64; no memory and no check of R93. -/
def doLea (o : BitVec 10) (b d : RegCode) (cx : Ctx) (t : Thread) : Except Trap Thread := do
  let v ← t.src cx isAddrTag b
  .ok (t.write cx d ⟨v.data + sext o, .i64⟩ .sb)

def execLea (o : BitVec 10) (b : RegCode) (d : RegCode) (s : State) : Host.Outcome State Fault Refusal :=
  .next (s.execThread (.lea o b d) 0 0 (doLea o b d))

end Sys2Proof.Machine
end

