-- ==== Sys2Proof/Machine/System.lean ====
section
/-!
DEFINITION. Machine/System.lean: system registers (R15-R19, R59, R63, R96, R99, R110, R156, R271, R273, R305, R329, R340,
R345), CLK (R97), SIGCHK (R341), YIELD (R322), SYSCALL, BRK and ICINV (R309, R311, R316).
-/
namespace Sys2Proof.Machine

/-! ### SRD -/

/-- CORE of R110: die, quad and place of core n. -/
def coreWord (n : Nat) : Nat := n / 96 * 128 + n % 96 / 4 * 4 + n % 4

/-- HOLDSTAT of R156. LSTOP stays as it was when the lane's chunk is closed; the rule does not say (DESIGN CHOICE, log 33). -/
def State.holdstat (s : State) (cx : Ctx) (t : Thread) : Nat :=
  match (s.crewOf cx.lid cx.crew).chunkOf cx.num with
  | none => t.lstop.toNat * 2 ^ 40
  | some ch => t.lstop.toNat * 2 ^ 40 + cx.region * 2 ^ 32 + ch.cap * 2 ^ 16 + ch.used

/-- INJ of R345. -/
def Inj.word (i : Inj) : Nat :=
  (if i.fired then 2 ^ 32 else 0) + i.skip * 2 ^ 16 + i.bit * 2 ^ 7 + i.target * 2 ^ 4 + i.mode * 2 + (if i.arm then 1 else 0)

/-- WDOG of R329. -/
def Launch.wdogWord (l : Launch) : Nat := if l.wdog = 0 then 2 ^ 32 + 65536 else l.wdog

/-- A system register of a thread of a squad (R63). -/
def State.sysRegOf (s : State) (sq : Squad) (cx : Ctx) (n : Nat) : Word :=
  let la := s.launchOf cx.lid
  let t := sq.thread cx.lane
  match n with
  | 0x00 => BitVec.ofNat 64 cx.lane
  | 0x01 => BitVec.ofNat 64 sq.num
  | 0x02 => BitVec.ofNat 64 sq.crew
  | 0x03 => BitVec.ofNat 64 ((la.gang - 1) * 4 + sq.crew % la.gang)
  | 0x04 => BitVec.ofNat 64 sq.lid
  | 0x05 => BitVec.ofNat 64 (coreWord (coreOf cx.q))
  | 0x06 => sq.tcause
  | 0x07 => sq.tlanes
  | 0x08 => sq.taddr
  | 0x09 => sq.tepc
  | 0x0A => sq.mtdone.zeroExtend 64
  | 0x0B => cx.sig0.zeroExtend 64
  | 0x0C => t.draw.zeroExtend 64
  | 0x0D => BitVec.ofNat 64 (sq.done.toNat * 65536 + sq.closed.toNat)
  | 0x0E => BitVec.ofNat 64 ((if la.det then 4 else 0) + (if la.chk then 2 else 0) + (if la.ilk then 1 else 0))
  | 0x0F => t.frm.zeroExtend 64
  | 0x10 => t.fflags.zeroExtend 64
  | 0x11 => BitVec.ofNat 64 (s.holdstat cx t)
  | 0x12 => BitVec.ofNat 64 (s.crewOf cx.lid cx.crew).inj.word
  | _ => BitVec.ofNat 64 la.wdogWord

/-- A system register as a thread reads it (R63). -/
def State.sysReg (s : State) (cx : Ctx) (n : Nat) : Word := s.sysRegOf (s.squad cx.q) cx n

/-- SRD (R96): tag I64. -/
def doSrd (n : BitVec 12) (d : RegCode) (cx : Ctx) (s : State) : Except Trap State :=
  .ok (s.modThread cx.q cx.lane fun t => t.write cx d ⟨s.sysReg cx n.toNat, .i64⟩ .sb)

def execSrd (s : BitVec 12) (d : RegCode) (st : State) : Host.Outcome State Fault Refusal :=
  .next (st.execLanes (.srd s d) 0 0 (doSrd s d))

/-! ### SWR -/

/-- A write of a system register (R18, R96, R99, R345): illegal where the register takes no program write, and where the
value sets a reserved bit or has a reserved value. -/
def State.putSysReg (s : State) (cx : Ctx) (n : Nat) (v : Word) : Except Trap State :=
  match n with
  | 0x0C => if v.toNat < 2 ^ 32 then .ok (s.modThread cx.q cx.lane fun t => { t with draw := v.truncate 32 }) else .error ⟨0x01, 0⟩
  | 0x0F => if v.toNat < 5 then .ok (s.modThread cx.q cx.lane fun t => { t with frm := v.truncate 3 }) else .error ⟨0x01, 0⟩
  | 0x10 => if v.toNat < 32 then .ok (s.modThread cx.q cx.lane fun t => { t with fflags := v.truncate 5 }) else .error ⟨0x01, 0⟩
  | 0x12 =>
    let x := v.toNat
    let on := ((s.job? (s.launchOf cx.lid).job).map (·.inj)).getD false
    if on && decide (x < 2 ^ 33) && bitsOf x 3 1 == 0 && decide (bitsOf x 4 3 < 3) && bitsOf x 1 2 != 3 then
      .ok (s.modCrew cx.lid cx.crew fun c => { c with inj :=
        { skip := bitsOf x 16 16, bit := bitsOf x 7 9, target := bitsOf x 4 3, mode := bitsOf x 1 2, arm := bitsOf x 0 1 == 1 } })
    else .error ⟨0x01, 0⟩
  | _ => .error ⟨0x01, 0⟩

/-- SWR of one thread: the source's tag, then the register's own checks (R23, R96). -/
def doSwr (n : Nat) (a : RegCode) (cx : Ctx) (s : State) : Except Trap State := do
  let v ← (s.thread cx.q cx.lane).src cx isAddrTag a
  s.putSysReg cx n v.data

/-- SWR to a register that has no row of its own (R96). -/
def execSwr (s : BitVec 12) (a : RegCode) (st : State) : Host.Outcome State Fault Refusal :=
  .next (st.execLanes (.swr s a) 0 0 (doSwr s.toNat a))

/-- SWR FRM (R16, R18). -/
def execSwrFrm (a : RegCode) (s : State) : Host.Outcome State Fault Refusal :=
  .next (s.execLanes (.swrFrm a) 0 0 (doSwr 0x0F a))

/-- SWR FFLAGS (R15, R18). -/
def execSwrFflags (a : RegCode) (s : State) : Host.Outcome State Fault Refusal :=
  .next (s.execLanes (.swrFflags a) 0 0 (doSwr 0x10 a))

/-- SWR DRAW (R99). -/
def execSwrDraw (a : RegCode) (s : State) : Host.Outcome State Fault Refusal :=
  .next (s.execLanes (.swrDraw a) 0 0 (doSwr 0x0C a))

/-- SWR INJ (R345). -/
def execSwrInj (a : RegCode) (s : State) : Host.Outcome State Fault Refusal :=
  .next (s.execLanes (.swrInj a) 0 0 (doSwr 0x12 a))

/-! ### CLK, SIGCHK, YIELD -/

/-- A core's cycle counter: at most 8 cycles apart from another core's (R97; DESIGN CHOICE, log 10). -/
def coreClock (now q : Nat) : Word := BitVec.ofNat 64 (now + Config.clkSkew (coreOf q) % 9)

/-- CLK (R97). -/
def doClk (d : RegCode) (cx : Ctx) (t : Thread) : Except Trap Thread :=
  .ok (t.write cx d ⟨coreClock cx.now cx.q, .i64⟩ .sb)

def execClk (d : RegCode) (s : State) : Host.Outcome State Fault Refusal :=
  .next (s.execThread (.clk d) 0 0 (doClk d))

/-- The fold of R341. -/
def sigFold (s : BitVec 32) : BitVec 18 := (s ^^^ (s >>> 14)).truncate 18

/-- SIGCHK (R341): not hashed; a match clears SIG. -/
def doSigchk (i : BitVec 18) (cx : Ctx) (t : Thread) : Except Trap Thread :=
  if sigFold cx.sig0 = i then .ok { t with sig := 0 } else .error ⟨0x10, 0⟩

def execSigchk (i : BitVec 18) (s : State) : Host.Outcome State Fault Refusal :=
  .next (s.execThread (.sigchk i) 0 0 (doSigchk i))

/-- YIELD (R322): no port for the next 16 contended cycles. -/
def execYield (s : State) : Host.Outcome State Fault Refusal :=
  .next (s.execSet .yield 0 0 fun s' _ _ => .ok (s'.modSquad s.cur.q fun sq => { sq with yielded := 17 }))

/-! ### SYSCALL, BRK, ICINV -/

/-- A calling thread holds POISON in one of g0 to g5 (R309). -/
def Thread.callPoisoned (t : Thread) : Bool :=
  (List.range 6).any fun r => (SMap.get Reg.zero t.regs r).tag == .poison

/-- SYSCALL (R309): a system-call trap of the calling threads, unless one of their arguments is poisoned. -/
def execSyscall (s : State) : Host.Outcome State Fault Refusal :=
  .next (s.execSet .syscall 0 0 fun _ s0 act =>
    let bad := act.filter fun l => (s0.thread s0.cur.q l).callPoisoned
    if bad = [] then .error (⟨0x20, 0⟩, maskOf act) else .error (⟨0x11, 0⟩, maskOf bad))

/-- BRK (R311): a breakpoint trap that names its code. -/
def execBrk (c : BitVec 6) (s : State) : Host.Outcome State Fault Refusal :=
  .next (s.execSet (.brk c) 0 0 fun _ _ act => .error (⟨0x21, c.zeroExtend 64⟩, maskOf act))

/-- ICINV of some lanes is complete: what they stored, and what was performed for them before, is performed for the device (R316). -/
def State.icinvOver (s : State) (r : SquadRef) (ls : List Nat) (n : Nat) : Bool := ls.all fun l => s.fenced r l 4 true n

/-- ICINV (R316): once per issue; where it need not wait it empties the instruction caches and fetch buffers at once. -/
def execIcinv (s : State) : Host.Outcome State Fault Refusal :=
  .next (s.execSet .icinv 0 0 fun s' s0 act =>
    let q := s0.cur.q
    if s0.icinvOver (s0.squad q).ref act s0.seq then .ok s'.emptyCode
    else .ok (act.foldl (fun st l => st.modThread q l fun t => t.waitAt (s0.ctx l) .icinv (.icinv s0.seq)) s'))

end Sys2Proof.Machine
end

