-- ==== Sys2Proof/Machine/Divergence.lean ====
section
/-!
DEFINITION. Machine/Divergence.lean: SPLIT and REJOIN (R115-R117, R129-R131), EXIT, TAIL and retirement (R118-R121), FUSE
(R138-R140), the barriers of crews and groups (R141-R144).
-/
namespace Sys2Proof.Machine

/-! ### SPLIT and REJOIN -/

def Thread.atRejoin (t : Thread) (n : Nat) : Bool := t.wait == .rejoin n

/-- The lanes of jn that have not exited. -/
def Squad.joinLanes (sq : Squad) (n : Nat) : List Nat := sq.liveLanes.filter fun l => (SMap.get 0 sq.j n).getLsbD l

/-- SPLIT (R115, R130). -/
def execSplit (j : BitVec 2) (s : State) : Host.Outcome State Fault Refusal :=
  .next (s.execSet (.split j) 0 0 fun s' s0 act =>
    let sq := s0.squad s0.cur.q
    let waiting := sq.liveLanes.filter fun l => (sq.thread l).atRejoin j.toNat
    if waiting = [] then .ok (s'.modSquad s0.cur.q fun sq => { sq with j := SMap.set 0 sq.j j.toNat (maskOf act) })
    else .error (⟨0x0A, 0⟩, maskOf act ||| maskOf waiting))

/-- SIG after a REJOIN at a PC (R340). -/
def rejoinSig (pc : Word) : BitVec 32 := sigHash 0 (pc.truncate 32)

/-- REJOIN (R116): a thread outside jn goes on; one in jn waits. -/
def execRejoin (j : BitVec 2) (s : State) : Host.Outcome State Fault Refusal :=
  .next (s.execSet (.rejoin j) 0 0 fun s' s0 act =>
    let m := SMap.get 0 (s0.squad s0.cur.q).j j.toNat
    .ok (act.foldl (fun st l => st.modThread s0.cur.q l fun t =>
      if m.getLsbD l then t.waitAt (s0.ctx l) (.rejoin j) (.rejoin j.toNat) else { t with sig := rejoinSig s0.cur.pc }) s'))

/-- Every thread of jn that has not exited waits at a REJOIN jn (R116, R117). -/
def Squad.joinFull (sq : Squad) (n : Nat) : Bool :=
  sq.joinLanes n != [] && (sq.joinLanes n).all fun l => (sq.thread l).atRejoin n

/-- They all stand at one PC. -/
def Squad.joinOne (sq : Squad) (n : Nat) : Bool :=
  match sq.joinLanes n with
  | [] => false
  | l :: ls => ls.all fun m => (sq.thread m).pc == (sq.thread l).pc

/-- The threads of jn can be released (R116). -/
def Squad.joinReady (sq : Squad) (n : Nat) : Bool := sq.joinFull n && sq.joinOne n

/-- Every live thread waits at a REJOIN, and none can release (R117). -/
def Squad.stuck (sq : Squad) : Bool :=
  sq.liveLanes != [] && (sq.liveLanes.all fun l => (List.range 4).any fun n => (sq.thread l).atRejoin n) && !(List.range 4).any sq.joinReady

/-- The threads of a rejoin mismatch (R117): the waiting threads of every register all of whose threads wait, at two or more PCs; or all the squad's where all wait
and none can release. Where both hold, every register is concerned, and all threads are named (DESIGN CHOICE, log 26). Where all of a register's threads wait at two
PCs while other threads of the squad wait at a barrier, the trap is taken for those of the register: its first case goes before the last sentence's partial wait
(DESIGN CHOICE, log 26). -/
def Squad.mismatch (sq : Squad) : List Nat :=
  if sq.stuck then sq.liveLanes
  else sq.liveLanes.filter fun l => (List.range 4).any fun n => sq.joinFull n && !sq.joinOne n && (sq.joinLanes n).contains l

/-- The squad can trap: it is not stopped. -/
def Squad.canTrap (sq : Squad) : Bool := sq.status == .running || sq.status.isStep

/-- An EXIT or a TAIL of this very cycle leaves releases and mismatches to the squad's next slot (R131). -/
def Squad.rejoinsLater (sq : Squad) (now : Nat) : Bool := sq.rejoins && sq.portAt == now + 1

/-- The mismatch trap (R117): it names threads that wait, with the PC of the lowest; those whose REJOIN traps, the set that issued last, are at it again, and the
others keep their waits (R303). -/
def State.rejoinTrap (s : State) (q : Nat) (sq : Squad) (ls : List Nat) : State :=
  match ls with
  | [] => s
  | l :: _ =>
    (ls.filter fun m => !sq.rejoins && sq.last.getLsbD m && (sq.thread m).stamp + 1 == sq.slot).foldl
      (fun st m => st.modThread q m Thread.unwait) (s.takeTrap q 0x0A (maskOf ls) 0 (sq.thread l).pc)

/-- The threads of jn are released together, or the squad takes the mismatch trap (R116, R117). -/
def State.settleRejoin (s : State) (q n : Nat) : State :=
  match s.squad? q with
  | none => s
  | some sq =>
    if sq.rejoinsLater s.cycle then s
    else if sq.joinReady n then
      let till := sq.landsBy (sq.joinLanes n)
      (sq.joinLanes n).foldl (fun st l => st.modThread q l fun t =>
        { (t.release (s.rejoinStamp sq t)).holdTill till with sig := rejoinSig t.pc }) s
    else if sq.canTrap then s.rejoinTrap q sq sq.mismatch else s

/-- REJOIN_RELEASE (R116, R117, R131). -/
def execRejoinRelease (q j : Nat) (s : State) : Host.Outcome State Fault Refusal := .next (s.settleRejoin q j)

/-! ### Retirement -/

/-- Engine operations of a core that a squad issued and that have not completed. -/
def Engine.busyFor (e : Engine) (r : SquadRef) : Bool := e.ops.any (·.by_ == r) || e.mmas.any fun m => m.by_ == r && m.paused.isNone

/-- Graph nodes that a squad's threads submitted and that have not finished (R289). -/
def Graph.busyFor (g : Graph) (r : SquadRef) : Bool := g.queued.any (·.by_ == r) || g.running.any (·.node.by_ == r)

/-- A store, atomic or engine operation of a squad has not completed (R118, R119). -/
def State.squadBusy (s : State) (r : SquadRef) : Bool :=
  s.hasWrites r || s.cores.any (fun c => c.2.engine.busyFor r) || (s.crewOf r.lid r.crew).graph.busyFor r

/-- The phase of a thread's last arrival at its crew's barrier, and at a group's. -/
def Thread.phaseC (t : Thread) : Option Nat := t.arrC.map (·.1)
def Thread.phaseG (g : Nat) (t : Thread) : Option Nat := (SMap.get none t.arrG g).map (·.1)

/-- The threads of a squad that have arrived at a phase. -/
def Squad.arrivedMask (sq : Squad) (arr : Thread → Option Nat) (p : Nat) : BitVec 32 :=
  maskOf ((List.range 32).filter fun l => arr (sq.thread l) == some p)

/-- The group phases at which a squad has arrived, kept after its retirement (R142). -/
def Squad.arrivals (sq : Squad) : List Arrival :=
  let at_ := (sq.threads.flatMap fun (_, t) => t.arrG.filterMap fun (g, p) => p.map fun p => (g, p.1)).eraseDups
  at_.map fun (g, p) =>
    { crew := sq.crew, num := sq.num, group := g, phase := p, lanes := sq.arrivedMask (Thread.phaseG g) p
      n := sq.threads.foldl (fun m (_, t) => match SMap.get none t.arrG g with | some (p', n) => if p' = p then max m n else m | none => m) 0 }

/-- Every squad of the crew has retired. -/
def State.allRetired (s : State) (lid c : Nat) : Bool :=
  (s.crewOf lid c).started && (List.range (s.launchOf lid).squads).all fun k => (s.crewOf lid c).retired.contains k

/-- The producer stream of a crew whose squads have all retired is ended (R121). -/
def State.endStream (s : State) (lid c : Nat) : State :=
  if s.allRetired lid c then
    match s.recordFor ⟨lid, c, 16⟩ with
    | some q => s.freeRecord q
    | none => s
  else s

/-- A squad has retired: its arrivals stay (R118, R142). -/
def State.noteRetired (s : State) (sq : Squad) : State :=
  ((s.modCrew sq.lid sq.crew fun c => { c with retired := c.retired ++ [sq.num] }).modLaunch sq.lid fun l =>
    { l with arrived := l.arrived ++ sq.arrivals }).endStream sq.lid sq.crew

/-- The last thread of a squad has ended by EXIT: the squad has retired, and keeps its slot until what its threads issued has completed (R118). -/
def State.retireExited (s : State) (q : Nat) : State :=
  match s.squad? q with
  | none => s
  | some sq =>
    if sq.liveLanes != [] || sq.retired || recordOf q = 16 then s
    else (s.setSquad q { sq with retired := true, state := 3 }).noteRetired sq

/-- A squad's record is freed, and the squad retires if it has not (R118, R119). A stream only frees its slot (R297). -/
def State.retire (s : State) (q : Nat) : State :=
  match s.squad? q with
  | none => s
  | some sq => if sq.retired || recordOf q = 16 then s.freeRecord q else (s.freeRecord q).noteRetired sq

/-- SQUAD_RETIRE (R118): the last thread has ended and everything its threads issued has completed. -/
def State.canRetire (s : State) (q : Nat) : Bool :=
  match s.squad? q with
  | none => false
  | some sq => sq.liveLanes == [] && sq.intake.isNone && !s.squadBusy sq.ref

/-! ### FUSE -/

/-- FUSE's operand (R138). -/
def fuseMask (v : Word) : Nat := bitsOf v.toNat 16 16
def fusePartner (v : Word) : Nat := bitsOf v.toNat 0 4
def fuseReserved (v : Word) : Bool := bitsOf v.toNat 32 32 != 0 || bitsOf v.toNat 4 12 != 0

/-- The threads that wait at FUSE go on with k1 = 0; FUSE is a stop point (R57, R139). -/
def State.refuseFuse (s : State) (q : Nat) : State :=
  let sq := s.squad q
  let ls := sq.liveLanes.filter fun l => match (sq.thread l).wait with | .fuse .. => true | _ => false
  ls.foldl (fun st l => st.modThread q l fun t =>
    { ((t.release (s.releaseStamp sq t)).holdTill (sq.landsBy ls)) with k := t.k &&& ~~~2#8 }) s

/-- What every live thread of a squad waits at, where it is one FUSE at one PC: mask, partner and PC. -/
def Squad.atFuse (sq : Squad) : Option (Nat × Nat × Word) :=
  match sq.liveLanes with
  | [] => none
  | l :: ls =>
    match (sq.thread l).wait with
    | .fuse m p =>
      if ls.all fun n => (sq.thread n).wait == .fuse m p && (sq.thread n).pc == (sq.thread l).pc
      then some (m, p, (sq.thread l).pc) else none
    | _ => none

/-- Every live thread waits at a barrier or at WAIT.G (R139). -/
def Squad.atBarriers (sq : Squad) : Bool :=
  sq.liveLanes != [] && sq.liveLanes.all fun l => match (sq.thread l).wait with
    | .barC _ | .barG .. | .arrive .. => true
    | _ => false

/-- A thread of W as it enters V (R140): MASK's registers are kept, the other main and operand-file registers are 0. -/
def Thread.moved (t : Thread) (mask stamp : Nat) : Thread :=
  { (t.landAll.release stamp) with
    regs := t.regs.filter fun (c, _) => decide (c < 16) && mask.testBit c
    brk := []
    k := t.k ||| 2#8 }

/-- W's threads placed in V's free lanes, both in ascending order (R140). -/
def fuseLanes (v w : Squad) : List (Nat × Nat) := w.liveLanes.zip ((List.range 32).filter fun l => !(v.thread l).live)

/-- V after the fusion (R140). -/
def Squad.absorb (v w : Squad) (mask : Nat) : Squad :=
  let stamp := v.slot - 1
  let kept := v.liveLanes.foldl (fun sq l => sq.setThread l
    (let t := sq.thread l; { (t.landAll.release stamp) with k := t.k ||| 2#8 })) v
  let joined := (fuseLanes v w).foldl (fun sq p => sq.setThread p.2 ((w.thread p.1).moved mask stamp)) kept
  let new := maskOf ((fuseLanes v w).map (·.2))
  { joined with j := v.j.map fun (n, m) => (n, m &&& ~~~new) }

/-- A fusion: the squad that survives and the one that moves into it, where its live threads go, the survivor's live lanes before, and a number of its own. -/
structure Fusion where
  v : SquadRef
  w : SquadRef
  lanes : List (Nat × Nat)
  kept : List Nat
  n : Nat
  deriving DecidableEq, Repr

/-- Who a thread of either squad is after the fusion (R140): a moved thread has its new lane; a thread that has exited keeps its program order apart from that of the
thread that has its lane now, under a number past the lanes. -/
def Fusion.name (f : Fusion) (r : SquadRef) (lane : Nat) : SquadRef × Nat :=
  if r = f.w then
    (f.v, match f.lanes.find? (·.1 == lane) with
      | some p => p.2
      | none => if lane < 32 then 64 * (f.n + 1) + lane else lane)
  else if r = f.v && decide (lane < 32) && !f.kept.contains lane then (r, 64 * (f.n + 1) + 32 + lane)
  else (r, lane)

/-- Outstanding writes, engine operations, graph nodes and posted decrements stand with the threads that issued them (R140). -/
def Write.movedTo (w : Write) (f : Fusion) : Write := { w with by_ := (f.name w.by_ w.lane).1, lane := (f.name w.by_ w.lane).2 }

def Engine.moveOps (e : Engine) (f : Fusion) (batch : BitVec 16) : Engine :=
  { e with
    ops := e.ops.map fun o =>
      { o with by_ := (f.name o.by_ 0).1, batch := if o.by_ = f.w then batch else o.batch, lanes := o.lanes.map fun l => (f.name o.by_ l).2 }
    mmas := e.mmas.map fun m => if m.by_ = f.w then { m with by_ := f.v, batch := batch } else m }

def Node.movedTo (n : Node) (f : Fusion) : Node := { n with by_ := (f.name n.by_ n.lane).1, lane := (f.name n.by_ n.lane).2 }

def Decrement.movedTo (d : Decrement) (f : Fusion) : Decrement := { d with by_ := (f.name d.by_ d.lane).1, lane := (f.name d.by_ d.lane).2 }

/-- Two squads fuse (R140): `qv` is the record of the lower-numbered one. -/
def State.fuse (s : State) (qv qw mask : Nat) : State :=
  let v := s.squad qv
  let w := s.squad qw
  let f : Fusion := ⟨v.ref, w.ref, fuseLanes v w, v.liveLanes, s.seq⟩
  let s := { s with seq := s.seq + 1 }.setSquad qv (v.absorb w mask)
  let s := (s.freeRecord qw).modCrew v.lid v.crew fun c =>
    { c with
      retired := c.retired ++ [w.num]
      graph := { c.graph with
        queued := c.graph.queued.map (·.movedTo f)
        running := c.graph.running.map fun r => { r with node := r.node.movedTo f } } }
  let s := s.modLaunch v.lid fun l => { l with merged := l.merged ++ [(v.crew, w.num, v.num)] }
  { s with
    mem := { s.mem with
      writes := s.mem.writes.map (·.movedTo f)
      whey := s.mem.whey.map (·.movedTo f) }
    cores := s.cores.map fun (n, c) => (n, { c with engine := c.engine.moveOps f (v.closed + 1) }) }

/-- What the squad's threads wrote has landed, and its register lines have arrived, so that it can fuse (R57, R139, R179). -/
def Squad.mayFuse (sq : Squad) (now : Nat) : Bool := sq.missing == [] && sq.liveLanes.all fun l => !sq.unlanded now l

/-- What becomes of the FUSE at which a squad waits (R139): it follows the partner's standing; a partner that is stopped for a debugger is waited for, and a stepped
FUSE waits until its squad runs again (R313, R314). -/
def State.settleFuse (s : State) (q : Nat) : State :=
  match s.squad? q with
  | none => s
  | some sq =>
    match sq.atFuse with
    | none => s
    | some (m, p, pc) =>
      match s.recordFor ⟨sq.lid, sq.crew, p⟩ with
      | none => s.refuseFuse q
      | some qp =>
        let pq := s.squad qp
        if pq.retired then s.refuseFuse q
        else if pq.status = .debug then s
        else if pq.atBarriers then s.refuseFuse q
        else if pq.atFuse = some (m, sq.num, pc) && pq.status == .running && sq.status == .running then
          if sq.liveLanes.length + pq.liveLanes.length ≤ 32 then
            if !(sq.mayFuse s.cycle && pq.mayFuse s.cycle) then s
            else if sq.num < p then s.fuse q qp m else s.fuse qp q m
          else (s.refuseFuse q).refuseFuse qp
        else s

/-- Every squad of a crew that waits at FUSE, in ascending order of its record. -/
def State.settleFuses (s : State) (lid c : Nat) : State :=
  (s.crewRecords lid c).foldl (fun st (q, _) => st.settleFuse q) s

/-- Squads that wait for squad p in a FUSE are refused, because p has executed another FUSE (R139); `same` tells whether p's is the FUSE that a squad waits for. What p
executed before the squad's own FUSE does not count (DEDUCED, log 65). -/
def State.refusePartners (s : State) (lid c p : Nat) (same : Nat → Nat → Word → Bool) : State :=
  (s.crewRecords lid c).foldl (fun st (q, sq) =>
    match sq.atFuse with
    | some (m, p', pc) => if p' = p && !same sq.num m pc then st.refuseFuse q else st
    | none => st) s

/-- FUSE (R138, R139): its checks, refusal at once, or a wait whose outcome is settled as soon as it is known. -/
def execFuse (a : RegCode) (s : State) : Host.Outcome State Fault Refusal :=
  .next (s.execSet (.fuse a) 0 0 fun s' s0 act => do
    let q := s0.cur.q
    let sq := s0.squad q
    let vs ← gatherLanes act fun l => (s0.thread q l).src (s0.ctx l) isAddrTag a
    let res := (vs.filter fun v => fuseReserved v.2.data).map (·.1)
    if res ≠ [] then .error (⟨0x01, 0⟩, maskOf res) else
    let v := (vs.head?.map (·.2.data)).getD 0
    let odd := (vs.filter fun x => x.2.data != v).map (·.1)
    if odd ≠ [] then .error (⟨0x02, 0⟩, maskOf odd) else
    let p := fusePartner v
    if maskOf act ≠ sq.liveMask || p == sq.num || decide ((s0.launchOf sq.lid).squads ≤ p) then
      .ok ((act.foldl (fun st l => st.modThread q l fun t => (t.writeK (s0.ctx l) 1 false .sb).holdTill (sq.landsBy act)) s').refusePartners sq.lid sq.crew sq.num
        fun _ _ _ => false)
    else
      .ok (((act.foldl (fun st l => st.modThread q l fun t => t.waitAt (s0.ctx l) (.fuse a) (.fuse (fuseMask v) p)) s').refusePartners
        sq.lid sq.crew sq.num fun n m pc => n == p && m == fuseMask v && pc == s0.cur.pc).settleFuses sq.lid sq.crew))

/-! ### EXIT and TAIL -/

/-- The threads of the issue set end; what that releases waits for the squad's next slot (R118, R131). -/
def State.endThreads (s : State) (q : Nat) (ls : List Nat) : State :=
  (ls.foldl (fun st l => st.modThread q l fun t => { t.landAll with live := false }) s).modSquad q fun sq => { sq with rejoins := true }

/-- EXIT (R118). -/
def execExit (s : State) : Host.Outcome State Fault Refusal :=
  .next (s.execSet .exit 0 0 fun s' s0 act =>
    let sq := s0.squad s0.cur.q
    .ok (((s'.endThreads s0.cur.q act).retireExited s0.cur.q).settleFuses sq.lid sq.crew))

/-- TAIL (R119): ends the threads; where none remains, the squad retires at once and what it has outstanding passes to the
core's tracker; with a full tracker it waits. -/
def execTail (s : State) : Host.Outcome State Fault Refusal :=
  .next (s.execSet .tail 0 0 fun s' s0 act =>
    let q := s0.cur.q
    let sq := s0.squad q
    let ended := s'.endThreads q act
    if (ended.squad q).liveLanes ≠ [] then .ok (ended.settleFuses sq.lid sq.crew)
    else if Config.trackerEntries ≤ (s0.coreAt (coreOf q)).tracker.length then
      .ok (act.foldl (fun st l => st.modThread q l fun t => t.waitAt (s0.ctx l) .tail (.blocked .tail)) s')
    else
      .ok (((ended.retire q).modCore (coreOf q) fun c => { c with tracker := c.tracker ++ [sq.ref] }).settleFuses sq.lid sq.crew))

/-- SQUAD_RETIRE (R118). -/
def execSquadRetire (q : Nat) (s : State) : Host.Outcome State Fault Refusal :=
  .next (if s.canRetire q then (s.retire q).settleFuses (s.squad q).lid (s.squad q).crew else s)

/-- TRACKER_ENTRY_DRAINED (R119). -/
def execTrackerEntryDrained (core n : Nat) (s : State) : Host.Outcome State Fault Refusal :=
  .next (match (s.coreAt core).tracker[n]? with
    | none => s
    | some r => if s.squadBusy r then s else s.modCore core fun c => { c with tracker := c.tracker.eraseIdx n })

/-! ### Barriers -/

/-- The phase of a group's barrier. -/
def State.groupPhase (s : State) (lid g : Nat) : Nat := SMap.get 0 (s.launchOf lid).phases g

/-- The group operand of a set (R141): tag; reserved bits, range and membership; one group for all. Where the threads name different groups, those that differ from
the lowest active lane are the offending ones (DESIGN CHOICE, log 17). -/
def State.groupOperand (s0 : State) (act : List Nat) (a : RegCode) : Except SetTrap Nat := do
  let sq := s0.squad s0.cur.q
  let la := s0.launchOf sq.lid
  let vs ← gatherLanes act fun l => do
    let v ← (s0.thread s0.cur.q l).src (s0.ctx l) isAddrTag a
    if decide (v.data.toNat < 256) && decide (v.data.toNat < la.groups.length) && inRanges (la.group v.data.toNat) sq.crew then .ok v
    else .error ⟨0x01, 0⟩
  let v := (vs.head?.map (·.2.data)).getD 0
  let odd := (vs.filter fun x => x.2.data != v).map (·.1)
  if odd ≠ [] then .error (⟨0x01, 0⟩, maskOf odd) else .ok v.toNat

/-- BAR.C (R142): arrival at the crew barrier's phase, and the wait. -/
def execBarC (s : State) : Host.Outcome State Fault Refusal :=
  .next (s.execSet .barC 0 0 fun s' s0 act =>
    let sq := s0.squad s0.cur.q
    let p := (s0.crewOf sq.lid sq.crew).barPhase
    .ok ((act.foldl (fun st l => st.modThread s0.cur.q l fun t =>
      { (t.waitAt (s0.ctx l) .barC (.barC p)) with arrC := some (p, s0.seq) }) s').settleFuses sq.lid sq.crew))

/-- A thread arrives at phase p of a group's barrier; n numbers the arrival in the order of accesses (R142, R144). -/
def Thread.joinG (t : Thread) (g p n : Nat) : Thread := { t with arrG := SMap.set none t.arrG g (some (p, n)) }

/-- A thread arrives at a group's phase, or waits until the phase it has already arrived at completes (R142, R143). -/
def Thread.arriveG (t : Thread) (cx : Ctx) (i : Instr) (g p n : Nat) (stay : Bool) : Thread :=
  if t.phaseG g = some p then t.waitAt cx i (.arrive g p i)
  else if stay then (t.joinG g p n).waitAt cx i (.barG g p) else t.joinG g p n

/-- BAR.G (R141): ARRIVE.G, then WAIT.G. -/
def execBarG (a : RegCode) (s : State) : Host.Outcome State Fault Refusal :=
  .next (s.execSet (.barG a) 0 0 fun s' s0 act => do
    let sq := s0.squad s0.cur.q
    let g ← s0.groupOperand act a
    let p := s0.groupPhase sq.lid g
    .ok ((act.foldl (fun st l => st.modThread s0.cur.q l fun t => t.arriveG (s0.ctx l) (.barG a) g p s0.seq true) s').settleFuses
      sq.lid sq.crew))

/-- ARRIVE.G (R141, R143). -/
def execArriveG (a : RegCode) (s : State) : Host.Outcome State Fault Refusal :=
  .next (s.execSet (.arriveG a) 0 0 fun s' s0 act => do
    let sq := s0.squad s0.cur.q
    let g ← s0.groupOperand act a
    let p := s0.groupPhase sq.lid g
    .ok ((act.foldl (fun st l => st.modThread s0.cur.q l fun t => t.arriveG (s0.ctx l) (.arriveG a) g p s0.seq false) s').settleFuses
      sq.lid sq.crew))

/-- A thread at WAIT.G: it waits while the phase of its last arrival has not completed (R143). -/
def Thread.waitG (t : Thread) (cx : Ctx) (i : Instr) (g p : Nat) : Thread :=
  if t.phaseG g = some p then t.waitAt cx i (.barG g p) else t

/-- WAIT.G (R141, R143). -/
def execWaitG (a : RegCode) (s : State) : Host.Outcome State Fault Refusal :=
  .next (s.execSet (.waitG a) 0 0 fun s' s0 act => do
    let sq := s0.squad s0.cur.q
    let g ← s0.groupOperand act a
    let p := s0.groupPhase sq.lid g
    .ok ((act.foldl (fun st l => st.modThread s0.cur.q l fun t => t.waitG (s0.ctx l) (.waitG a) g p) s').settleFuses
      sq.lid sq.crew))

/-- A squad has arrived at a phase: at least one of its threads, and every one that has not exited (R142). -/
def Squad.arrivedAt (sq : Squad) (arr : Thread → Option Nat) (p : Nat) : Bool :=
  (sq.threads.any fun (_, t) => arr t == some p) && sq.liveLanes.all fun l => arr (sq.thread l) == some p

/-- Every squad that a crew barrier's phase expects has arrived: those of the crew that have not retired (R142). -/
def State.crewArrived (s : State) (lid c : Nat) : Bool :=
  let cr := s.crewOf lid c
  let rs := (s.crewRecords lid c).filter fun (_, sq) => sq.num != 16 && !sq.retired
  cr.core.isSome && rs != [] && rs.all fun (_, sq) => sq.arrivedAt Thread.phaseC cr.barPhase

/-- The squads a group's barrier expects (R120, R140): all of every member crew, but those absorbed by another. -/
def Launch.expected (l : Launch) (g : Nat) : List (Nat × Nat) :=
  ((List.range l.crews).filter (inRanges (l.group g))).flatMap fun c =>
    ((List.range l.squads).filter fun k => !l.merged.any fun m => m.1 == c && m.2.1 == k).map fun k => (c, k)

/-- The record of a squad that has not retired. -/
def State.activeRecord (s : State) (r : SquadRef) : Option Nat := (s.recordFor r).filter fun q => !(s.squad q).retired

/-- One expected squad has arrived at a group's phase, bound or since retired. -/
def State.squadArrived (s : State) (lid g p c k : Nat) : Bool :=
  match s.activeRecord ⟨lid, c, k⟩ with
  | some q => (s.squad q).arrivedAt (Thread.phaseG g) p
  | none => (s.launchOf lid).arrived.any fun x => x.crew == c && x.num == k && x.group == g && x.phase == p

/-- Every squad that a group's phase expects has arrived (R142). -/
def State.groupArrived (s : State) (lid g : Nat) : Bool :=
  let la := s.launchOf lid
  la.expected g != [] && (la.expected g).all fun (c, k) => s.squadArrived lid g (s.groupPhase lid g) c k

/-- An arrival as a release: a thread, and its number in the order of accesses (R144). -/
abbrev Party := SquadRef × Nat × Nat

/-- The arrivals of some records' threads at a phase. -/
def Squad.parties (sq : Squad) (arr : Thread → Option (Nat × Nat)) (p : Nat) : List Party :=
  sq.threads.filterMap fun (l, t) => match arr t with
    | some (p', n) => if p' = p then some (sq.ref, l, n) else none
    | none => none

def State.crewParties (s : State) (lid c : Nat) : List Party :=
  (s.crewRecords lid c).flatMap fun (_, sq) => sq.parties (·.arrC) (s.crewOf lid c).barPhase

def State.groupParties (s : State) (lid g : Nat) : List Party :=
  let p := s.groupPhase lid g
  (s.records.filter fun (_, sq) => sq.lid == lid && !sq.retired).flatMap (fun (_, sq) => sq.parties (fun t => SMap.get none t.arrG g) p)
    ++ ((s.launchOf lid).arrived.filter fun x => x.group == g && x.phase == p).flatMap fun x => (lanesOf x.lanes).map fun l => (⟨lid, x.crew, x.num⟩, l, x.n)

/-- What arrivals release is performed at a scope, as far as it can be (R144, R223): the state, and whether it all is. -/
def State.bringParties (s : State) (scope : Nat) (ps : List Party) : State × Bool :=
  let s1 := s.fixReads fun x =>
    if ps.any fun (r, l, n) => r == x.by_ && l == x.lane && decide (x.seq < n) && x.loc.ord != 2 then scope else 0
  s1.bring fun w => ps.foldl (fun m (r, l, n) => max m (s.fenceNeeds r l scope false n w)) 0

/-- The crew barrier's phase, or a group's, can complete: every expected squad has arrived, and what the arrivals release is performed (R142, R144). -/
def State.crewPhaseDone (s : State) (lid c : Nat) : Bool := s.crewArrived lid c && (s.bringParties 2 (s.crewParties lid c)).2
def State.groupPhaseDone (s : State) (lid g : Nat) : Bool := s.groupArrived lid g && (s.bringParties 4 (s.groupParties lid g)).2

/-- A thread that waits for a phase when it completes (R142, R143): it is released; a second arrival is made now, at the next phase, which BAR.G then waits for. -/
def Thread.afterPhase (t : Thread) (w : Wait) (n stamp : Nat) : Thread :=
  if t.wait = w then t.release stamp else
  match t.wait, w with
  | .arrive g p (.barG _), .barG g' p' => if g = g' && p == p' then { t.joinG g (p + 1) n with wait := .barG g (p + 1) } else t
  | .arrive g p _, .barG g' p' => if g = g' && p == p' then (t.joinG g (p + 1) n).release stamp else t
  | _, _ => t

/-- The threads of some records that wait for a phase go on. -/
def State.phaseOver (s : State) (w : Wait) (rs : List (Nat × Squad)) : State :=
  rs.foldl (fun st (q, sq) => sq.liveLanes.foldl (fun st l =>
    st.modThread q l fun t => t.afterPhase w s.seq (s.releaseStamp sq t)) st) s

/-- BARRIER_PHASE_COMPLETE (R142): the crew barrier of crew n, or the barrier of group n. -/
def execBarrierPhaseComplete (lid : Nat) (group : Bool) (n : Nat) (s : State) : Host.Outcome State Fault Refusal :=
  .next (
    if group then
      if s.groupPhaseDone lid n then
        let p := s.groupPhase lid n
        let s := (s.bringParties 4 (s.groupParties lid n)).1
        let s := s.phaseOver (.barG n p) (s.records.filter fun (_, sq) => sq.lid == lid)
        s.modLaunch lid fun l =>
          { l with phases := SMap.set 0 l.phases n (p + 1), arrived := l.arrived.filter fun x => !(x.group == n && x.phase == p) }
      else s
    else if s.crewPhaseDone lid n then
      let p := (s.crewOf lid n).barPhase
      let s := (s.bringParties 2 (s.crewParties lid n)).1
      (s.phaseOver (.barC p) (s.crewRecords lid n)).modCrew lid n fun c => { c with barPhase := p + 1 }
    else s)

end Sys2Proof.Machine
end

