-- ==== Sys2Proof/Machine/Engine.lean ====
section
/-!
DEFINITION. Machine/Engine.lean: what the matrix engine and the graph's engines share: the parts of a span of memory (R216),
its checks, byte by byte (R93, R200, R258, R262, R287), reading and writing it (R229, R334, R345), batches (R273) and the
versions of tiles (R260).
-/
namespace Sys2Proof.Machine

/-! ### Spans -/

/-- A span cut at multiples of g: (address, bytes) pieces in ascending order; `n` pieces at most are given. -/
def cutSpan (g : Nat) : Nat → Nat → Nat → List (Nat × Nat)
  | 0, _, _ => []
  | n + 1, a, len =>
    if len = 0 then [] else
    let k := min len (g - a % g)
    (a, k) :: cutSpan g n (a + k) (len - k)

/-- The pieces of a span of `len` bytes. -/
def span (g a len : Nat) : List (Nat × Nat) := cutSpan g (len / g + 2) a len

/-- The context of an engine's accesses for a crew: window 0x00, and window 0x01 of the crew's gang; no stack slice. -/
def engineCx (lid crew : Nat) : Ctx := { lid := lid, crew := crew, q := 16, routine := false }

/-- The first byte of a list of pieces that fails a check, with its trap. -/
def firstBad (f : Nat → Except Trap Unit) : List Nat → Option Trap
  | [] => none
  | a :: as => match f a with
    | .error t => some t
    | .ok _ => firstBad f as

/-- One piece checked: a whole line at once where it passes as a whole, else byte by byte. -/
def State.pieceBad (s : State) (cx : Ctx) (view : Bool) (nd : Need) (p : Nat × Nat) : Option Trap :=
  let byte := fun (a : Nat) => (s.resolve cx view nd (BitVec.ofNat 64 a) 1).map fun _ => ()
  let whole := p.2 == 64 && (s.resolve cx view nd (BitVec.ofNat 64 p.1) 64).toOption.isSome
  if whole then none else firstBad byte ((List.range p.2).map fun i => p.1 + i)

/-- The first failing byte of the pieces of a span. -/
def State.piecesBad (s : State) (cx : Ctx) (view : Bool) (nd : Need) : List (Nat × Nat) → Option Trap
  | [] => none
  | p :: ps => match s.pieceBad cx view nd p with
    | some t => some t
    | none => State.piecesBad s cx view nd ps

/-- Every byte of a span checked (R93, R200): the trap of the first failing byte. -/
def State.checkSpan (s : State) (cx : Ctx) (view : Bool) (nd : Need) (a len : Nat) : Except Trap Unit :=
  match s.piecesBad cx view nd (span 64 a len) with
  | some t => .error t
  | none => .ok ()

/-- A part of memory that an engine accesses (R216): its place, its page by job and address (job 0 for a window), and its bytes. -/
structure Part where
  place : Place
  job : Nat
  va : Nat
  n : Nat
  deriving DecidableEq, Repr

/-- The n bytes at a location; none in a stack slice. -/
def Loc.part (l : Loc) (n : Nat) : Option Part :=
  match l with
  | .dram pa key job va _ => some ⟨.dram pa key, job, va, n⟩
  | .scratch lid c o => some ⟨.scratch lid c o, 0, 0, n⟩
  | .stack _ => none

/-- The part of an engine's access at an address; none where it has no translation now. -/
def State.enginePart (s : State) (cx : Ctx) (view : Bool) (nd : Need) (a n : Nat) : Option Part :=
  match s.resolve cx view nd (BitVec.ofNat 64 a) 1 with
  | .ok loc => loc.part n
  | .error _ => none

/-- The parts of a span's pieces; none where one has no translation now. -/
def State.spanParts (s : State) (cx : Ctx) (view : Bool) (nd : Need) (ps : List (Nat × Nat)) : Option (List Part) :=
  ps.mapM fun p => s.enginePart cx view nd p.1 p.2

/-- The landed bytes of a part, whether it carries an uncorrectable error, and the state after the read (R334, R345). -/
def State.readPart (s : State) (p : Part) : List Byte × Bool × State :=
  ((List.range p.n).map fun i => s.byteAt (p.place.plus i), s.poisoned p.place, s.noteRead p.place)

/-- The same of some parts in order. -/
def State.readParts (s : State) : List Part → List Byte × Bool × State
  | [] => ([], false, s)
  | p :: ps =>
    let (bs, bad, s1) := s.readPart p
    let (bs', bad', s2) := State.readParts s1 ps
    (bs ++ bs', bad || bad', s2)

/-- Bytes written to a part (R216). `lid` and `crew` name the crew whose party writes. -/
def State.writePart (s : State) (lid crew : Nat) (p : Part) (bs : List Byte) : State := s.landPart lid crew p.place p.job p.va (bs.take p.n)

/-- Bytes written to parts in order. -/
def State.writeParts (s : State) (lid crew : Nat) : List Part → List Byte → State
  | [], _ => s
  | p :: ps, bs => State.writeParts (s.writePart lid crew p bs) lid crew ps (bs.drop p.n)

/-- The offset in a launch's stack pool at which an address of DRAM stands. -/
def poolOffset : List (Nat × Nat) → Nat → Option Nat
  | [], _ => none
  | (a, n) :: rest, x => if a ≤ x && decide (x < a + n) then some (x - a) else (poolOffset rest x).map (· + n)

/-- The live thread of a launch that has stack slice i, bound or saved, changed (R140, R184). -/
def State.modSlice (s : State) (lid i : Nat) (f : Thread → Thread) : State :=
  let g := fun (sq : Squad) =>
    if sq.lid = lid && decide (sq.num < 16) then
      { sq with threads := sq.threads.map fun x => (x.1, if x.2.live && x.2.slice == i then f x.2 else x.2) }
    else sq
  { s with
    squads := s.squads.map fun x => (x.1, x.2.map g)
    crews := s.crews.map fun x => (x.1, { x.2 with saved := x.2.saved.map fun y => (y.1, g y.2) }) }

/-- The 16 bytes at an address of DRAM carry an uncorrectable error: where they stand in a thread's stack slice, its loads of them give POISON (R184, R334). -/
def State.markSlice (s : State) (pa : Nat) : State :=
  s.launches.foldl (fun st x => match x.2 with
    | none => st
    | some l => match poolOffset l.pool pa with
      | none => st
      | some o => if l.stack = 0 then st else
        let off := o % l.stack
        st.modSlice x.1 (o / l.stack) fun t =>
          { t with stackPoison := SMap.set 0 t.stackPoison (off / 64) (SMap.get 0 t.stackPoison (off / 64) ||| (0xFFFF#64 <<< (off % 64))) }) s

/-- A place's line is marked poisoned (R334). -/
def State.mark (s : State) (p : Place) : State :=
  match p with
  | .dram pa _ => [0, 16, 32, 48].foldl (fun st k => st.markSlice (pa / 64 * 64 + k))
      { s with mem := { s.mem with poison := SMap.set 0 s.mem.poison (pa / 64) (BitVec.allOnes 64) } }
  | .scratch l c o => s.modCrew l c fun cr => { cr with poison := SMap.set 0 cr.poison (o / 64) (BitVec.allOnes 64) }

/-- The page of a part is under write-back, so a write to it stalls (R194). -/
def State.partHeld (s : State) (p : Part) : Bool := s.placeHeld p.job p.va p.place

/-- Memory holding bytes from address 0 on. -/
def memoryFrom (a : Nat) : List Byte → Memory
  | [] => []
  | b :: bs => if b = Memory.unlisted then memoryFrom (a + 1) bs else (a, b) :: memoryFrom (a + 1) bs

/-- What the threads of some lanes did before access number n, and what was performed for them before it, has been performed: an operation forked there may access
memory (R229). -/
def State.forked (s : State) (r : SquadRef) (lanes : List Nat) (n : Nat) : Bool :=
  (s.mem.writes.all fun w => !lanes.any fun l => s.seenBefore r l n w)
    && s.mem.reads.all fun x => !(x.by_ == r && lanes.contains x.lane && decide (x.seq < n) && s.readOpen x)

/-- The parts of an access, each with its offset in the data: (offset, address, bytes) (R216). -/
def partsFrom (off : Nat) : List (Nat × Nat) → List (Nat × Nat × Nat)
  | [] => []
  | (a, n) :: ps => (off, a, n) :: partsFrom (off + n) ps

/-- The 16-byte parts of a span. -/
def partsOf (a len : Nat) : List (Nat × Nat × Nat) := partsFrom 0 (span 16 a len)

/-! ### Tiles and slots -/

def Engine.tile (e : Engine) (t : Nat) : Tile := SMap.get {} e.tiles t

def Engine.modTile (e : Engine) (t : Nat) (f : Tile → Tile) : Engine := { e with tiles := SMap.set {} e.tiles t (f (e.tile t)) }

def Engine.slot (e : Engine) (n : Nat) : Slot := SMap.get {} e.slots n

def Engine.setSlot (e : Engine) (n : Nat) (v : Slot) : Engine := { e with slots := SMap.set {} e.slots n v }

def State.modEngine (s : State) (core : Nat) (f : Engine → Engine) : State :=
  s.modCore core fun c => { c with engine := f c.engine }

/-- A writing instruction of a tile is accepted: it is in progress until VER advances for it (R260). -/
def Tile.begin (t : Tile) : Tile := { t with writer := true }

/-- All its writes have landed: VER advances, and the writer is done (R260). -/
def Tile.finish (t : Tile) : Tile := { t with ver := t.ver + 1, writer := false }

/-- The version that an instruction names is due and no writer is in progress (R260). -/
def Tile.due (t : Tile) (v : Nat) : Bool := t.ver.toNat % 16 == v && !t.writer

/-! ### Batches (R273) -/

/-- An operation of a squad's batch has not completed; an MMA.Q that was interrupted joins the open batch when it issues again (R272). -/
def Engine.batchBusy (e : Engine) (r : SquadRef) (n : BitVec 16) : Bool :=
  e.ops.any (fun o => o.by_ == r && o.batch == n) || e.mmas.any fun m => m.by_ == r && m.batch == n && m.paused.isNone

/-- DONE moves on over the closed batches that have completed. -/
def advanceDone (busy : BitVec 16 → Bool) (closed : BitVec 16) : Nat → BitVec 16 → BitVec 16
  | 0, d => d
  | n + 1, d => if d = closed || busy (d + 1) then d else advanceDone busy closed n (d + 1)

/-- The batches that are closed and have not completed (R273). -/
def Engine.liveBatches (e : Engine) (sq : Squad) : Nat :=
  (List.range (sq.closed - sq.done).toNat).countP fun k => e.batchBusy sq.ref (sq.done + 1 + BitVec.ofNat 16 k)

/-- DONE of the squad of a record after an operation has completed. -/
def State.settleBatches (s : State) (q : Nat) : State :=
  s.modSquad q fun sq =>
    { sq with done := advanceDone ((s.coreAt (coreOf q)).engine.batchBusy sq.ref) sq.closed (sq.closed - sq.done).toNat sq.done }

/-- The same for the squad that issued an operation, where it is bound. -/
def State.settleFor (s : State) (r : SquadRef) : State :=
  match s.recordFor r with
  | some q => s.settleBatches q
  | none => s

end Sys2Proof.Machine
end

