-- ==== Sys2Proof/Machine/Views.lean ====
section
/-!
DEFINITION. Machine/Views.lean: covered storage: granules and their frames (R198, R202, R207), the view table (R199), and the
view instructions (R201-R206).
-/
namespace Sys2Proof.Machine

/-! ### Frames and leaf entries -/

abbrev granuleBytes : Nat := 65536

/-- The key of the granule that holds an address of a job. -/
abbrev granuleKey (job va : Nat) : Nat := job * 2 ^ 48 + va / granuleBytes

/-- A stretch of memory zeroed (R107, R202, R207). -/
def Memory.clear (m : Memory) (a n : Nat) : Memory := m.filter fun c => decide (c.1 < a) || decide (a + n ≤ c.1)

/-- What is left of stretches under keys when [a, a + n) is taken out of them. -/
def cutKeys (a n : Nat) (fs : List (Nat × Nat × Nat)) : List (Nat × Nat × Nat) :=
  fs.flatMap fun f =>
    (if f.1 < a then [(f.1, min f.2.1 (a - f.1), f.2.2)] else []) ++
      (if a + n < f.1 + f.2.1 then [(max f.1 (a + n), f.1 + f.2.1 - max f.1 (a + n), f.2.2)] else [])

/-- Lines [a, a + n) of DRAM are zeroed whole by the device: bytes 0, under no key, and no poison (R189, R334). -/
def State.zeroDram (s : State) (a n : Nat) : State :=
  { s with mem := { s.mem with
      dram := s.mem.dram.clear a n
      poison := s.mem.poison.filter fun p => decide (p.1 < a / 64) || decide ((a + n) / 64 ≤ p.1)
      frameKeys := cutKeys a n s.mem.frameKeys
      lineKeys := s.mem.lineKeys.filter fun p => decide (p.1 < a / 64) || decide ((a + n) / 64 ≤ p.1)
      latent := s.mem.latent.filter fun p => match p with
        | .dram x _ => decide (x < a) || decide (a + n ≤ x)
        | _ => true } }

/-- A frame is mapped under the key of a slot: what stands in it under no key stands under that one, and data that an earlier mapping left there stays under its own
(R189). -/
def State.keyFrame (s : State) (a n slot : Nat) : State :=
  let f := (a, n, SMap.get 0 s.mem.keys slot)
  { s with mem := { s.mem with frameKeys := if s.mem.frameKeys.contains f then s.mem.frameKeys else s.mem.frameKeys ++ [f] } }

/-- The table of level 0 that a job's tree has for an address (R185). -/
def tableFrom (m : Memory) (va : Nat) : Nat → Nat → Option Nat
  | 0, tbl => some tbl
  | lvl + 1, tbl =>
    match walkStep m va (lvl + 1) tbl with
    | (_, some next) => tableFrom m va lvl next
    | _ => none

/-- The first of the 16 entries of a 64 KiB page (R185). -/
def granuleEntry (m : Memory) (root va : Nat) : Option Nat :=
  (tableFrom m va 4 root).map fun tbl => tbl + 8 * (bitsOf va 12 9 / 16 * 16)

/-- The leaf entry of a page of a declared range (R185, R190). -/
def leafWord (r : Range) (frame : Nat) (valid : Bool) : Nat :=
  r.key * 2 ^ 56 + r.ord * 2 ^ 54 + r.cls * 2 ^ 52 + r.home * 2 ^ 49 + frame / 4096 * 2 ^ 12 + r.psize * 2 ^ 9
    + r.rights.toNat % 16 * 4 + 2 + (if valid then 1 else 0)

/-- Bytes of DRAM of a die. -/
abbrev dieBytes : Nat := Config.dramBytes / 4

/-- The stretch of DRAM that holds the frames of a HOME (R188): quarter d is die d's; an interleaved page takes frames from all (DESIGN CHOICE, log 14). -/
def homeStretch (home : Nat) : Nat × Nat := if home < 4 then (home * dieBytes, (home + 1) * dieBytes) else (0, Config.dramBytes)

/-- Whole aligned pieces of n bytes between two addresses. -/
def piecesIn (n lo hi : Nat) : Nat := hi / n - (lo + n - 1) / n

/-- Frames of 64 KiB that are free for a HOME (R202). -/
def State.freeFrames (s : State) (home : Nat) : Nat :=
  let (lo, hi) := homeStretch home
  s.mem.free.foldl (fun k e => k + piecesIn granuleBytes (max lo e.1) (min hi (e.1 + e.2))) 0

/-- n bytes, aligned to `al`, between `lo` and `hi`, taken from the first stretch that has room: the address, and the stretches left. -/
def carve (n al lo hi : Nat) : List (Nat × Nat) → Option (Nat × List (Nat × Nat))
  | [] => none
  | (a, len) :: rest =>
    let b := (max a lo + al - 1) / al * al
    if b + n ≤ min hi (a + len) then
      let before := if a < b then [(a, b - a)] else []
      let after := if b + n < a + len then [(b + n, a + len - (b + n))] else []
      some (b, before ++ after ++ rest)
    else (carve n al lo hi rest).map fun r => (r.1, (a, len) :: r.2)

/-- A piece of DRAM taken from the free pool of a HOME (R188, R202; DESIGN CHOICE, log 14). -/
def State.takeFrame (s : State) (home n : Nat) : Option (State × Nat) :=
  (carve n n (homeStretch home).1 (homeStretch home).2 s.mem.free).map fun r =>
    ({ s with mem := { s.mem with free := r.2, homed := if home < 4 then s.mem.homed ++ [(r.1, n, home)] else s.mem.homed } }, r.1)

/-- The die on which a line of DRAM lies (R188): that of its frame's HOME, or pa[13:12] where the frame belongs to no homed page. -/
def State.dieOf (s : State) (pa : Nat) : Nat :=
  ((s.mem.homed.find? fun h => decide (h.1 ≤ pa) && decide (pa < h.1 + h.2.1)).map (·.2.2)).getD (pa / 4096 % 4)

/-- A stretch joined to those that it touches. -/
def joinFree (a n : Nat) (fs : List (Nat × Nat)) : List (Nat × Nat) :=
  let before := fs.find? fun e => e.1 + e.2 == a
  let after := fs.find? fun e => e.1 == a + n
  let lo := (before.map (·.1)).getD a
  let hi := (after.map fun e => e.1 + e.2).getD (a + n)
  (fs.filter fun e => e.1 + e.2 != a && e.1 != a + n) ++ [(lo, hi - lo)]

/-- A piece is zeroed, which ends every mark of poison in it, and returned to the free pool (R207, R334). -/
def State.giveFrame (s : State) (a n : Nat) : State :=
  let z := s.zeroDram a n
  { z with mem := { z.mem with
    free := joinFree a n z.mem.free
    homed := z.mem.homed.filter fun h => decide (h.1 + h.2.1 ≤ a) || decide (a + n ≤ h.1) } }

/-! ### Granules -/

def State.granule (s : State) (job va : Nat) : Granule := SMap.get {} s.mem.granules (granuleKey job va)

def State.modGranule (s : State) (job va : Nat) (f : Granule → Granule) : State :=
  { s with mem := { s.mem with granules := SMap.set {} s.mem.granules (granuleKey job va) (f (s.granule job va)) } }

/-- The addresses of the granules that [a, b) includes a byte of (R198). -/
def granulesOf (a b : Nat) : List Nat :=
  if b ≤ a then [] else
    (List.range ((b - 1) / granuleBytes - a / granuleBytes + 1)).map fun i => (a / granuleBytes + i) * granuleBytes

/-- The granules of a view's window. -/
def View.granules (e : View) : List Nat := granulesOf (e.cbase.toNat + e.lo) (e.cbase.toNat + e.hi)

/-- A granule's count raised by one. -/
def State.raiseCount (s : State) (job va : Nat) : State := s.modGranule job va fun g => { g with count := g.count + 1 }

/-- A granule is given a zeroed frame and its leaf entry (R202). -/
def State.fillGranule (s : State) (j : Job) (r : Range) (va : Nat) : State :=
  match s.takeFrame r.home granuleBytes with
  | none => s
  | some (s, f) =>
    let s := (s.zeroDram f granuleBytes).keyFrame f granuleBytes r.key
    let s := match granuleEntry s.mem.dram j.root va with
      | some a => { s with mem := { s.mem with dram := setLeaf s.mem.dram ⟨a, leafWord r f true⟩ (leafWord r f true) } }
      | none => s
    s.modGranule j.num va fun _ => ⟨1, true, f⟩

/-! ### The view table -/

/-- The entry that is taken next (R199). -/
def State.nextView (s : State) : Option Nat :=
  if s.mem.viewFresh < Config.viewEntries then some s.mem.viewFresh else s.mem.viewFreed.head?

def State.setView (s : State) (i : Nat) (v : View) : State :=
  { s with mem := { s.mem with views := SMap.set {} s.mem.views i v } }

/-- Entry i taken for a new view; its GEN stays (R199). -/
def State.takeView (s : State) (i : Nat) (v : View) : State :=
  let s := if s.mem.viewFresh < Config.viewEntries then { s with mem := { s.mem with viewFresh := s.mem.viewFresh + 1 } }
    else { s with mem := { s.mem with viewFreed := s.mem.viewFreed.tail } }
  s.setView i { v with gen := (SMap.get ({} : View) s.mem.views i).gen, live := true }

/-- An entry freed: GEN increases by 1 (R199). -/
def State.freeView (s : State) (i : Nat) : State :=
  let e : View := SMap.get {} s.mem.views i
  let s := s.setView i { gen := e.gen + 1 }
  { s with mem := { s.mem with viewFreed := s.mem.viewFreed ++ [i] } }

/-- The handle of an entry (R35). -/
def handleWord (i : Nat) (gen : BitVec 20) (region : BitVec 16) (rights : BitVec 7) : Word :=
  BitVec.ofNat 64 (rights.toNat * 2 ^ 56 + region.toNat * 2 ^ 40 + gen.toNat * 2 ^ 20 + i)

/-- The whey queue is full (R206): its size is free (DESIGN CHOICE, log 25). -/
def State.wheyFull (s : State) : Bool := decide (Config.wheyRoom + 1 ≤ s.mem.whey.length)

/-- Decrement events posted for granules (R203, R204, R206). -/
def State.postDecrements (s : State) (job : Nat) (by_ : SquadRef) (lane : Nat) (vas : List Nat) : State :=
  vas.foldl (fun st va => { st with
    seq := st.seq + 1
    mem := { st.mem with whey := st.mem.whey ++ [⟨job, BitVec.ofNat 64 va, by_, lane, st.seq + 1⟩] } }) s

/-- A view dropped by Driene (R211): no thread's accesses stand before its decrements. -/
def State.dropView (s : State) (i : Nat) : State :=
  let e : View := SMap.get {} s.mem.views i
  if e.live then
    let s := s.freeView i
    e.granules.foldl (fun st va => { st with mem := { st.mem with whey := st.mem.whey ++ [⟨e.job, BitVec.ofNat 64 va, ⟨0, 0, 0⟩, 0, 0⟩] } }) s
  else s

/-! ### The skeleton of a view instruction -/

/-- The tags of a handle operand (R201). -/
def handleTag (t : Tag) : Bool := t == .view || isAddrTag t

/-- A view instruction (R201): every active lane in ascending order, or none; where a lane must wait, all wait, and so does an instruction that posts decrement
events while the whey queue is full (R206). -/
def State.execViews (s : State) (i : Instr) (f : Ctx → State → Except Trap State) : State :=
  let done := s.execLanes i 0 0 f
  if (lanesOf s.cur.lanes).any (fun l => (done.thread s.cur.q l).wait == .blocked i)
      || (s.wheyFull && decide (s.mem.whey.length < done.mem.whey.length)) then
    s.execLanes i 0 0 fun cx st => .ok (st.block cx i)
  else done

/-- A new handle, or a refusal, written with the lane's k1 bit (R201). -/
def State.viewResult (s : State) (cx : Ctx) (d : RegCode) (h : Option Word) : State :=
  s.modThread cx.q cx.lane fun t =>
    match h with
    | some w => (t.write cx d ⟨w, .view⟩ .sb).writeK cx 1 false .sb
    | none => (t.write cx d Reg.zero .sb).writeK cx 1 true .sb

/-- The launch has taken a view, in a crew. -/
def State.recordView (s : State) (cx : Ctx) (i gen : Nat) : State :=
  s.modLaunch cx.lid fun l => { l with views := l.views ++ [(cx.crew, i, gen)] }

/-- A thread of the crew has executed VNARROW, VSPLIT or VDROP (R211). -/
def State.recordNarrow (s : State) (cx : Ctx) : State :=
  s.modLaunch cx.lid fun l => { l with narrowed := if l.narrowed.contains cx.crew then l.narrowed else l.narrowed ++ [cx.crew] }

/-! ### VALLOC -/

/-- VALLOC of one thread (R202). -/
def vallocLane (i : Instr) (b a d : RegCode) (cx : Ctx) (s : State) : Except Trap State := do
  let t := s.thread cx.q cx.lane
  let x ← t.src cx isAddrTag a
  let y ← t.src cx isAddrTag b
  let va := x.data.toNat
  let n := y.data.toNat
  let la := s.launchOf cx.lid
  if va % granuleBytes ≠ 0 || n = 0 || n % granuleBytes != 0 then .error ⟨0x07, x.data⟩ else
  match s.job? la.job, (s.coveredRanges la.job).find? fun r => decide (r.base ≤ va) && decide (va + n ≤ r.base + r.length) with
  | some j, some r =>
    if !la.ranges.any (fun q => q.cls == 1 && q.base == r.base) then .error ⟨0x04, x.data⟩ else
    let gs := granulesOf va (va + n)
    match gs.find? fun g => decide (0 < (s.granule la.job g).count) with
    | some g => .error ⟨0x05, BitVec.ofNat 64 g⟩
    | none =>
      if gs.any fun g => (s.granule la.job g).present then .ok (s.block cx i) else
      match s.nextView with
      | none => .ok (s.viewResult cx d none)
      | some k =>
        if s.freeFrames r.home < gs.length then .ok (s.viewResult cx d none)
        else
          let s1 := gs.foldl (fun st g => st.fillGranule j r g) s
          let region := BitVec.ofNat 16 r.arg.toNat
          let s2 := s1.takeView k { cbase := x.data, clen := n, lo := 0, hi := n, region := region, rights := 0x7F, job := la.job }
          let gen := (SMap.get ({} : View) s.mem.views k).gen
          .ok ((s2.recordView cx k gen.toNat).viewResult cx d (some (handleWord k gen region 0x7F)))
  | _, _ => .error ⟨0x03, x.data⟩

/-- VALLOC (R202). -/
def execValloc (b : RegCode) (a : RegCode) (d : RegCode) (s : State) : Host.Outcome State Fault Refusal :=
  .next (s.execViews (.valloc b a d) (vallocLane (.valloc b a d) b a d))

/-! ### VDUP, VSPLIT, VNARROW -/

/-- What the reshaping instructions read beside the view (R203): the offset x, the length n and the mask m. -/
structure ShapeArgs where
  h : Word
  e : View
  r : BitVec 7
  x : Nat
  n : Nat
  m : BitVec 7
  deriving DecidableEq, Repr

/-- The operands of VDUP, VSPLIT and VNARROW and the view they name; o1 and o2 are read where `more` says so. -/
def State.shapeArgs (s : State) (cx : Ctx) (more : Bool) (b a : RegCode) : Except Trap ShapeArgs := do
  let t := s.thread cx.q cx.lane
  let h ← t.src cx handleTag a
  let x ← t.src cx isAddrTag b
  let n ← if more then t.src cx isAddrTag 57 else .ok Reg.zero
  let m ← if more then t.src cx isAddrTag 58 else .ok Reg.zero
  let e ← s.resolveView (s.launchOf cx.lid) h.data
  .ok ⟨h.data, e, hRights h.data &&& e.rights, x.data.toNat, n.data.toNat, m.data.truncate 7⟩

/-- The checks of R203: the right needed, and the new range [l, h) inside the window. -/
def ShapeArgs.check (p : ShapeArgs) (right : BitVec 7) (l h : Nat) : Except Trap Unit :=
  if p.r &&& right = 0 || decide (l < p.e.lo) || decide (p.e.hi < h) || decide (h < l)
  then .error ⟨0x05, p.e.cbase + BitVec.ofNat 64 p.x⟩ else .ok ()

/-- A new view over [l, h) of a view, with rights `r`: an entry, the counts, and the handle, or a refusal (R201, R203). -/
def State.newView (s : State) (cx : Ctx) (e : View) (l h : Nat) (r : BitVec 7) : Option (State × Word) :=
  match s.nextView with
  | none => none
  | some k =>
    let v : View := { cbase := e.cbase + BitVec.ofNat 64 l, clen := h - l, lo := 0, hi := h - l, region := e.region, rights := r, job := e.job }
    let gen := (SMap.get ({} : View) s.mem.views k).gen
    let s := v.granules.foldl (fun st g => st.raiseCount e.job g) s
    some ((s.takeView k v).recordView cx k gen.toNat, handleWord k gen e.region r)

/-- The granules that the view of an entry gives up when its window becomes that of `v`. -/
def State.givenUp (s : State) (i : Nat) (v : View) : List Nat :=
  ((SMap.get {} s.mem.views i : View).granules).filter fun g => !v.granules.contains g

/-- A view's window changed: decrements are posted for the granules it gives up (R203). -/
def State.reshape (s : State) (cx : Ctx) (i : Nat) (v : View) : State :=
  (s.setView i v).postDecrements v.job ⟨cx.lid, cx.crew, cx.num⟩ cx.lane (s.givenUp i v)

/-- VDUP of one thread (R203). -/
def vdupLane (b a d : RegCode) (cx : Ctx) (s : State) : Except Trap State := do
  let p ← s.shapeArgs cx true b a
  p.check vDS p.x (p.x + p.n)
  match s.newView cx p.e p.x (p.x + p.n) (p.r &&& p.m) with
  | none => .ok (s.viewResult cx d none)
  | some (s', h) => .ok (s'.viewResult cx d (some h))

/-- VDUP (R203). -/
def execVdup (b : RegCode) (a : RegCode) (d : RegCode) (s : State) : Host.Outcome State Fault Refusal :=
  .next (s.execViews (.vdup b a d) (vdupLane b a d))

/-- VSPLIT of one thread (R203). -/
def vsplitLane (b a d : RegCode) (cx : Ctx) (s : State) : Except Trap State := do
  let p ← s.shapeArgs cx false b a
  p.check vDS p.e.lo p.x
  match s.newView cx p.e p.e.lo p.x p.r with
  | none => .ok ((s.recordNarrow cx).viewResult cx d none)
  | some (s', h) =>
    .ok (((s'.reshape cx (hIndex p.h) { p.e with lo := p.x }).recordNarrow cx).viewResult cx d (some h))

/-- VSPLIT (R203). -/
def execVsplit (b : RegCode) (a : RegCode) (d : RegCode) (s : State) : Host.Outcome State Fault Refusal :=
  .next (s.execViews (.vsplit b a d) (vsplitLane b a d))

/-- VNARROW of one thread (R203): the same INDEX and GEN with the new rights. -/
def vnarrowLane (b a d : RegCode) (cx : Ctx) (s : State) : Except Trap State := do
  let p ← s.shapeArgs cx true b a
  p.check vNA p.x (p.x + p.n)
  let r := p.r &&& p.m
  let s' := (s.reshape cx (hIndex p.h) { p.e with lo := p.x, hi := p.x + p.n, rights := r }).recordNarrow cx
  .ok (s'.modThread cx.q cx.lane fun t => t.write cx d ⟨handleWord (hIndex p.h) p.e.gen p.e.region r, .view⟩ .sb)

/-- VNARROW (R203). -/
def execVnarrow (b : RegCode) (a : RegCode) (d : RegCode) (s : State) : Host.Outcome State Fault Refusal :=
  .next (s.execViews (.vnarrow b a d) (vnarrowLane b a d))

/-! ### VDROP, VQUERY, VBOUND -/

/-- VDROP of one thread (R204). -/
def vdropLane (a : RegCode) (cx : Ctx) (s : State) : Except Trap State := do
  let h ← (s.thread cx.q cx.lane).src cx handleTag a
  let e ← s.resolveView (s.launchOf cx.lid) h.data
  if (hRights h.data &&& e.rights) &&& vDR = 0 then .error ⟨0x05, e.cbase + BitVec.ofNat 64 e.lo⟩
  else .ok (((s.freeView (hIndex h.data)).postDecrements e.job ⟨cx.lid, cx.crew, cx.num⟩ cx.lane e.granules).recordNarrow cx)

/-- VDROP (R204). -/
def execVdrop (a : RegCode) (s : State) : Host.Outcome State Fault Refusal :=
  .next (s.execViews (.vdrop a) (vdropLane a))

/-- A decrement event that a thread posted waits in the queue (R205). -/
def State.hasDecrements (s : State) (by_ : SquadRef) (lane : Nat) : Bool :=
  s.mem.whey.any fun d => d.by_ == by_ && d.lane == lane && d.seq != 0

/-- VQUERY of one thread (R205). -/
def vqueryLane (i : Instr) (b a d : RegCode) (cx : Ctx) (s : State) : Except Trap State := do
  let t := s.thread cx.q cx.lane
  let h ← t.src cx handleTag a
  let x ← t.src cx isAddrTag b
  let e ← s.resolveView (s.launchOf cx.lid) h.data
  if e.clen ≤ x.data.toNat then .error ⟨0x05, e.cbase + x.data⟩
  else if s.hasDecrements ⟨cx.lid, cx.crew, cx.num⟩ cx.lane then .ok (s.block cx i)
  else
    let g := s.granule e.job (e.cbase + x.data).toNat
    let v := (if g.present then 2 ^ 32 else 0) + g.count % 2 ^ 21
    .ok (s.modThread cx.q cx.lane fun t => t.write cx d ⟨BitVec.ofNat 64 v, .i64⟩ .sb)

/-- VQUERY (R205). -/
def execVquery (b : RegCode) (a : RegCode) (d : RegCode) (s : State) : Host.Outcome State Fault Refusal :=
  .next (s.execViews (.vquery b a d) (vqueryLane (.vquery b a d) b a d))

/-- What VBOUND reads (R205). -/
def boundWord (sel : BitVec 2) (h : Word) (e : View) : Word :=
  match sel.toNat with
  | 0 => e.cbase
  | 1 => BitVec.ofNat 64 e.lo
  | 2 => BitVec.ofNat 64 e.hi
  | _ => BitVec.ofNat 64 (e.region.toNat * 65536 + (hRights h &&& e.rights).toNat)

/-- VBOUND of one thread (R205). -/
def vboundLane (sel : BitVec 2) (a d : RegCode) (cx : Ctx) (s : State) : Except Trap State := do
  let h ← (s.thread cx.q cx.lane).src cx handleTag a
  let e ← s.resolveView (s.launchOf cx.lid) h.data
  .ok (s.modThread cx.q cx.lane fun t => t.write cx d ⟨boundWord sel h.data e, .i64⟩ .sb)

/-- VBOUND (R205). -/
def execVbound (s : BitVec 2) (a : RegCode) (d : RegCode) (st : State) : Host.Outcome State Fault Refusal :=
  .next (st.execViews (.vbound s a d) (vboundLane s a d))

end Sys2Proof.Machine
end

