-- ==== Sys2Proof/Machine/Admission.lean ====
section
/-!
DEFINITION. Machine/Admission.lean: what Driene does with a launch record: its checks (R103-R106, R190, R197), the ranges made
resident and released (R191), and Driene's own accesses: page tables (R185), completion objects (R285), replies and reports
(R366, R367).
-/
namespace Sys2Proof.Machine

/-! ### Driene's reads and writes -/

/-- Every byte of a piece is 0. -/
def zeroAt (bs : List Byte) (o n : Nat) : Bool := ((bs.drop o).take n).all (· == 0)

/-- The physical address and leaf of a virtual address in a job's tree. -/
def State.jobPlace (s : State) (j : Job) (va : Nat) : Option (Nat × Leaf) :=
  if 2 ^ 56 ≤ va then none else
  match walk s.mem.dram j.root va with
  | .leaf l => some (l.pa va, l)
  | _ => none

/-- The number of the key that a leaf names (R189). -/
def State.leafKey (s : State) (l : Leaf) : Nat := SMap.get 0 s.mem.keys l.key

/-- Bytes of a job's memory as Driene reads them. -/
def State.jobRead (s : State) (j : Job) (a n : Nat) : Option (List Byte) :=
  (List.range n).mapM fun i => (s.jobPlace j (a + i)).map fun p => s.byteAt (.dram p.1 (s.leafKey p.2))

/-- The reads of a stretch of a frame, as they count for injected flips (R345). -/
def State.noteFrame (s : State) (a n : Nat) : State :=
  if s.mem.latent == [] then s else (linesOf a n).foldl (fun st l => st.noteRead (.dram (64 * l) 0)) s

/-- The state once Driene has read bytes of a job's memory (R345). -/
def State.jobSeen (s : State) (j : Job) (a n : Nat) : State :=
  if s.mem.latent == [] then s else (span 16 a n).foldl (fun st p => match st.jobPlace j p.1 with
    | some (pa, _) => st.noteRead (.dram pa 0)
    | none => st) s

/-- Driene as the party of its own writes. -/
def drieneRef : SquadRef := partyRef 0 0 0

/-- Bytes that Driene writes into a job's memory, part by part; an address that is not mapped takes none, and a part whose page is under write-back waits for its end
(R194). -/
def State.jobWrite (s : State) (j : Job) (a : Nat) (bs : List Byte) : State :=
  (span 16 a bs.length).foldl (fun st p =>
    match st.jobPlace j p.1 with
    | none => st
    | some (pa, l) =>
      let part := (bs.drop (p.1 - a)).take p.2
      if st.pageHeld j.num p.1 pa then st.postPart drieneRef (.dram pa (st.leafKey l)) j.num p.1 part
      else st.landPart 0 0 (.dram pa (st.leafKey l)) j.num p.1 part) s

/-- A completion object's status word (R285). -/
def statusWord (code cause kind : Nat) (detail : BitVec 32) : Nat := detail.toNat * 2 ^ 32 + kind * 2 ^ 16 + cause * 2 ^ 8 + code

/-- A completion object is signalled: SEQ + 1 and the status word in one write (R285). -/
def State.signalAt (s : State) (j : Job) (a word : Nat) : State :=
  match s.jobRead j a 8 with
  | none => s
  | some bs => (s.jobSeen j a 8).jobWrite j a (bytesLE 8 (natLE bs + 1) ++ bytesLE 8 word)

/-- A reply on the request channel: TYPE is the request's + 0x40 (R366). -/
def State.reply (s : State) (type status : Nat) (reqid : Word) (job : Nat) (body : List Byte) : State :=
  s.note (.reply (type + 0x40) status reqid job body)

/-! ### Packets to peers (R359-R361) -/

/-- The entropy value of a packet: its own where it is a PUT's or a GET's (R360), else one formed from the number it carries. -/
def OutPacket.entropyValue : OutPacket → Nat
  | .putData _ _ e .. | .getRequest _ _ e .. | .readData _ _ e _ => e
  | .ack m | .nack m .. => Config.entropy 0 m
  | .sockOpen n _ | .socket n .. | .sockEnd n _ => Config.entropy 1 n

/-- The port by which a packet to a peer leaves: one of those in the routing tables, of this module and of the peer (R361; DESIGN CHOICE, log 73). -/
def State.route (s : State) (peer e : Nat) : Option Nat :=
  let up := (List.range 12).filter fun p => !s.io.linksDown.contains p && !s.io.peerLinksDown.contains (peer, p)
  up[Config.portOf e % up.length]?

/-- A packet of a job's traffic is sent to a peer, under the job's key (R359). -/
def State.sendTo (s : State) (job peer : Nat) (p : OutPacket) : State :=
  s.note (.packet job peer (((s.job? job).map (·.net)).getD 0) (s.route peer p.entropyValue) p)

/-! ### Page tables (R185) -/

/-- The level that holds leaves of a SIZE code. -/
def leafLevel : Nat → Nat
  | 0 | 1 => 0
  | 2 | 3 => 1
  | _ => 2

/-- The table of a level for an address, made where it is missing. -/
def State.ensureTable (va target : Nat) : Nat → Nat → State → Option (State × Nat × List Nat)
  | 0, tbl, s => some (s, tbl, [])
  | lvl + 1, tbl, s =>
    if lvl + 1 = target then some (s, tbl, []) else
    match walkStep s.mem.dram va (lvl + 1) tbl with
    | (_, some next) => State.ensureTable va target lvl next s
    | (.none, none) =>
      match s.takeFrame 4 4096 with
      | none => none
      | some (s1, f) =>
        let s2 := s1.zeroDram f 4096
        let i := bitsOf va (12 + 9 * (lvl + 1)) (if lvl + 1 = 4 then 8 else 9)
        let s3 := { s2 with mem := { s2.mem with dram := s2.mem.dram.writeBytes (tbl + 8 * i) (bytesLE 8 (f + 1)) } }
        (State.ensureTable va target lvl f s3).map fun r => (r.1, r.2.1, f :: r.2.2)
    | _ => none

/-- The first entry of the group that maps a page of a range, its tables made where they are missing; the job keeps the list
of its tables. -/
def State.ensureEntry (s : State) (jn : Nat) (va size : Nat) : Option (State × Nat) :=
  match s.job? jn with
  | none => none
  | some j =>
    match State.ensureTable va (leafLevel size) 4 j.root s with
    | none => none
    | some (s1, tbl, new) =>
      let i := bitsOf va (12 + 9 * leafLevel size) 9
      some (s1.setJob jn (some { j with tables := j.tables ++ new }), tbl + 8 * (i - i % groupLen size))

/-- A page mapped by a leaf word. -/
def State.mapPage (s : State) (jn va size word : Nat) : Option State :=
  (s.ensureEntry jn va size).map fun r =>
    { r.1 with mem := { r.1.mem with dram := setLeaf r.1.mem.dram ⟨r.2, word⟩ word } }

/-- The pages of a range. -/
def Range.pages (r : Range) : List Nat := (List.range (r.length / pageBytes r.psize)).map fun i => r.base + i * pageBytes r.psize

/-- A file that Driene's handle n names: the n-th on flash, counted from 1 (DESIGN CHOICE, log 20). -/
def State.fileOf (s : State) (n : Nat) : Option File := if n = 0 then none else s.io.files[n - 1]?

/-- The frame of a file-backed page filled from flash (R191). -/
def State.fillFrame (s : State) (r : Range) (va f : Nat) : State :=
  match r.cls, s.fileOf (bitsOf r.arg.toNat 0 32) with
  | 2, some file =>
    let off := bitsOf r.arg.toNat 32 32 * 65536 + (va - r.base)
    let s1 := s.zeroDram f (pageBytes r.psize)
    { s1 with mem := { s1.mem with dram := s1.mem.dram.writeBytes f ((file.data.drop off).take (pageBytes r.psize)) } }
  | _, _ => s

/-- Bytes of a file replaced from an offset on; a gap before them reads 0. -/
def putFile (data : List Byte) (off : Nat) (bs : List Byte) : List Byte :=
  (data ++ List.replicate (off - data.length) 0).take off ++ bs ++ data.drop (off + bs.length)

/-- A file changed, by its path. -/
def State.modFile (s : State) (path : List Byte) (f : List Byte → List Byte) : State :=
  { s with io := { s.io with files := s.io.files.map fun x => if x.path = path then { x with data := f x.data } else x } }

/-- A dirty page that leaves memory reaches its file (R193; DEDUCED, log 22): the bytes of its frame as a leaf shows them. -/
def State.saveFrame (s : State) (l : Leaf) (file : Option (List Byte × Nat)) : State :=
  match file with
  | some (path, off) =>
    if l.bit 8 then
      (s.noteFrame l.frame (pageBytes l.size)).modFile path fun d =>
        putFile d off ((List.range (pageBytes l.size)).map fun i => s.byteAt (.dram (l.frame + i) (s.leafKey l)))
    else s
  | none => s

/-- An access under an old translation has not landed: a write, or an atomic that has passed its checks and waits (R195). -/
def State.writesUnder (s : State) (job va n : Nat) : Bool :=
  let inPage := fun (j v : Nat) => j == job && decide (va ≤ v) && decide (v < va + n)
  s.mem.writes.any (fun w => inPage w.job w.va) ||
    (s.records.map (·.2) ++ s.crews.flatMap fun c => c.2.saved.map (·.2)).any fun sq => sq.threads.any fun (_, t) =>
      match t.wait with
      | .atomic _ (.dram _ _ j v _) _ _ => inPage j v
      | _ => false

/-- A shootdown can complete: no access translated under the old entry is left (R195). -/
def State.staleOver (s : State) (st : Stale) : Bool := !s.writesUnder st.job st.va st.size

/-- A shootdown is complete (R195): no TLB holds the old entry, and what it held back goes on. -/
def State.endStale (s : State) (st : Stale) : State :=
  let s1 := { s with mem := { s.mem with stale := s.mem.stale.erase st } }.saveFrame ⟨0, st.entry.toNat⟩ st.file
  st.give.foldl (fun s g => s.giveFrame g.1 g.2) s1

/-- Driene changes a live leaf (R195): the old entry may be used until the shootdown is complete. -/
def State.changeLeaf (s : State) (job va : Nat) (l : Leaf) (raw : Nat) (give : List (Nat × Nat)) (file : Option (List Byte × Nat)) : State :=
  let n := pageBytes l.size
  let st : Stale := ⟨job, va / n * n, n, BitVec.ofNat 64 l.raw, give, file⟩
  { s with mem := { s.mem with dram := setLeaf s.mem.dram l raw, stale := s.mem.stale ++ [st] } }

/-- A shootdown of a page's earlier mapping is completed before the page is mapped anew; none where it cannot be. -/
def State.clearStale (s : State) (jn va : Nat) : Option State :=
  match s.staleFor jn va with
  | none => some s
  | some st => if s.staleOver st then some (s.endStale st) else none

/-- A page of a range made resident: one that another launch holds is shared; a covered page only gets its tables (R190,
R197). -/
def State.residePage (s : State) (jn : Nat) (r : Range) (va : Nat) : Option State :=
  if r.cls = 1 then (s.ensureEntry jn va 1).map (·.1) else
  match (s.job? jn).bind fun j => s.jobPlace j va with
  | some _ => some s
  | none => (s.clearStale jn va).bind fun s0 => (s0.takeFrame r.home (pageBytes r.psize)).bind fun x =>
    ((x.1.fillFrame r va x.2).keyFrame x.2 (pageBytes r.psize) r.key).mapPage jn va r.psize (leafWord r x.2 true)

/-- A range made resident. -/
def State.resideRange (s : State) (jn : Nat) (r : Range) : Option State := r.pages.foldlM (fun st va => st.residePage jn r va) s

/-- The file, with an offset, behind a page of a file-backed range (R190). -/
def State.fileAt (s : State) (r : Range) (va : Nat) : Option (List Byte × Nat) :=
  if r.cls ≠ 2 then none else
  (s.fileOf (bitsOf r.arg.toNat 0 32)).map fun f => (f.path, bitsOf r.arg.toNat 32 32 * 65536 + (va - r.base))

/-- A page unmapped by a shootdown (R195), with the end of which its frame is returned. -/
def State.evictPage (s : State) (jn : Nat) (r : Range) (va : Nat) : State :=
  match (s.job? jn).bind fun j => s.jobPlace j va with
  | none => s
  | some (_, l) =>
    let s0 := { s with io := { s.io with nvme := s.io.nvme.filter fun c => match c with
      | .page j v _ => !(j == jn && v.toNat == va)
      | _ => true } }
    s0.changeLeaf jn va l 0 [(l.frame, pageBytes l.size)] (s.fileAt r va)

/-- The pages that stand in [va, stop) now, whatever their sizes; n steps at most. -/
def State.pagesFrom (s : State) (j : Job) (stop : Nat) : Nat → Nat → List Nat
  | 0, _ => []
  | n + 1, va =>
    if stop ≤ va then [] else
    match s.jobPlace j va with
    | some (_, l) => va :: State.pagesFrom s j stop n (va + pageBytes l.size)
    | none => State.pagesFrom s j stop n (va + 4096)

/-- The pages of a range that are mapped now. -/
def State.pagesOf (s : State) (jn : Nat) (r : Range) : List Nat :=
  match s.job? jn with
  | some j => s.pagesFrom j (r.base + r.length) (r.length / 4096) r.base
  | none => []

/-- The ranges of a launch released: its pages but those that another launch of the job holds; covered granules go when
their views do (R211). -/
def State.releaseRanges (s : State) (l : Launch) : State :=
  let others := (s.jobLaunches l.job).flatMap fun o => if o.lid = l.lid then [] else rangePieces o.ranges
  (l.ranges.filter (·.cls != 1)).foldl (fun st r =>
    (st.pagesOf l.job r).foldl (fun st va => if within others va 1 then st else st.evictPage l.job r va) st) s

/-- Stretches of n bytes in all, in whole pages, taken from the free pool: what is left of it; none where it has less. -/
def takeStretches : Nat → List (Nat × Nat) → Option (List (Nat × Nat) × List (Nat × Nat))
  | 0, fs => some ([], fs)
  | _ + 1, [] => none
  | n + 1, (a, len) :: rest =>
    let k := min ((n + 1 + 4095) / 4096 * 4096) (len / 4096 * 4096)
    if k = 0 then (takeStretches (n + 1) rest).map fun r => (r.1, (a, len) :: r.2)
    else (takeStretches (n + 1 - k) rest).map fun r => ((a, k) :: r.1, (if k < len then [(a + k, len - k)] else []) ++ r.2)

/-- The pool of a launch's stack slices (R184): 32 × SQUADS × STACK bytes for each crew. -/
def Launch.poolBytes (l : Launch) : Nat := l.crews * (32 * l.squads * l.stack)

/-! ### The record and its tables (R103, R104, R190) -/

/-- A field of the record is out of range, or a reserved byte is not zero (R103). -/
def recordBad (b : List Byte) : Bool :=
  let f := field b
  b.length != 128
    || 2 ^ 56 ≤ f 0x00 8 || f 0x00 8 % 2 != 0
    || f 0x1C 1 == 0 || 16 < f 0x1C 1 || f 0x1D 1 == 0 || 4 < f 0x1D 1 || 3 < f 0x1E 1
    || bitsOf (f 0x1F 1) 7 1 != 0 || 4 < bitsOf (f 0x1F 1) 4 3
    || f 0x20 4 % 64 != 0 || 1048576 < f 0x20 4 || f 0x24 4 % 16 != 0 || 65536 < f 0x24 4
    || 256 < f 0x2C 2 || !zeroAt b 0x2E 2
    || 2 ^ 56 ≤ f 0x30 8 || f 0x30 8 % 16 != 0 || 2 ^ 56 ≤ f 0x38 8 || f 0x38 8 % 32 != 0
    || f 0x40 4 == 0 || 65536 < f 0x40 4 || !zeroAt b 0x44 4
    || 2 ^ 56 ≤ f 0x48 8 || f 0x48 8 % 16 != 0 || !zeroAt b 0x58 40

/-- One range of a crew list: first and last, in order. -/
def crewRange (b : List Byte) : Option (Nat × Nat) :=
  if field b 0 4 ≤ field b 4 4 then some (field b 0 4, field b 4 4) else none

/-- Pieces of n bytes of a list. -/
def cutBytes (n : Nat) : Nat → List Byte → List (List Byte)
  | 0, _ => []
  | k + 1, bs => bs.take n :: cutBytes n k (bs.drop n)

/-- One entry of the group table with its crew list (R104). -/
def State.readGroup (s : State) (j : Job) (e : List Byte) : Option (List (Nat × Nat)) :=
  let n := field e 8 2
  if n = 0 || 256 < n || !zeroAt e 10 6 then none else
  (s.jobRead j (field e 0 8) (8 * n)).bind fun bs => (cutBytes 8 n bs).mapM crewRange

/-- The group table. -/
def State.readGroups (s : State) (j : Job) (a n : Nat) : Option (List (List (Nat × Nat))) :=
  if n = 0 then some [] else (s.jobRead j a (16 * n)).bind fun bs => (cutBytes 16 n bs).mapM (s.readGroup j)

/-- One entry of the range table, where it is in order (R190, R197). -/
def readRange (e : List Byte) : Option Range :=
  let f := field e
  let psz := pageBytes (f 0x15 1)
  let argOk := match f 0x12 1 with
    | 0 => zeroAt e 0x18 8
    | 1 => zeroAt e 0x1A 6 && f 0x15 1 == 1 && f 0x10 1 < 8
    | _ => true
  if f 0x15 1 < 5 && f 0x00 8 % psz == 0 && f 0x08 8 != 0 && f 0x08 8 % psz == 0 && f 0x00 8 + f 0x08 8 ≤ 2 ^ 56
      && f 0x10 1 < 16 && f 0x11 1 < 3 && f 0x12 1 < 3 && f 0x14 1 < 5 && zeroAt e 0x16 2 && argOk then
    some ⟨f 0x00 8, f 0x08 8, BitVec.ofNat 8 (f 0x10 1), f 0x11 1, f 0x12 1, f 0x13 1, f 0x14 1, f 0x15 1, BitVec.ofNat 64 (f 0x18 8)⟩
  else none

def State.readRanges (s : State) (j : Job) (a n : Nat) : Option (List Range) :=
  (s.jobRead j a (32 * n)).bind fun bs => (cutBytes 32 n bs).mapM readRange

/-- Two stretches of addresses meet. -/
def meets (a la b lb : Nat) : Bool := decide (a < b + lb) && decide (b < a + la)

def Range.meets (r q : Range) : Bool := Machine.meets r.base r.length q.base q.length

/-- No two of the ranges overlap. -/
def disjointRanges : List Range → Bool
  | [] => true
  | r :: rs => !rs.any r.meets && disjointRanges rs

/-- The ranges may share frames (R190). Of file-backed ranges BASE counts among the attributes that must agree, since CLASSARG places the file at it (DESIGN CHOICE,
log 71). -/
def Range.alike (r q : Range) : Bool :=
  r.rights == q.rights && r.ord == q.ord && r.cls == q.cls && r.key == q.key && r.home == q.home && r.psize == q.psize
    && r.arg == q.arg && (r.cls == 0 || r.base == q.base)

/-- Two covered ranges carry one region number and differ in place (R197). -/
def Range.regionClash (r q : Range) : Bool :=
  r.cls == 1 && q.cls == 1 && r.arg == q.arg && (r.base != q.base || r.length != q.length)

/-- The sections of an object: address and length, those of length 0 left out (R357). -/
def Object.sections (o : Object) : List (Nat × Nat) := [o.text, o.data, o.stream].filter fun x => x.2 != 0

/-! ### Co-residence (R105, R108) -/

/-- A range put among ranges by ascending start. -/
def insertRange (x : Nat × Nat) : List (Nat × Nat) → List (Nat × Nat)
  | [] => [x]
  | y :: ys => if x.1 ≤ y.1 then x :: y :: ys else y :: insertRange x ys

/-- How many crews some inclusive ranges name, from crew `lo` on; the ranges ascend by start. -/
def countFrom (lo : Nat) : List (Nat × Nat) → Nat
  | [] => 0
  | (a, b) :: rs =>
    let st := max lo a
    (if b < st then 0 else b + 1 - st) + countFrom (max lo (b + 1)) rs

/-- How many crews some inclusive ranges name. -/
def crewCount (rs : List (Nat × Nat)) : Nat := countFrom 0 (rs.foldl (fun acc x => insertRange x acc) [])

/-- Crews of the launch that one otherwise empty core can hold (R108, R254, R320). -/
def Launch.crewsPerCore (l : Launch) : Nat :=
  if l.marked || (l.det && l.deques) then 1
  else min (16 / l.squads) (if l.scratch = 0 then 16 else 1048576 / l.scratch)

/-- A joined set fits an otherwise empty module (R108). -/
def Launch.fits (l : Launch) (set : List (Nat × Nat)) : Bool :=
  decide (crewCount set / l.gang ≤ 96 * (4 * l.crewsPerCore / l.gang)) && decide (crewCount set * l.squads ≤ 6144)

/-- A crew is named in more than four groups. -/
def Launch.overGrouped (l : Launch) : Bool :=
  l.groups.any fun g => g.any fun r => decide (4 < (l.groups.filter fun h => inRanges h r.1).length)

/-! ### Admission (R105) -/

/-- An LID that a launch still holds (R367). -/
def State.lidInUse (s : State) (lid : Nat) : Bool :=
  match s.launch? lid with
  | some l => l.status != .ended
  | none => false

/-- The LID that Driene chooses where the request names none: the lowest from 1 on that is not in use. -/
def State.freshLid (s : State) : Nat :=
  ((List.range (s.launches.length + 1)).map (· + 1)).find? (fun n => !s.lidInUse n) |>.getD 1

/-- The launch that a record in order describes. -/
def launchFrom (b : List Byte) (lid job : Nat) (obj : Option Object) (groups : List (List (Nat × Nat))) (ranges : List Range) : Launch :=
  let f := field b
  let flags := f 0x1F 1
  let w := fun o => BitVec.ofNat 64 (f o 8)
  { lid := lid, job := job, entry := w 0x00, arg := w 0x08, seed := w 0x10, crews := f 0x18 4 + 1, squads := f 0x1C 1,
    gang := f 0x1D 1, prio := f 0x1E 1, det := flags.testBit 0, replay := flags.testBit 1, chk := flags.testBit 3,
    ilk := flags.testBit 2 || obj.any (·.stepping != Config.stepping), frm := BitVec.ofNat 3 (bitsOf flags 4 3),
    scratch := f 0x20 4, stack := f 0x24 4, wdog := f 0x28 4, groups := groups, groupTab := w 0x30, rangeTab := w 0x38,
    ranges := ranges,
    leaseRO := [(f 0x30 8, 16 * f 0x2C 2), (f 0x38 8, 32 * f 0x40 4), (f 0x48 8, 16)] ++ (obj.map (·.sections)).getD [],
    leaseX := (obj.map fun o => [o.text, o.stream].filter fun x => x.2 != 0).getD [],
    doneObj := w 0x48, object := w 0x50, marked := obj.any (·.matrix), deques := obj.any (·.deques),
    streamLo := (obj.map (·.stream.1)).getD 0, streamLen := (obj.map (·.stream.2)).getD 0 }

/-- The object of a launch may be used, and ENTRY lies in its code (R105, R355). -/
def State.objectOk (s : State) (o : Object) (entry : Nat) : Bool :=
  decide (s.fuses < 128) && decide (s.fuses ≤ o.secver) && decide (o.text.1 ≤ entry) && decide (entry < o.text.1 + o.text.2)

/-- The reason of R105 to refuse a launch, if there is one: the lowest-numbered; a retired module refuses every launch with 0x03 (R355). Tables that cannot be
read, because an address of theirs is not mapped, are refused as fields out of range (DESIGN CHOICE, log 71). -/
def State.refusal (s : State) (j : Job) (b : List Byte) (lid : Nat) (groups : Option (List (List (Nat × Nat))))
    (ranges : Option (List Range)) (obj : Option Object) : Option Nat :=
  let rs := ranges.getD []
  let l := launchFrom b lid j.num obj (groups.getD []) rs
  let others := (s.jobLaunches j.num).flatMap (·.ranges)
  if 128 ≤ s.fuses then some 0x03
  else if recordBad b || groups.isNone || ranges.isNone || !disjointRanges rs || s.lidInUse lid
      || rs.any (fun r => (others ++ rs).any r.regionClash) then some 0x01
  else if l.crews % l.gang ≠ 0 then some 0x02
  else if !obj.any (fun o => s.objectOk o l.entry.toNat) then some 0x03
  else if l.overGrouped || l.groups.any (fun g => g.any fun r => decide (l.crews ≤ r.2)) then some 0x04
  else if l.groups.any (fun g => match g with | [] => false | r :: _ => !l.fits (l.joined r.1)) then some 0x05
  else if rs.any (fun r => others.any (fun q => r.meets q && !r.alike q)
      || (j.objects.flatMap Object.sections).any (fun x => Machine.meets r.base r.length x.1 x.2)
      || (r.cls == 2 && (s.fileOf (bitsOf r.arg.toNat 0 32)).isNone)) then some 0x06
  else none

/-- The state once Driene has read the tables that a record names (R345). -/
def State.tablesSeen (s : State) (j : Job) (b : List Byte) : State :=
  if s.mem.latent == [] || recordBad b then s else
  let n := field b 0x2C 2
  let entries := ((s.jobRead j (field b 0x30 8) (16 * n)).map (cutBytes 16 n)).getD []
  entries.foldl (fun st e => st.jobSeen j (field e 0 8) (8 * field e 8 2))
    ((s.jobSeen j (field b 0x30 8) (16 * n)).jobSeen j (field b 0x38 8) (32 * field b 0x40 4))

/-- A launch record handed to Driene (R105): the reason of a refusal, or the launch, admitted with frames for its ranges and a stack pool. Where memory for one of these is
not free the reason is 0x06; R105 names none for it (DESIGN CHOICE, log 71). `at_` is the record's address where Driene takes it from memory (R191). -/
def State.takeLaunch (s : State) (j : Job) (b : List Byte) (lidAsked : Nat) (at_ : Option Nat) (reqid : Word) (replied : Bool) :
    Except Nat (State × Nat) :=
  let groups := if recordBad b then none else s.readGroups j (field b 0x30 8) (field b 0x2C 2)
  let ranges := if recordBad b then none else s.readRanges j (field b 0x38 8) (field b 0x40 4)
  let obj := j.objects.find? fun o => o.handle == field b 0x50 8
  let lid := if lidAsked = 0 then s.freshLid else lidAsked
  match s.refusal j b lid groups ranges obj with
  | some r => .error r
  | none =>
    let l := launchFrom b lid j.num obj (groups.getD []) (ranges.getD [])
    match l.ranges.foldlM (fun st r => State.resideRange st j.num r) s with
    | none => .error 0x06
    | some s0 =>
      match takeStretches l.poolBytes s0.mem.free with
      | none => .error 0x06
      | some (pool, free) =>
      let s1 := { s0 with mem := { s0.mem with free := free } }
      .ok (s1.setLaunch lid { l with
        pool := pool, reqid := reqid, replied := replied, leaseRO := l.leaseRO ++ (at_.map fun a => (a, 128)).toList }, lid)

/-- LAUNCH_RESIDENT (R191, R371): the declared ranges are resident under the lease, and the LAUNCH is answered. -/
def execLaunchResident (lid : Nat) (s : State) : Host.Outcome State Fault Refusal :=
  .next (match s.launch? lid with
    | none => s
    | some l =>
      if l.status ≠ .admitted then s else
      let s1 := s.setLaunch lid { l with status := .running, replied := true, since := s.cycle }
      if l.replied then s1 else s1.reply 0x04 0 l.reqid l.job (bytesLE 4 lid))

end Sys2Proof.Machine
end

