-- ==== Sys2Proof/Machine/Float.lean ====
section
/-!
DEFINITION. Machine/Float.lean: floating point, float compares, conversion and packing (R80-R88), and the random stream
that stochastic rounding and RAND draw from (R37, R98, R99).
-/
namespace Sys2Proof.Machine

/-! ### The random stream (R98) -/

/-- One round of Philox4x32-10 (PRESUMED, log 11). -/
def philoxRound (k0 k1 : BitVec 32) (c : BitVec 32 × BitVec 32 × BitVec 32 × BitVec 32) :
    BitVec 32 × BitVec 32 × BitVec 32 × BitVec 32 :=
  let (c0, c1, c2, c3) := c
  let p0 := 0xD2511F53 * c0.toNat
  let p1 := 0xCD9E8D57 * c2.toNat
  (BitVec.ofNat 32 (p1 / 2 ^ 32) ^^^ c1 ^^^ k0, BitVec.ofNat 32 p1, BitVec.ofNat 32 (p0 / 2 ^ 32) ^^^ c3 ^^^ k1, BitVec.ofNat 32 p0)

/-- The remaining rounds; the key moves on between them. -/
def philoxRounds : Nat → BitVec 32 → BitVec 32 → BitVec 32 × BitVec 32 × BitVec 32 × BitVec 32 →
    BitVec 32 × BitVec 32 × BitVec 32 × BitVec 32
  | 0, _, _, c => c
  | n + 1, k0, k1, c => philoxRounds n (k0 + 0x9E3779B9#32) (k1 + 0xBB67AE85#32) (philoxRound k0 k1 c)

/-- One 128-bit block: x0 in the lowest bits (R98). -/
def philoxBlock (seed : Word) (c0 c1 c2 c3 : BitVec 32) : BitVec 128 :=
  let (x0, x1, x2, x3) := philoxRounds 10 (seed.extractLsb' 0 32) (seed.extractLsb' 32 32) (c0, c1, c2, c3)
  x3 ++ x2 ++ x1 ++ x0

/-- Block n of those a thread draws next: counter word c1 is its index within the crew (R98). -/
def Thread.block (t : Thread) (cx : Ctx) (n : Nat) : BitVec 128 :=
  philoxBlock cx.seed (t.draw + BitVec.ofNat 32 n) (BitVec.ofNat 32 (cx.num * 32 + cx.lane)) (BitVec.ofNat 32 cx.crew)
    (BitVec.ofNat 32 cx.lid)

/-- RAND (R98). -/
def doRand (d : RegCode) (cx : Ctx) (t : Thread) : Except Trap Thread :=
  .ok { t.write cx d ⟨(t.block cx 0).extractLsb' 0 64, .raw64⟩ .sb with draw := t.draw + 1 }

def execRand (d : RegCode) (s : State) : Host.Outcome State Fault Refusal :=
  .next (s.execThread (.rand d) 0 0 (doRand d))

/-! ### Operand forms -/

/-- A source of a float operation (R44, R45). -/
def floatSrc (g : Tag) : Bool := isFloatTag g || g == .raw64

/-- The thread's rounding mode for arithmetic: SR reads as RNE (R17). -/
def Thread.rm (t : Thread) : Rm := (rmOf t.frm.toNat).plain

/-- The result of a float operation with its flags (R15). -/
def Thread.writeF (t : Thread) (cx : Ctx) (d : RegCode) (g : Tag) (r : Word × Flags) (lat : Lat) : Thread :=
  (t.write cx d ⟨r.1, g⟩ lat).raise r.2

/-- Two float sources, element-wise (R80). -/
def Thread.float2 (t : Thread) (cx : Ctx) (op : Fmt → Rm → Nat → Nat → Nat × Flags) (b a d : RegCode) (lat : Lat) :
    Except Trap Thread := do
  let x ← t.src cx floatSrc a
  let y ← t.src cx floatSrc b
  let g ← layoutFloat [x, y]
  .ok (t.writeF cx d g (floatElems g ((elems g x.data).zipWith (op (fmtOf g) t.rm) (elems g y.data))) lat)

/-- d ± a × b with one rounding (R80). R23 orders a before b and says nothing of d or of the pairing of R44: each source's own tag is checked first, a, b, then d, and
the pairing after them, so that POISON in d is reported before tags that do not pair (DESIGN CHOICE, log 66). -/
def Thread.float3 (t : Thread) (cx : Ctx) (minus : Bool) (b a d : RegCode) : Except Trap Thread := do
  let x ← t.src cx floatSrc a
  let y ← t.src cx floatSrc b
  let z ← t.src cx floatSrc d
  let g ← layoutFloat [x, y, z]
  let f := fmtOf g
  let one := fun (e : Nat × Nat × Nat) =>
    f.fma t.rm (f.decode e.2.2) (if minus then (f.decode e.1).negate else f.decode e.1) (f.decode e.2.1)
  .ok (t.writeF cx d g (floatElems g (((elems g x.data).zip ((elems g y.data).zip (elems g z.data))).map one)) latFp)

/-- One float source, element-wise, scoreboarded (R82). -/
def Thread.float1 (t : Thread) (cx : Ctx) (op : Fmt → Nat → Nat × Flags) (a d : RegCode) : Except Trap Thread := do
  let x ← t.src cx isFloatTag a
  .ok (t.writeF cx d x.tag (floatElems x.tag ((elems x.tag x.data).map (op (fmtOf x.tag)))) .sb)

/-- The rounding control of FSQRT and FRINT: 7 is FRM (R82). -/
def Thread.rmCode (t : Thread) (r : BitVec 3) : Rm := if r = 7 then rmOf t.frm.toNat else rmOf r.toNat

def fAdd (f : Fmt) (m : Rm) (x y : Nat) : Nat × Flags := f.add m (f.decode x) (f.decode y)
def fSub (f : Fmt) (m : Rm) (x y : Nat) : Nat × Flags := f.add m (f.decode x) (f.decode y).negate
def fMul (f : Fmt) (m : Rm) (x y : Nat) : Nat × Flags := f.mul m (f.decode x) (f.decode y)
def fDiv (f : Fmt) (m : Rm) (x y : Nat) : Nat × Flags := f.div m (f.decode x) (f.decode y)

/-- The sign bit of x made s; a NaN becomes the canonical one (R82). -/
def signTo (f : Fmt) (x : Nat) (s : Bool) : Nat × Flags :=
  match f.decode x with
  | .nan sig => (f.nan, if sig then flagNV else 0)
  | _ => (f.signedEnc s (x % 2 ^ (f.bits - 1)), 0)

def signBit (f : Fmt) (x : Nat) : Bool := x / 2 ^ (f.bits - 1) % 2 == 1

/-- FCLASS (R83): the class word of each element, with an integer tag. -/
def Thread.classify (t : Thread) (cx : Ctx) (a d : RegCode) : Except Trap Thread := do
  let x ← t.src cx isFloatTag a
  let f := fmtOf x.tag
  let g : Tag := match x.tag with | .f64 => .i64 | .f32x2 => .i32x2 | _ => .i16x4
  .ok (t.write cx d ⟨mapElems x.tag (fun _ e => (f.decode e).fclass f e) x.data, g⟩ .sb)

/-- A float compare: the relation in every element, and NV by R88. -/
def Thread.fcmp (t : Thread) (cx : Ctx) (rel : FVal → FVal → Bool) (quiet : Bool) (f : FRK) : Except Trap Thread := do
  let x ← t.src cx floatSrc f.a
  let y ← t.src cx floatSrc f.b
  let g ← layoutFloat [x, y]
  let es := ((elems g x.data).map (fmtOf g).decode).zip ((elems g y.data).map (fmtOf g).decode)
  let nv := es.any fun (x, y) => if quiet then x.isSig || y.isSig else x.isNan || y.isNan
  .ok ((t.writeK cx f.k.toNat (es.all fun (x, y) => rel x y) latFp).raise (if nv then flagNV else 0))

def relLt (x y : FVal) : Bool := !x.isNan && !y.isNan && x.lt y
def relLe (x y : FVal) : Bool := !x.isNan && !y.isNan && !y.lt x
def relUn (x y : FVal) : Bool := x.isNan || y.isNan

/-! ### Conversion (R84, R85) -/

/-- The sources each destination accepts (R84). -/
def cvtAccepts : Tag → Tag → Bool
  | .f64, s => [.f32x2, .f16x4, .bf16x4, .i64, .i32x2].contains s
  | .f32x2, s => [.f64, .f16x4, .bf16x4, .e4m3x8, .e5m2x8, .e2m1x16, .i64, .i32x2].contains s
  | .f16x4, s => s == .f32x2
  | .bf16x4, s => [.f32x2, .e4m3x8, .e5m2x8, .e2m1x16].contains s
  | .e4m3x8, s | .e5m2x8, s => [.f32x2, .bf16x4].contains s
  | .e2m1x16, s => s == .f32x2
  | .i64, s => [.f64, .f32x2, .i32x2, .i16x4, .i8x8].contains s
  | .i32x2, s => [.f64, .f32x2, .i64, .i32x2, .i16x4, .i8x8].contains s
  | .i16x4, s | .i8x8, s => [.i64, .i32x2, .i16x4, .i8x8].contains s
  | _, _ => false

/-- A tag read as integers. -/
def intElems : Tag → Bool
  | .i64 | .i32x2 | .i16x4 | .i8x8 => true
  | _ => false

/-- The pairs that R40 gives as exact, the scaled E2M1 ones among them: their rounding control is ignored. -/
def cvtExact (s g : Tag) : Bool :=
  match s, g with
  | .f32x2, .f64 | .f16x4, .f64 | .bf16x4, .f64 | .f16x4, .f32x2 | .bf16x4, .f32x2 => true
  | .e4m3x8, .f32x2 | .e5m2x8, .f32x2 | .e4m3x8, .bf16x4 | .e5m2x8, .bf16x4 | .e2m1x16, .f32x2 | .e2m1x16, .bf16x4 => true
  | _, _ => false

/-- Destinations under which SR takes effect (R36). -/
def srDest : Tag → Bool
  | .bf16x4 | .e4m3x8 | .e5m2x8 | .e2m1x16 => true
  | _ => false

/-- The AUX value fits the kind of the conversion (R84). -/
def auxFits (s g : Tag) (x : BitVec 3) : Bool :=
  if tagCount g < tagCount s then decide (x.toNat < tagCount s / tagCount g)
  else if g == .e4m3x8 || g == .e5m2x8 then decide (x.toNat < 2)
  else if intElems s && intElems g && decide (tagWidth g < tagWidth s) then decide (x.toNat < 2)
  else x == 0

/-- A value times 2^k. -/
def FVal.scale (v : FVal) (k : Int) : FVal :=
  match v with
  | .fin n a d e => .fin n a d (e + k)
  | v => v

/-- Conv of R85 for one element. `e8` is the scale byte where E2M1 takes part; `rnd` the element's 16 random bits. -/
def convElem (s g : Tag) (u : Bool) (m : Rm) (x : BitVec 3) (e8 rnd v : Nat) : Nat × Flags :=
  let ws := tagWidth s
  let wd := tagWidth g
  if intElems g then
    if intElems s then
      let iv : Int := if u then v else signed ws v
      if wd < ws then (if x.getLsbD 0 then v % 2 ^ wd else if u then satU wd iv else satS wd iv, 0)
      else (wrap wd iv, 0)
    else toInt wd u m.plain ((fmtOf s).decode v)
  else if intElems s then (fmtOf g).round (dyadic (signed ws v) 0 false) m.plain false 0
  else if s = .e2m1x16 then
    if e8 = 255 then ((fmtOf g).nan, 0)
    else (fmtOf g).round ((Fmt.e2m1.decode v).scale ((e8 : Int) - 127)) .rne false 0
  else if g = .e2m1x16 then
    if e8 = 255 then (0, flagNV) else Fmt.e2m1.round (((fmtOf s).decode v).scale (127 - (e8 : Int))) m true rnd
  else (fmtOf g).round ((fmtOf s).decode v) (if srDest g then m else m.plain) (!x.getLsbD 0) rnd

/-- CVT (R85). `u` is the .U suffix, x and m are AUX and RM of the control word. R23 does not order the checks after that of a: AUX against the tags comes first, then o1's
SCALE tag, then POISON in the old d of a narrowing conversion (DESIGN CHOICE, log 66). -/
def Thread.convert (t : Thread) (cx : Ctx) (g : Tag) (u : Bool) (x m : BitVec 3) (a d : RegCode) : Except Trap Thread := do
  let v ← t.src cx (cvtAccepts g) a
  let s := v.tag
  if auxFits s g x then .ok () else .error ⟨0x02, 0⟩
  let scaled := s == .e2m1x16 || g == .e2m1x16
  let o1 ← if scaled then t.src cx (· == .scale) 57 else .ok Reg.zero
  let ns := tagCount s
  let nd := tagCount g
  let wd := tagWidth g
  let old ← if nd > ns then t.src cx (fun _ => true) d else .ok Reg.zero
  let mode := if cx.routine then (t.rmCode m).plain else t.rmCode m
  let n := if nd > ns then ns else nd
  let part := if nd < ns then x.toNat * nd else 0
  let rnd := fun k => (t.block cx (k / 8)).toNat / 2 ^ (16 * (k % 8)) % 65536
  let rs := (List.range n).map fun k =>
    convElem s g u mode x (o1.data.toNat % 256) (if mode = .sr then rnd k else 0) (elem v.data (tagWidth s) (part + k))
  let new := ofElems wd (rs.map (·.1))
  let data := if nd > ns then (old.data >>> (ns * wd)) ||| (new <<< ((nd - ns) * wd)) else new
  let draws := mode == .sr && srDest g && !cvtExact s g
  let t' := t.writeF cx d g (data, rs.foldl (fun fl r => fl ||| r.2) 0) .sb
  .ok (if draws then { t' with draw := t.draw + BitVec.ofNat 32 ((n + 7) / 8) } else t')

/-! ### Packing (R86) -/

/-- The governing tag of PACK and UNPACK: the integer row's pairing over every tag but VIEW and POISON, n at least 2. -/
def layoutPack (a b : Reg) : Except Trap Tag :=
  let g := if a.tag = .raw64 then b.tag else a.tag
  if (a.tag == b.tag || a.tag == .raw64 || b.tag == .raw64) && decide (2 ≤ tagCount g) then .ok g else .error ⟨0x02, 0⟩

/-- Elements of two registers, interleaved, from element `lo` on (R86). -/
def interleave (g : Tag) (lo : Nat) (a b : Word) : Word :=
  let w := tagWidth g
  ofElems w ((List.range (tagCount g / 2)).flatMap fun i => [elem a w (lo + i), elem b w (lo + i)])

def Thread.pack2 (t : Thread) (cx : Ctx) (op : Tag → Word → Word → Word) (b a d : RegCode) : Except Trap Thread := do
  let x ← t.src cx isBitTag a
  let y ← t.src cx isBitTag b
  let g ← layoutPack x y
  .ok (t.write cx d ⟨op g x.data y.data, g⟩ .sb)

/-! ### Instructions -/

/-- FADD (R80, R81). -/
def doFadd (f : FR) (cx : Ctx) (t : Thread) : Except Trap Thread := t.float2 cx fAdd f.b f.a f.d latFp

def execFadd (f : FR) (s : State) : Host.Outcome State Fault Refusal :=
  .next (s.execThread (.fadd f) f.g f.s.toNat (doFadd f))

/-- FSUB (R80, R81). -/
def doFsub (f : FR) (cx : Ctx) (t : Thread) : Except Trap Thread := t.float2 cx fSub f.b f.a f.d latFp

def execFsub (f : FR) (s : State) : Host.Outcome State Fault Refusal :=
  .next (s.execThread (.fsub f) f.g f.s.toNat (doFsub f))

/-- FMUL (R80, R81). -/
def doFmul (f : FR) (cx : Ctx) (t : Thread) : Except Trap Thread := t.float2 cx fMul f.b f.a f.d latFp

def execFmul (f : FR) (s : State) : Host.Outcome State Fault Refusal :=
  .next (s.execThread (.fmul f) f.g f.s.toNat (doFmul f))

/-- FMA: d + x × y, fused (R80). -/
def doFma (f : FR) (cx : Ctx) (t : Thread) : Except Trap Thread := t.float3 cx false f.b f.a f.d

def execFma (f : FR) (s : State) : Host.Outcome State Fault Refusal :=
  .next (s.execThread (.fma f) f.g f.s.toNat (doFma f))

/-- FNMA: d − x × y, fused (R80). -/
def doFnma (f : FR) (cx : Ctx) (t : Thread) : Except Trap Thread := t.float3 cx true f.b f.a f.d

def execFnma (f : FR) (s : State) : Host.Outcome State Fault Refusal :=
  .next (s.execThread (.fnma f) f.g f.s.toNat (doFnma f))

/-- FMIN (R80, R81). -/
def doFmin (f : FR) (cx : Ctx) (t : Thread) : Except Trap Thread := t.float2 cx (fun f _ => f.minmax false) f.b f.a f.d latFp

def execFmin (f : FR) (s : State) : Host.Outcome State Fault Refusal :=
  .next (s.execThread (.fmin f) f.g f.s.toNat (doFmin f))

/-- FMAX (R80, R81). -/
def doFmax (f : FR) (cx : Ctx) (t : Thread) : Except Trap Thread := t.float2 cx (fun f _ => f.minmax true) f.b f.a f.d latFp

def execFmax (f : FR) (s : State) : Host.Outcome State Fault Refusal :=
  .next (s.execThread (.fmax f) f.g f.s.toNat (doFmax f))

/-- C form of FADD (R49). -/
def doFaddC (b : BitVec 5) (d : RegCode) (cx : Ctx) (t : Thread) : Except Trap Thread := t.float2 cx fAdd (cReg b) d d latFp

def execFaddC (b : BitVec 5) (d : RegCode) (s : State) : Host.Outcome State Fault Refusal :=
  .next (s.execThread (.faddC b d) 0 0 (doFaddC b d))

/-- C form of FMUL (R49). -/
def doFmulC (b : BitVec 5) (d : RegCode) (cx : Ctx) (t : Thread) : Except Trap Thread := t.float2 cx fMul (cReg b) d d latFp

def execFmulC (b : BitVec 5) (d : RegCode) (s : State) : Host.Outcome State Fault Refusal :=
  .next (s.execThread (.fmulC b d) 0 0 (doFmulC b d))

/-- FMAO: d + o0 × b with one rounding (R79). -/
def doFmao (b : BitVec 5) (d : RegCode) (cx : Ctx) (t : Thread) : Except Trap Thread := t.float3 cx false (cReg b) 56 d

def execFmao (b : BitVec 5) (d : RegCode) (s : State) : Host.Outcome State Fault Refusal :=
  .next (s.execThread (.fmao b d) 0 0 (doFmao b d))

/-- FDIV (R82). -/
def doFdiv (b : RegCode) (a : RegCode) (d : RegCode) (cx : Ctx) (t : Thread) : Except Trap Thread := t.float2 cx fDiv b a d .sb

def execFdiv (b : RegCode) (a : RegCode) (d : RegCode) (s : State) : Host.Outcome State Fault Refusal :=
  .next (s.execThread (.fdiv b a d) 0 0 (doFdiv b a d))

/-- FSQRT (R82). -/
def doFsqrt (r : BitVec 3) (a : RegCode) (d : RegCode) (cx : Ctx) (t : Thread) : Except Trap Thread := t.float1 cx (fun f e => f.sqrt (t.rmCode r).plain (f.decode e)) a d

def execFsqrt (r : BitVec 3) (a : RegCode) (d : RegCode) (s : State) : Host.Outcome State Fault Refusal :=
  .next (s.execThread (.fsqrt r a d) 0 0 (doFsqrt r a d))

/-- FABS (R82). -/
def doFabs (a : RegCode) (d : RegCode) (cx : Ctx) (t : Thread) : Except Trap Thread := t.float1 cx (fun f e => signTo f e false) a d

def execFabs (a : RegCode) (d : RegCode) (s : State) : Host.Outcome State Fault Refusal :=
  .next (s.execThread (.fabs a d) 0 0 (doFabs a d))

/-- FNEG (R82). -/
def doFneg (a : RegCode) (d : RegCode) (cx : Ctx) (t : Thread) : Except Trap Thread := t.float1 cx (fun f e => signTo f e (!signBit f e)) a d

def execFneg (a : RegCode) (d : RegCode) (s : State) : Host.Outcome State Fault Refusal :=
  .next (s.execThread (.fneg a d) 0 0 (doFneg a d))

/-- FCPYS (R82): y contributes only its sign bit. -/
def doFcpys (b : RegCode) (a : RegCode) (d : RegCode) (cx : Ctx) (t : Thread) : Except Trap Thread := t.float2 cx (fun f _ x y => signTo f x (signBit f y)) b a d .sb

def execFcpys (b : RegCode) (a : RegCode) (d : RegCode) (s : State) : Host.Outcome State Fault Refusal :=
  .next (s.execThread (.fcpys b a d) 0 0 (doFcpys b a d))

/-- FCLASS (R83). -/
def doFclass (a : RegCode) (d : RegCode) (cx : Ctx) (t : Thread) : Except Trap Thread := t.classify cx a d

def execFclass (a : RegCode) (d : RegCode) (s : State) : Host.Outcome State Fault Refusal :=
  .next (s.execThread (.fclass a d) 0 0 (doFclass a d))

/-- FRINT (R82). -/
def doFrint (r : BitVec 3) (a : RegCode) (d : RegCode) (cx : Ctx) (t : Thread) : Except Trap Thread := t.float1 cx (fun f e => f.rint (t.rmCode r).plain (f.decode e) e) a d

def execFrint (r : BitVec 3) (a : RegCode) (d : RegCode) (s : State) : Host.Outcome State Fault Refusal :=
  .next (s.execThread (.frint r a d) 0 0 (doFrint r a d))

/-- FCMPEQ (R87, R88). -/
def doFcmpeq (f : FRK) (cx : Ctx) (t : Thread) : Except Trap Thread := t.fcmp cx FVal.eq true f

def execFcmpeq (f : FRK) (s : State) : Host.Outcome State Fault Refusal :=
  .next (s.execThread (.fcmpeq f) f.g f.s.toNat (doFcmpeq f))

/-- FCMPLT (R87, R88). -/
def doFcmplt (f : FRK) (cx : Ctx) (t : Thread) : Except Trap Thread := t.fcmp cx relLt false f

def execFcmplt (f : FRK) (s : State) : Host.Outcome State Fault Refusal :=
  .next (s.execThread (.fcmplt f) f.g f.s.toNat (doFcmplt f))

/-- FCMPLE (R87, R88). -/
def doFcmple (f : FRK) (cx : Ctx) (t : Thread) : Except Trap Thread := t.fcmp cx relLe false f

def execFcmple (f : FRK) (s : State) : Host.Outcome State Fault Refusal :=
  .next (s.execThread (.fcmple f) f.g f.s.toNat (doFcmple f))

/-- FCMPUN (R87, R88). -/
def doFcmpun (f : FRK) (cx : Ctx) (t : Thread) : Except Trap Thread := t.fcmp cx relUn true f

def execFcmpun (f : FRK) (s : State) : Host.Outcome State Fault Refusal :=
  .next (s.execThread (.fcmpun f) f.g f.s.toNat (doFcmpun f))

/-- CVT to F64 (R84, R85). -/
def doCvtF64 (x : BitVec 3) (m : BitVec 3) (a : RegCode) (d : RegCode) (cx : Ctx) (t : Thread) : Except Trap Thread := t.convert cx .f64 false x m a d

def execCvtF64 (x : BitVec 3) (m : BitVec 3) (a : RegCode) (d : RegCode) (s : State) : Host.Outcome State Fault Refusal :=
  .next (s.execThread (.cvtF64 x m a d) 0 0 (doCvtF64 x m a d))

/-- CVT to F32X2 (R84, R85). -/
def doCvtF32 (x : BitVec 3) (m : BitVec 3) (a : RegCode) (d : RegCode) (cx : Ctx) (t : Thread) : Except Trap Thread := t.convert cx .f32x2 false x m a d

def execCvtF32 (x : BitVec 3) (m : BitVec 3) (a : RegCode) (d : RegCode) (s : State) : Host.Outcome State Fault Refusal :=
  .next (s.execThread (.cvtF32 x m a d) 0 0 (doCvtF32 x m a d))

/-- CVT to F16X4 (R84, R85). -/
def doCvtF16 (x : BitVec 3) (m : BitVec 3) (a : RegCode) (d : RegCode) (cx : Ctx) (t : Thread) : Except Trap Thread := t.convert cx .f16x4 false x m a d

def execCvtF16 (x : BitVec 3) (m : BitVec 3) (a : RegCode) (d : RegCode) (s : State) : Host.Outcome State Fault Refusal :=
  .next (s.execThread (.cvtF16 x m a d) 0 0 (doCvtF16 x m a d))

/-- CVT to BF16X4 (R84, R85). -/
def doCvtBf16 (x : BitVec 3) (m : BitVec 3) (a : RegCode) (d : RegCode) (cx : Ctx) (t : Thread) : Except Trap Thread := t.convert cx .bf16x4 false x m a d

def execCvtBf16 (x : BitVec 3) (m : BitVec 3) (a : RegCode) (d : RegCode) (s : State) : Host.Outcome State Fault Refusal :=
  .next (s.execThread (.cvtBf16 x m a d) 0 0 (doCvtBf16 x m a d))

/-- CVT to E4M3X8 (R84, R85). -/
def doCvtE4m3 (x : BitVec 3) (m : BitVec 3) (a : RegCode) (d : RegCode) (cx : Ctx) (t : Thread) : Except Trap Thread := t.convert cx .e4m3x8 false x m a d

def execCvtE4m3 (x : BitVec 3) (m : BitVec 3) (a : RegCode) (d : RegCode) (s : State) : Host.Outcome State Fault Refusal :=
  .next (s.execThread (.cvtE4m3 x m a d) 0 0 (doCvtE4m3 x m a d))

/-- CVT to E5M2X8 (R84, R85). -/
def doCvtE5m2 (x : BitVec 3) (m : BitVec 3) (a : RegCode) (d : RegCode) (cx : Ctx) (t : Thread) : Except Trap Thread := t.convert cx .e5m2x8 false x m a d

def execCvtE5m2 (x : BitVec 3) (m : BitVec 3) (a : RegCode) (d : RegCode) (s : State) : Host.Outcome State Fault Refusal :=
  .next (s.execThread (.cvtE5m2 x m a d) 0 0 (doCvtE5m2 x m a d))

/-- CVT to E2M1X16 (R84, R85). -/
def doCvtE2m1 (x : BitVec 3) (m : BitVec 3) (a : RegCode) (d : RegCode) (cx : Ctx) (t : Thread) : Except Trap Thread := t.convert cx .e2m1x16 false x m a d

def execCvtE2m1 (x : BitVec 3) (m : BitVec 3) (a : RegCode) (d : RegCode) (s : State) : Host.Outcome State Fault Refusal :=
  .next (s.execThread (.cvtE2m1 x m a d) 0 0 (doCvtE2m1 x m a d))

/-- CVT to I64 (R84, R85). -/
def doCvtI64 (x : BitVec 3) (m : BitVec 3) (a : RegCode) (d : RegCode) (cx : Ctx) (t : Thread) : Except Trap Thread := t.convert cx .i64 false x m a d

def execCvtI64 (x : BitVec 3) (m : BitVec 3) (a : RegCode) (d : RegCode) (s : State) : Host.Outcome State Fault Refusal :=
  .next (s.execThread (.cvtI64 x m a d) 0 0 (doCvtI64 x m a d))

/-- CVT to I64, unsigned (R84, R85). -/
def doCvtI64U (x : BitVec 3) (m : BitVec 3) (a : RegCode) (d : RegCode) (cx : Ctx) (t : Thread) : Except Trap Thread := t.convert cx .i64 true x m a d

def execCvtI64U (x : BitVec 3) (m : BitVec 3) (a : RegCode) (d : RegCode) (s : State) : Host.Outcome State Fault Refusal :=
  .next (s.execThread (.cvtI64U x m a d) 0 0 (doCvtI64U x m a d))

/-- CVT to I32X2 (R84, R85). -/
def doCvtI32 (x : BitVec 3) (m : BitVec 3) (a : RegCode) (d : RegCode) (cx : Ctx) (t : Thread) : Except Trap Thread := t.convert cx .i32x2 false x m a d

def execCvtI32 (x : BitVec 3) (m : BitVec 3) (a : RegCode) (d : RegCode) (s : State) : Host.Outcome State Fault Refusal :=
  .next (s.execThread (.cvtI32 x m a d) 0 0 (doCvtI32 x m a d))

/-- CVT to I32X2, unsigned (R84, R85). -/
def doCvtI32U (x : BitVec 3) (m : BitVec 3) (a : RegCode) (d : RegCode) (cx : Ctx) (t : Thread) : Except Trap Thread := t.convert cx .i32x2 true x m a d

def execCvtI32U (x : BitVec 3) (m : BitVec 3) (a : RegCode) (d : RegCode) (s : State) : Host.Outcome State Fault Refusal :=
  .next (s.execThread (.cvtI32U x m a d) 0 0 (doCvtI32U x m a d))

/-- CVT to I16X4 (R84, R85). -/
def doCvtI16 (x : BitVec 3) (m : BitVec 3) (a : RegCode) (d : RegCode) (cx : Ctx) (t : Thread) : Except Trap Thread := t.convert cx .i16x4 false x m a d

def execCvtI16 (x : BitVec 3) (m : BitVec 3) (a : RegCode) (d : RegCode) (s : State) : Host.Outcome State Fault Refusal :=
  .next (s.execThread (.cvtI16 x m a d) 0 0 (doCvtI16 x m a d))

/-- CVT to I16X4, unsigned (R84, R85). -/
def doCvtI16U (x : BitVec 3) (m : BitVec 3) (a : RegCode) (d : RegCode) (cx : Ctx) (t : Thread) : Except Trap Thread := t.convert cx .i16x4 true x m a d

def execCvtI16U (x : BitVec 3) (m : BitVec 3) (a : RegCode) (d : RegCode) (s : State) : Host.Outcome State Fault Refusal :=
  .next (s.execThread (.cvtI16U x m a d) 0 0 (doCvtI16U x m a d))

/-- CVT to I8X8 (R84, R85). -/
def doCvtI8 (x : BitVec 3) (m : BitVec 3) (a : RegCode) (d : RegCode) (cx : Ctx) (t : Thread) : Except Trap Thread := t.convert cx .i8x8 false x m a d

def execCvtI8 (x : BitVec 3) (m : BitVec 3) (a : RegCode) (d : RegCode) (s : State) : Host.Outcome State Fault Refusal :=
  .next (s.execThread (.cvtI8 x m a d) 0 0 (doCvtI8 x m a d))

/-- CVT to I8X8, unsigned (R84, R85). -/
def doCvtI8U (x : BitVec 3) (m : BitVec 3) (a : RegCode) (d : RegCode) (cx : Ctx) (t : Thread) : Except Trap Thread := t.convert cx .i8x8 true x m a d

def execCvtI8U (x : BitVec 3) (m : BitVec 3) (a : RegCode) (d : RegCode) (s : State) : Host.Outcome State Fault Refusal :=
  .next (s.execThread (.cvtI8U x m a d) 0 0 (doCvtI8U x m a d))

/-- PACK (R86). -/
def doPack (b : RegCode) (a : RegCode) (d : RegCode) (cx : Ctx) (t : Thread) : Except Trap Thread := t.pack2 cx (fun _ a b => (a &&& 0xFFFFFFFF) ||| (b <<< 32)) b a d

def execPack (b : RegCode) (a : RegCode) (d : RegCode) (s : State) : Host.Outcome State Fault Refusal :=
  .next (s.execThread (.pack b a d) 0 0 (doPack b a d))

/-- UNPACK.LO (R86). -/
def doUnpackLo (b : RegCode) (a : RegCode) (d : RegCode) (cx : Ctx) (t : Thread) : Except Trap Thread := t.pack2 cx (fun g => interleave g 0) b a d

def execUnpackLo (b : RegCode) (a : RegCode) (d : RegCode) (s : State) : Host.Outcome State Fault Refusal :=
  .next (s.execThread (.unpackLo b a d) 0 0 (doUnpackLo b a d))

/-- UNPACK.HI (R86). -/
def doUnpackHi (b : RegCode) (a : RegCode) (d : RegCode) (cx : Ctx) (t : Thread) : Except Trap Thread := t.pack2 cx (fun g => interleave g (tagCount g / 2)) b a d

def execUnpackHi (b : RegCode) (a : RegCode) (d : RegCode) (s : State) : Host.Outcome State Fault Refusal :=
  .next (s.execThread (.unpackHi b a d) 0 0 (doUnpackHi b a d))

end Sys2Proof.Machine
end

