-- ==== Sys2Proof/Machine/Atomics.lean ====
section
/-!
DEFINITION. Machine/Atomics.lean: atomics, AFX and AFXRD (R218, R241-R247), fences (R226, R248), WAITCREW (R249).
-/
namespace Sys2Proof.Machine

/-! ### Checks -/

/-- The tags of an atomic's width (R242). -/
def atomicTag (t : Tag) : Bool := t == .raw64 || t == .i64 || t == .i32x2

/-- An address, or a view (R242). -/
def atomicBase (t : Tag) : Bool := isAddrTag t || t == .view

/-- Is the atomic at an address forbidden in a deterministic launch (R123): in window 0x00; in the scratchpad of another gang member, where there is such a byte? `rd` marks
AFXRD, which is permitted only on the crew's own scratchpad (R247). -/
def detForbids (la : Launch) (cx : Ctx) (addr : Word) (rd : Bool) : Bool :=
  let m := addr.toNat % 2 ^ 56 / 2 ^ 20
  match addr.toNat / 2 ^ 56 with
  | 0 => true
  | 1 => m != cx.crew % la.gang && decide (m < la.gang) && decide (addr.toNat % 2 ^ 20 < la.scratch)
  | 2 => rd
  | _ => false

/-- What restricts an atomic in a deterministic launch: AFX is free, AFXRD restricted most (R123, R247). -/
inductive DetRule
  | free
  | atomic
  | read
  deriving DecidableEq, Repr

/-- The location of an atomic after the checks of R250 that follow the operand tags. -/
def State.atomicLoc (s : State) (cx : Ctx) (base off : Reg) (nd : Need) (size : Nat) (r : DetRule) : Except Trap (Word × Loc) :=
  if base.tag = .view then
    if cx.det && r != .free then .error ⟨0x0D, 0⟩ else s.locate cx (.view base off.data.toNat) nd size
  else if cx.det && r != .free && detForbids (s.launchOf cx.lid) cx base.data (r == .read) then .error ⟨0x0D, base.data⟩
  else s.locate cx (.plain base.data) nd size

/-! ### The atomic point -/

/-- What an atomic of one thread does once its operands have been read: its operands of the location, width and need; a check that comes after those of R93 (R250); whether
it is ordered, and whether it writes; the new value of the old; and what it leaves in the thread. -/
structure AtomicPlan where
  base : Reg
  off : Reg
  nd : Need
  size : Nat
  det : DetRule
  bad : Bool
  ar : Bool
  writes : Bool
  new : Nat → Nat
  res : Nat → Thread → Thread

/-- The scope at which a write must have been performed before an atomic is (0: none): what the thread knows of the location, at the atomic point (R217, R236); for an
ordered one all that was performed for the thread before, at the scope of its window (R214, R224, R228); for a plain one the thread's own earlier accesses, as
a store's (R223, R224), and accesses to SO pages in order (R219). -/
def State.atomicNeeds (s : State) (cx : Ctx) (loc : Loc) (p : AtomicPlan) (w : Write) : Nat :=
  let own := w.by_ == cx.ref && w.lane == cx.lane
  if w.meets loc p.size && s.sees cx.ref cx.lane w then 4
  else if own && loc.ord == 0 && w.ord == 0 then 4
  else if loc.ord == 2 || w.ord == 2 then 0
  else if p.ar then (if s.seenBefore cx.ref cx.lane s.seq w then loc.scope else 0)
  else if own && p.writes then
    match loc with
    | .scratch l c _ => if w.ownScratch && l == cx.lid && c == cx.crew then 3 else 1
    | _ => 1
  else 0

/-- The landed bytes of a location. -/
def State.landedBytes (s : State) (cx : Ctx) (loc : Loc) (n : Nat) : List Byte :=
  match loc.place with
  | some p => (List.range n).map fun i => s.byteAt (p.plus i)
  | none => (s.readLoc cx loc n).1

/-- Uncorrectable data at a location (R241). -/
def State.locPoisoned (s : State) (cx : Ctx) (loc : Loc) : Bool :=
  match loc.place with
  | some p => s.poisoned p
  | none => (s.readLoc cx loc 1).2

/-- What an atomic that is performed fixes: the earlier loads of its thread, which it must follow, and, where it writes, loads that must not return its value (R223, R224). -/
def State.fixAtomic (s : State) (cx : Ctx) (loc : Loc) (size : Nat) (ar writes : Bool) : State :=
  s.fixReads fun r =>
    if r.by_ = cx.ref && r.lane == cx.lane then r.keeps loc size (if ar then loc.scope else 0)
    else if writes && r.loc.meets r.size loc size && s.mustMiss r cx.ref cx.lane 0 4 then 4 else 0

/-- The atomic is performed: the old bytes are read and the new ones written at one point (R218); uncorrectable data is a machine check (R241). -/
def State.atomicAt (s : State) (cx : Ctx) (addr : Word) (loc : Loc) (p : AtomicPlan) : Except Trap State :=
  if s.locPoisoned cx loc then .error ⟨0x11, addr⟩ else
  let old := natLE (s.landedBytes cx loc p.size)
  let s := s.fixAtomic cx loc p.size p.ar p.writes
  let data := bytesLE p.size (p.new old)
  let s' := match loc with
    | .stack _ => if p.writes then s.storeLoc cx loc data false else s
    | .dram pa key job va _ =>
      let s := s.noteRead (.dram pa key)
      if p.writes then { s with seq := s.seq + 1 }.landPart cx.lid cx.crew (.dram pa key) job va data else s
    | .scratch l c o =>
      let s := s.noteRead (.scratch l c o)
      if p.writes then { s with seq := s.seq + 1 }.landPart cx.lid cx.crew (.scratch l c o) 0 0 data else s
  .ok (s'.modThread cx.q cx.lane (p.res old))

/-- The page of a location is under write-back, which a writing atomic waits for (R194). -/
def State.atomicHeld (s : State) (loc : Loc) (p : AtomicPlan) : Bool :=
  p.writes && match loc with
    | .dram pa _ job va _ => s.pageHeld job va pa
    | _ => false

/-- A lane of the same issue set below this one waits to perform its atomic: they go in ascending order (R245). -/
def State.lowerWaits (s : State) (cx : Ctx) : Bool :=
  (lanesOf cx.set).any fun l => decide (l < cx.lane) && match (s.thread cx.q l).wait with | .atomic .. => true | _ => false

/-- The atomic at its location, now that its checks are passed: it is performed, or it waits for its page's write-back (R194), for the writes that must be performed
before it, or for a lower lane (R245). `held`: the page was under write-back when the checks were passed; an atomic that passed them before does not wait for it
(R193). -/
def State.atAtomicPoint (s : State) (cx : Ctx) (i : Instr) (addr : Word) (loc : Loc) (held : Bool) (p : AtomicPlan) : Except Trap State :=
  let (s1, ready) := if (held && s.atomicHeld loc p) || s.lowerWaits cx then (s, false) else s.bring (s.atomicNeeds cx loc p)
  if ready then s1.atomicAt cx addr loc p
  else .ok (s1.modThread cx.q cx.lane fun t => t.waitAt cx i (.atomic addr loc held i))

/-- An atomic of one thread: its operands are read, its location is found and checked, and it goes to the atomic point (R242, R246, R247, R250). -/
def atomicStep (i : Instr) (plan : Ctx → Thread → Except Trap AtomicPlan) (cx : Ctx) (s : State) : Except Trap State := do
  let p ← plan cx (s.thread cx.q cx.lane)
  let (addr, loc) ← s.atomicLoc cx p.base p.off p.nd p.size p.det
  if p.bad then .error ⟨0x0C, addr⟩ else s.atAtomicPoint cx i addr loc (s.atomicHeld loc p) p

/-! ### The integer atomics -/

/-- New of R243, but for ACAS: width, old value, operand. -/
def newAdd (w old y : Nat) : Nat := (old + y) % 2 ^ w
def newAnd (_w old y : Nat) : Nat := old &&& y
def newOr (_w old y : Nat) : Nat := old ||| y
def newXor (_w old y : Nat) : Nat := old ^^^ y
def newXchg (_w _old y : Nat) : Nat := y

/-- The address operands of an atomic: a, and o3 where a is a view; b is read between them (R242, R250). -/
def Thread.atomicBaseReg (t : Thread) (cx : Ctx) (a : RegCode) : Except Trap Reg := t.src cx atomicBase a

def Thread.atomicOff (t : Thread) (cx : Ctx) (base : Reg) : Except Trap Reg :=
  if base.tag = .view then t.src cx isAddrTag 59 else .ok Reg.zero

/-- The old value as an integer atomic's result (R242). -/
def atomicResult (cx : Ctx) (d : RegCode) (size old : Nat) (t : Thread) : Thread :=
  t.write cx d ⟨BitVec.ofNat 64 old, if size = 8 then .i64 else .i32x2⟩ .sb

/-- An integer atomic of one thread (R242). -/
def atomicPlan (o : BitVec 1) (op : Nat → Nat → Nat → Nat) (b a d : RegCode) (cx : Ctx) (t : Thread) : Except Trap AtomicPlan := do
  let base ← t.atomicBaseReg cx a
  let y ← t.src cx atomicTag b
  let off ← t.atomicOff cx base
  let size := if y.tag = .i32x2 then 4 else 8
  .ok { base := base, off := off, nd := .atomic, size := size, det := .atomic, bad := false, ar := o == 1, writes := true
        new := fun old => op (8 * size) old (y.data.toNat % 2 ^ (8 * size)), res := atomicResult cx d size }

/-- ACAS of one thread (R242, R243): the old bytes are written back where the comparison fails. -/
def acasPlan (o : BitVec 1) (b a d : RegCode) (cx : Ctx) (t : Thread) : Except Trap AtomicPlan := do
  let base ← t.atomicBaseReg cx a
  let y ← t.src cx atomicTag b
  let off ← t.atomicOff cx base
  let e ← t.src cx atomicTag d
  let g ← layoutInt e y
  let size := if g = .i32x2 then 4 else 8
  let w := 8 * size
  .ok { base := base, off := off, nd := .atomic, size := size, det := .atomic, bad := false, ar := o == 1, writes := true
        new := fun old => if old = e.data.toNat % 2 ^ w then y.data.toNat % 2 ^ w else old, res := atomicResult cx d size }

/-! ### AFX and AFXRD -/

/-- The addends of AFX (R246). -/
def afxTag (t : Tag) : Bool := t == .f64 || t == .f32x2

def afxAddends (r : Reg) : List FVal := (elems r.tag r.data).map (fmtOf r.tag).decode

/-- A value ToFX does not take: NaN or an infinity (R246). -/
def FVal.special : FVal → Bool
  | .fin .. => false
  | _ => true

/-- AFX of one thread (R246). -/
def afxPlan (o : BitVec 1) (b a : RegCode) (cx : Ctx) (t : Thread) : Except Trap AtomicPlan := do
  let base ← t.atomicBaseReg cx a
  let y ← t.src cx afxTag b
  let off ← t.atomicOff cx base
  let vs := afxAddends y
  .ok { base := base, off := off, nd := .atomic, size := 16, det := .free, bad := vs.any FVal.special, ar := o == 1, writes := true
        new := fun old => (old + (vs.map toFX).foldl (· + ·) 0) % 2 ^ 128, res := fun _ t => t }

/-- AFXRD of one thread (R247). -/
def afxrdPlan (o : BitVec 1) (a d : RegCode) (cx : Ctx) (t : Thread) : Except Trap AtomicPlan := do
  let base ← t.atomicBaseReg cx a
  let off ← t.atomicOff cx base
  .ok { base := base, off := off, nd := .atomicRead, size := 16, det := .read, bad := false, ar := o == 1, writes := false, new := id
        res := fun old t => (t.write cx d ⟨BitVec.ofNat 64 (fromFX old).1, .f64⟩ .sb).raise (fromFX old).2 }

/-! ### Instructions -/

/-- AADD (R243). -/
def execAadd (o : BitVec 1) (b : RegCode) (a : RegCode) (d : RegCode) (s : State) : Host.Outcome State Fault Refusal :=
  .next (s.execLanes (.aadd o b a d) 0 0 (atomicStep (.aadd o b a d) (atomicPlan o newAdd b a d)))

/-- AAND (R243). -/
def execAand (o : BitVec 1) (b : RegCode) (a : RegCode) (d : RegCode) (s : State) : Host.Outcome State Fault Refusal :=
  .next (s.execLanes (.aand o b a d) 0 0 (atomicStep (.aand o b a d) (atomicPlan o newAnd b a d)))

/-- AOR (R243). -/
def execAor (o : BitVec 1) (b : RegCode) (a : RegCode) (d : RegCode) (s : State) : Host.Outcome State Fault Refusal :=
  .next (s.execLanes (.aor o b a d) 0 0 (atomicStep (.aor o b a d) (atomicPlan o newOr b a d)))

/-- AXOR (R243). -/
def execAxor (o : BitVec 1) (b : RegCode) (a : RegCode) (d : RegCode) (s : State) : Host.Outcome State Fault Refusal :=
  .next (s.execLanes (.axor o b a d) 0 0 (atomicStep (.axor o b a d) (atomicPlan o newXor b a d)))

/-- AMIN (R243). -/
def execAmin (o : BitVec 1) (b : RegCode) (a : RegCode) (d : RegCode) (s : State) : Host.Outcome State Fault Refusal :=
  .next (s.execLanes (.amin o b a d) 0 0 (atomicStep (.amin o b a d) (atomicPlan o minE b a d)))

/-- AMIN.U (R243). -/
def execAminU (o : BitVec 1) (b : RegCode) (a : RegCode) (d : RegCode) (s : State) : Host.Outcome State Fault Refusal :=
  .next (s.execLanes (.aminU o b a d) 0 0 (atomicStep (.aminU o b a d) (atomicPlan o minUE b a d)))

/-- AMAX (R243). -/
def execAmax (o : BitVec 1) (b : RegCode) (a : RegCode) (d : RegCode) (s : State) : Host.Outcome State Fault Refusal :=
  .next (s.execLanes (.amax o b a d) 0 0 (atomicStep (.amax o b a d) (atomicPlan o maxE b a d)))

/-- AMAX.U (R243). -/
def execAmaxU (o : BitVec 1) (b : RegCode) (a : RegCode) (d : RegCode) (s : State) : Host.Outcome State Fault Refusal :=
  .next (s.execLanes (.amaxU o b a d) 0 0 (atomicStep (.amaxU o b a d) (atomicPlan o maxUE b a d)))

/-- AXCHG (R243). -/
def execAxchg (o : BitVec 1) (b : RegCode) (a : RegCode) (d : RegCode) (s : State) : Host.Outcome State Fault Refusal :=
  .next (s.execLanes (.axchg o b a d) 0 0 (atomicStep (.axchg o b a d) (atomicPlan o newXchg b a d)))

/-- ACAS (R243). -/
def execAcas (o : BitVec 1) (b : RegCode) (a : RegCode) (d : RegCode) (s : State) : Host.Outcome State Fault Refusal :=
  .next (s.execLanes (.acas o b a d) 0 0 (atomicStep (.acas o b a d) (acasPlan o b a d)))

/-- AFX (R246). -/
def execAfx (o : BitVec 1) (b : RegCode) (a : RegCode) (s : State) : Host.Outcome State Fault Refusal :=
  .next (s.execLanes (.afx o b a) 0 0 (atomicStep (.afx o b a) (afxPlan o b a)))

/-- AFXRD (R247). -/
def execAfxrd (o : BitVec 1) (a : RegCode) (d : RegCode) (s : State) : Host.Outcome State Fault Refusal :=
  .next (s.execLanes (.afxrd o a d) 0 0 (atomicStep (.afxrd o a d) (afxrdPlan o a d)))

/-- The atomics, by what each thread does. -/
def atomicOf (i : Instr) : Option (Ctx → Thread → Except Trap AtomicPlan) :=
  match i with
  | .aadd o b a d => some (atomicPlan o newAdd b a d)
  | .aand o b a d => some (atomicPlan o newAnd b a d)
  | .aor o b a d => some (atomicPlan o newOr b a d)
  | .axor o b a d => some (atomicPlan o newXor b a d)
  | .amin o b a d => some (atomicPlan o minE b a d)
  | .aminU o b a d => some (atomicPlan o minUE b a d)
  | .amax o b a d => some (atomicPlan o maxE b a d)
  | .amaxU o b a d => some (atomicPlan o maxUE b a d)
  | .axchg o b a d => some (atomicPlan o newXchg b a d)
  | .acas o b a d => some (acasPlan o b a d)
  | .afx o b a => some (afxPlan o b a)
  | .afxrd o a d => some (afxrdPlan o a d)
  | _ => none

/-- What a lane waits to perform: the address, the location, whether the page was under write-back, and the instruction. -/
def Thread.atomicWait (t : Thread) : Option (Word × Loc × Bool × Instr) :=
  match t.wait with
  | .atomic addr loc held i => some (addr, loc, held, i)
  | _ => none

/-- The lanes of a squad that wait to perform an atomic, with the instruction. -/
def Squad.atomicLanes (sq : Squad) : List (Nat × Instr) :=
  sq.liveLanes.filterMap fun l => (sq.thread l).atomicWait.map fun x => (l, x.2.2.2)

/-- The lanes named go back to before their wait instruction. -/
def State.unwait (s : State) (q : Nat) (ls : List Nat) : State := ls.foldl (fun st l => st.modThread q l Thread.unwait) s

/-- The atomic that a lane waits to perform, tried at the location that its checks found (R250: an access that stalls traps for none of them while it waits). -/
def retryAtomic (i : Instr) (addr : Word) (loc : Loc) (held : Bool) (plan : Ctx → Thread → Except Trap AtomicPlan) (cx : Ctx) (s : State) : Except Trap State := do
  let p ← plan cx (s.thread cx.q cx.lane)
  s.atAtomicPoint cx i addr loc held p

/-- The waiting lanes of one atomic, each at the location that it found. -/
def State.retryAtomics (s : State) (q : Nat) (i : Instr) (ls : List Nat) (plan : Ctx → Thread → Except Trap AtomicPlan) : State :=
  let sq := s.squad q
  let t := sq.thread (ls.headD 0)
  let c : Cur := { q := q, pc := t.pc, lanes := maskOf ls, slot := t.stamp, at_ := t.since }
  ({ s.unwait q ls with cur := c }).execLanes i 0 0 fun cx st =>
    match (sq.thread cx.lane).atomicWait with
    | some (addr, loc, held, _) => retryAtomic i addr loc held plan cx st
    | none => .ok st

/-- ATOMIC_PERFORMED (R194, R218, R245): the atomics that waited are performed, in ascending lane order, as far as they can
be now. -/
def execAtomicPerformed (q : Nat) (s : State) : Host.Outcome State Fault Refusal :=
  .next (match (s.squad q).atomicLanes with
    | [] => s
    | (l, i) :: rest =>
      match atomicOf i with
      | none => s
      | some plan => s.retryAtomics q i (l :: rest.map (·.1)) plan)

/-! ### Fences, WAITCREW -/

/-- A fence of scope `scope` (R226, R248): it completes for a lane once what it must follow has been performed at its scope. -/
def State.fence (s : State) (i : Instr) (scope : Nat) (full : Bool) : State :=
  s.execSet i 0 0 fun s' s0 act =>
    let q := s0.cur.q
    .ok (act.foldl (fun st l =>
      if s0.fenced (s0.squad q).ref l scope full s0.seq then st.fixFence (s0.squad q).ref l scope full
      else st.modThread q l fun t => t.waitAt (s0.ctx l) i (.fence scope full s0.seq)) s')

/-- FENCE.SQUAD (R248). -/
def execFenceSquad (s : State) : Host.Outcome State Fault Refusal := .next (s.fence .fenceSquad 1 false)

/-- FENCE.CREW (R248). -/
def execFenceCrew (s : State) : Host.Outcome State Fault Refusal := .next (s.fence .fenceCrew 2 false)

/-- FENCE.GANG (R248). -/
def execFenceGang (s : State) : Host.Outcome State Fault Refusal := .next (s.fence .fenceGang 3 false)

/-- FENCE.DEVICE (R248): a write that one module's device has seen has landed, for the system too. -/
def execFenceDevice (s : State) : Host.Outcome State Fault Refusal := .next (s.fence .fenceDevice 4 false)

/-- FENCE.SYSTEM (R248). -/
def execFenceSystem (s : State) : Host.Outcome State Fault Refusal := .next (s.fence .fenceSystem 4 false)

/-- FENCE.FULL (R248). -/
def execFenceFull (s : State) : Host.Outcome State Fault Refusal := .next (s.fence .fenceFull 4 true)

/-- The lanes of a squad that wait in a fence that is complete. -/
def State.fenceDone (s : State) (q : Nat) : List Nat :=
  let sq := s.squad q
  sq.liveLanes.filter fun l => match (sq.thread l).wait with
    | .fence scope full n => s.fenced sq.ref l scope full n
    | _ => false

/-- The fence in which a lane waits is complete. -/
def State.endFence (s : State) (q l : Nat) : State :=
  match (s.thread q l).wait with
  | .fence scope full _ => s.fixFence (s.squad q).ref l scope full
  | _ => s

/-- FENCE_COMPLETE (R226). -/
def execFenceComplete (q : Nat) (s : State) : Host.Outcome State Fault Refusal :=
  .next (((s.fenceDone q).foldl (fun st l => st.endFence q l) s).releaseLanes q (s.fenceDone q))

/-- The lanes of a squad that wait in an ICINV that is complete: it is one operation of all its lanes (R316). -/
def State.icinvDone (s : State) (q : Nat) : List Nat :=
  let sq := s.squad q
  let at_ := fun n => sq.liveLanes.filter fun l => (sq.thread l).wait == .icinv n
  sq.liveLanes.filter fun l => match (sq.thread l).wait with
    | .icinv n => s.icinvOver sq.ref (at_ n) n
    | _ => false

/-- ICINV_COMPLETE (R316): the instruction caches and fetch buffers of the module are emptied. -/
def execIcinvComplete (q : Nat) (s : State) : Host.Outcome State Fault Refusal :=
  .next (if s.icinvDone q = [] then s else (s.releaseLanes q (s.icinvDone q)).emptyCode)

/-- WAITCREW of one thread (R249). -/
def waitcrewLane (a : RegCode) (cx : Ctx) (s : State) : Except Trap State := do
  let v ← (s.thread cx.q cx.lane).src cx isAddrTag a
  let n := v.data.toNat
  if cx.det && decide (cx.crew ≤ n) then .error ⟨0x0D, 0⟩
  else if n = cx.crew || decide ((s.launchOf cx.lid).crews ≤ n) then .error ⟨0x01, 0⟩
  else .ok (if (s.crewOf cx.lid n).completed then s else s.block cx (.waitcrew a))

/-- WAITCREW (R249). -/
def execWaitcrew (a : RegCode) (s : State) : Host.Outcome State Fault Refusal :=
  .next (s.execLanes (.waitcrew a) 0 0 (waitcrewLane a))

end Sys2Proof.Machine
end

