-- ==== Sys2Proof/Machine/CrossLane.lean ====
section
/-!
DEFINITION. Machine/CrossLane.lean: votes, ballots, MATCH, SCAN and REDUCE (R127, R128, R132-R134), the Benes network
(R135, R136), the map unit (R137, R159).
-/
namespace Sys2Proof.Machine

/-! ### Sources and results of a set -/

/-- A register of every active lane, as it stood before the instruction. -/
def State.gather (s : State) (act : List Nat) (c : RegCode) : Except SetTrap (List (Nat × Reg)) :=
  gatherLanes act fun l => (s.thread s.cur.q l).read (s.ctx l) c

/-- A mask's bits of the active lanes. -/
def State.gatherK (s : State) (act : List Nat) (k : BitVec 3) : Except SetTrap (List (Nat × Bool)) :=
  gatherLanes act fun l => (s.thread s.cur.q l).readK (s.ctx l) k.toNat

/-- Results written to the active lanes. `s0` is the state before the instruction. -/
def State.scatter (s s0 : State) (d : RegCode) (lat : Lat) (vs : List (Nat × Reg)) : State :=
  vs.foldl (fun st v => st.modThread s0.cur.q v.1 fun t => t.write (s0.ctx v.1) d v.2 lat) s

/-- A mask's bit written in the active lanes. -/
def State.scatterK (s s0 : State) (k : Nat) (lat : Lat) (vs : List (Nat × Bool)) : State :=
  vs.foldl (fun st v => st.modThread s0.cur.q v.1 fun t => t.writeK (s0.ctx v.1) k v.2 lat) s

/-! ### Votes, ballots, MATCH -/

/-- VOTE.ALL (R132). -/
def execVoteAll (m : BitVec 3) (k : BitVec 3) (s : State) : Host.Outcome State Fault Refusal :=
  .next (s.execSet (.voteAll m k) 0 0 fun s' s0 act => do
    let bs ← s0.gatherK act m
    .ok (s'.scatterK s0 k.toNat .sb (act.map fun l => (l, bs.all (·.2)))))

/-- VOTE.ANY (R132). -/
def execVoteAny (m : BitVec 3) (k : BitVec 3) (s : State) : Host.Outcome State Fault Refusal :=
  .next (s.execSet (.voteAny m k) 0 0 fun s' s0 act => do
    let bs ← s0.gatherK act m
    .ok (s'.scatterK s0 k.toNat .sb (act.map fun l => (l, bs.any (·.2)))))

/-- BALLOT (R132). -/
def execBallot (m : BitVec 3) (d : RegCode) (s : State) : Host.Outcome State Fault Refusal :=
  .next (s.execSet (.ballot m d) 0 0 fun s' s0 act => do
    let bs ← s0.gatherK act m
    let v : Reg := ⟨(maskOf ((bs.filter (·.2)).map (·.1))).zeroExtend 64, .i64⟩
    .ok (s'.scatter s0 d .sb (act.map fun l => (l, v))))

/-- The tags MATCH accepts (R133). -/
def matchTag (t : Tag) : Bool := isIntTag t || isFloatTag t || t == .map8

/-- A float element with −0 as +0 and every NaN canonical (R133). -/
def canonElem (f : Fmt) (x : Nat) : Nat :=
  match f.decode x with
  | .nan _ => f.nan
  | .inf _ => x
  | .fin _ n _ _ => if n = 0 then 0 else x

/-- The key of MATCH (R133). -/
def matchKey (r : Reg) : Word :=
  if isFloatTag r.tag then ofElems (tagWidth r.tag) ((elems r.tag r.data).map (canonElem (fmtOf r.tag))) else r.data

/-- MATCH (R133). -/
def execMatchLanes (a : RegCode) (d : RegCode) (s : State) : Host.Outcome State Fault Refusal :=
  .next (s.execSet (.matchLanes a d) 0 0 fun s' s0 act => do
    let vs ← s0.gather act a
    let _ ← commonTag matchTag vs
    let mine := fun (r : Reg) => (maskOf ((vs.filter fun v => matchKey v.2 == matchKey r).map (·.1))).zeroExtend 64
    .ok (s'.scatter s0 d .sb (vs.map fun (l, r) => (l, ⟨mine r, .i64⟩))))

/-! ### SCAN and REDUCE -/

/-- The step of a fold: integers (w, acc, x), or floats under a format and rounding mode. -/
inductive FoldOp
  | add
  | min
  | max
  | minU
  | maxU
  | and
  | or
  | xor
  deriving DecidableEq, Repr

def FoldOp.accepts : FoldOp → Tag → Bool
  | .add, t | .min, t | .max, t => isIntTag t || isFloatTag t
  | .minU, t | .maxU, t => isIntTag t
  | .and, t | .or, t | .xor, t => isBitTag t

/-- One step of R134 on elements of tag `t`. -/
def FoldOp.step (op : FoldOp) (t : Tag) (m : Rm) (acc x : Nat) : Nat × Flags :=
  let w := tagWidth t
  match op with
  | .add => if isFloatTag t then fAdd (fmtOf t) m acc x else (addE w acc x, 0)
  | .min => if isFloatTag t then (fmtOf t).minmax false acc x else (minE w acc x, 0)
  | .max => if isFloatTag t then (fmtOf t).minmax true acc x else (maxE w acc x, 0)
  | .minU => (minUE w acc x, 0)
  | .maxU => (maxUE w acc x, 0)
  | .and => (acc &&& x, 0)
  | .or => (acc ||| x, 0)
  | .xor => (acc ^^^ x, 0)

/-- The layout the fold works in: REDUCE.AND, OR and XOR take 1 x 64 bits (R134). -/
def FoldOp.layout (op : FoldOp) (t : Tag) : Tag :=
  match op with
  | .and | .or | .xor => .raw64
  | _ => t

/-- The running values of a sequence, and every flag a step raised. -/
def foldRun (step : Nat → Nat → Nat × Flags) : Option Nat → List Nat → List Nat × Flags
  | _, [] => ([], 0)
  | none, x :: xs =>
    let (r, fl) := foldRun step (some x) xs
    (x :: r, fl)
  | some acc, x :: xs =>
    let (v, f) := step acc x
    let (r, fl) := foldRun step (some v) xs
    (v :: r, f ||| fl)

/-- A list cut into pieces of n elements. -/
def pieces (n : Nat) : Nat → List Nat → List (List Nat)
  | 0, _ => []
  | k + 1, xs => xs.take n :: pieces n k (xs.drop n)

/-- The flags of the whole fold; a fold over one position raises NV alone, for a signalling NaN under MIN or MAX (R134). -/
def foldFlags (op : FoldOp) (t : Tag) (xs : List Nat) (fl : Flags) : Flags :=
  match op, xs with
  | .min, [x] | .max, [x] => if isFloatTag t && ((fmtOf t).decode x).isSig then flagNV else 0
  | _, _ => fl

/-- LaneFold of R134. -/
def State.laneFold (s : State) (i : Instr) (op : FoldOp) (scan : Bool) (a d : RegCode) : State :=
  s.execSet i 0 0 fun s' s0 act => do
    let vs ← s0.gather act a
    let t ← commonTag op.accepts vs
    let g := op.layout t
    let n := tagCount g
    let m := (rmOf ((act.head?.map fun l => (s0.thread s0.cur.q l).frm.toNat).getD 0)).plain
    let xs := vs.flatMap fun v => elems g v.2.data
    let (rs, fl) := foldRun (op.step g m) none xs
    let total := rs.getLast?.getD 0
    let outs := if scan then pieces n vs.length rs else vs.map fun _ => List.replicate n total
    let s'' := s'.scatter s0 d .sb ((vs.zip outs).map fun (v, es) => (v.1, ⟨ofElems (tagWidth g) es, t⟩))
    .ok (act.foldl (fun st l => st.modThread s0.cur.q l fun t => t.raise (foldFlags op g xs fl)) s'')

/-- SCAN.ADD (R134). -/
def execScanAdd (a : RegCode) (d : RegCode) (s : State) : Host.Outcome State Fault Refusal :=
  .next (s.laneFold (.scanAdd a d) .add true a d)

/-- SCAN.MIN (R134). -/
def execScanMin (a : RegCode) (d : RegCode) (s : State) : Host.Outcome State Fault Refusal :=
  .next (s.laneFold (.scanMin a d) .min true a d)

/-- SCAN.MAX (R134). -/
def execScanMax (a : RegCode) (d : RegCode) (s : State) : Host.Outcome State Fault Refusal :=
  .next (s.laneFold (.scanMax a d) .max true a d)

/-- REDUCE.ADD (R134). -/
def execReduceAdd (a : RegCode) (d : RegCode) (s : State) : Host.Outcome State Fault Refusal :=
  .next (s.laneFold (.reduceAdd a d) .add false a d)

/-- REDUCE.MIN (R134). -/
def execReduceMin (a : RegCode) (d : RegCode) (s : State) : Host.Outcome State Fault Refusal :=
  .next (s.laneFold (.reduceMin a d) .min false a d)

/-- REDUCE.MAX (R134). -/
def execReduceMax (a : RegCode) (d : RegCode) (s : State) : Host.Outcome State Fault Refusal :=
  .next (s.laneFold (.reduceMax a d) .max false a d)

/-- SCAN.MIN.U (R134). -/
def execScanMinU (a : RegCode) (d : RegCode) (s : State) : Host.Outcome State Fault Refusal :=
  .next (s.laneFold (.scanMinU a d) .minU true a d)

/-- SCAN.MAX.U (R134). -/
def execScanMaxU (a : RegCode) (d : RegCode) (s : State) : Host.Outcome State Fault Refusal :=
  .next (s.laneFold (.scanMaxU a d) .maxU true a d)

/-- REDUCE.MIN.U (R134). -/
def execReduceMinU (a : RegCode) (d : RegCode) (s : State) : Host.Outcome State Fault Refusal :=
  .next (s.laneFold (.reduceMinU a d) .minU false a d)

/-- REDUCE.MAX.U (R134). -/
def execReduceMaxU (a : RegCode) (d : RegCode) (s : State) : Host.Outcome State Fault Refusal :=
  .next (s.laneFold (.reduceMaxU a d) .maxU false a d)

/-- REDUCE.AND (R134). -/
def execReduceAnd (a : RegCode) (d : RegCode) (s : State) : Host.Outcome State Fault Refusal :=
  .next (s.laneFold (.reduceAnd a d) .and false a d)

/-- REDUCE.OR (R134). -/
def execReduceOr (a : RegCode) (d : RegCode) (s : State) : Host.Outcome State Fault Refusal :=
  .next (s.laneFold (.reduceOr a d) .or false a d)

/-- REDUCE.XOR (R134). -/
def execReduceXor (a : RegCode) (d : RegCode) (s : State) : Host.Outcome State Fault Refusal :=
  .next (s.laneFold (.reduceXor a d) .xor false a d)

/-! ### The byte network and the map unit -/

/-- Perm of a network register: the identity until a SETNET has landed (R135). -/
def Squad.perm (sq : Squad) (n p : Nat) : Nat :=
  match SMap.get [] sq.n n with
  | [] => p
  | m => (m[p]?.getD 0).toNat

/-- Byte position p of a register of the squad: byte p mod 8 of lane p div 8, `dflt` where the lane is not active (R34). -/
def squadByte (vs : List (Nat × Reg)) (dflt : Nat) (p : Nat) : Nat :=
  match vs.find? fun v => v.1 == p / 8 with
  | none => dflt
  | some v => elem v.2.data 8 (p % 8)

/-- SETNET (R135): the map must be a permutation; the configuration is written 64 cycles after issue. -/
def execSetnet (a : RegCode) (n : BitVec 2) (s : State) : Host.Outcome State Fault Refusal :=
  .next (s.execSet (.setnet a n) 0 0 fun s' s0 act => do
    let vs ← s0.gather act a
    let _ ← commonTag (· == .map8) vs
    let m := (List.range 256).map fun p => squadByte vs p p
    let twice := fun x => decide (1 < m.count x)
    let bad := (vs.filter fun v => (elems .map8 v.2.data).any twice).map (·.1)
    if m.any twice then .error (⟨0x02, 0⟩, maskOf bad)
    else .ok (s'.modSquad s0.cur.q fun sq =>
      { sq with nPend := sq.nPend ++ [⟨n.toNat, m.map fun x => BitVec.ofNat 8 x, s0.cycle + 64, maskOf act⟩] }))

/-- Tags that NETMV and GATHERB move (R136, R137). -/
def moveTag (t : Tag) : Bool := t != .view && t != .poison

/-- NETMV (R136). -/
def execNetmv (f : FRN) (s : State) : Host.Outcome State Fault Refusal :=
  .next (s.execSet (.netmv f) f.g f.s.toNat fun s' s0 act => do
    let vs ← s0.gather act f.a
    let t ← commonTag moveTag vs
    let sq := s0.squad s0.cur.q
    let res := fun l => ofElems 8 ((List.range 8).map fun b => squadByte vs 0 (sq.perm f.n.toNat (8 * l + b)))
    .ok (s'.scatter s0 f.d latNet (act.map fun l => (l, ⟨res l, t⟩))))

/-- The tags of GATHERB's indices (R137). -/
def indexTag (t : Tag) : Bool := t == .map8 || t == .i8x8 || t == .raw64

/-- GATHERB (R137). -/
def execGatherb (f : FR) (s : State) : Host.Outcome State Fault Refusal :=
  .next (s.execSet (.gatherb f) f.g f.s.toNat fun s' s0 act => do
    let vs ← s0.gather act f.a
    let t ← commonTag moveTag vs
    let is ← gatherLanes act fun l => (s0.thread s0.cur.q l).src (s0.ctx l) indexTag f.b
    let res := fun (r : Reg) => ofElems 8 ((elems .map8 r.data).map (squadByte vs 0))
    .ok (s'.scatter s0 f.d latMap (is.map fun (l, r) => (l, ⟨res r, t⟩))))

/-- COMPOSE (R159): entry s of the result is b[a[s]]; unknown stays unknown. -/
def execCompose (f : FR) (s : State) : Host.Outcome State Fault Refusal :=
  .next (s.execSet (.compose f) f.g f.s.toNat fun s' s0 act => do
    let vs ← s0.gather act f.a
    let _ ← commonTag (· == .map8) vs
    let bs ← s0.gather act f.b
    let _ ← commonTag (· == .map8) bs
    let res := fun (r : Reg) =>
      ofElems 8 ((elems .map8 r.data).map fun x => if x = 255 then 255 else squadByte bs 255 x)
    .ok (s'.scatter s0 f.d latMap (vs.map fun (l, r) => (l, ⟨res r, .map8⟩))))

end Sys2Proof.Machine
end

