-- ==== Sys2Proof/Machine/Enumerate.lean ====
section
/-!
DEFINITION. Machine/Enumerate.lean: enumerated runs: RUNNEW, ENUM, ENUM.ONE, MERGE, ENDCH, CHOOSE (R147-R164).
-/
namespace Sys2Proof.Machine

/-! ### The descriptor (R148) -/

structure Desc where
  gbase : Nat
  gsize : Nat
  entries : Nat
  offset : Nat
  ok : Bool
  deriving DecidableEq, Repr

/-- The descriptor's fields, and whether its reserved bits and field values are in order. -/
def descOf (w : Word) : Desc :=
  let x := w.toNat
  { gbase := bitsOf x 56 4, gsize := bitsOf x 48 3, entries := bitsOf x 32 16, offset := bitsOf x 0 20
    ok := bitsOf x 60 4 == 0 && bitsOf x 51 5 == 0 && bitsOf x 20 12 == 0 && decide (33 ≤ bitsOf x 32 16)
      && decide (bitsOf x 32 16 ≤ 32768) && bitsOf x 0 20 % 64 == 0 }

/-- The window 0x01 address of a byte of the crew's own allocation (R20, R182). -/
def scratchAddr (la : Launch) (crew off : Nat) : Word := BitVec.ofNat 64 (2 ^ 56 + crew % la.gang * 2 ^ 20 + off)

/-- The descriptor of a set: tag, one value for all, fields, extent of the area (R148, R153). `own` is the check that the
instruction makes of the group range beside its lying in the crew. -/
def State.descOperand (s0 : State) (act : List Nat) (b : RegCode) (own : Desc → Bool) : Except SetTrap (Word × Desc) := do
  let sq := s0.squad s0.cur.q
  let la := s0.launchOf sq.lid
  let vs ← gatherLanes act fun l => (s0.thread s0.cur.q l).src (s0.ctx l) isAddrTag b
  let v := (vs.head?.map (·.2.data)).getD 0
  let odd := (vs.filter fun x => x.2.data != v).map (·.1)
  if odd ≠ [] then .error (⟨0x02, 0⟩, maskOf odd) else
  let d := descOf v
  if !d.ok || decide (la.squads ≤ d.gbase + d.gsize) || !own d then .error (⟨0x02, 0⟩, maskOf act)
  else if la.scratch < d.offset + 32 * d.entries then
    .error (⟨0x03, scratchAddr la sq.crew (d.offset + 32 * d.entries - 1)⟩, maskOf act)
  else .ok (v, d)

/-- The squad's issue set is all its threads, and it belongs to no chunk (R153). -/
def State.mayOpen (s0 : State) (act : List Nat) : Except SetTrap Unit :=
  let sq := s0.squad s0.cur.q
  if maskOf act ≠ sq.liveMask then .error (⟨0x0A, 0⟩, maskOf act)
  else if ((s0.crewOf sq.lid sq.crew).chunkOf sq.num).isSome then .error (⟨0x01, 0⟩, maskOf act)
  else .ok ()

/-! ### Chunks -/

/-- The chunk of the group of squads that begins at `gbase`; a squad belongs to one chunk, so that there is one at most (R147). -/
def Crew.chunkAt (c : Crew) (gbase : Nat) : Option Chunk := c.chunks.find? (·.gbase == gbase)

def Crew.dropChunk (c : Crew) (gbase : Nat) : Crew := { c with chunks := c.chunks.filter (·.gbase != gbase) }

/-- The chunk that a CHOOSE with a descriptor closes (R160): a pending one at its OFFSET; of several, that of the descriptor's own group, where it is one of them
(DESIGN CHOICE, log 33). -/
def Crew.pendingAt (c : Crew) (d : Desc) : Option Chunk :=
  let cs := c.chunks.filter fun ch => ch.pending && ch.offset == d.offset
  (cs.find? (·.gbase == d.gbase)).or cs.head?

/-- The group lanes of a chunk: the record of each squad, the lane, the group lane. -/
def State.groupLanes (s : State) (lid crew gbase gsize : Nat) : List (Nat × Nat × Nat) :=
  (List.range (gsize + 1)).flatMap fun i =>
    match s.recordFor ⟨lid, crew, gbase + i⟩ with
    | none => []
    | some q => (s.squad q).liveLanes.map fun l => (q, l, 32 * i + l)

/-- The chunk header's contents are undefined until ENDCH writes it (R149): free values (free value, log 9). -/
def State.scrambleHeader (s : State) (lid crew off : Nat) : State :=
  { s.modCrew lid crew (fun c => { c with scratch := c.scratch.writeBytes off (freeList s.freeCtr 1024) }) with freeCtr := s.freeCtr + 1 }

/-- A chunk is opened (R153, R164). -/
def State.openChunk (s : State) (lid crew : Nat) (ch : Chunk) : State :=
  (s.scrambleHeader lid crew ch.offset).modCrew lid crew fun c => { c with chunks := c.chunks ++ [ch] }

/-- Lanes stopped for good until the chunk is closed (R154). -/
def State.parkLane (s : State) (q l : Nat) (code : BitVec 8) : State :=
  s.modThread q l fun t => { t with wait := .parked, word := 0, lstop := code }

/-- The rejoin-mismatch trap of every squad of a group: each names all its threads that have not exited (R157, R158). -/
def State.groupMismatch (s : State) (lid crew gbase gsize : Nat) : State :=
  (List.range (gsize + 1)).foldl (fun st i =>
    match st.recordFor ⟨lid, crew, gbase + i⟩ with
    | none => st
    | some q =>
      let sq := st.squad q
      let ls := sq.liveLanes.filter fun l => match (sq.thread l).wait with
        | .merge .. | .endch .. | .rejoin _ => true
        | _ => false
      let pc := (((ls ++ sq.liveLanes).head?).map fun l => (sq.thread l).pc).getD 0
      ls.foldl (fun st l => st.modThread q l Thread.unwait)
        (st.takeTrap q 0x0A sq.liveMask 0 pc)) s

/-! ### RUNNEW and ENUM -/

/-- RUNNEW (R152). -/
def execRunnew (s : State) : Host.Outcome State Fault Refusal :=
  .next (s.execSet .runnew 0 0 fun s' s0 _ =>
    let sq := s0.squad s0.cur.q
    .ok (s'.modCrew sq.lid sq.crew fun c => { c with filter := 0 }))

/-- What every live thread of a squad waits at, where it is one ENUM: its destination and descriptor. -/
def Squad.atEnum (sq : Squad) : Option (Nat × Word) :=
  match sq.liveLanes with
  | [] => none
  | l :: _ =>
    match (sq.thread l).wait with
    | .enum d _ w => some (d, w)
    | _ => none

/-- Two ENUMs of one crew whose groups overlap name different descriptors (R153). -/
def descClash (num : Nat) (w : Word) (sq : Squad) : Bool :=
  match sq.atEnum with
  | some (_, w') =>
    let inGroup := fun (d : Desc) n => decide (d.gbase ≤ n) && decide (n ≤ d.gbase + d.gsize)
    w' != w && (inGroup (descOf w') num || inGroup (descOf w) sq.num)
  | none => false

/-- ENUM (R153): the checks in their order, then the wait for the group. -/
def execEnum (b : RegCode) (a : RegCode) (d : RegCode) (s : State) : Host.Outcome State Fault Refusal :=
  .next (s.execSet (.enum b a d) 0 0 fun s' s0 act => do
    let q := s0.cur.q
    let sq := s0.squad q
    let vs ← s0.gather act a
    let _ ← commonTag (· == .map8) vs
    let (w, _) ← s0.descOperand act b fun e => decide (e.gbase ≤ sq.num) && decide (sq.num ≤ e.gbase + e.gsize)
    s0.mayOpen act
    if (s0.crewRecords sq.lid sq.crew).any fun x => x.1 != q && descClash sq.num w x.2 then .error (⟨0x02, 0⟩, maskOf act)
    else .ok (vs.foldl (fun st x => st.modThread q x.1 fun t => t.waitAt (s0.ctx x.1) (.enum b a d) (.enum d.toNat x.2 w)) s'))

/-- The candidates by group lane: none (0xFF) for 0xFF, a duplicate of a lower lane, an exited thread (R153). -/
def candidates (raw : List (Nat × Nat)) : Nat → List Byte → List Byte
  | 0, seen => seen
  | n + 1, seen =>
    let q := seen.length
    let c : Byte := BitVec.ofNat 8 (((raw.find? (·.1 == q)).map (·.2)).getD 255)
    candidates raw n (seen ++ [if seen.contains c then 0xFF else c])

/-- The register lines that hold a register of every live lane of a squad have arrived (R179). -/
def Squad.linesIn (sq : Squad) (c : Nat) : Bool :=
  sq.missing == [] || sq.liveLanes.all fun l => !(registerLines c l).any sq.missing.contains

/-- Every squad of the group that begins at `base` waits at an ENUM with one descriptor, and what the lanes write has its lines (R179). -/
def State.enumReady (s : State) (lid crew base : Nat) : Option Word :=
  let ws := (s.crewRecords lid crew).filterMap fun (_, sq) => sq.atEnum
  match ws.find? fun x => (descOf x.2).gbase == base with
  | none => none
  | some (_, w) =>
    let d := descOf w
    if (List.range (d.gsize + 1)).all fun i =>
      match s.recordFor ⟨lid, crew, d.gbase + i⟩ with
      | none => false
      | some q => (s.squad q).atEnum.any fun x => x.2 == w && (s.squad q).linesIn x.1
    then some w else none

/-- The destination and the state operand of a lane that waits at an ENUM or an ENDCH, as it read them. -/
def Thread.gatherArgs (t : Thread) : RegCode × Reg :=
  match t.wait with
  | .enum d a _ | .endch d a => (BitVec.ofNat 6 d, a)
  | _ => (62, Reg.zero)

/-- ENUM_GROUP_ASSEMBLED (R153): each lane with a candidate starts from it; the others stop with 0xFC; with no lane left the
group takes the deadlock trap (R157). -/
def execEnumGroupAssembled (lid crew base : Nat) (s : State) : Host.Outcome State Fault Refusal :=
  .next (match s.enumReady lid crew base with
    | none => s
    | some w =>
      let d := descOf w
      let lanes := s.groupLanes lid crew d.gbase d.gsize
      let raw := lanes.map fun (q, l, g) => (g, elem (s.thread q l).gatherArgs.2.data 8 (g / 32))
      let cand := candidates raw 256 []
      let ch : Chunk := ⟨d.gbase, d.gsize, d.entries, d.offset, false, false, 0, 0, cand, 0, 0⟩
      let s1 := lanes.foldl (fun st (q, l, g) => st.modThread q l fun t =>
        let c := (cand[g]?).getD 0xFF
        if c = 0xFF then { t with wait := .parked, word := 0, lstop := 0xFC }
        else { (t.release (s.releaseStamp (s.squad q) t)).writeAt s.cycle t.gatherArgs.1 ⟨c.zeroExtend 64, .i64⟩ with held := 0, lstop := 0 })
        (s.openChunk lid crew ch)
      if cand.all (· == 0xFF) then s1.groupMismatch lid crew d.gbase d.gsize else s1)

/-! ### ENUM.ONE -/

/-- ENUM.ONE (R164): the lowest active lane runs, the others are parked; LSTOP of each is 0, as of a lane that has not stopped (DESIGN CHOICE, log 33). -/
def execEnumOne (b : RegCode) (d : RegCode) (s : State) : Host.Outcome State Fault Refusal :=
  .next (s.execSet (.enumOne b d) 0 0 fun s' s0 act => do
    let q := s0.cur.q
    let sq := s0.squad q
    let first := act.head?.getD 0
    let _ ← gatherLanes act fun l => (s0.thread q l).src (s0.ctx l) isAddrTag b
    let st ← gatherLanes [first] fun l => (s0.thread q l).src (s0.ctx l) isAddrTag d
    let (_, e) ← s0.descOperand act b fun e => e.gsize == 0 && e.gbase == sq.num
    s0.mayOpen act
    let entry : Byte := ((st.head?.map fun (x : Nat × Reg) => x.2.data).getD 0).truncate 8
    let ch : Chunk := ⟨e.gbase, 0, e.entries, e.offset, true, false, 0, 0, [], first, entry⟩
    .ok (act.foldl (fun st l => if l = first then st.modThread q l fun t => { t with lstop := 0 } else st.parkLane q l 0) (s'.openChunk sq.lid sq.crew ch)))

/-! ### MERGE -/

/-- The registers a MERGE selects (R157). -/
def mergeRegs (m : BitVec 3) (d : RegCode) : List RegCode := ((List.range 3).filter m.getLsbD).map fun i => d + BitVec.ofNat 6 i

/-- MERGE of one lane (R157). Where the lane is in no region, it is an illegal instruction whatever the tags of its operands: R22 and R157 do not order the two checks
(DESIGN CHOICE, log 33). -/
def mergeLane (m : BitVec 3) (a d : RegCode) (cx : Ctx) (s : State) : Except Trap State := do
  if cx.region ≠ 1 ∧ cx.region ≠ 2 then .error ⟨0x01, 0⟩
  let t := s.thread cx.q cx.lane
  let v ← t.src cx isAddrTag a
  let key ← (mergeRegs m d).mapM fun c => t.src cx (fun _ => true) c
  if cx.region = 2 then .ok s
  else .ok (s.modThread cx.q cx.lane fun t => t.waitAt cx (.merge m a d) (.merge v key))

/-- MERGE (R157). -/
def execMerge (m : BitVec 3) (a : RegCode) (d : RegCode) (s : State) : Host.Outcome State Fault Refusal :=
  .next (s.execLanes (.merge m a d) 0 0 (mergeLane m a d))

/-- A lane that takes part in its chunk: not exited, not parked. -/
def Thread.inRun (t : Thread) : Bool := t.live && t.wait != .parked

/-- A wait at MERGE, ENDCH or REJOIN. -/
def Thread.gathers (t : Thread) : Bool :=
  match t.wait with
  | .merge .. | .endch .. | .rejoin _ => true
  | _ => false

/-- The live lanes of a chunk's group. -/
def State.liveGroup (s : State) (lid crew : Nat) (ch : Chunk) : List (Nat × Nat × Nat) :=
  (s.groupLanes lid crew ch.gbase ch.gsize).filter fun (q, l, _) => (s.thread q l).inRun

/-- The key of a lane at MERGE: the state's low byte and the data and tags of the registers selected (R157). -/
def Thread.mergeKey (t : Thread) : Option (Nat × List Reg) :=
  match t.wait with
  | .merge a key => some (a.data.toNat % 256, key)
  | _ => none

/-- A merge record (R150). -/
def mergeRecord (surv sseq lane : Nat) : HoldEntry :=
  { addr := BitVec.ofNat 64 (surv + sseq * 65536), data := 0, mask := 0, lane := lane, seq := 0, viaView := false, view := 0 }

/-- One lane at a MERGE PC: it survives, or is absorbed by the lowest lane of its class, or finds no room for the record. -/
def State.mergeOne (s0 : State) (lid crew base : Nat) (here : List (Nat × Nat × Nat)) (s : State) (x : Nat × Nat × Nat) : State :=
  let key := fun (y : Nat × Nat × Nat) => (s0.thread y.1 y.2.1).mergeKey
  match here.find? fun y => key y == key x with
  | none => s
  | some y =>
    if y.2.2 = x.2.2 then s.releaseLanes x.1 [x.2.1] else
    match (s.crewOf lid crew).chunkAt base with
    | none => s
    | some ch =>
      if ch.used = ch.cap then s.parkLane x.1 x.2.1 0xFE
      else (s.appendEntry lid crew ch (mergeRecord y.2.2 (s0.thread y.1 y.2.1).held x.2.2)).parkLane x.1 x.2.1 0xFD

/-- A REJOIN of the group can release (R116). -/
def State.groupRejoins (s : State) (lid crew : Nat) (ch : Chunk) : Bool :=
  (List.range (ch.gsize + 1)).any fun i =>
    match s.recordFor ⟨lid, crew, ch.gbase + i⟩ with
    | none => false
    | some q => (List.range 4).any fun n => (s.squad q).joinFull n && (s.squad q).joinOne n

/-- The chunk of the group that begins at `base` is ready for a gathering: open under ENUM, its squads bound and issuing, every live lane waits
at MERGE, ENDCH or REJOIN, and no REJOIN can release. -/
def State.gathered (s : State) (lid crew base : Nat) : Option Chunk :=
  match (s.crewOf lid crew).chunkAt base with
  | none => none
  | some ch =>
    let okSquad := (List.range (ch.gsize + 1)).all fun i =>
      match s.recordFor ⟨lid, crew, ch.gbase + i⟩ with
      | none => false
      | some q => (s.squad q).status == .running
    if !ch.one && !ch.pending && okSquad && ((s.liveGroup lid crew ch).all fun (q, l, _) => (s.thread q l).gathers)
      && !s.groupRejoins lid crew ch then some ch else none

/-- The live lanes that wait at a MERGE. -/
def State.atMerge (s : State) (live : List (Nat × Nat × Nat)) : List (Nat × Nat × Nat) :=
  live.filter fun (q, l, _) => (s.thread q l).mergeKey.isSome

/-- The live lanes that wait at an ENDCH. -/
def State.atEndch (s : State) (live : List (Nat × Nat × Nat)) : List (Nat × Nat × Nat) :=
  live.filter fun (q, l, _) => match (s.thread q l).wait with
    | .endch .. => true
    | _ => false

/-- The MERGE PCs at which some lanes wait, in the order of their lowest lanes: R157 takes each separately and does not say in which order (DESIGN CHOICE, log 33). -/
def State.mergePcs (s : State) (ms : List (Nat × Nat × Nat)) : List Word := (ms.map fun x => (s.thread x.1 x.2.1).pc).eraseDups

/-- MERGE_GATHERING (R157): the lanes at each MERGE PC are merged, one PC after another; where nothing can proceed, or no lane is left, the group
deadlocks. -/
def execMergeGathering (lid crew base : Nat) (s : State) : Host.Outcome State Fault Refusal :=
  .next (match s.gathered lid crew base with
    | none => s
    | some ch =>
      let live := s.liveGroup lid crew ch
      let ms := s.atMerge live
      if ms = [] then
        if live ≠ [] ∧ (s.atEndch live).length = live.length then s else s.groupMismatch lid crew ch.gbase ch.gsize
      else
        (s.mergePcs ms).foldl (fun st pc =>
          let here := ms.filter fun y => (s.thread y.1 y.2.1).pc == pc
          here.foldl (s.mergeOne lid crew base here) st) s)

/-! ### ENDCH -/

/-- The header that ENDCH writes: MAP, READF, CAND, LSTOP (R149). -/
def headerBytes (map : List Byte) (readF : BitVec 2048) (cand lstop : List Byte) : List Byte :=
  map ++ (bytesLE 256 readF.toNat) ++ cand ++ lstop

/-- A squad map of 256 entries as lane l holds it (R34). -/
def mapWord (map : List Byte) (l : Nat) : Reg :=
  ⟨ofElems 8 ((List.range 8).map fun i => ((map[8 * l + i]?).getD 0xFF).toNat), .map8⟩

/-- The end of a chain of absorptions, from lane p (R158). -/
def chainEnd (es : List HoldEntry) (lstop : Nat → Nat) : Nat → Nat → Nat
  | 0, p => p
  | n + 1, p =>
    if lstop p = 0xFD then
      match es.find? fun e => e.mask == 0 && e.lane == p with
      | some e => chainEnd es lstop n (e.addr.toNat % 256)
      | none => p
    else p

/-- ENDCH of one lane: in an ENUM region a wait, in an ENUM.ONE region performed at once (R158, R164). The header's CAND and LSTOP bytes of the other group lanes,
which R164 does not give, are those of lanes without a candidate, and a lane in no region is at an illegal instruction whatever the tag of its operand (DESIGN
CHOICES, log 33). In an ENUM.ONE region it writes registers of the parked lanes too, and waits for their lines (R179). -/
def endchLane (a d : RegCode) (cx : Ctx) (s : State) : Except Trap State :=
  if cx.region = 1 then do
    let v ← (s.thread cx.q cx.lane).src cx (fun _ => true) a
    .ok (s.modThread cx.q cx.lane fun t => t.waitAt cx (.endch a d) (.endch d.toNat v))
  else if cx.region = 2 then do
    let v ← (s.thread cx.q cx.lane).src cx isAddrTag a
    let c := s.crewOf cx.lid cx.crew
    match c.chunkOf cx.num with
    | none => .error ⟨0x01, 0⟩
    | some ch =>
      if !(s.squad cx.q).linesIn d.toNat then .ok (s.block cx (.endch a d)) else
      let map : List Byte := (List.replicate 256 0xFF).set ch.entry.toNat (v.data.truncate 8)
      let cand : List Byte := (List.replicate 256 0xFF).set ch.runLane ch.entry
      let lstop : List Byte := (List.replicate 256 0xFC).set ch.runLane 0
      let s1 := (s.putScratch cx.lid cx.crew ch.offset (headerBytes map 0 cand lstop)).modCrew cx.lid cx.crew (·.dropChunk ch.gbase)
      let sq := s1.squad cx.q
      .ok (sq.liveLanes.foldl (fun st l => st.modThread cx.q l fun t =>
        if l = cx.lane then { t.write cx d (mapWord map l) .sb with lstop := 0 }
        else { t.writeAt cx.now d (mapWord map l) with pc := cx.pc + 4, wait := .run, stamp := s.releaseStamp sq t }) s1)
  else .error ⟨0x01, 0⟩

/-- ENDCH (R158, R164). -/
def execEndch (a : RegCode) (d : RegCode) (s : State) : Host.Outcome State Fault Refusal :=
  .next (s.execLanes (.endch a d) 0 0 (endchLane a d))

/-- ENDCH_MAP_WRITE (R158): every live lane of the group waits at ENDCH, and what its lanes write has its lines (R179); at one PC the map is written and the chunk is
pending, at several PCs the group takes the mismatch trap. -/
def execEndchMapWrite (lid crew base : Nat) (s : State) : Host.Outcome State Fault Refusal :=
  .next (match s.gathered lid crew base with
    | none => s
    | some ch =>
      let live := s.liveGroup lid crew ch
      match live with
      | [] => s
      | (q0, l0, _) :: _ =>
        let pc := (s.thread q0 l0).pc
        if (s.atEndch live).length ≠ live.length ∨ (s.groupLanes lid crew ch.gbase ch.gsize).any
            (fun x => !(s.squad x.1).linesIn (s.thread q0 l0).gatherArgs.1.toNat) then s
        else if live.any fun (q, l, _) => (s.thread q l).pc != pc then s.groupMismatch lid crew ch.gbase ch.gsize
        else
          let all := s.groupLanes lid crew ch.gbase ch.gsize
          let rd := (s.thread q0 l0).gatherArgs.1
          let st := fun (q l : Nat) => (s.thread q l).gatherArgs.2
          let code := fun (g : Nat) => match all.find? (·.2.2 == g) with
            | none => 0xFC
            | some (q, l, _) =>
              if (s.thread q l).wait == .parked then (s.thread q l).lstop.toNat
              else if isAddrTag (st q l).tag then 0 else 2
          let exit := fun (g : Nat) => match all.find? (·.2.2 == g) with
            | none => 0xFF
            | some (q, l, _) => (st q l).data.toNat % 256
          let es := chunkEntries (s.crewOf lid crew) ch
          let put := fun (m : List Byte) (g : Nat) =>
            let c := (ch.cand[g]?).getD 0xFF
            if c = 0xFF then m else
            let p := chainEnd es code 256 g
            if code p = 0 then m.set c.toNat (BitVec.ofNat 8 (exit p)) else m
          let map := (List.range 256).foldl put (List.replicate 256 0xFF)
          let lstops := (List.range 256).map fun g => BitVec.ofNat 8 (code g)
          let s1 := (s.putScratch lid crew ch.offset (headerBytes map ch.readF ch.cand lstops)).modCrew lid crew fun c =>
            c.modChunk ch.gbase fun ch => { ch with pending := true }
          all.foldl (fun acc (q, l, g) => acc.modThread q l fun t =>
            let t' := t.writeAt s.cycle rd (mapWord map l)
            if t.wait = .parked then { t' with pc := pc + 4 }
            else
              let t'' := t'.release (s.releaseStamp (s.squad q) t)
              if code g = 0 then { t'' with lstop := 0 } else { t'' with wait := .parked, lstop := 2 }) s1)

/-! ### CHOOSE -/

/-- An entry put among entries by ascending SEQ, after those of the same SEQ. -/
def insertBySeq (e : HoldEntry) : List HoldEntry → List HoldEntry
  | [] => [e]
  | x :: xs => if x.seq ≤ e.seq then x :: insertBySeq e xs else e :: x :: xs

/-- Entries by ascending SEQ. -/
def sortBySeq (es : List HoldEntry) : List HoldEntry := es.foldl (fun acc e => insertBySeq e acc) []

/-- The chain from the true entry state: the store entries in order, or none for miss reason 2 (R160). -/
def chooseChain (es : List HoldEntry) (lstop : Nat → Nat) : Nat → List Nat → Nat → Nat → List HoldEntry → Option (List HoldEntry)
  | 0, _, _, _, _ => none
  | n + 1, seen, q, fr, acc =>
    if seen.contains q || (lstop q != 0 && lstop q != 0xFD) then none else
    let mine := sortBySeq (es.filter fun e => e.mask != 0 && e.lane == q && decide (fr ≤ e.seq))
    if lstop q = 0 then some (acc ++ mine) else
    match es.filter fun e => e.mask == 0 && e.lane == q with
    | [m] => chooseChain es lstop n (seen ++ [q]) (m.addr.toNat % 256) (bitsOf m.addr.toNat 16 16) (acc ++ mine)
    | _ => none

/-- The lowest masked byte and the size of an entry's run, where the run is naturally aligned (R160). -/
def maskRun (m : BitVec 8) : Option (Nat × Nat) :=
  ([1, 2, 4, 8].flatMap fun sz => (List.range (8 / sz)).map fun k => (k * sz, sz)).find? fun x =>
    m.toNat == (2 ^ x.2 - 1) * 2 ^ x.1

/-- Where an entry's store goes, after its checks, with its bytes; none where a check fails (R160). -/
def State.entryStore (s : State) (cx : Ctx) (e : HoldEntry) : Option (Loc × List Byte) :=
  match maskRun e.mask with
  | none => none
  | some (lo, size) =>
    let addr := e.addr + BitVec.ofNat 64 lo
    let seen : Bool :=
      if e.viaView then
        match s.resolveView (s.launchOf cx.lid) e.view with
        | .error _ => false
        | .ok v => (s.viewAddr (s.launchOf cx.lid) e.view ((addr.toNat : Int) - v.cbase.toNat) size vWR).toOption.isSome
      else true
    if seen then
      match s.resolve cx e.viaView .store addr size with
      | .ok loc => some (loc, bytesLE size (e.data.toNat / 2 ^ (8 * lo)))
      | .error _ => none
    else none

/-- The scratchpad of a crew as a thread reads it: what has landed, and the writes performed for the thread, the narrowest scope last (R94, R217). -/
def State.scratchFor (s : State) (cx : Ctx) : Memory :=
  [3, 2, 1, 0].foldl (fun m k => s.mem.writes.foldl (fun m w =>
    match w.place with
    | .scratch l c o => if l = cx.lid && c == cx.crew && w.stage == k && s.sees cx.ref cx.lane w then m.writeBytes o w.data else m
    | .dram .. => m) m) (s.crewOf cx.lid cx.crew).scratch

/-- What CHOOSE decides: the stores to commit with their addresses and the exit state, or the miss reason (R160). -/
def State.chooseOutcome (s : State) (cx : Ctx) (ch : Chunk) (x : Byte) : Except Nat (List (Word × Loc × List Byte) × Byte) :=
  let c := { s.crewOf cx.lid cx.crew with scratch := s.scratchFor cx }
  let hdr := fun o q => c.scratch.read (ch.offset + o + q)
  let readF : BitVec 2048 := BitVec.ofNat 2048 (natLE (c.scratch.readBytes (ch.offset + 0x100) 256))
  let first := (List.range (32 * (ch.gsize + 1))).find? fun q => hdr 0x200 q == x
  match first with
  | none => .error 1
  | some q =>
    if x = 0xFF then .error 1 else
    match chooseChain (chunkEntries c ch) (fun q => (hdr 0x300 q).toNat) 257 [] q 0 [] with
    | none => .error 2
    | some es =>
      if hdr 0 x.toNat = 0xFF then .error 2
      else if filtersHit readF c.filter then .error 3
      else
        let ss := es.map fun e => (s.entryStore cx e).map fun y => (e.addr, y.1, y.2)
        if ss.all Option.isSome then .ok (ss.filterMap id, hdr 0 x.toNat) else .error 2

/-- The lines of a chunk area, all of which CHOOSE reads, also those whose entries were never appended: R160 does not say which it reads (DESIGN CHOICE, log 33). -/
def areaLines (lid crew : Nat) (ch : Chunk) : List Place :=
  (List.range ((32 * ch.entries + 63) / 64)).map fun n => .scratch lid crew (ch.offset + 64 * n)

/-- A line of a chunk area carries an uncorrectable error. -/
def State.areaPoisoned (s : State) (lid crew : Nat) (ch : Chunk) : Bool := (areaLines lid crew ch).any s.poisoned

/-- A chunk is closed: its parked lanes go on after its ENDCH (R160). -/
def State.closeChunk (s : State) (lid crew : Nat) (ch : Chunk) : State :=
  (s.groupLanes lid crew ch.gbase ch.gsize).foldl (fun st (q, l, _) => st.modThread q l fun t =>
    if t.wait = .parked then { t with wait := .run, stamp := s.releaseStamp (s.squad q) t } else t)
    (s.modCrew lid crew (·.dropChunk ch.gbase))

/-- CHOOSE (R160): commits the true chain's stores, or reports a miss. Its state operand carries RAW64 or I64, as every index does (R44; R160 names no tag: DEDUCED,
log 33). -/
def execChoose (b : RegCode) (a : RegCode) (d : RegCode) (s : State) : Host.Outcome State Fault Refusal :=
  .next (s.execSet (.choose b a d) 0 0 fun s' s0 act => do
    let q := s0.cur.q
    let sq := s0.squad q
    let vs ← gatherLanes act fun l => do
      let x ← (s0.thread q l).src (s0.ctx l) isAddrTag a
      let y ← (s0.thread q l).src (s0.ctx l) isAddrTag b
      .ok (x.data.toNat % 256, y.data)
    let v := (vs.head?.map (·.2)).getD (0, 0)
    let odd := (vs.filter fun x => x.2 != v).map (·.1)
    if odd ≠ [] then .error (⟨0x02, 0⟩, maskOf odd) else
    let (_, e) ← s0.descOperand act b fun _ => true
    match (s0.crewOf sq.lid sq.crew).pendingAt e with
    | none => .error (⟨0x02, 0⟩, maskOf act)
    | some ch =>
      if s'.areaPoisoned sq.lid sq.crew ch then .error (⟨0x11, 0⟩, maskOf act) else
      let s1 := (areaLines sq.lid sq.crew ch).foldl State.noteRead s'
      let cx := s0.ctx (act.head?.getD 0)
      match s1.chooseOutcome cx ch (BitVec.ofNat 8 v.1) with
      | .ok (ss, res) =>
        let s2 := ss.foldl (fun st x => (st.storeLoc cx x.2.1 x.2.2 false).noteWritten sq.lid sq.crew x.1) s1
        let s3 := s2.scatter s0 d .sb (act.map fun l => (l, ⟨res.zeroExtend 64, .i64⟩))
        .ok ((s3.scatterK s0 1 .sb (act.map fun l => (l, false))).closeChunk sq.lid sq.crew ch)
      | .error r =>
        let s3 := s1.scatter s0 d .sb (act.map fun l => (l, ⟨BitVec.ofNat 64 (0x100 * r + 0xFF), .i64⟩))
        .ok ((s3.scatterK s0 1 .sb (act.map fun l => (l, true))).closeChunk sq.lid sq.crew ch))

end Sys2Proof.Machine
end

