-- ==== Sys2Proof/Machine/Matrix.lean ====
section
/-!
DEFINITION. Machine/Matrix.lean: the matrix engine: MMA.Q and its micro-tiles, BLD, TZERO, TLD, TST, TRD, TVER, MFENCE,
MWAIT (R253-R277).
-/
namespace Sys2Proof.Machine

/-! ### Slot formats and exact sums (R257, R268) -/

/-- Contraction length of a format (R257). -/
def slotK (fmt : Nat) : Nat := match fmt with | 2 => 256 | 3 => 64 | _ => 128

/-- Bytes of a slot image (R257). -/
def imageBytes (fmt : Nat) : Nat := if fmt = 2 then 17920 else 16896

/-- Bytes of an A-row record (R266). -/
def recordBytes (fmt : Nat) : Nat := if fmt = 2 then 136 else 128

/-- Element n of a run of elements of a format: its bits (R257, R266). -/
def packed (fmt n : Nat) (byte : Nat → Byte) : Nat :=
  match fmt with
  | 2 => (byte (n / 2)).toNat / (if n % 2 = 0 then 1 else 16) % 16
  | 3 => (byte (2 * n)).toNat + 256 * (byte (2 * n + 1)).toNat
  | _ => (byte n).toNat

/-- The number format of a slot format's elements; I8 has none. -/
def slotFmt (fmt : Nat) : Fmt := match fmt with | 0 => .e4m3 | 1 => .e5m2 | 2 => .e2m1 | _ => .bf16

/-- An exact product (R268, R269). -/
def FVal.times (x y : FVal) : FVal :=
  match x, y with
  | .nan _, _ | _, .nan _ => .nan false
  | .inf a, .inf b => .inf (a != b)
  | .inf a, .fin b n _ _ | .fin b n _ _, .inf a => if n = 0 then .nan false else .inf (a != b)
  | .fin sx nx _ ex, .fin sy ny _ ey => .fin (sx != sy) (nx * ny) 1 (ex + ey)

/-- −0. -/
def FVal.isNegZero : FVal → Bool
  | .fin true 0 _ _ => true
  | _ => false

/-- The exact sum of values (R268): NaN with a NaN term or both infinities, an infinity, or the sum; a zero is −0 only
where every term is −0. -/
def exactSum (vs : List FVal) : FVal :=
  let up := vs.contains (.inf false)
  let down := vs.contains (.inf true)
  if vs.any FVal.isNan || (up && down) then .nan false
  else if up then .inf false
  else if down then .inf true
  else
    let (m, e) := vs.foldl (fun acc v => match v with
      | .fin s n _ e => addDyadic acc.1 acc.2 (sigOf s n) e
      | _ => acc) ((0 : Int), (0 : Int))
    dyadic m e (vs.all FVal.isNegZero)

/-- A product truncated towards zero to a multiple of 2^q (R268). -/
def FVal.truncTo (q : Int) : FVal → FVal
  | .fin s n d e => if e ≥ q then .fin s n d e else .fin s (n / 2 ^ (q - e).toNat) 1 q
  | v => v

/-- The binade of a finite value that is not 0. -/
def FVal.top : FVal → Option Int
  | .fin _ n d e => if n = 0 then none else some (binade n d e)
  | _ => none

/-- The largest of some binades. -/
def maxTop (vs : List FVal) : Option Int :=
  vs.foldl (fun m v => match m, v.top with
    | none, t => t
    | some a, none => some a
    | some a, some b => some (max a b)) none

/-- A group sum of BF16 (R268). -/
def groupSum (vs : List FVal) : FVal :=
  match maxTop vs with
  | none => exactSum vs
  | some k => exactSum (vs.map (FVal.truncTo (k - 44)))

/-- An E8M0 scale: 2^(e − 127), NaN for 0xFF (R268). -/
def scaleVal (b : Byte) : FVal := if b = 0xFF then .nan false else .fin false 1 1 ((b.toNat : Int) - 127)

/-- The products of k in [lo, lo + n) of a row with column c of a slot image. -/
def products (fmt : Nat) (row image : Nat → Byte) (c lo n : Nat) : List FVal :=
  (List.range n).map fun i =>
    let k := lo + i
    ((slotFmt fmt).decode (packed fmt k row)).times ((slotFmt fmt).decode (packed fmt (128 * k + c) image))

/-- P(c) of a float format (R268). -/
def partialSum (fmt : Nat) (row image : Nat → Byte) (c : Nat) : FVal :=
  match fmt with
  | 2 => exactSum ((List.range 8).map fun j =>
      ((scaleVal (row (128 + j))).times (scaleVal (image (0x4200 + 128 * j + c)))).times (exactSum (products 2 row image c (32 * j) 32)))
  | 3 => exactSum [groupSum (products 3 row image c 0 32), groupSum (products 3 row image c 32 32)]
  | _ => exactSum (products fmt row image c 0 128)

/-- P(c) of I8 (R268). -/
def partialSumI (row image : Nat → Byte) (c : Nat) : Int :=
  (List.range 128).foldl (fun a k => a + (row k).toInt * (image (128 * k + c)).toInt) 0

/-- s_B(c) (R257). -/
def columnScale (image : Nat → Byte) (c : Nat) : FVal :=
  Fmt.b32.decode (natLE ((List.range 4).map fun i => image (0x4000 + 4 * c + i)))

/-- A cell after the promotion of column c (R269). -/
def promote (fmt : Nat) (row image : Nat → Byte) (sa : BitVec 32) (c : Nat) (cell : BitVec 48) : BitVec 48 :=
  if fmt = 4 then cell + BitVec.ofInt 48 (partialSumI row image c)
  else
    let scaled := ((partialSum fmt row image c).times (Fmt.b32.decode sa.toNat)).times (columnScale image c)
    BitVec.ofNat 48 (Fmt.acc48.add .rne (Fmt.acc48.decode cell.toNat) scaled).1

/-! ### Order of accepted operations (R258, R260) -/

def EngWork.tileOf : EngWork → Option Nat
  | .row _ t _ _ _ _ _ _ => some t
  | .tzero t _ => some t
  | .tld t _ _ => some t
  | .tst t _ => some t
  | .xtile t => some t
  | .bld .. | .xslot .. => none

/-- The slot that an operation reads, or fills (true). -/
def EngWork.slotOf : EngWork → Option (Nat × Bool)
  | .row _ _ n _ _ _ _ _ => some (n, false)
  | .bld n _ _ | .xslot n _ => some (n, true)
  | _ => none

/-- Operations on one tile, or a fill and another use of one slot, keep the order of their acceptance. -/
def EngWork.clash (a b : EngWork) : Bool :=
  (a.tileOf.isSome && a.tileOf == b.tileOf) ||
    match a.slotOf, b.slotOf with
    | some (m, x), some (n, y) => m == n && (x || y)
    | _, _ => false

/-- Bytes of a tile in memory (R259). -/
abbrev tileBytes : Nat := 98304

/-- What an operation does to its memory, if it has any. -/
def EngWork.need : EngWork → Option Need
  | .bld .. | .tld .. => some .load
  | .tst .. => some .store
  | _ => none

/-- The parts of its memory that an operation accesses, each with its offset (R216). -/
def EngWork.parts : EngWork → List (Nat × Nat × Nat)
  | .bld _ fmt addr => partsOf addr.toNat (imageBytes fmt)
  | .tld _ _ addr | .tst _ addr => partsOf addr.toNat tileBytes
  | _ => []

/-- The part k of those that an operation has still to access, with its offset; none where it has no translation now, and for a write while its page is under
write-back (R194). -/
def State.opPart (s : State) (o : EngOp) (k : Nat) : Option (Nat × Part) :=
  match o.left[k]?, o.work.need with
  | some (off, a, n), some nd =>
    ((s.enginePart (engineCx o.by_.lid o.by_.crew) false nd a n).filter fun p => !(nd == .store && s.partHeld p)).map fun p => (off, p)
  | _, _ => none

/-- An operation may access memory: what its threads did before it, and what was performed for them before it, has been performed (R229). -/
def State.forkOk (s : State) (o : EngOp) : Bool := o.work.need.isNone || s.forked o.by_ o.lanes o.seq

/-- The slot of an MMA.Q. -/
def mmaSlotOf : Instr → Option Nat
  | .mmaQE4m3 n _ h _ | .mmaQE5m2 n _ h _ | .mmaQMxfp4 n _ h _ | .mmaQBf16 n _ h _ | .mmaQI8 n _ h _ =>
    some (h.toNat * 64 + n.toNat)
  | _ => none

/-- The tile of an MMA.Q. -/
def mmaTileOf : Instr → Nat
  | .mmaQE4m3 _ _ _ t | .mmaQE5m2 _ _ _ t | .mmaQMxfp4 _ _ _ t | .mmaQBf16 _ _ _ t | .mmaQI8 _ _ _ t => t.toNat
  | _ => 0

/-- The format code of an MMA.Q. -/
def mmaFmtOf : Instr → Nat
  | .mmaQE5m2 .. => 1
  | .mmaQMxfp4 .. => 2
  | .mmaQBf16 .. => 3
  | .mmaQI8 .. => 4
  | _ => 0

/-- The records of a core with an MMA.Q in intake. -/
def State.intakes (s : State) (core : Nat) : List (Nat × Intake) :=
  s.records.filterMap fun (q, sq) => if coreOf q = core then sq.intake.map fun i => (q, i) else none

/-- An intake accepted earlier still reads the slot that an operation fills. -/
def State.slotInIntake (s : State) (core : Nat) (o : EngOp) : Bool :=
  match o.work with
  | .bld n _ _ | .xslot n _ => (s.intakes core).any fun (_, i) => mmaSlotOf i.instr == some n && decide (i.id < o.seq)
  | _ => false

/-- Operation n of an engine follows no other that was accepted before it on its tile or slot (R258, R260). -/
def Engine.inTurn (e : Engine) (n : Nat) (o : EngOp) : Bool :=
  !(e.ops.take n).any (fun x => decide (x.seq ≤ o.seq) && x.work.clash o.work)
    && !(e.ops.drop n).any fun x => decide (x.seq < o.seq) && x.work.clash o.work

/-- Operation n of a core may be performed now. -/
def State.performable (s : State) (core n : Nat) : Bool :=
  match (s.coreAt core).engine.ops[n]? with
  | none => false
  | some o => s.forkOk o && !s.slotInIntake core o && (s.coreAt core).engine.inTurn n o

/-- Operation n of a core, where it may be performed now. -/
def State.opAt (s : State) (core n : Nat) : Option EngOp := (s.coreAt core).engine.ops[n]?.filter fun _ => s.performable core n

/-- The first operation of a kind that may be performed: its place and what it is. -/
def State.firstOp (s : State) (core : Nat) (kind : EngWork → Bool) : Option (Nat × EngOp) :=
  (List.range (s.coreAt core).engine.ops.length).findSome? fun n => ((s.opAt core n).filter fun o => kind o.work).map fun o => (n, o)

def State.setOp (s : State) (core n : Nat) (o : EngOp) : State := s.modEngine core fun e => { e with ops := e.ops.set n o }

def State.dropOp (s : State) (core n : Nat) : State := s.modEngine core fun e => { e with ops := e.ops.eraseIdx n }

/-! ### Checks (R254, R277) -/

/-- An object that is not marked executes no instruction of page 0x71 (R254). -/
def State.markedCheck (s0 : State) (act : List Nat) : Except SetTrap Unit :=
  if (s0.launchOf (s0.squad s0.cur.q).lid).marked then .ok () else .error (⟨0x01, 0⟩, maskOf act)

/-- A register of each active lane, tagged RAW64 or I64. -/
def State.addrRegs (s0 : State) (act : List Nat) (a : RegCode) : Except SetTrap (List (Nat × Word)) := do
  let vs ← gatherLanes act fun l => (s0.thread s0.cur.q l).src (s0.ctx l) isAddrTag a
  .ok (vs.map fun v => (v.1, v.2.data))

/-- Lanes whose value fails a test trap with a cause. -/
def laneCheck (vs : List (Nat × Word)) (cause : Nat) (bad : Word → Bool) : Except SetTrap Unit :=
  match (vs.filter fun v => bad v.2).map (·.1) with
  | [] => .ok ()
  | ls => .error (⟨cause, 0⟩, maskOf ls)

/-- Lanes whose value differs from the lowest active lane's trap (R128). -/
def equalCheck (vs : List (Nat × Word)) (f : Word → Nat) : Except SetTrap Unit :=
  match vs with
  | [] => .ok ()
  | v :: _ => laneCheck vs 0x02 fun w => f w != f v.2

/-- A span of an engine operation: a multiple of 64, in window 0x00 or 0x01, every byte checked (R258, R262). -/
def State.spanCheck (s0 : State) (act : List Nat) (nd : Need) (a : Word) (len : Nat) : Except SetTrap Unit :=
  let sq := s0.squad s0.cur.q
  if a.toNat % 64 ≠ 0 then .error (⟨0x07, a⟩, maskOf act)
  else if 2 ≤ a.toNat / 2 ^ 56 then .error (⟨0x03, a⟩, maskOf act)
  else match s0.checkSpan (engineCx sq.lid sq.crew) false nd a.toNat len with
    | .error t => .error (t, maskOf act)
    | .ok _ => .ok ()

/-- The active lanes wait at a tile version (R260). -/
def State.awaitTile (s' s0 : State) (act : List Nat) (i : Instr) (t v : Nat) : State :=
  act.foldl (fun st l => st.modThread s0.cur.q l fun th => th.waitAt (s0.ctx l) i (.tile t v i)) s'

/-- An operation of some lanes is accepted: it joins the squad's open batch (R273). -/
def State.acceptOp (s' s0 : State) (act : List Nat) (w : EngWork) : State :=
  let sq := s0.squad s0.cur.q
  let o : EngOp := { by_ := sq.ref, lanes := act, batch := sq.closed + 1, seq := s'.seq, work := w, left := w.parts }
  { s' with seq := s'.seq + 1 }.modEngine (coreOf s0.cur.q) fun e => { e with ops := e.ops ++ [o] }

def State.engineOf (s0 : State) : Engine := (s0.coreAt (coreOf s0.cur.q)).engine

/-! ### MMA.Q (R265-R267) -/

/-- The fields of a row descriptor (R265). -/
def rowSA (w : Word) : BitVec 32 := BitVec.ofNat 32 (bitsOf w.toNat 32 32)
def rowVer (w : Word) : Nat := bitsOf w.toNat 28 4
def rowRow (w : Word) : Nat := bitsOf w.toNat 21 7
def rowOff (w : Word) : Nat := bitsOf w.toNat 0 20

/-- The A row of one lane checked: alignment, then range (R266). -/
def State.rowCheck (s0 : State) (fmt : Nat) (vs : List (Nat × Word)) : Except SetTrap Unit :=
  let sq := s0.squad s0.cur.q
  let la := s0.launchOf sq.lid
  let fail := fun (c : Nat) (bad : List (Nat × Word)) => match bad with
    | [] => Except.ok ()
    | v :: _ => .error ((⟨c, scratchAddr la sq.crew (rowOff v.2)⟩ : Trap), maskOf (bad.map (·.1)))
  do
    fail 0x07 (vs.filter fun v => rowOff v.2 % 8 != 0)
    fail 0x03 (vs.filter fun v => decide (la.scratch < rowOff v.2 + recordBytes fmt))

/-- The interrupted MMA.Q that a squad issues again at a PC (R272): it is the writer in progress of its tile, until VER advances for it. -/
def Engine.pausedMma (e : Engine) (r : SquadRef) (pc : Word) (t : Nat) : Option Mma :=
  e.mmas.find? fun m => m.tile == t && m.by_ == r && m.paused == some pc

/-- The version wait of an instruction of a squad at a PC is over (R260). -/
def Engine.dueAt (e : Engine) (r : SquadRef) (pc : Word) (t v : Nat) (i : Instr) : Bool :=
  if (mmaSlotOf i).isSome && (e.pausedMma r pc t).isSome then (e.tile t).ver.toNat % 16 == v else (e.tile t).due v

/-- MMA.Q of an issue set (R267): the checks, the version wait, acceptance into intake. -/
def mmaSet (i : Instr) (a : RegCode) (s' s0 : State) (act : List Nat) : Except SetTrap State := do
  let q := s0.cur.q
  let sq := s0.squad q
  let t := mmaTileOf i
  let fmt := mmaFmtOf i
  let slot := (mmaSlotOf i).getD 0
  s0.markedCheck act
  let vs ← s0.addrRegs act a
  laneCheck vs 0x01 fun w => bitsOf w.toNat 20 1 != 0
  equalCheck vs rowVer
  let v := ((vs.head?).map fun x => rowVer x.2).getD 0
  let e := s0.engineOf
  if !e.dueAt sq.ref s0.cur.pc t v i || sq.intake.isSome then .ok (s'.awaitTile s0 act i t v)
  else if (e.tile t).tag ≠ some (fmt == 4) then .error (⟨0x02, 0⟩, maskOf act)
  else if (e.slot slot).fmt ≠ some fmt then .error (⟨0x02, 0⟩, maskOf act)
  else
    let rows := vs.filter fun x => !sq.mtdone.getLsbD x.1
    s0.rowCheck fmt rows
    let m : Mma := { id := s'.seq, tile := t, by_ := sq.ref, batch := sq.closed + 1, open_ := true, left := rows.length }
    let s1 := { s' with seq := s'.seq + 1 }.modEngine (coreOf q) fun e =>
      { e.modTile t Tile.begin with mmas := (e.mmas.filter fun x => e.pausedMma sq.ref s0.cur.pc t != some x) ++ [m] }
    let s2 := s1.modSquad q fun sq => { sq with intake := some ⟨i, rows, [], maskOf act, s'.seq, false⟩ }
    .ok (act.foldl (fun st l => st.modThread q l fun th => th.waitAt (s0.ctx l) i .intake) s2)

/-- MMA.Q.E4M3 (R267). -/
def execMmaQE4m3 (s : BitVec 6) (a : RegCode) (h : BitVec 2) (t : BitVec 3) (st : State) : Host.Outcome State Fault Refusal :=
  .next (st.execSet (.mmaQE4m3 s a h t) 0 0 (mmaSet (.mmaQE4m3 s a h t) a))

/-- MMA.Q.E5M2 (R267). -/
def execMmaQE5m2 (s : BitVec 6) (a : RegCode) (h : BitVec 2) (t : BitVec 3) (st : State) : Host.Outcome State Fault Refusal :=
  .next (st.execSet (.mmaQE5m2 s a h t) 0 0 (mmaSet (.mmaQE5m2 s a h t) a))

/-- MMA.Q.MXFP4 (R267). -/
def execMmaQMxfp4 (s : BitVec 6) (a : RegCode) (h : BitVec 2) (t : BitVec 3) (st : State) : Host.Outcome State Fault Refusal :=
  .next (st.execSet (.mmaQMxfp4 s a h t) 0 0 (mmaSet (.mmaQMxfp4 s a h t) a))

/-- MMA.Q.BF16 (R267). -/
def execMmaQBf16 (s : BitVec 6) (a : RegCode) (h : BitVec 2) (t : BitVec 3) (st : State) : Host.Outcome State Fault Refusal :=
  .next (st.execSet (.mmaQBf16 s a h t) 0 0 (mmaSet (.mmaQBf16 s a h t) a))

/-- MMA.Q.I8 (R267). -/
def execMmaQI8 (s : BitVec 6) (a : RegCode) (h : BitVec 2) (t : BitVec 3) (st : State) : Host.Outcome State Fault Refusal :=
  .next (st.execSet (.mmaQI8 s a h t) 0 0 (mmaSet (.mmaQI8 s a h t) a))

/-! ### BLD, TZERO, TLD, TST, TRD, TVER (R258, R261-R264) -/

/-- BLD of an issue set (R258). -/
def bldSet (slot fmt : Nat) (a : RegCode) (s' s0 : State) (act : List Nat) : Except SetTrap State := do
  s0.markedCheck act
  let vs ← s0.addrRegs act a
  equalCheck vs (·.toNat)
  let addr := (vs.head?.map (·.2)).getD 0
  s0.spanCheck act .load addr (imageBytes fmt)
  let s1 := s'.acceptOp s0 act (.bld slot fmt addr)
  .ok (s1.modEngine (coreOf s0.cur.q) fun e => e.setSlot slot { e.slot slot with fmt := some fmt })

/-- BLD (R258). -/
def execBld (s : BitVec 6) (a : RegCode) (h : BitVec 2) (f : BitVec 3) (st : State) : Host.Outcome State Fault Refusal :=
  .next (st.execSet (.bld s a h f) 0 0 (bldSet (h.toNat * 64 + s.toNat) f.toNat a))

/-- The descriptor checks of R261: reserved bits, then equality; the descriptor. -/
def tileDesc (vs : List (Nat × Word)) (store : Bool) : Except SetTrap Word := do
  laneCheck vs 0x01 fun w => bitsOf w.toNat 5 59 != 0 || (store && bitsOf w.toNat 4 1 != 0)
  equalCheck vs (·.toNat)
  .ok ((vs.head?.map (·.2)).getD 0)

/-- TZERO of an issue set (R262). -/
def tzeroSet (i : Instr) (a : RegCode) (t : Nat) (s' s0 : State) (act : List Nat) : Except SetTrap State := do
  s0.markedCheck act
  let vs ← s0.addrRegs act a
  let w ← tileDesc vs false
  let v := bitsOf w.toNat 0 4
  if !(s0.engineOf.tile t).due v then .ok (s'.awaitTile s0 act i t v)
  else .ok ((s'.acceptOp s0 act (.tzero t (bitsOf w.toNat 4 1 == 1))).modEngine (coreOf s0.cur.q) fun e => e.modTile t Tile.begin)

/-- TZERO (R262). -/
def execTzero (a : RegCode) (t : BitVec 3) (s : State) : Host.Outcome State Fault Refusal :=
  .next (s.execSet (.tzero a t) 0 0 (tzeroSet (.tzero a t) a t.toNat))

/-- The operands a and b of each active lane, tagged RAW64 or I64; a thread's a is checked before its b (R23, R277). -/
def State.addrPairs (s0 : State) (act : List Nat) (a b : RegCode) : Except SetTrap (List (Nat × Word) × List (Nat × Word)) := do
  let vs ← gatherLanes act fun l => do
    let x ← (s0.thread s0.cur.q l).src (s0.ctx l) isAddrTag a
    let y ← (s0.thread s0.cur.q l).src (s0.ctx l) isAddrTag b
    .ok (x.data, y.data)
  .ok (vs.map fun v => (v.1, v.2.1), vs.map fun v => (v.1, v.2.2))

/-- TLD of an issue set (R262). -/
def tldSet (i : Instr) (b a : RegCode) (t : Nat) (s' s0 : State) (act : List Nat) : Except SetTrap State := do
  s0.markedCheck act
  let (as, ds) ← s0.addrPairs act a b
  let w ← tileDesc ds false
  equalCheck as (·.toNat)
  let v := bitsOf w.toNat 0 4
  let addr := (as.head?.map (·.2)).getD 0
  if !(s0.engineOf.tile t).due v then .ok (s'.awaitTile s0 act i t v)
  else
    s0.spanCheck act .load addr tileBytes
    .ok ((s'.acceptOp s0 act (.tld t (bitsOf w.toNat 4 1 == 1) addr)).modEngine (coreOf s0.cur.q) fun e => e.modTile t Tile.begin)

/-- TLD (R262). -/
def execTld (b : RegCode) (a : RegCode) (t : BitVec 3) (s : State) : Host.Outcome State Fault Refusal :=
  .next (s.execSet (.tld b a t) 0 0 (tldSet (.tld b a t) b a t.toNat))

/-- TST of an issue set (R262). -/
def tstSet (i : Instr) (b a : RegCode) (t : Nat) (s' s0 : State) (act : List Nat) : Except SetTrap State := do
  s0.markedCheck act
  let (as, ds) ← s0.addrPairs act a b
  let w ← tileDesc ds true
  equalCheck as (·.toNat)
  let v := bitsOf w.toNat 0 4
  let addr := (as.head?.map (·.2)).getD 0
  if !(s0.engineOf.tile t).due v then .ok (s'.awaitTile s0 act i t v)
  else if (s0.engineOf.tile t).tag.isNone then .error (⟨0x02, 0⟩, maskOf act)
  else
    s0.spanCheck act .store addr tileBytes
    .ok (s'.acceptOp s0 act (.tst t addr))

/-- TST (R262). -/
def execTst (b : RegCode) (a : RegCode) (t : BitVec 3) (s : State) : Host.Outcome State Fault Refusal :=
  .next (s.execSet (.tst b a t) 0 0 (tstSet (.tst b a t) b a t.toNat))

/-- A reserved bit, CONV 3, or a COL that is misaligned for CONV (R263). -/
def trdReserved (w : Word) : Bool :=
  let x := w.toNat
  bitsOf x 22 42 != 0 || bitsOf x 15 1 != 0 || bitsOf x 7 1 != 0 || bitsOf x 20 2 == 3
    || bitsOf x 0 7 % (if bitsOf x 20 2 = 1 then 4 else 2) != 0

/-- What TRD reads (R263): the register and its flags. -/
def trdResult (t : Tile) (m : Rm) (w : Word) : Reg × Flags :=
  let x := w.toNat
  let cell := fun (i : Nat) => (SMap.get 0 t.cells (128 * bitsOf x 8 7 + bitsOf x 0 7 + i)).toNat
  match bitsOf x 20 2 with
  | 2 => (⟨ofElems 32 ((List.range 2).map fun i => satS 32 (signed 48 (cell i))), .i32x2⟩, 0)
  | c =>
    let g : Tag := if c = 1 then .bf16x4 else .f32x2
    let r := floatElems g ((List.range (tagCount g)).map fun i => (fmtOf g).round (Fmt.acc48.decode (cell i)) m false 0)
    (⟨r.1, g⟩, r.2)

/-- TRD of an issue set (R263). -/
def trdSet (i : Instr) (t : Nat) (a d : RegCode) (s' s0 : State) (act : List Nat) : Except SetTrap State := do
  s0.markedCheck act
  let vs ← s0.addrRegs act a
  laneCheck vs 0x01 trdReserved
  equalCheck vs fun w => bitsOf w.toNat 16 4
  let v := (vs.head?.map fun x => bitsOf x.2.toNat 16 4).getD 0
  let tile := s0.engineOf.tile t
  if !tile.due v then .ok (s'.awaitTile s0 act i t v)
  else
    laneCheck vs 0x02 fun w => tile.tag != some (bitsOf w.toNat 20 2 == 2)
    .ok (vs.foldl (fun st x => st.modThread s0.cur.q x.1 fun th =>
      let r := trdResult tile th.rm x.2
      (th.write (s0.ctx x.1) d r.1 .sb).raise r.2) s')

/-- TRD (R263). -/
def execTrd (t : BitVec 3) (a : RegCode) (d : RegCode) (s : State) : Host.Outcome State Fault Refusal :=
  .next (s.execSet (.trd t a d) 0 0 (trdSet (.trd t a d) t.toNat a d))

/-- What TVER reads (R264). -/
def tverWord (t : Tile) : Word :=
  BitVec.ofNat 64 ((match t.tag with | none => 0 | some false => 1 | some true => 2) * 65536 + t.ver.toNat)

/-- TVER (R264). -/
def execTver (t : BitVec 3) (d : RegCode) (s : State) : Host.Outcome State Fault Refusal :=
  .next (s.execSet (.tver t d) 0 0 fun s' s0 act => do
    s0.markedCheck act
    .ok (s'.scatter s0 d .sb (act.map fun l => (l, ⟨tverWord (s0.engineOf.tile t.toNat), .i64⟩))))

/-! ### Batches (R273-R275) -/

/-- MFENCE (R274): closes the open batch; with 8 live batches it waits until the oldest of them completes, the one after DONE. -/
def execMfence (d : RegCode) (s : State) : Host.Outcome State Fault Refusal :=
  .next (s.execSet (.mfence d) 0 0 fun s' s0 act => do
    s0.markedCheck act
    let q := s0.cur.q
    let sq := s0.squad q
    if 8 ≤ s0.engineOf.liveBatches sq then .ok (act.foldl (fun st l => st.modThread q l fun t => t.waitAt (s0.ctx l) (.mfence d) (.batch (sq.done + 1) (.mfence d))) s')
    else
      let n := sq.closed + 1
      let s1 := (s'.modSquad q fun sq => { sq with closed := n }).settleBatches q
      .ok (s1.scatter s0 d .sb (act.map fun l => (l, ⟨n.zeroExtend 64, .i64⟩))))

/-- Every batch up to n has completed (R275). -/
def Squad.batchDone (sq : Squad) (n : BitVec 16) : Bool := decide ((sq.closed - sq.done).toNat ≤ (sq.closed - n).toNat)

/-- MWAIT (R275). -/
def execMwait (a : RegCode) (s : State) : Host.Outcome State Fault Refusal :=
  .next (s.execSet (.mwait a) 0 0 fun s' s0 act => do
    let sq := s0.squad s0.cur.q
    s0.markedCheck act
    let vs ← s0.addrRegs act a
    laneCheck vs 0x01 fun w =>
      bitsOf w.toNat 16 48 != 0 || (let k := (w.truncate 16 - sq.closed).toNat; decide (1 ≤ k) && decide (k ≤ 0x7FFF))
    .ok (vs.foldl (fun st x => if sq.batchDone (x.2.truncate 16) then st else st.block (s0.ctx x.1) (.mwait a)) s'))

/-! ### Acceptance of waiting instructions (R260) -/

/-- The effect of an instruction that may wait at a tile version. -/
def tileEffect (i : Instr) : Option (State → State → List Nat → Except SetTrap State) :=
  match i with
  | .mmaQE4m3 _ a _ _ | .mmaQE5m2 _ a _ _ | .mmaQMxfp4 _ a _ _ | .mmaQBf16 _ a _ _ | .mmaQI8 _ a _ _ => some (mmaSet i a)
  | .tzero a t => some (tzeroSet i a t.toNat)
  | .tld b a t => some (tldSet i b a t.toNat)
  | .tst b a t => some (tstSet i b a t.toNat)
  | .trd t a d => some (trdSet i t.toNat a d)
  | _ => none

/-- The first lane of a squad whose tile version wait can end: with the tile's version due, and for an MMA.Q no other in
intake. -/
def State.tileReady (s : State) (q : Nat) : Option (Nat × Instr) :=
  let sq := s.squad q
  let e := (s.coreAt (coreOf q)).engine
  sq.liveLanes.findSome? fun l => match (sq.thread l).wait with
    | .tile t v i => if e.dueAt sq.ref (sq.thread l).pc t v i && ((mmaSlotOf i).isNone || sq.intake.isNone) then some (l, i) else none
    | _ => none

/-- TILE_VERSION_ACCEPT (R260): the waiting issue set of one instruction is accepted, or traps. -/
def execTileVersionAccept (q : Nat) (s : State) : Host.Outcome State Fault Refusal :=
  .next (match s.tileReady q with
    | none => s
    | some (l, i) =>
      match tileEffect i with
      | none => s
      | some f =>
        let sq := s.squad q
        let t := sq.thread l
        let ls := sq.liveLanes.filter fun m => (sq.thread m).wait == t.wait && (sq.thread m).stamp == t.stamp
        if !sq.canTrap || ls.any (sq.lineWaits i) then s else
        let c : Cur := { q := q, pc := t.pc, lanes := maskOf ls, slot := s.releaseStamp sq t, at_ := t.since }
        ({ s.unwait q ls with cur := c }).execSet i 0 0 f)

/-! ### Intake and landing (R267-R272) -/

/-- The A row of a lane: where it stands in scratchpad. -/
def rowPlace (sq : Squad) (w : Word) : Place := .scratch sq.lid sq.crew (rowOff w)

/-- The parts of the record of the row that is taken in next, by their offsets in it; those that have been read are left out (R216). -/
def Intake.parts (it : Intake) (x : Nat × Word) : List (Nat × Nat) :=
  ((partsOf (rowOff x.2) (recordBytes (mmaFmtOf it.instr))).map fun p => (p.1, p.2.2)).filter fun p => !it.got.any (·.1 == p.1)

/-- The intake as its later rows find it: of those nothing has been read. -/
def Intake.fresh (it : Intake) : Intake := { it with got := [], bad := false }

/-- An A row carries an uncorrectable error: a part of it that has been read did, or one that is still to be read does (R272). -/
def State.rowBad (s : State) (sq : Squad) (it : Intake) (x : Nat × Word) : Bool :=
  it.bad || (it.parts x).any fun p => s.poisoned ((rowPlace sq x.2).plus p.1)

/-- Some parts of a row's record as they stand in scratchpad for the lane that names it (R276). -/
def State.rowRead (s : State) (sq : Squad) (x : Nat × Word) (ps : List (Nat × Nat)) : List (Nat × List Byte) :=
  ps.map fun p => (p.1, s.bytesFor sq.ref x.1 ((rowPlace sq x.2).plus p.1) p.2)

/-- The reads of a row's record, as they count for injected flips (R345). -/
def State.rowNote (s : State) (sq : Squad) (fmt : Nat) (x : Nat × Word) : State :=
  (linesOf (rowOff x.2) (recordBytes fmt)).foldl (fun st l => st.noteRead (.scratch sq.lid sq.crew (64 * l))) s

/-- A row taken in (R267): what has been read of it, and the rest as it stands now. -/
def State.takenRow (s : State) (sq : Squad) (it : Intake) (got : List (Nat × List Byte)) (x : Nat × Word) : EngWork :=
  let rest := { it with got := got }.parts x
  let m := (got ++ s.rowRead sq x rest).foldl (fun (m : Memory) p => m.writeBytes p.1 p.2) []
  .row it.id (mmaTileOf it.instr) ((mmaSlotOf it.instr).getD 0) (mmaFmtOf it.instr) (rowRow x.2) x.1 (rowSA x.2)
    (m.readBytes 0 (recordBytes (mmaFmtOf it.instr)))

/-- A micro-tile lands in the tile of a core (R269): with a slot whose last fill ended with an uncorrectable error it lands nothing, and the tile's tag becomes INVALID. -/
def Engine.landRow (e : Engine) (w : EngWork) : Engine :=
  match w with
  | .row _ t n fmt r _ sa bytes =>
    let sl := e.slot n
    if sl.bad then e.modTile t fun x => { x with tag := none }
    else
      let row := fun k => bytes.getD k 0
      e.modTile t fun x => { x with
        cells := (List.range 128).foldl (fun cs c =>
          SMap.set 0 cs (128 * r + c) (promote fmt row sl.image.read sa c (SMap.get 0 x.cells (128 * r + c)))) x.cells }
  | _ => e

/-- One row of an MMA.Q fewer is to land; when none is left and its intake is over, VER advances (R267). -/
def Engine.rowDone (e : Engine) (id : Nat) : Engine :=
  match e.mmas.find? (·.id == id) with
  | none => e
  | some m =>
    if m.left ≤ 1 && !m.open_ then { e.modTile m.tile Tile.finish with mmas := e.mmas.filter (·.id != id) }
    else { e with mmas := e.mmas.map fun x => if x.id = id then { x with left := x.left - 1 } else x }

/-- A thread leaves a wait that is given up before its instruction is done; its stamp stays (R303). -/
def Thread.leave (t : Thread) : Thread := { t with wait := .run, word := 0, prior := 0, since := 0 }

/-- The squad's MMA.Q is stopped at a micro-tile boundary (R272): rows taken in have landed and their bits are set, the
others are abandoned, VER is not incremented, the threads stand at the MMA.Q; it stays the writer in progress of its tile (R260). `f`: how they leave it. -/
def State.stopIntake (s : State) (q : Nat) (f : Thread → Thread := Thread.leave) : State :=
  let sq := s.squad q
  match sq.intake with
  | none => s
  | some it =>
    let taken := it.lanes &&& ~~~(maskOf (it.left.map (·.1)))
    let s := s.modSquad q fun sq => { sq with intake := none, mtdone := sq.mtdone ||| taken }
    let s := (lanesOf taken).foldl (fun st l => st.modThread q l fun t => { t with mtAt := t.pc }) s
    let pc := ((lanesOf it.lanes).head?.map fun l => (sq.thread l).pc).getD 0
    let s := (lanesOf it.lanes).foldl (fun st l => st.modThread q l f) s
    (s.modEngine (coreOf q) fun e =>
      { e with mmas := e.mmas.map fun m => if m.id = it.id then { m with paused := some pc } else m }).settleBatches q

/-- The intake of a squad may take in its next row now: earlier operations on its tile and slot are done. -/
def State.mayTake (s : State) (core : Nat) (it : Intake) : Bool :=
  let w : EngWork := .row it.id (mmaTileOf it.instr) ((mmaSlotOf it.instr).getD 0) 0 0 0 0 []
  !(s.coreAt core).engine.ops.any fun e => decide (e.seq < it.id) && e.work.clash w

/-- The next row of an intake is taken in and lands; an uncorrectable error in it is a machine check (R269, R272). -/
def State.takeAndLand (s : State) (q : Nat) (it : Intake) : State :=
  let sq := s.squad q
  match it.left with
  | [] => s
  | x :: rest =>
    if s.rowBad sq it x then
      let pc := (sq.thread x.1).pc
      (s.stopIntake q Thread.unwait).takeTrap q 0x11 (maskOf [x.1]) 0 pc
    else
      let s1 := (s.rowNote sq (mmaFmtOf it.instr) x).modEngine (coreOf q) fun e => (e.landRow (s.takenRow sq it it.got x)).rowDone it.id
      s1.modSquad q fun sq => { sq with intake := some { it.fresh with left := rest } }

/-- Part k of the record of an intake's next row is read; the last one makes the row taken in, and it lands (R216, R267). -/
def State.takePart (s : State) (q k : Nat) (it : Intake) : State :=
  let sq := s.squad q
  match it.left with
  | [] => s
  | x :: _ =>
    let ps := it.parts x
    match ps[k]? with
    | none => s
    | some p =>
      if ps.length ≤ 1 then s.takeAndLand q it
      else s.modSquad q fun sq' => { sq' with intake := some { it with
        got := it.got ++ s.rowRead sq x [p], bad := it.bad || s.poisoned ((rowPlace sq x.2).plus p.1) } }

/-- The first intake of a core that can take in a row. -/
def State.nextTake (s : State) (core : Nat) : Option (Nat × Intake) :=
  (s.intakes core).find? fun (q, it) => (s.squad q).status != .trapped && it.left != [] && s.mayTake core it

/-- MICRO_TILE_LAND (R269): a row taken in lands, or part k of the next row of an intake is read, with the last of which the row is taken in and lands. -/
def execMicroTileLand (part : RowPart) (s : State) : Host.Outcome State Fault Refusal :=
  .next (
    let core := part.core
    match s.firstOp core fun w => match w with | .row .. => true | _ => false with
    | some (n, o) =>
      let id := match o.work with | .row id .. => id | _ => 0
      ((s.dropOp core n).modEngine core fun e => (e.landRow o.work).rowDone id).settleFor o.by_
    | none => match s.nextTake core with
      | some (q, it) => s.takePart q part.k it
      | none => s)

/-- The intake of a squad can end now: no row that is left carries an error. -/
def State.intakeEnds (s : State) (q : Nat) : Option Intake :=
  let sq := s.squad q
  match sq.intake with
  | none => none
  | some it =>
    if sq.status != .trapped && (it.left.zip (it :: List.replicate 32 it.fresh)).all fun x => !s.rowBad sq x.2 x.1 then some it else none

/-- The rows that an intake has still to take in, as operations of the engine: of the first, some parts may have been read. -/
def State.lastRows (s : State) (sq : Squad) (it : Intake) (batch : BitVec 16) : List EngOp :=
  (it.left.zip (it.got :: List.replicate 32 [])).map fun (x, got) =>
    { by_ := sq.ref, lanes := lanesOf it.lanes, batch := batch, seq := it.id, work := s.takenRow sq it got x }

/-- MMA_Q_INTAKE_END (R267): every row is taken in, and the issue set goes on; with no row left to land VER advances. -/
def execMmaQIntakeEnd (q : Nat) (s : State) : Host.Outcome State Fault Refusal :=
  .next (match s.intakeEnds q with
    | none => s
    | some it =>
      let sq := s.squad q
      let core := coreOf q
      let batch := (((s.coreAt core).engine.mmas.find? (·.id == it.id)).map (·.batch)).getD 0
      let s1 := (it.left.foldl (fun st x => st.rowNote sq (mmaFmtOf it.instr) x) s).modEngine core fun e =>
        let e1 := { e with
          ops := e.ops ++ s.lastRows sq it batch
          mmas := e.mmas.map fun m => if m.id = it.id then { m with open_ := false } else m }
        if it.left = [] then e1.rowDone it.id else e1
      let s2 := s1.modSquad q fun sq => { sq with intake := none, mtdone := sq.mtdone &&& ~~~it.lanes }
      (s2.releaseLanes q (lanesOf it.lanes)).settleBatches q)

/-- A fill of a slot that was accepted after operation n. -/
def Engine.refilled (e : Engine) (slot seq : Nat) : Bool :=
  e.ops.any fun o => decide (seq < o.seq) && o.work.slotOf == some (slot, true)

/-- A slot once a fill of it ends (R258): it holds what was read; an uncorrectable error makes its tag INVALID, unless a fill accepted since has given it a tag
of its own (DEDUCED, log 68: landing times change no tag, R270). -/
def Engine.fillSlot (e : Engine) (slot seq : Nat) (bad : Bool) (got : Memory) : Engine :=
  let sl := e.slot slot
  if bad then e.setSlot slot { sl with fmt := if e.refilled slot seq then sl.fmt else none, bad := true }
  else e.setSlot slot { sl with image := got, bad := false }

/-- Operation n of a core has read part k of what is left of its memory: the operation, and the state after. -/
def State.opRead (s : State) (o : EngOp) (k : Nat) (bad : Bool) : Option (EngOp × State) :=
  (s.opPart o k).map fun (off, p) =>
    let (bs, poisoned, s1) := s.readPart p
    ({ o with left := o.left.eraseIdx k, got := o.got.writeBytes off bs, bad := o.bad || bad || poisoned }, s1)

/-- BLD_COMPLETE (R258): BLD n of a core reads part k of its image (R216); with the last part the slot holds the image, or on an uncorrectable error its tag is
INVALID, and the bank of the engine's rind slice records it. `bad`: an error is met although no line is marked. -/
def execBldComplete (part : OpPart) (bad : Bool) (s : State) : Host.Outcome State Fault Refusal :=
  .next (
    let core := part.core
    let n := part.n
    match s.opAt core n with
    | some o =>
      match o.work, s.opRead o part.k bad with
      | .bld slot _ _, some (o1, s1) =>
        if o1.left ≠ [] then s1.setOp core n o1 else
        let s2 := (s1.dropOp core n).modEngine core fun e => e.fillSlot slot o.seq o1.bad o1.got
        let s3 := if o1.bad then s2.logError (bankOf 0x05 core) true (BitVec.ofNat 64 slot) 0 else s2
        s3.settleFor o.by_
      | _, _ => s
    | none => s)

/-- The cells that the bytes of a tile in memory hold (R259): six bytes each. -/
def cellsOf : Nat → Nat → List Byte → SMap (BitVec 48)
  | 0, _, _ => []
  | n + 1, k, bs =>
    let v := BitVec.ofNat 48 (natLE (bs.take 6))
    if v = 0 then cellsOf n (k + 1) (bs.drop 6) else (k, v) :: cellsOf n (k + 1) (bs.drop 6)

/-- The bytes of a tile in memory (R259). -/
def tileImage (t : Tile) : List Byte := (List.range 16384).flatMap fun k => bytesLE 6 (SMap.get 0 t.cells k).toNat

/-- What TST writes to a part: six bytes of each cell (R259). -/
def tilePart (t : Tile) (off n : Nat) : List Byte :=
  (List.range n).map fun i => BitVec.ofNat 8 ((SMap.get 0 t.cells ((off + i) / 6)).toNat / 256 ^ ((off + i) % 6))

/-- TST n of a core writes part k of what is left: the operation, and the state after. A cell with an uncorrectable error leaves its line poisoned (R262). -/
def State.opWrite (s : State) (core : Nat) (o : EngOp) (t k : Nat) (bad : Bool) : Option (EngOp × State) :=
  (s.opPart o k).map fun (off, p) =>
    let s1 := s.writePart o.by_.lid o.by_.crew p (tilePart ((s.coreAt core).engine.tile t) off p.n)
    ({ o with left := o.left.eraseIdx k }, if bad then s1.mark p.place else s1)

/-- TILE_TRANSFER_COMPLETE (R262): TZERO n of a core is done; or TLD n reads, or TST n writes, part k of its memory (R216), with the last of which it is done. `bad`: TLD
meets an uncorrectable error in memory, or TST in a cell, although no line is marked. -/
def execTileTransferComplete (part : OpPart) (bad : Bool) (s : State) : Host.Outcome State Fault Refusal :=
  .next (
    let core := part.core
    let n := part.n
    match s.opAt core n with
    | some o =>
      match o.work with
      | .tzero t int =>
        ((s.dropOp core n).modEngine core fun e =>
          e.modTile t fun x => { x with tag := some int, cells := [] }.finish).settleFor o.by_
      | .tld t int _ =>
        match s.opRead o part.k bad with
        | none => s
        | some (o1, s1) =>
          if o1.left ≠ [] then s1.setOp core n o1 else
          ((s1.dropOp core n).modEngine core fun e => e.modTile t fun x =>
            { x with tag := if o1.bad then none else some int, cells := cellsOf 16384 0 (o1.got.readBytes 0 tileBytes) }.finish).settleFor o.by_
      | .tst t _ =>
        match s.opWrite core o t part.k bad with
        | none => s
        | some (o1, s1) => if o1.left ≠ [] then s1.setOp core n o1 else (s1.dropOp core n).settleFor o.by_
      | _ => s
    | none => s)

end Sys2Proof.Machine
end

