-- ==== Sys2Proof/Machine/Graph.lean ====
section
/-!
DEFINITION. Machine/Graph.lean: the dependence graph: nodes and their checks (R278-R287), copies, checksums, transforms,
network pieces (R280-R284, R363), progress and failure (R286-R289, R372).
-/
namespace Sys2Proof.Machine

/-! ### Fields of a node (R278-R282) -/

abbrev nKind (b : List Byte) : Nat := field b 0 1
abbrev nPred (b : List Byte) : Nat := field b 2 2
abbrev nDone (b : List Byte) : Nat := field b 0x10 8
abbrev nSrc (b : List Byte) : Nat := field b 0x18 8
abbrev nDst (b : List Byte) : Nat := field b 0x20 8
abbrev nLen (b : List Byte) : Nat := field b 0x28 4
abbrev nRun (b : List Byte) : Nat := field b 0x2C 4
abbrev nExpect (b : List Byte) : Nat := field b 0x30 4
abbrev nCtl (b : List Byte) : Nat := field b 0x34 4
abbrev nAlg (b : List Byte) : Nat := nCtl b % 4
abbrev nPeer (b : List Byte) : Nat := field b 0x38 2
abbrev nProg (b : List Byte) : Nat := field b 0x3C 4

/-- The node has a data body (R279). -/
def dataKind (k : Nat) : Bool := k == 1 || k == 3 || k == 6 || k == 7

/-- The addresses of the successors, in order (R278). -/
def nSuccs (b : List Byte) (at_ : Word) : List Word :=
  (List.range 3).filterMap fun i =>
    let v := field b (4 + 4 * i) 4
    if v = 0 then none else some (at_ + BitVec.ofInt 64 (64 * signed 32 v))

/-- The fields of an XFORM body (R282). -/
abbrev xRows (b : List Byte) : Nat := field b 0x28 2
abbrev xCols (b : List Byte) : Nat := field b 0x2A 2
abbrev xSpitch (b : List Byte) : Nat := field b 0x2C 4
abbrev xDpitch (b : List Byte) : Nat := field b 0x30 4
abbrev xOp (b : List Byte) : Nat := field b 0x34 1
abbrev xT (b : List Byte) : Bool := (xOp b).testBit 0
abbrev xDkind (b : List Byte) : Nat := bitsOf (xOp b) 1 3
abbrev xSfmt (b : List Byte) : Nat := field b 0x35 1
abbrev xDfmt (b : List Byte) : Nat := field b 0x36 1
abbrev xConv (b : List Byte) : Nat := field b 0x37 1
abbrev xTver (b : List Byte) : Nat := field b 0x38 1

/-- The element format of a code of SFMT or DFMT (R282). -/
def elemFmt : Nat → Option Fmt
  | 0x5 => some .b64
  | 0x6 => some .b32
  | 0x7 => some .bf16
  | 0x8 => some .b16
  | 0x9 => some .e4m3
  | 0xA => some .e5m2
  | _ => none

/-- Bytes of an element. -/
def elemBytes (code : Nat) : Nat := match code with | 0x5 => 8 | 0x6 => 4 | 0x7 | 0x8 => 2 | _ => 1

/-- The pairs that R40 offers between the float formats of nodes, or equal formats (R283). -/
def pairOk (s d : Nat) : Bool :=
  match elemFmt s, elemFmt d with
  | some a, some b => a == b || (match a, b with
    | .b32, _ => b != .b64 || true
    | .b16, .b64 | .b16, .b32 | .bf16, .b64 | .bf16, .b32 | .b64, .b32 => true
    | .bf16, .e4m3 | .bf16, .e5m2 => true
    | .e4m3, .b32 | .e4m3, .bf16 | .e5m2, .b32 | .e5m2, .bf16 => true
    | _, _ => false)
  | _, _ => false

/-- The alignment that R283 asks of a source address. -/
def srcAlign (b : List Byte) : Nat := if xDkind b = 2 then (if xSfmt b = 3 then 2 else 1) else elemBytes (xSfmt b)

/-! ### Checks of R287 -/

/-- The crew owns its core's matrix engine (R254), or did when it was pre-empted (R324). -/
def State.ownsEngine (s : State) (lid crew : Nat) : Bool :=
  match (s.crewOf lid crew).core with
  | some c => (s.coreAt c).engine.owner == some (lid, crew)
  | none => (s.crewOf lid crew).savedEngine.isSome

/-- The engine whose tiles and slots a crew's nodes name (R283): that of its core, or what pre-emption has saved of it (R324). -/
def State.engineFor (s : State) (lid crew : Nat) : Option Engine :=
  match (s.crewOf lid crew).core with
  | some c => some (s.coreAt c).engine
  | none => (s.crewOf lid crew).savedEngine

def State.modEngineFor (s : State) (lid crew : Nat) (f : Engine → Engine) : State :=
  match (s.crewOf lid crew).core with
  | some c => s.modEngine c f
  | none => s.modCrew lid crew fun c => { c with savedEngine := c.savedEngine.map f }

/-- An XFORM body that R283 forbids, or reserved bits and values in it. DKIND 1 asks for the tile-owning crew, DKIND 2 does not (R283, R287; DEDUCED, log 70). -/
def xformBad (b : List Byte) (owns : Bool) : Bool :=
  bitsOf (xOp b) 5 3 != 0 || 2 < xDkind b || bitsOf (xConv b) 4 4 != 0 || 3 < bitsOf (xConv b) 0 3
    || bitsOf (xTver b) 4 4 != 0 || !zeroAt b 0x39 7
    || (match xDkind b with
      | 0 => !pairOk (xSfmt b) (xDfmt b) || xRows b == 0 || xCols b == 0
      | 1 => 8 ≤ nDst b || xSfmt b != 6 || xDfmt b != 6 || xRows b != 128 || xCols b != 128 || !owns
      | _ => 256 ≤ nDst b || 4 < xSfmt b || xDfmt b != xSfmt b || (xT b && (xSfmt b == 2 || xSfmt b == 3)))

/-- The conditions of cause 0x01; PROG must be 0 at a launch (R372). -/
def nodeReserved (b : List Byte) (owns : Bool) : Bool :=
  field b 1 1 != 0 ||
    match nKind b with
    | 2 => xformBad b owns
    | 4 => !zeroAt b 0x20 32
    | 5 => !zeroAt b 0x18 40
    | k => !dataKind k || bitsOf (nCtl b) 5 27 != 0 || nAlg b == 3 || nProg b != 0
        || (if k = 6 || k = 7 then bitsOf (field b 0x38 4) 15 17 != 0 else field b 0x38 4 != 0)
        || (k == 3 && (nAlg b == 0 || nDst b != 0)) || (k == 6 && (nCtl b).testBit 4) || (k == 7 && (nCtl b).testBit 3)

/-- One access of a node: a view handle or none, address, bytes, and what it needs. -/
structure Access where
  view : Option Word
  addr : Nat
  len : Nat
  nd : Need
  deriving DecidableEq, Repr

/-- A data access of a node, whose field holds a handle or an address (R280). -/
def dataAccess (isView : Bool) (v len : Nat) (nd : Need) : Access :=
  if isView then ⟨some (BitVec.ofNat 64 v), 0, len, nd⟩ else ⟨none, v, len, nd⟩

/-- The rows of an XFORM's source, or its slot image. -/
def xSrcRows (b : List Byte) : List (Nat × Nat) :=
  if xDkind b = 2 then [(0, imageBytes (xSfmt b))]
  else (List.range (xRows b)).map fun r => (r * xSpitch b, xCols b * elemBytes (xSfmt b))

/-- The rows of an XFORM's destination in memory. -/
def xDstRows (b : List Byte) : List (Nat × Nat) :=
  if xDkind b != 0 then []
  else if xT b then (List.range (xCols b)).map fun c => (c * xDpitch b, xRows b * elemBytes (xDfmt b))
  else (List.range (xRows b)).map fun r => (r * xDpitch b, xCols b * elemBytes (xDfmt b))

/-- The local data accesses of a node (R280, R282, R284). -/
def nodeAccesses (b : List Byte) : List Access :=
  let vs := (nCtl b).testBit 3
  let vd := (nCtl b).testBit 4
  match nKind b with
  | 1 => [dataAccess vs (nSrc b) (nLen b) .load, dataAccess vd (nDst b) (nLen b) .store]
  | 2 =>
    let v := (xOp b).testBit 4
    let h := if v then some (BitVec.ofNat 64 (nSrc b)) else none
    let base := if v then 0 else nSrc b
    (xSrcRows b).map (fun r => ⟨h, base + r.1, r.2, .load⟩) ++ (xDstRows b).map fun r => ⟨none, nDst b + r.1, r.2, .store⟩
  | 3 | 6 => [dataAccess vs (nSrc b) (nLen b) .load]
  | 4 => [⟨none, nSrc b, 128, .load⟩]
  | 7 => [dataAccess vd (nDst b) (nLen b) .store]
  | _ => []

/-- The base of an access's addresses: CBASE of its view (R209), or 0. -/
def State.accessBase (s : State) (a : Access) : Nat :=
  match a.view with
  | some h => (SMap.get ({} : View) s.mem.views (hIndex h)).cbase.toNat
  | none => 0

/-- A view's checks of bytes at an offset, with EN added (R209). -/
def State.viewBad (s : State) (la : Launch) (a : Access) (off n : Nat) : Option Trap :=
  match a.view with
  | none => none
  | some h => match s.viewAddr la h off n (a.nd.viewRights ||| vEN) with
    | .error t => some t
    | .ok _ => none

/-- A piece of an access checked: as a whole where it passes as a whole, else byte by byte. -/
def State.accessPieceBad (s : State) (la : Launch) (cx : Ctx) (a : Access) (base : Nat) (p : Nat × Nat) : Option Trap :=
  let view := a.view.isSome
  if (s.viewBad la a (p.1 - base) p.2).isNone then s.pieceBad cx view a.nd p
  else firstBad (fun x => match s.viewBad la a (x - base) 1 with
    | some t => .error t
    | none => (s.resolve cx view a.nd (BitVec.ofNat 64 x) 1).map fun _ => ()) ((List.range p.2).map fun i => p.1 + i)

/-- The first failing byte of an access. -/
def State.accessBad (s : State) (lid crew : Nat) (a : Access) : Option Trap :=
  let base := s.accessBase a
  let la := s.launchOf lid
  if a.len ≠ 0 && a.view.any (fun h => (s.resolveView la h).toOption.isNone) then s.viewBad la a a.addr 1
  else (span 64 (base + a.addr) a.len).findSome? fun p => s.accessPieceBad la (engineCx lid crew) a base p

/-- The first line of a load that carries an uncorrectable error. -/
def State.accessPoison (s : State) (lid crew : Nat) (a : Access) : Option Trap :=
  if a.nd != .load then none else
  (span 64 (s.accessBase a + a.addr) a.len).findSome? fun p =>
    match s.enginePart (engineCx lid crew) a.view.isSome .load p.1 p.2 with
    | some x => if s.poisoned x.place then some ⟨0x11, BitVec.ofNat 64 p.1⟩ else none
    | none => none

/-- The failing access of lowest address (R287). -/
def lowestTrap (ts : List Trap) : Option Trap :=
  ts.foldl (fun m t => match m with
    | none => some t
    | some x => if t.addr.toNat < x.addr.toNat then some t else some x) none

/-- The first failing access of some. -/
def State.accessesBad (s : State) (lid crew : Nat) (as : List Access) : Option Trap :=
  lowestTrap (as.filterMap fun a => (s.accessBad lid crew a).or (s.accessPoison lid crew a))

/-- The first misaligned address of a node (R278, R283, R285), or an RX32 length that is no multiple of 4. -/
def nodeMisaligned (b : List Byte) (srcBase : Nat) : Option Trap :=
  let at_ := fun (a : Nat) => some (⟨0x07, BitVec.ofNat 64 a⟩ : Trap)
  if nDone b % 16 ≠ 0 then at_ (nDone b)
  else if nKind b = 4 && nSrc b % 64 != 0 then at_ (nSrc b)
  else if nKind b = 2 then
    let base := if (xOp b).testBit 4 then srcBase else nSrc b
    match (xSrcRows b).find? fun r => (base + r.1) % srcAlign b != 0 with
    | some r => at_ (base + r.1)
    | none => match (xDstRows b).find? fun r => (nDst b + r.1) % elemBytes (xDfmt b) != 0 with
      | some r => at_ (nDst b + r.1)
      | none => none
  else if dataKind (nKind b) && nAlg b == 2 && nLen b % 4 != 0 then some ⟨0x07, 0⟩
  else none

/-- A module of the job that can be reached (R362). -/
def State.reachable (s : State) (lid peer : Nat) : Bool :=
  let jn := (s.launchOf lid).job
  (s.job? jn).any fun j => j.peers.any (·.1 == peer) && !s.io.peersDown.contains (jn, peer)

/-- The first failing byte of a node or a completion object, which lies in window 0x00 (R278, R285). -/
def State.graphBad (s : State) (lid crew : Nat) (a : Access) : Option Trap :=
  if 2 ^ 56 < a.addr + a.len then some ⟨0x03, BitVec.ofNat 64 (max a.addr (2 ^ 56))⟩ else s.accessBad lid crew a

/-- The page of a node asks for RD and W (R278). -/
def State.nodeAccess (s : State) (lid crew : Nat) (a : Word) : Option Trap :=
  (s.graphBad lid crew ⟨none, a.toNat, 64, .load⟩).or (s.graphBad lid crew ⟨none, a.toNat, 64, .store⟩)

/-- What is wrong with a node that starts, in the order of R287; the successors it touches come last. -/
def State.nodeBad (s : State) (lid crew : Nat) (n : Node) (b : List Byte) : Option Trap :=
  let obj : Access := ⟨none, nDone b, 16, .atomic⟩
  if nodeReserved b (s.ownsEngine lid crew) then some ⟨0x01, 0⟩
  else (nodeMisaligned b (s.accessBase ⟨some (BitVec.ofNat 64 (nSrc b)), 0, 0, .load⟩)).or (
    (if nDone b = 0 then none else s.graphBad lid crew obj).or (
      if n.root && nPred b != 0 then some ⟨0x0F, 0⟩
      else if (nKind b = 6 || nKind b = 7) && !s.reachable lid (nPeer b) then some ⟨0x0F, 0⟩
      else (s.accessesBad lid crew (nodeAccesses b)).or (lowestTrap ((nSuccs b n.addr).filterMap (s.nodeAccess lid crew)))))

/-! ### Memory of nodes -/

/-- The parts of a node's own memory at an address, where all of them have a translation now. -/
def State.graphParts (s : State) (lid crew : Nat) (nd : Need) (a : Word) (n : Nat) : Option (List Part) :=
  s.spanParts (engineCx lid crew) false nd (span 16 a.toNat n)

/-- Bytes of a node's memory that lie at an address: landed bytes. -/
def State.graphRead (s : State) (lid crew : Nat) (a : Word) (n : Nat) : Option (List Byte) :=
  (s.graphParts lid crew .load a n).map fun ps => (s.readParts ps).1

/-- The state once bytes of a node's memory have been read (R345). -/
def State.graphSeen (s : State) (lid crew : Nat) (a : Word) (n : Nat) : State :=
  match s.graphParts lid crew .load a n with
  | some ps => (s.readParts ps).2.2
  | none => s

/-- Bytes that the device writes for a crew's graph. -/
def State.graphWrite (s : State) (lid crew : Nat) (a : Word) (bs : List Byte) : State :=
  match s.graphParts lid crew .store a bs.length with
  | some ps => s.writeParts lid crew ps bs
  | none => s

/-- A page that a write would go to is under write-back (R194). -/
def State.graphHeld (s : State) (lid crew : Nat) (a : Word) (n : Nat) : Bool :=
  ((s.graphParts lid crew .store a n).map fun ps => ps.any s.partHeld).getD false

/-- A completion object signalled by a crew's graph (R285). -/
def State.graphSignal (s : State) (lid crew : Nat) (a : Word) (word : Nat) : State :=
  match s.graphRead lid crew a 8 with
  | none => s
  | some bs =>
    ((s.graphSeen lid crew a 8).graphWrite lid crew a (bytesLE 8 (natLE bs + 1) ++ bytesLE 8 word)).modLaunch lid fun l =>
      { l with signalled := if l.signalled.contains crew then l.signalled else l.signalled ++ [crew] }

def State.modGraph (s : State) (lid crew : Nat) (f : Graph → Graph) : State :=
  s.modCrew lid crew fun c => { c with graph := f c.graph }

/-! ### Failure (R287) -/

/-- The engine's operation of an XFORM, by the number of its acceptance: its place, and what it is. -/
def Engine.xformOp (e : Engine) (r : RunNode) : Option (Nat × EngOp) :=
  r.op.bind fun n =>
    let i := e.ops.findIdx (·.seq == n)
    (e.ops[i]?).map fun o => (i, o)

/-- What the engine has accepted of an XFORM is given up. -/
def Engine.dropXform (e : Engine) (r : RunNode) : Engine := { e with ops := e.ops.filter fun o => some o.seq != r.op }

/-- The tag of a slot becomes INVALID, unless a fill accepted after number n has given it one of its own (R287, DEDUCED, log 68). -/
def Engine.voidSlot (e : Engine) (slot n : Nat) : Engine :=
  if e.refilled slot n then e else e.setSlot slot { e.slot slot with fmt := none }

/-- An XFORM that fails or is discarded names a tile or slot: its tag becomes INVALID (R287); the tile's in its turn, which has come where the XFORM has been
accepted (`r`), and then VER advances. -/
def State.doom (s : State) (lid crew : Nat) (b : List Byte) (r : Option RunNode) : State :=
  let accepted := r.any fun x => (s.engineFor lid crew).any fun e => (e.xformOp x).isSome
  let s1 := match r with
    | some x => s.modEngineFor lid crew (·.dropXform x)
    | none => s
  if nKind b ≠ 2 then s1
  else if xDkind b = 1 && nDst b < 8 then
    if !s.ownsEngine lid crew then s1
    else if accepted then s1.modEngineFor lid crew fun e => e.modTile (nDst b) fun t => { t with tag := none }.finish
    else s1.modEngineFor lid crew fun e => { e with doomed := e.doomed ++ [(nDst b, xTver b % 16)] }
  else if xDkind b = 2 && nDst b < 256 then s1.modEngineFor lid crew fun e => e.voidSlot (nDst b) ((r.bind (·.op)).getD s.seq)
  else s1

/-- The failure of a halted queue to which a node counts (R287): the one at whose halt it was running, else the last whose record is still to be written. -/
def Graph.blame (g : Graph) (id : Nat) : Nat :=
  let i := g.failures.findIdx fun f => f.waits.contains id
  if i < g.failures.length then i else g.failures.length - 1

/-- One more discarded node counts to a failure (R287). -/
def Graph.count (g : Graph) (id : Nat) : Graph :=
  { g with failures := g.failures.modify (g.blame id) fun f => { f with discarded := f.discarded + 1 } }

/-- Node n is discarded; it counts where node `id` does (R287). -/
def State.discard (s : State) (lid crew : Nat) (n : Node) (id : Nat) : State :=
  let s1 := s.modGraph lid crew fun g => g.count id
  match s1.graphRead lid crew n.addr 64 with
  | some b => (s1.graphSeen lid crew n.addr 64).doom lid crew b none
  | none => s1

/-- Fail(N, E, cause) (R287): the queue halts, what has not started is discarded; in a halted queue the node only counts. `r`: the node was running. -/
def State.failNode (s : State) (lid crew : Nat) (n : Node) (b : List Byte) (r : Option RunNode) (t : Trap) : State :=
  let g := (s.crewOf lid crew).graph
  let s1 := s.doom lid crew b r
  if g.halted then s1.modGraph lid crew fun g => g.count n.id
  else
    let f : Failure := ⟨n, t.cause, t.addr, nKind b, 0, g.running.map (·.node.id)⟩
    let s2 := s1.modGraph lid crew fun g => { g with halted := true, queued := [], failures := g.failures ++ [f] }
    g.queued.foldl (fun st m => st.discard lid crew m st.seq) s2

/-- A running node leaves the queue; a halt no longer waits for it. -/
def State.dropRunning (s : State) (lid crew id : Nat) : State :=
  s.modGraph lid crew fun g => { g with
    running := g.running.filter (·.node.id != id)
    failures := g.failures.map fun f => { f with waits := f.waits.erase id } }

def State.setRunning (s : State) (lid crew : Nat) (r : RunNode) : State :=
  s.modGraph lid crew fun g => { g with running := g.running.map fun x => if x.node.id = r.node.id then r else x }

/-- A running node fails: it halts the queue, or counts to the failure that did. -/
def State.failRunning (s : State) (lid crew : Nat) (r : RunNode) (t : Trap) : State :=
  let s1 := s.modGraph lid crew fun g => { g with running := g.running.filter (·.node.id != r.node.id) }
  (s1.failNode lid crew r.node r.bytes (some r) t).dropRunning lid crew r.node.id

/-- PROG and RUN of a running data node written to memory as it stands (R288). -/
def State.recordProg (s : State) (lid crew : Nat) (r : RunNode) : State :=
  if dataKind (nKind r.bytes) && !r.done then
    (s.graphWrite lid crew (r.node.addr + 0x3C) (bytesLE 4 r.prog)).graphWrite lid crew (r.node.addr + 0x2C) (bytesLE 4 r.out.toNat)
  else s

/-- An uncorrectable error in the staging buffer or in the node's data: the node goes back to its last stop, which a data node records, and is retried once; then it
fails (R287, R288). While the page of its record is under write-back the error waits (R194). -/
def State.stagingError (s s0 : State) (lid crew : Nat) (r : RunNode) (t : Trap) : State :=
  if r.retried then s.failRunning lid crew r t
  else if dataKind (nKind r.bytes) && s.graphHeld lid crew r.node.addr 64 then s0
  else (s.recordProg lid crew r).setRunning lid crew { r with retried := true, piece := none, msg := none }

/-! ### Checksums and staging (R281, R345, R372) -/

/-- CRC-32C of one byte, bit by bit, reflected (R281). -/
def crcBits : Nat → BitVec 32 → BitVec 32
  | 0, c => c
  | n + 1, c => crcBits n (if c.getLsbD 0 then (c >>> 1) ^^^ 0x82F63B78#32 else c >>> 1)

def crcByte (c : BitVec 32) (b : Byte) : BitVec 32 := crcBits 8 (c ^^^ b.zeroExtend 32)

/-- CRC-32C of the data before (`run`) and these bytes. -/
def crc32c (run : BitVec 32) (bs : List Byte) : BitVec 32 := ~~~(bs.foldl crcByte (~~~run))

/-- RX32 of 32-bit words (R281). -/
def rx32 : Nat → BitVec 32 → List Byte → BitVec 32
  | 0, c, _ => c
  | n + 1, c, bs => rx32 n (c.rotateLeft 5 ^^^ BitVec.ofNat 32 (natLE (bs.take 4))) (bs.drop 4)

/-- The running value after some bytes under an ALG. -/
def checksum (alg : Nat) (run : BitVec 32) (bs : List Byte) : BitVec 32 :=
  match alg with
  | 1 => crc32c run bs
  | 2 => rx32 (bs.length / 4) run bs
  | _ => run

/-- One bit of a list of bytes turned over. -/
def flipIn (bs : List Byte) (bit : Nat) : List Byte := bs.set (bit / 8) (bs.getD (bit / 8) 0 ^^^ (1#8 <<< (bit % 8)))

/-- Bytes staged on the sending path in 64-byte units (R345, R372): what is sent, and whether a check finds an error. -/
def State.stage (s : State) (lid crew : Nat) (bs : List Byte) : List Byte × Bool × State :=
  let inj := (s.crewOf lid crew).inj
  let units := (bs.length + 63) / 64
  if !inj.arm || inj.mode = 0 || inj.target ≠ 0 || units = 0 then (bs, false, s)
  else if inj.seen + units ≤ inj.skip then
    (bs, false, s.modCrew lid crew fun c => { c with inj := { inj with seen := inj.seen + units } })
  else
    let unit := inj.skip - inj.seen
    let s1 := s.modCrew lid crew fun c => { c with inj := { inj with seen := inj.skip + 1, arm := false, fired := true } }
    if inj.mode = 2 then
      (if 512 * unit + inj.bit < 8 * bs.length then flipIn bs (512 * unit + inj.bit) else bs, false, s1)
    else (bs, true, s1.logError (bankOf 0x06 ((s.crewOf lid crew).core.getD 0)) true 0 0)

/-! ### Data under way (R216, R280, R288, R372) -/

/-- The handle that a node's source, or destination, names. -/
def srcView (b : List Byte) : Option Word :=
  let v := match nKind b with
    | 2 => (xOp b).testBit 4
    | 1 | 3 | 6 => (nCtl b).testBit 3
    | _ => false
  if v then some (BitVec.ofNat 64 (nSrc b)) else none

def dstView (b : List Byte) : Option Word :=
  if (nKind b == 1 || nKind b == 7) && (nCtl b).testBit 4 then some (BitVec.ofNat 64 (nDst b)) else none

/-- The address at which a handle's view begins, or else the address itself. -/
def State.nodeBase (s : State) (v : Option Word) (addr : Nat) : Nat :=
  match v with
  | some h => (SMap.get ({} : View) s.mem.views (hIndex h)).cbase.toNat
  | none => addr

/-- One part of a node's data, checked as it is accessed (R93, R200, R209): the trap, or the part, where it has a translation now. -/
def State.nodePart (s : State) (lid crew : Nat) (v : Option Word) (nd : Need) (a n : Nat) : Except Trap (Option Part) :=
  let x : Access := ⟨v, 0, 0, nd⟩
  match s.accessPieceBad (s.launchOf lid) (engineCx lid crew) x (s.accessBase x) (a, n) with
  | some t => .error t
  | none => .ok (s.enginePart (engineCx lid crew) v.isSome nd a n)

/-- The next 64-byte unit of the data has been read whole, and is not staged (R372). -/
def Piece.unitReady (p : Piece) : Bool :=
  decide (p.out.length < p.len) && !p.src.any fun x => decide (x.1 < p.out.length + 64) && decide (p.out.length < x.1 + x.2.2)

/-- The units of a piece that have been read are staged in order (R345, R372); the flag says that a check finds an error. -/
def State.stageUnits (lid crew : Nat) : Nat → Piece → State → Piece × Bool × State
  | 0, p, s => (p, false, s)
  | n + 1, p, s =>
    if !p.unitReady then (p, false, s) else
    let (bs, bad, s1) := s.stage lid crew (p.got.readBytes p.out.length (min 64 (p.len - p.out.length)))
    if bad then (p, true, s1) else State.stageUnits lid crew n { p with out := p.out ++ bs } s1

/-- The bytes up to the next 4,096-byte boundary of a data node's data (R288). -/
def RunNode.span (r : RunNode) : Nat := min (nLen r.bytes - r.prog) (4096 - r.prog % 4096)

/-- A piece of a node is done. -/
def RunNode.advance (r : RunNode) (k : Nat) (out : BitVec 32) : RunNode :=
  { r with prog := r.prog + k, out := out, done := decide (nLen r.bytes ≤ r.prog + k), msg := none, piece := none }

/-- The next piece of a COPY, CHECK or PUT: the parts of its source, and of its destination here. -/
def State.dataPiece (s : State) (r : RunNode) : Piece :=
  let b := r.bytes
  let parts := fun (base : Nat) => partsOf (base + r.prog) r.span
  ⟨r.span, parts (s.nodeBase (srcView b) (nSrc b)), if nKind b = 1 then parts (s.nodeBase (dstView b) (nDst b)) else [], [], []⟩

/-- Element n of some bytes, as its bits. -/
def elemAt (bs : List Byte) (size n : Nat) : Nat := field bs (size * n) size

/-- One element converted by an XFORM (R283). -/
def convertElem (b : List Byte) (x : Nat) : Nat :=
  match elemFmt (xSfmt b), elemFmt (xDfmt b) with
  | some f, some g => (g.round (f.decode x) (rmOf (bitsOf (xConv b) 0 3)) (!(xConv b).testBit 3) 0).1
  | _, _ => 0

/-- The bytes of the destination rows of an XFORM into memory, from its source bytes row by row. -/
def xformRows (b : List Byte) (src : List Byte) : List Byte :=
  let ss := elemBytes (xSfmt b)
  let ds := elemBytes (xDfmt b)
  let el := fun (r c : Nat) => bytesLE ds (convertElem b (elemAt src ss (r * xCols b + c)))
  if xT b then (List.range (xCols b)).flatMap fun c => (List.range (xRows b)).flatMap fun r => el r c
  else (List.range (xRows b)).flatMap fun r => (List.range (xCols b)).flatMap fun c => el r c

/-- The cells of a tile that an XFORM fills (R283). -/
def xformCells (b : List Byte) (src : List Byte) : SMap (BitVec 48) :=
  cellsOf 16384 0 ((List.range 16384).flatMap fun i =>
    let n := if xT b then i % 128 * 128 + i / 128 else i
    bytesLE 6 (Fmt.acc48.round (Fmt.b32.decode (elemAt src 4 n)) .rne false 0).1)

/-- The slot image that an XFORM loads, transposed or not (R283). -/
def xformImage (b : List Byte) (src : List Byte) : List Byte :=
  if xT b then ((List.range 16384).map fun i => src.getD (i % 128 * 128 + i / 128) 0) ++ src.drop 16384 else src

/-- The parts of rows at a base, with their offsets in the rows' bytes. -/
def rowParts (base : Nat) (rows : List (Nat × Nat)) : List (Nat × Nat × Nat) := partsFrom 0 (rows.flatMap fun r => Machine.span 16 (base + r.1) r.2)

/-- Bytes of some rows. -/
def rowBytes (rows : List (Nat × Nat)) : Nat := (rows.map (·.2)).sum

/-- The parts of an XFORM's source. -/
def State.xformSrc (s : State) (b : List Byte) : List (Nat × Nat × Nat) := rowParts (s.nodeBase (srcView b) (nSrc b)) (xSrcRows b)

/-- Where an XFORM's source stands. -/
def State.xformPlaces (s : State) (lid crew : Nat) (b : List Byte) : List (Place × Nat) :=
  (s.xformSrc b).filterMap fun x => (s.enginePart (engineCx lid crew) (srcView b).isSome .load x.2.1 x.2.2).map fun p => (p.place, p.n)

/-- The bytes that can be written to the destination now: what has been staged of a COPY; of an XFORM all or nothing. -/
def Piece.ready (p : Piece) (b : List Byte) : List Byte :=
  if nKind b = 2 then (if p.src = [] && p.out.length == p.len then xformRows b p.out else []) else p.out

/-- The bytes of a part become free values: what stands there is undefined (R288; free value, log 9). -/
def State.freePart (s : State) (p : Part) : State :=
  let s1 := { s with freeCtr := s.freeCtr + 1 }
  (match p.place with
    | .dram pa _ => if p.job = 0 then s1 else s1.setDirty p.job p.va pa
    | .scratch .. => s1).putBytes p.place (freeList s.freeCtr p.n)

/-- The parts of the destination of an XFORM into memory, with their offsets in its bytes; those that have no translation now are left out. -/
def State.dstParts (s : State) (lid crew : Nat) (b : List Byte) : List (Nat × Part) :=
  (rowParts (nDst b) (xDstRows b)).filterMap fun x => (s.enginePart (engineCx lid crew) false .store x.2.1 x.2.2).map fun p => (x.1, p)

/-- The destination of an XFORM into memory is undefined (R288): until the node completes, and for good where its source changed while it ran. A page under write-back
takes no write (R194). -/
def State.freeDst (s : State) (lid crew : Nat) (b : List Byte) : State :=
  (s.dstParts lid crew b).foldl (fun st x => if st.partHeld x.2 then st else st.freePart x.2) s

/-- The destination of an XFORM into memory as the node leaves it (R283). -/
def State.fillDst (s : State) (lid crew : Nat) (b bs : List Byte) : State :=
  (s.dstParts lid crew b).foldl (fun st x => st.writePart lid crew x.2 (bs.drop x.1)) s

/-- A page of the destination of an XFORM is under write-back. -/
def State.dstHeld (s : State) (lid crew : Nat) (b : List Byte) : Bool := (s.dstParts lid crew b).any fun x => s.partHeld x.2

/-- An XFORM begins to read, the parts of its source and then those of its destination. -/
def State.xformPiece (s : State) (lid crew : Nat) (r : RunNode) : State :=
  let b := r.bytes
  s.setRunning lid crew { r with piece := some ⟨rowBytes (xSrcRows b), s.xformSrc b, rowParts (nDst b) (xDstRows b), [], []⟩ }

/-- The engine's operation of an XFORM is done: the tile or the slot is filled (R258, R260, R283). -/
def State.fillXform (s : State) (lid crew : Nat) (b : List Byte) (seq : Nat) (src : List Byte) : State :=
  s.modEngineFor lid crew fun e =>
    let e1 := { e with ops := e.ops.filter (·.seq != seq) }
    if xDkind b = 1 then e1.modTile (nDst b) fun t => { t with tag := some false, cells := xformCells b src }.finish
    else e1.fillSlot (nDst b) seq false (memoryFrom 0 (xformImage b src))

/-- An XFORM whose last part has been read, or written, completes: its destination holds the converted elements, or stays undefined where its source has changed (R283,
R288). -/
def State.endXform (s : State) (lid crew : Nat) (r : RunNode) (p : Piece) : State :=
  let b := r.bytes
  let s1 := { s with freeCtr := s.freeCtr + 1 }
  let s2 := match xDkind b, r.op with
    | 0, _ => if r.changed then s1.freeDst lid crew b else s1.fillDst lid crew b (xformRows b p.out)
    | _, some n => s1.fillXform lid crew b n (if r.changed then freeList s.freeCtr p.len else p.out)
    | _, none => s1
  s2.setRunning lid crew { r with done := true, piece := none, op := none }

/-- The data of a PUT that has been read is sent in one packet; it is done when the peer acknowledges it (R281, R359, R360, R363). -/
def State.sendPut (s : State) (lid crew : Nat) (r : RunNode) (p : Piece) : State :=
  let b := r.bytes
  let id := s.nextMsg
  let job := (s.launchOf lid).job
  let seq := r.prog / 4096
  let m : Message := .put id job (nPeer b) lid crew r.node.id p.len
  let s1 := { s with nextMsg := id + 1, io := { s.io with messages := s.io.messages ++ [m] } }
  (s1.sendTo job (nPeer b) (.putData id seq (Config.entropy r.node.addr.toNat seq) (BitVec.ofNat 64 (nDst b + r.prog)) p.out)).setRunning lid crew
    { r with out := checksum (nAlg b) r.out p.out, msg := some id, piece := none }

/-- A LAUNCH's record, read whole, goes to Driene's admission (R284). -/
def State.admitNode (s : State) (lid crew : Nat) (r : RunNode) (rec_ : List Byte) : State :=
  match s.job? (s.launchOf lid).job with
  | none => s
  | some j =>
    let s := s.tablesSeen j rec_
    match s.takeLaunch j rec_ 0 (some (nSrc r.bytes)) 0 true with
    | .ok (s1, _) => s1.setRunning lid crew { r with done := true, piece := none }
    | .error why => s.setRunning lid crew { r with done := true, code := 3, detail := BitVec.ofNat 32 why, piece := none }

/-- Data under way after an access: the node goes on with it, or its piece is done (R280-R284). COPY and PUT sum what has been staged, CHECK what was read (R281). -/
def State.pieceNext (s : State) (lid crew : Nat) (r : RunNode) (p : Piece) : State :=
  let alg := nAlg r.bytes
  let filled := nKind r.bytes == 2 && xDkind r.bytes != 0
  if p.src ≠ [] || (p.dst ≠ [] && !filled) then s.setRunning lid crew { r with piece := some p } else
  match nKind r.bytes with
  | 1 => s.setRunning lid crew (r.advance p.len (checksum alg r.out p.out))
  | 2 => s.endXform lid crew r p
  | 3 => s.setRunning lid crew (r.advance p.len (checksum alg r.out (p.got.readBytes 0 p.len)))
  | 4 => s.admitNode lid crew r (p.got.readBytes 0 p.len)
  | _ => s.sendPut lid crew r p

/-- Part k of what is left of the source is read, and what it completes is staged; a LAUNCH stages nothing (R345). -/
def State.readAct (s : State) (lid crew : Nat) (r : RunNode) (p : Piece) (k : Nat) (x : Nat × Nat × Nat) : State :=
  match s.nodePart lid crew (srcView r.bytes) .load x.2.1 x.2.2 with
  | .error t => s.failRunning lid crew r t
  | .ok none => s
  | .ok (some part) =>
    let (bs, bad, s1) := s.readPart part
    if bad then s1.stagingError s lid crew r ⟨0x11, BitVec.ofNat 64 x.2.1⟩ else
    let p1 := { p with src := p.src.eraseIdx k, got := p.got.writeBytes x.1 bs }
    if nKind r.bytes = 4 then s1.pieceNext lid crew r p1 else
    let (p2, err, s2) := State.stageUnits lid crew (p.len / 64 + 1) p1 s1
    if err then s2.stagingError s lid crew r ⟨0x11, 0⟩ else s2.pieceNext lid crew r p2

/-- A part of the destination is written, unless its page is under write-back (R194). What an XFORM writes is undefined until the node completes, which it does with the
last part (R288; free value, log 9): then no page of its destination may be under write-back. -/
def State.writeAct (s : State) (lid crew : Nat) (r : RunNode) (p : Piece) (x : Nat × Nat × Nat) : State :=
  match s.nodePart lid crew (dstView r.bytes) .store x.2.1 x.2.2 with
  | .error t => s.failRunning lid crew r t
  | .ok none => s
  | .ok (some part) =>
    if s.partHeld part then s
    else if nKind r.bytes = 2 then
      if p.dst.erase x = [] && s.dstHeld lid crew r.bytes then s
      else (s.freePart part).pieceNext lid crew r { p with dst := p.dst.erase x }
    else (s.writePart lid crew part ((p.ready r.bytes).drop x.1)).pieceNext lid crew r { p with dst := p.dst.erase x }

/-- Access k of a node's data, of those that can be made: the parts of the source that are left, then those of the destination whose bytes are there. -/
def State.pieceAct (s : State) (lid crew : Nat) (r : RunNode) (p : Piece) (k : Nat) : State :=
  match p.src[k]? with
  | some x => s.readAct lid crew r p k x
  | none =>
    let n := (p.ready r.bytes).length
    match (p.dst.filter fun x => decide (x.1 + x.2.2 ≤ n))[k - p.src.length]? with
    | some x => s.writeAct lid crew r p x
    | none => s

/-! ### Bodies (R280-R284, R363) -/

/-- A step of a COPY, CHECK or PUT: its next piece begins, or an access of it is made; a PUT waits for the peer between two pieces. -/
def State.dataBody (s : State) (lid crew : Nat) (r : RunNode) (k : Nat) : State :=
  match r.piece with
  | some p => s.pieceAct lid crew r p k
  | none =>
    if r.span = 0 then s.setRunning lid crew { r with done := true }
    else if r.msg.isSome then s
    else s.setRunning lid crew { r with piece := some (s.dataPiece r) }

/-- A step of a GET: its next piece is asked for (R363). -/
def State.getBody (s : State) (lid crew : Nat) (r : RunNode) (_k : Nat) : State :=
  if r.span = 0 then s.setRunning lid crew { r with done := true } else
  if r.msg.isSome then s else
  let id := s.nextMsg
  let job := (s.launchOf lid).job
  let seq := r.prog / 4096
  let m : Message := .get id job (nPeer r.bytes) lid crew r.node.id r.span []
  let s1 := { s with nextMsg := id + 1, io := { s.io with messages := s.io.messages ++ [m] } }
  (s1.sendTo job (nPeer r.bytes) (.getRequest id seq (Config.entropy r.node.addr.toNat seq) (BitVec.ofNat 64 (nSrc r.bytes + r.prog)) r.span)).setRunning
    lid crew { r with msg := some id }

/-- A step of a LAUNCH: its record is read part by part (R284). -/
def State.launchBody (s : State) (lid crew : Nat) (r : RunNode) (k : Nat) : State :=
  match r.piece with
  | some p => s.pieceAct lid crew r p k
  | none => s.setRunning lid crew { r with piece := some ⟨128, partsOf (nSrc r.bytes) 128, [], [], []⟩ }

/-- A tile that a waiting XFORM names is due, with no operation still at it (R260, R283). -/
def State.tileFree (s : State) (core t v : Nat) : Bool :=
  let e := (s.coreAt core).engine
  (e.tile t).due v && !e.ops.any fun o => o.work.tileOf == some t

/-- The engine accepts an XFORM's work on a tile, whose version is due, or on a slot, whose tag it sets (R258, R260, R283). -/
def State.acceptXform (s : State) (lid crew : Nat) (r : RunNode) (w : EngWork) : State :=
  let b := r.bytes
  let o : EngOp := { by_ := partyRef lid crew s.seq, lanes := [], batch := 0, seq := s.seq, work := w }
  ({ s with seq := s.seq + 1 }.modEngineFor lid crew fun e =>
    let e1 := { e with ops := e.ops ++ [o] }
    if xDkind b = 1 then e1.modTile (nDst b) Tile.begin else e1.setSlot (nDst b) { e1.slot (nDst b) with fmt := some (xSfmt b) }).setRunning lid crew
      { r with op := some s.seq }

/-- An XFORM reads and writes: it has no operation of an engine, or the operation has its turn, and no intake still reads the slot that it fills. -/
def State.xformTurn (s : State) (lid crew : Nat) (r : RunNode) : Bool :=
  match s.engineFor lid crew with
  | none => true
  | some e => xDkind r.bytes == 0 || (e.xformOp r).any fun x => e.inTurn x.1 x.2 && !(s.crewOf lid crew).core.any fun c => s.slotInIntake c x.2

/-- A step of an XFORM (R283): into a tile or a slot it is accepted first, in its turn; then it reads its source and fills its destination, part by part. In a crew that
is not bound, which is killed or whose launch ends, it fills what was saved of the tiles and slots (R324, R335). -/
def State.xformBody (s : State) (lid crew : Nat) (r : RunNode) (k : Nat) : State :=
  let b := r.bytes
  match xDkind b, r.op, s.engineFor lid crew with
  | 1, none, some e => if (e.tile (nDst b)).due (xTver b % 16) then s.acceptXform lid crew r (.xtile (nDst b)) else s
  | 2, none, some _ => s.acceptXform lid crew r (.xslot (nDst b) (xSfmt b))
  | _, _, _ =>
    if !s.xformTurn lid crew r then s else
    match r.piece with
    | some p => s.pieceAct lid crew r p k
    | none => s.xformPiece lid crew r

/-! ### Starting and continuing (R286) -/

/-- The crew is being killed, or its launch ends: what runs in its graph finishes (R335, R346). -/
def State.dying (s : State) (lid crew : Nat) : Bool :=
  let l := s.launchOf lid
  (match l.status with | .ending _ => true | _ => false) || inRanges l.killing crew

/-- The crew's graph walks: it is bound (R288), or what runs in it is to finish. -/
def State.graphBound (s : State) (lid crew : Nat) : Bool :=
  s.boot == .running && ((s.crewOf lid crew).core.isSome || s.dying lid crew)

/-- A running node goes on: its crew is bound, and is not being stopped, or the node has not come to its next 4,096-byte stop; an XFORM restarts, so it stops where it
is (R288). -/
def State.bodyRuns (s : State) (lid crew : Nat) (r : RunNode) : Bool :=
  s.graphBound lid crew && !r.done && (!(s.crewOf lid crew).stopReq || (r.piece.isSome && nKind r.bytes != 2))

/-- A queued node may start: its queue runs and what its thread did before GSUB has been performed (R229, R289). -/
def State.mayStart (s : State) (lid crew : Nat) (n : Node) : Bool :=
  s.graphBound lid crew && !(s.crewOf lid crew).stopReq && !(s.crewOf lid crew).graph.halted && s.forked n.by_ [n.lane] n.seq

/-- The parts of a node's 64 bytes that have not been read, by their offsets (R216, R286). -/
def Node.left (n : Node) : List Nat := [0, 16, 32, 48].filter fun o => !n.got.any (·.1 == o)

/-- The 64 bytes of a node as they were read. -/
def Node.bytes (n : Node) : List Byte := (n.got.foldl (fun (m : Memory) p => m.writeBytes p.1 p.2) []).readBytes 0 64

/-- The kind under which a node starts; one whose KIND is reserved fails in the step of a SIGNAL node (DEDUCED, log 21). -/
def startKind (b : List Byte) : Nat := if nKind b = 0 || 7 < nKind b then 5 else nKind b

/-- A queued node fails before it has started. -/
def State.failQueued (s : State) (lid crew : Nat) (n : Node) (b : List Byte) (t : Trap) : State :=
  (s.modGraph lid crew fun g => { g with queued := g.queued.erase n }).failNode lid crew n b none t

/-- An uncorrectable error before a node has started: it is retried once, and then fails (R287, R288). -/
def State.queuedError (s : State) (lid crew : Nat) (n : Node) (b : List Byte) (t : Trap) : State :=
  if n.retried then s.failQueued lid crew n b t
  else s.modGraph lid crew fun g => { g with queued := g.queued.map fun m => if m.id = n.id then { m with got := [], retried := true } else m }

/-- Part k of a node's 64 bytes is read (R216, R286). -/
def State.readNode (s : State) (lid crew : Nat) (n : Node) (k : Nat) : State :=
  match s.nodeAccess lid crew n.addr with
  | some t => s.failQueued lid crew n [] t
  | none =>
    match n.left[k]? with
    | none => s
    | some o =>
      match s.enginePart (engineCx lid crew) false .load (n.addr.toNat + o) 16 with
      | none => s
      | some p =>
        let (bs, bad, s1) := s.readPart p
        if bad then s1.queuedError lid crew n [] ⟨0x11, n.addr + BitVec.ofNat 64 o⟩
        else s1.modGraph lid crew fun g => { g with queued := g.queued.map fun m => if m.id = n.id then { m with got := m.got ++ [(o, bs)] } else m }

/-- A PUT or GET that fails because its peer is not part of the job: the peer counts as unreachable, and Driene says so once
(R362, R367). -/
def State.reportStranger (s : State) (lid : Nat) (n : Node) (b : List Byte) (t : Trap) : State :=
  let job := (s.launchOf lid).job
  let p := nPeer b
  if t.cause ≠ 0x0F || (n.root && nPred b != 0) || s.io.peersDown.contains (job, p) then s
  else { s with io := { s.io with peersDown := s.io.peersDown ++ [(job, p)], sent := s.io.sent ++ [.report 0x83 job (bytesLE 2 p)] } }

/-- A node that has been read starts (R286): the checks of R287; a SIGNAL is done at once, and the destination of an XFORM into memory is undefined from here on (R288). -/
def State.startNode (s : State) (lid crew : Nat) (n : Node) : State :=
  let b := n.bytes
  match s.nodeBad lid crew n b with
  | some t => if t.cause = 0x11 then s.queuedError lid crew n b t else (s.failQueued lid crew n b t).reportStranger lid n b t
  | none =>
    let run := if dataKind (nKind b) then BitVec.ofNat 32 (nRun b) else 0
    let r : RunNode := { node := n, bytes := b, prog := 0, out := run, retried := n.retried, done := nKind b == 5, code := 0, detail := 0,
                         msg := none, piece := none, op := none, fin := 0, srcAt := if nKind b = 2 then s.xformPlaces lid crew b else [] }
    (if nKind b = 2 && xDkind b == 0 then s.freeDst lid crew b else s).modGraph lid crew fun g => { g with queued := g.queued.erase n, running := g.running ++ [r] }

/-- A step of node `id` under a kind: its bytes are read, it starts, or its body goes on; k picks among the accesses that it can make. -/
def State.nodeStep (s : State) (lid crew id kind k : Nat) (body : State → Nat → Nat → RunNode → Nat → State) : State :=
  let g := (s.crewOf lid crew).graph
  match g.running.find? fun r => r.node.id == id && nKind r.bytes == kind with
  | some r => if s.bodyRuns lid crew r then body s lid crew r k else s
  | none =>
    match g.queued.find? (·.id == id) with
    | none => s
    | some n =>
      if !s.mayStart lid crew n then s
      else if n.left ≠ [] then s.readNode lid crew n k
      else if startKind n.bytes = kind then s.startNode lid crew n else s

/-- COPY_NODE (R280). -/
def execCopyNode (lid crew : Nat) (part : NodePart) (s : State) : Host.Outcome State Fault Refusal := .next (s.nodeStep lid crew part.node 1 part.k State.dataBody)

/-- XFORM_NODE (R283). -/
def execXformNode (lid crew : Nat) (part : NodePart) (s : State) : Host.Outcome State Fault Refusal := .next (s.nodeStep lid crew part.node 2 part.k State.xformBody)

/-- CHECK_NODE (R281). -/
def execCheckNode (lid crew : Nat) (part : NodePart) (s : State) : Host.Outcome State Fault Refusal := .next (s.nodeStep lid crew part.node 3 part.k State.dataBody)

/-- LAUNCH_NODE (R284). -/
def execLaunchNode (lid crew : Nat) (part : NodePart) (s : State) : Host.Outcome State Fault Refusal := .next (s.nodeStep lid crew part.node 4 part.k State.launchBody)

/-- SIGNAL_NODE (R284): once it has started, nothing is left but its finish. -/
def execSignalNode (lid crew : Nat) (part : NodePart) (s : State) : Host.Outcome State Fault Refusal :=
  .next (s.nodeStep lid crew part.node 5 part.k fun st _ _ _ _ => st)

/-- PUT_NODE (R363). -/
def execPutNode (lid crew : Nat) (part : NodePart) (s : State) : Host.Outcome State Fault Refusal := .next (s.nodeStep lid crew part.node 6 part.k State.dataBody)

/-- GET_NODE (R363). -/
def execGetNode (lid crew : Nat) (part : NodePart) (s : State) : Host.Outcome State Fault Refusal := .next (s.nodeStep lid crew part.node 7 part.k State.getBody)

/-! ### Finishing (R286, R287) -/

/-- The status of a node whose body is complete: code and DETAIL (R281, R285). -/
def RunNode.status (r : RunNode) : Nat × BitVec 32 :=
  if dataKind (nKind r.bytes) && nAlg r.bytes != 0 then
    (if (nCtl r.bytes).testBit 2 && r.out.toNat != nExpect r.bytes then 2 else 0, r.out)
  else (r.code, r.detail)

/-- RUN of a successor whose ALG is the node's (R281). -/
def State.passRun (s : State) (lid crew : Nat) (r : RunNode) (succ : Word) : State :=
  match s.graphRead lid crew succ 64 with
  | none => s
  | some b =>
    if dataKind (nKind r.bytes) && nAlg r.bytes != 0 && dataKind (nKind b) && nAlg b == nAlg r.bytes
    then (s.graphSeen lid crew succ 64).graphWrite lid crew (succ + 0x2C) (bytesLE 4 r.out.toNat) else s

/-- A successor's count goes down in one atomic step; at 1 it is launched, or discarded where the node was running at a halt; at 0 it fails (R286, R287). -/
def State.countDown (s : State) (lid crew : Nat) (n : Node) (succ : Word) : State :=
  match s.graphRead lid crew (succ + 2) 2, s.graphRead lid crew succ 64 with
  | some c, some b =>
    let pred := natLE c
    let m : Node := { n with id := s.seq, addr := succ, root := false, got := [], retried := false }
    let s0 := { s with seq := s.seq + 1 }.graphSeen lid crew (succ + 2) 2
    let g := (s.crewOf lid crew).graph
    if pred = 0 then s0.failNode lid crew m b none ⟨0x0F, 0⟩
    else
      let s1 := s0.graphWrite lid crew (succ + 2) (bytesLE 2 (pred - 1))
      if pred ≠ 1 then s1
      else if g.halted || g.failures.any (fun f => f.waits.contains n.id) then s1.discard lid crew m n.id
      else s1.modGraph lid crew fun g => { g with queued := g.queued ++ [m] }
  | _, _ => s

/-- The bytes that action `fin` of a node's finish writes: address and length. -/
def RunNode.writes (r : RunNode) : Option (Word × Nat) :=
  let succs := nSuccs r.bytes r.node.addr
  if r.fin = 0 then some (r.node.addr + 0x3C, 4)
  else if r.fin ≤ succs.length then (succs[r.fin - 1]?).map fun a => (a + 0x2C, 4)
  else if r.fin = succs.length + 1 then (if nDone r.bytes = 0 then none else some (BitVec.ofNat 64 (nDone r.bytes), 16))
  else (succs[r.fin - succs.length - 2]?).map fun a => (a + 2, 2)

/-- What fails when a node takes the next action of its finish: a check of what the action touches (R278, R285, R287). -/
def State.finishBad (s : State) (lid crew : Nat) (r : RunNode) : Option Trap :=
  let succs := nSuccs r.bytes r.node.addr
  if r.fin = 0 then (if dataKind (nKind r.bytes) then s.nodeAccess lid crew r.node.addr else none)
  else if r.fin ≤ succs.length then
    (if dataKind (nKind r.bytes) && nAlg r.bytes != 0 then (succs[r.fin - 1]?).bind (s.nodeAccess lid crew) else none)
  else if r.fin = succs.length + 1 then
    (if nDone r.bytes = 0 then none else s.graphBad lid crew ⟨none, nDone r.bytes, 16, .atomic⟩)
  else (succs[r.fin - succs.length - 2]?).bind (s.nodeAccess lid crew)

/-- A node whose body is complete can take the next action of its finish: it meets no page under write-back. -/
def State.finishFree (s : State) (lid crew : Nat) (r : RunNode) : Bool :=
  s.graphBound lid crew && r.done && r.msg.isNone && !(r.writes.any fun w => s.graphHeld lid crew w.1 w.2)

/-- Action `fin` of a node's finish (R286, R372): PROG; RUN of each successor; the signal; then, with status 0, the count of each successor in order. -/
def State.finishAct (s : State) (lid crew : Nat) (r : RunNode) : State :=
  let succs := nSuccs r.bytes r.node.addr
  let (st, detail) := r.status
  if r.fin = 0 then
    if dataKind (nKind r.bytes) then s.graphWrite lid crew (r.node.addr + 0x3C) (bytesLE 4 (nLen r.bytes)) else s
  else if r.fin ≤ succs.length then ((succs[r.fin - 1]?).map fun a => s.passRun lid crew r a).getD s
  else if r.fin = succs.length + 1 then
    if nDone r.bytes = 0 then s
    else s.graphSignal lid crew (BitVec.ofNat 64 (nDone r.bytes)) (statusWord st 0 (nKind r.bytes) detail)
  else ((succs[r.fin - succs.length - 2]?).map fun a => s.countDown lid crew r.node a).getD s

/-- The number of the last action of a node's finish; a node whose status is not 0 counts no successor down (R286). -/
def RunNode.lastAct (r : RunNode) : Nat :=
  let n := (nSuccs r.bytes r.node.addr).length
  if r.status.1 = 0 then 2 * n + 1 else n + 1

/-- NODE_FINISH (R286): the next action of the finish of node `node`; after the last one the node leaves the queue. Where a check of what the action touches fails by now,
the node fails (R287). -/
def execNodeFinish (lid crew node : Nat) (s : State) : Host.Outcome State Fault Refusal :=
  .next (match (s.crewOf lid crew).graph.running.find? fun r => r.node.id == node && s.finishFree lid crew r with
    | some r =>
      match s.finishBad lid crew r with
      | some t => s.failRunning lid crew r t
      | none =>
      let s1 := (s.finishAct lid crew r).setRunning lid crew { r with fin := r.fin + 1 }
      if r.lastAct ≤ r.fin then s1.dropRunning lid crew node else s1
    | none => s)

/-- The first failure whose record can be written: what was running at its halt has finished (R287). -/
def Graph.recordDue (g : Graph) : Option Failure := g.failures.find? (·.waits == [])

/-- ERROR_AREA_WRITE (R287): the record, then the signal of the area's object. -/
def execErrorAreaWrite (lid crew : Nat) (s : State) : Host.Outcome State Fault Refusal :=
  .next (match (s.crewOf lid crew).graph.recordDue with
    | none => s
    | some f =>
      if !s.graphBound lid crew || s.graphHeld lid crew f.node.err 64 then s else
      let rec_ := bytesLE 8 f.node.addr.toNat ++ bytesLE 8 f.addr.toNat ++ bytesLE 4 f.discarded.toNat ++ bytesLE 1 f.cause ++ bytesLE 1 f.kind
        ++ List.replicate 26 0
      let s1 := s.graphWrite lid crew (f.node.err + 0x10) rec_
      (s1.graphSignal lid crew f.node.err (statusWord 1 f.cause f.kind 0)).modGraph lid crew fun g => { g with failures := g.failures.erase f })

/-! ### Pre-emption and killing -/

/-- A running node of a crew that is pre-empted stands at a stop (R288): a data node between two pieces, with no message under way; an XFORM anywhere. -/
def State.nodeStopped (s : State) (lid crew : Nat) (r : RunNode) : Bool :=
  nKind r.bytes == 2 || (r.piece.isNone && r.msg.isNone && (r.done || !(dataKind (nKind r.bytes) && s.graphHeld lid crew r.node.addr 64)))

/-- An XFORM of a crew that is pre-empted restarts from the beginning (R288); what the engine has accepted of an owner keeps its turn. -/
def RunNode.restart (r : RunNode) (owner : Bool) : RunNode :=
  if nKind r.bytes = 2 && !r.done then { r with piece := none, op := if owner then r.op else none } else r

/-- The graph queue of a crew that is killed, or whose launch ends: nothing more starts; running nodes finish (R335, R346). -/
def Graph.stopAll (g : Graph) : Graph := { g with halted := true, queued := [] }

/-- Something accepted still works on a tile. -/
def Engine.busyTile (e : Engine) (t : Nat) : Bool :=
  e.ops.any (fun o => o.work.tileOf == some t) || e.mmas.any fun m => m.tile == t && m.paused.isNone

/-- An XFORM of a crew that is killed, or whose launch ends, waits for a tile version that can no longer come: nothing accepted is left that could bring it. -/
def State.xformStuck (s : State) (lid crew : Nat) (r : RunNode) : Bool :=
  s.dying lid crew && !r.done && nKind r.bytes == 2 && xDkind r.bytes == 1 && r.op.isNone
    && !(s.engineFor lid crew).any fun e => (e.tile (nDst r.bytes)).due (xTver r.bytes % 16) || e.busyTile (nDst r.bytes)

/-- Once nothing else runs in the crew's graph, such XFORMs are given up (DEDUCED, log 21). -/
def State.settleStuck (s : State) (lid crew : Nat) : State :=
  let rs := (s.crewOf lid crew).graph.running
  if rs.all (s.xformStuck lid crew) then rs.foldl (fun st r => st.dropRunning lid crew r.node.id) s else s

/-- Tiles whose failed XFORM's turn has come: the tag is INVALID and VER advances (R287). -/
def State.settleDoomed (s : State) (core : Nat) : State :=
  (s.coreAt core).engine.doomed.foldl (fun st d =>
    if st.tileFree core d.1 d.2 then
      st.modEngine core fun e =>
        { e.modTile d.1 (fun t => { t with tag := none }.finish) with doomed := e.doomed.erase d }
    else st) s

end Sys2Proof.Machine
end

