-- ==== Sys2Proof/Machine/Lifecycle.lean ====
section
/-!
DEFINITION. Machine/Lifecycle.lean: the ends of crews and launches (R121, R306, R346), traps that Driene acts on (R303-R309),
their records (R307, R308), kills and relaunches (R335-R337), the end of a single step (R313).
-/
namespace Sys2Proof.Machine

/-! ### Records (R307, R308) -/

/-- A thread waits at a REJOIN, a barrier or a wait instruction (R307). -/
def Thread.waiting (t : Thread) : Bool :=
  match t.wait with
  | .run | .parked | .atomic .. | .load .. => false
  | _ => true

/-- The trap record of a squad (R307). -/
def trapRecord (sq : Squad) (core : Option Nat) : List Byte :=
  let c := sq.tcause.toNat
  bytesLE 1 c ++ bytesLE 1 (bitsOf c 8 2) ++ bytesLE 2 sq.num ++ bytesLE 4 sq.crew ++ bytesLE 4 sq.lid ++ bytesLE 4 sq.tlanes.toNat
    ++ bytesLE 8 sq.taddr.toNat ++ bytesLE 8 sq.tepc.toNat ++ bytesLE 2 ((core.map coreWord).getD 0) ++ bytesLE 2 0
    ++ bytesLE 4 sq.liveMask.toNat ++ bytesLE 4 (maskOf (sq.liveLanes.filter fun l => (sq.thread l).waiting)).toNat
    ++ List.replicate 20 0
    ++ (List.range 32).flatMap fun l => bytesLE 8 (if (sq.thread l).live then (sq.thread l).pc.toNat else 1)

/-- One entry of a diagnostic record (R308). -/
structure DiagEntry where
  crew : Nat
  squad : Nat
  state : Nat
  live : BitVec 32
  arrived : BitVec 32
  pc : Word
  deriving DecidableEq, Repr

def DiagEntry.bytes (e : DiagEntry) : List Byte :=
  bytesLE 4 e.crew ++ bytesLE 1 e.squad ++ bytesLE 1 e.state ++ bytesLE 2 0 ++ bytesLE 4 e.live.toNat ++ bytesLE 4 e.arrived.toNat
    ++ bytesLE 8 e.pc.toNat ++ List.replicate 8 0

/-- The entry of a squad that has not retired: which of its threads have arrived, and whether it has. -/
def liveEntry (sq : Squad) (arrived : BitVec 32) (whole : Bool) : DiagEntry :=
  let rest := sq.liveLanes.filter fun l => !arrived.getLsbD l
  let at_ := match rest, sq.liveLanes with
    | l :: _, _ => (sq.thread l).pc
    | [], l :: _ => (sq.thread l).pc
    | [], [] => 1
  ⟨sq.crew, sq.num, if whole then 1 else 0, sq.liveMask, arrived, at_⟩

/-- A squad of a launch that has not retired, bound or saved. -/
def State.squadOf (s : State) (lid c k : Nat) : Option Squad :=
  match s.activeRecord ⟨lid, c, k⟩ with
  | some q => s.squad? q
  | none => ((s.crewOf lid c).saved.find? (·.1 == k)).map (·.2)

/-- The entry of an expected squad of a phase. -/
def State.phaseEntry (s : State) (lid c k : Nat) (arr : Thread → Option Nat) (phase : Nat) (since : Option (BitVec 32)) : DiagEntry :=
  match s.squadOf lid c k with
  | some sq => liveEntry sq (sq.arrivedMask arr phase) (sq.arrivedAt arr phase)
  | none => ⟨c, k, if since.isSome then 1 else 2, 0, since.getD 0, 1⟩

/-- The threads of a squad that has retired, by which it had arrived at a group's phase. -/
def Launch.arrivedSince (l : Launch) (c k g p : Nat) : Option (BitVec 32) :=
  (l.arrived.find? fun x => x.crew == c && x.num == k && x.group == g && x.phase == p).map (·.lanes)

/-- The header's BARRIER, ID and PHASE of a watched wait, and its entries (R308). -/
def State.diagParts (s : State) (lid : Nat) : Watch → Nat × Nat × Nat × List DiagEntry
  | .barC c p =>
    let ks := (List.range 16).filter fun k => (s.squadOf lid c k).isSome
    (0, c, p, ks.map fun k => s.phaseEntry lid c k Thread.phaseC p none)
  | .barG g p =>
    let l := s.launchOf lid
    (1, g, p, (l.expected g).map fun (c, k) => s.phaseEntry lid c k (Thread.phaseG g) p (l.arrivedSince c k g p))
  | .enum c off gbase gsize =>
    (2, c, off, (List.range (gsize + 1)).map fun i =>
      match s.squadOf lid c (gbase + i) with
      | some sq =>
        let m := maskOf (sq.liveLanes.filter fun l => match (sq.thread l).wait with
          | .enum _ _ w => (descOf w).offset == off
          | _ => false)
        liveEntry sq m (m != 0 && m == sq.liveMask)
      | none => ⟨c, gbase + i, 2, 0, 0, 1⟩)
  | .tile c _ t v =>
    let waits := fun (sq : Squad) => sq.liveLanes.filter fun l => match (sq.thread l).wait with
      | .tile t' v' _ => t' == t && v' == v
      | _ => false
    (3, c, v * 16 + t, ((s.crewRecords lid c).map (·.2)).filterMap fun sq =>
      match waits sq with
      | [] => none
      | l :: ls => some ⟨c, sq.num, 1, sq.liveMask, maskOf (l :: ls), (sq.thread l).pc⟩)

/-- The diagnostic record of a barrier timeout (R308). -/
def State.diagRecord (s : State) (lid : Nat) (w : Watch) : List Byte :=
  let (kind, id, phase, es) := s.diagParts lid w
  let l := s.launchOf lid
  bytesLE 1 0x0E ++ bytesLE 1 kind ++ bytesLE 2 0 ++ bytesLE 4 id ++ bytesLE 4 phase ++ bytesLE 4 lid
    ++ bytesLE 4 (if l.wdog = 0 then 65536 else l.wdog) ++ bytesLE 4 es.length ++ List.replicate 40 0
    ++ es.flatMap DiagEntry.bytes

/-! ### Joined sets -/

/-- The number of a joined set: its lowest crew. -/
def setNumber : List (Nat × Nat) → Nat
  | [] => 0
  | (a, _) :: rs => rs.foldl (fun m r => min m r.1) a

/-- The crews of inclusive ranges, ascending by range. -/
def crewsIn (rs : List (Nat × Nat)) : List Nat := (rs.flatMap fun (a, b) => (List.range (b + 1 - a)).map (a + ·)).eraseDups

/-- The crews of a launch that satisfy a test have nothing under way: no writes, atomics that wait to be performed, tracker entries, engine operations,
graph nodes, or error records to write (R335, R346). An MMA.Q whose intake was interrupted is not under way. -/
def State.quiet (s : State) (lid : Nat) (p : Nat → Bool) : Bool :=
  let mine := fun (r : SquadRef) => r.lid == lid && p r.crew
  !s.mem.writes.any (fun w => mine w.by_)
    && !s.records.any (fun (_, sq) => mine sq.ref && sq.holdsIssue)
    && !s.io.nvme.any (fun c => match c with | .write _ _ _ b _ _ | .read _ _ _ _ b _ _ | .zeroes _ _ b _ _ | .flush b _ _ => mine b | _ => false)
    && s.cores.all (fun c => !c.2.tracker.any mine && !c.2.engine.ops.any (fun o => mine o.by_)
        && !c.2.engine.mmas.any (fun m => mine m.by_ && m.paused.isNone))
    && (s.crewsOf lid).all fun c => !p c.idx || (c.graph.running == [] && c.graph.recordDue.isNone)

/-! ### Freeing (R121, R346) -/

/-- A crew leaves its core: its records and the matrix engine are freed. -/
def State.leaveCore (s : State) (lid c : Nat) : State :=
  let s1 := (s.crewRecords lid c).foldl (fun st (q, _) => st.freeRecord q) s
  match (s1.crewOf lid c).core with
  | none => s1
  | some k =>
    let s2 := if (s1.coreAt k).engine.owner = some (lid, c) then s1.modEngine k fun _ => {} else s1
    s2.modCrew lid c fun cr => { cr with core := none }

/-- Bytes of the context images of a crew: 16 squads and the stream (R318). -/
abbrev crewImageBytes : Nat := 17 * imageBytesOf

/-- The context images of a crew go back to the free memory. -/
def State.freeImage (s : State) (lid c : Nat) : State :=
  match (s.crewOf lid c).image with
  | some a => (s.giveFrame a crewImageBytes).modCrew lid c fun cr => { cr with image := none }
  | none => s

/-- The views of covered regions that no running launch of the job leases any more are dropped (R211). -/
def State.dropViewsOf (s : State) (l : Launch) : State :=
  let others := (s.jobLaunches l.job).filter (·.lid != l.lid)
  let gone := s.mem.views.filter fun (_, e) => e.live && e.job == l.job && (l.coveredRegion e.region.toNat).isSome
    && others.all fun o => (o.coveredRegion e.region.toNat).isNone
  gone.foldl (fun st (i, _) => st.dropView i) s

/-- The deques that a launch owns are emptied and free (R330). -/
def State.freeDeques (s : State) (lid : Nat) : State :=
  { s with cores := s.cores.map fun (n, c) => (n, if c.dqOwner = some lid then { c with dqOwner := none, deque := [] } else c) }

/-- The sockets of a launch are closed, each with an end for its peer (R368). -/
def State.closeSockets (s : State) (lid : Nat) : State :=
  let s1 := (s.io.sockets.filter fun k => k.lid == lid && !k.broken).foldl (fun st k => st.sendTo k.job k.peer (.sockEnd k.n k.out)) s
  { s1 with io := { s1.io with sockets := s1.io.sockets.filter (·.lid != lid) } }

/-- All that a launch holds is freed: crews with their images, the stack pool, deques, handles, views, ranges; the LID can be used again (R211, R330, R346,
R367, R368). A CANCEL that waits for the end is answered. -/
def State.freeLaunch (s : State) (lid : Nat) : State :=
  let l := s.launchOf lid
  let s1 := (s.crewsOf lid).foldl (fun st c => (st.leaveCore lid c.idx).freeImage lid c.idx) s
  let s2 := { (s1.freeDeques lid).closeSockets lid with crews := s1.crews.filter fun c => c.2.lid != lid }
  let s3 := l.pool.foldl (fun st p => st.giveFrame p.1 p.2) ((s2.dropViewsOf l).releaseRanges l)
  let s4 := s3.setLaunch lid { lid := lid, job := l.job, reqid := l.reqid, status := .ended }
  match l.cancel with
  | some r => s4.reply 0x05 0 r l.job []
  | none => s4

/-- DONE is signalled (R121, R346). -/
def State.signalDone (s : State) (l : Launch) (word : Nat) : State :=
  match s.job? l.job with
  | some j => s.signalAt j l.doneObj.toNat word
  | none => s

/-- The page of DONE is under write-back, so the signal waits (R194). -/
def State.doneHeld (s : State) (l : Launch) : Bool :=
  match (s.job? l.job).bind fun j => s.jobPlace j l.doneObj.toNat with
  | some (pa, _) => s.pageHeld l.job l.doneObj.toNat pa
  | none => false

/-! ### Ending a launch (R306) -/

/-- A crew stops: its MMA.Q stands at a micro-tile boundary, and its graph starts nothing more; a request to stop it for pre-emption is over. -/
def State.stopCrew (s : State) (c : Crew) : State :=
  let s1 := (s.crewRecords c.lid c.idx).foldl (fun st (q, _) => st.stopIntake q) s
  s1.modCrew c.lid c.idx fun x => { x with graph := x.graph.stopAll, stopReq := false }

/-- Every squad and stream of a launch stops; DONE follows when its writes have landed (R306, R346). A launch that is ending
already keeps its first cause (R367). -/
def State.endLaunch (s : State) (lid cause : Nat) : State :=
  match s.launch? lid with
  | none => s
  | some l =>
    if l.status = .running || l.status = .admitted then
      (s.crewsOf lid).foldl State.stopCrew (s.setLaunch lid { l with status := .ending cause })
    else s

/-- The launch's records, and its cause where it is ending. -/
def State.addRecords (s : State) (lid : Nat) (rs : List (List Byte)) : State :=
  s.modLaunch lid fun l => { l with records := l.records ++ rs }

/-- A launch that is ending and has nothing under way: the cause (R346). -/
def State.endDue (s : State) (lid : Nat) : Option Nat :=
  match s.launchOf lid |>.status with
  | .ending c => if s.quiet lid (fun _ => true) && !s.doneHeld (s.launchOf lid) then some c else none
  | _ => none

/-- LAUNCH_ENDED (R346): DONE with CODE 1 and the cause, the TERMINATION report (R367), then all is freed. -/
def execLaunchEnded (lid : Nat) (s : State) : Host.Outcome State Fault Refusal :=
  .next (match s.endDue lid with
    | none => s
    | some c =>
      let l := s.launchOf lid
      let word := statusWord 1 c 0 0
      (((s.signalDone l word).note (.report 0x81 l.job (bytesLE 4 lid ++ bytesLE 8 word ++ l.records.flatten))).freeLaunch lid))

/-! ### Completion of a crew (R121) -/

/-- The whey engine has acted on all that a crew posted, and every granule of its launch's covered ranges whose count is 0 has been freed: what R301 shows of the
state at DONE (DEDUCED, log 74). -/
def State.wheyDone (s : State) (lid c : Nat) : Bool :=
  let l := s.launchOf lid
  !s.mem.whey.any (fun d => d.by_.lid == lid && d.by_.crew == c)
    && (l.ranges.filter (·.cls == 1)).all fun r => (granulesOf r.base (r.base + r.length)).all fun va =>
      let g := s.granule l.job va
      !(g.present && g.count == 0)

/-- The crew has retired whole, and nothing of it is under way. -/
def State.crewDone (s : State) (lid c : Nat) : Bool :=
  let cr := s.crewOf lid c
  (s.launchOf lid).status == .running && cr.core.isSome && !cr.completed && s.allRetired lid c && s.quiet lid (· == c)
    && cr.graph.queued == [] && s.wheyDone lid c && !inRanges (s.launchOf lid).killing c && !s.doneHeld (s.launchOf lid)

/-- Every crew of the launch has completed. -/
def State.launchDone (s : State) (lid : Nat) : Bool :=
  ((s.crewsOf lid).filter (·.completed)).length == (s.launchOf lid).crews

/-- CREW_COMPLETE (R121): the scratchpad and the slots are free; with the last crew DONE is signalled once. Where other crews of the gang still run, the allocation reads 0
from here on and takes later writes, until the launch ends: R121 frees it, and R183 has every allocation of the gang present while a member runs (DESIGN CHOICE, log 77). -/
def execCrewComplete (lid crew : Nat) (s : State) : Host.Outcome State Fault Refusal :=
  .next (
    if s.crewDone lid crew then
      let s1 := ((s.leaveCore lid crew).freeImage lid crew).modCrew lid crew fun c =>
        { lid := lid, idx := crew, started := true, completed := true, boundAt := c.boundAt }
      if s1.launchDone lid then (s1.signalDone (s1.launchOf lid) 0).freeLaunch lid else s1
    else s)

/-! ### Kills and relaunches (R334-R337) -/

/-- The views that the crews of a set created are dropped (R211). -/
def State.dropAttempt (s : State) (l : Launch) (set : List (Nat × Nat)) : State :=
  let mine := l.views.filter fun v => inRanges set v.1
  (mine.foldl (fun st v =>
    let e := SMap.get ({} : View) st.mem.views v.2.1
    if e.live && e.gen.toNat == v.2.2 then st.dropView v.2.1 else st) s).modLaunch l.lid fun l =>
      { l with views := l.views.filter fun v => !inRanges set v.1 }

/-- Driene stops a joined set, and drops the views that its attempt created (R211, R334, R335). -/
def State.killSet (s : State) (lid c cause : Nat) : State :=
  let l := s.launchOf lid
  let set := l.joined c
  if l.status ≠ .running || inRanges l.killing c then s else
  let s1 := s.modLaunch lid fun l => { l with
    killing := l.killing ++ set
    kills := SMap.set 0 l.kills (setNumber set) (SMap.get 0 l.kills (setNumber set) + 1)
    killCauses := SMap.set 0 l.killCauses (setNumber set) cause }
  ((s1.joinedCrews lid c).foldl State.stopCrew s1).dropAttempt l set

/-- A killed set may be relaunched (R336). -/
def State.mayRelaunch (s : State) (l : Launch) (set : List (Nat × Nat)) : Bool :=
  let inSet := fun c => inRanges set c
  l.replay && !(s.crewsOf l.lid).any (fun c => inSet c.idx && c.completed) && !l.signalled.any inSet && !l.narrowed.any inSet
    && decide (SMap.get 0 l.kills (setNumber set) ≤ 2)

/-- A killed set starts afresh (R337): its crews are no longer bound, and wait to be bound anew. -/
def State.relaunch (s : State) (l : Launch) (set : List (Nat × Nat)) : State :=
  let mine := (s.crewsOf l.lid).filter fun c => inRanges set c.idx
  let s1 := mine.foldl (fun st c => ((st.leaveCore l.lid c.idx).freeImage l.lid c.idx).setCrew l.lid c.idx
    { lid := l.lid, idx := c.idx, idleSince := s.cycle }) s
  let touches := fun g => rangesMeet (l.group g) set
  s1.modLaunch l.lid fun l => { l with
    killing := l.killing.filter fun r => !set.contains r
    merged := l.merged.filter fun m => !inRanges set m.1
    arrived := l.arrived.filter fun a => !inRanges set a.crew
    phases := l.phases.filter fun p => !touches p.1 }

/-- RELAUNCH_DECISION (R335, R336): once the writes of a killed set have landed. -/
def execRelaunchDecision (lid crew : Nat) (s : State) : Host.Outcome State Fault Refusal :=
  .next (
    let l := s.launchOf lid
    let set := l.joined crew
    if l.status ≠ .running || !inRanges l.killing crew || !s.quiet lid (inRanges set) then s
    else if s.mayRelaunch l set then s.relaunch l set
    else s.endLaunch lid (SMap.get 0x11 l.killCauses (setNumber set)))

/-! ### Traps that are due, and what a cycle still has to apply (R303, R328) -/

/-- A system call releases, at system scope, every access of the calling threads: what has been performed for them is performed for the system (R228, R310). -/
def State.callReleased (s : State) (sq : Squad) : Bool :=
  sq.tcause.toNat % 256 != 0x20 || (lanesOf (sq.tlanes.truncate 32)).all fun l => s.fenced sq.ref l 4 false s.seq

/-- A trap of a squad whose writes have landed, in a launch that runs and a set that is not being killed. -/
def State.trapDue (s : State) (q : Nat) : Bool :=
  match s.squad? q with
  | none => false
  | some sq => sq.status == .trapped && !s.hasWrites sq.ref && !sq.accessing && s.callReleased sq && (s.launchOf sq.lid).status == .running
      && !inRanges (s.launchOf sq.lid).killing sq.crew

/-- A release or a mismatch at REJOIN is due for a squad, a retirement, or a trap (R328). -/
def State.squadDue (s : State) (q : Nat) (sq : Squad) : Bool :=
  s.canRetire q || s.trapDue q ||
    (!sq.rejoinsLater s.cycle && ((List.range 4).any sq.joinReady || (sq.canTrap && sq.mismatch != [])))

/-- Every event of R328 that is due for a crew has been applied: those of its squads, its barrier's phase, its ENUM gatherings. -/
def State.crewSettled (s : State) (c : Crew) : Bool :=
  (s.crewRecords c.lid c.idx).all (fun (q, sq) => !s.squadDue q sq
      && sq.liveLanes.all fun l => match (sq.thread l).wait with
        | .enum _ _ w => (s.enumReady c.lid c.idx (descOf w).gbase).isNone
        | _ => true)
    && !s.crewPhaseDone c.lid c.idx

/-- The same of a launch, with the phases of its groups. -/
def State.launchSettled (s : State) (lid : Nat) : Bool :=
  (s.crewsOf lid).all s.crewSettled && (List.range (s.launchOf lid).groups.length).all fun g => !s.groupPhaseDone lid g

/-! ### Watchdog (R145, R346, R347) -/

/-- A watched wait ends in this cycle: its last squad has arrived, its group has assembled, its version is due (R347). -/
def State.watchOver (s : State) (lid : Nat) : Watch → Bool
  | .barC c _ => s.crewArrived lid c
  | .barG g _ => s.groupArrived lid g
  | .enum c _ gbase _ => (s.enumReady lid c gbase).isSome
  | .tile c k _ _ => match s.recordFor ⟨lid, c, k⟩ with
    | some q => (s.tileReady q).isSome
    | none => false

/-- The n-th watched wait of a launch has reached its limit, and counts in this cycle, and does not end in it (R329, R347). -/
def State.atLimit (s : State) (lid n : Nat) : Option Watch :=
  let l := s.launchOf lid
  match l.watches[n]? with
  | some (w, k) =>
    if l.status == .running && decide (l.limit ≤ k) && (s.watchedNow lid).contains w && s.watchCounts lid w && !s.watchOver lid w then some w else none
  | none => none

/-- It times out once what the cycle has to apply is applied (R346, R347). -/
def State.timedOut (s : State) (lid n : Nat) : Option Watch := (s.atLimit lid n).filter fun _ => s.launchSettled lid

/-- A watched wait of some launch has reached its limit in this cycle (R329). -/
def State.anyAtLimit (s : State) : Bool :=
  s.launches.any fun x => x.2.any fun l => (List.range l.watches.length).any fun n => (s.atLimit l.lid n).isSome

/-- A squad as the timeout stops it: TEPC at its lowest live thread (R346). -/
def Squad.timeout (sq : Squad) : Squad :=
  { sq with
    tcause := BitVec.ofNat 64 (0x0E + (if sq.num = 16 then 256 else 0)), tlanes := 0, taddr := 0
    tepc := match sq.liveLanes with | l :: _ => (sq.thread l).pc | [] => 0
    brkCode := none
    invs := []
    status := .trapped
    threads := sq.threads.map fun (l, t) => (l, t.landAll) }

/-- WATCHDOG_TIMEOUT (R145, R308, R346): the squads stop, the records are written, of the squads that have not retired, and the launch ends. -/
def execWatchdogTimeout (lid n : Nat) (s : State) : Host.Outcome State Fault Refusal :=
  .next (match s.timedOut lid n with
    | none => s
    | some w =>
      let diag := s.diagRecord lid w
      let bound := (s.records.filter fun (_, sq) => sq.lid == lid && !sq.retired && sq.num != 16).map fun (q, sq) => (q, sq.timeout)
      let saved := (s.crewsOf lid).flatMap fun c => (c.saved.filter (·.1 != 16)).map fun x => x.2.timeout
      let s1 := bound.foldl (fun st (q, sq) => st.setSquad q sq) s
      let recs := bound.map (fun (q, sq) => trapRecord sq (some (coreOf q))) ++ saved.map fun sq => trapRecord sq none
      (s1.addRecords lid (diag :: recs)).endLaunch lid 0x0E)

/-! ### Traps (R303, R306, R309) -/

/-- A stopped squad is handed to the debugger (R306, R312). -/
def State.toDebugger (s : State) (q : Nat) : State :=
  let sq := s.squad q
  (s.modSquad q fun sq => { sq with status := .debug }).note (.toDebugger sq.lid (trapRecord sq (some (coreOf q))))

/-- Driene's action on a trap (R306). -/
def State.actOnTrap (s : State) (q : Nat) : State :=
  let sq := s.squad q
  let cause := sq.tcause.toNat % 256
  let s1 := s.stopIntake q
  let record := trapRecord sq (some (coreOf q))
  if cause = 0x20 then s1.modSquad q fun x => { x with status := .serving (sq.tlanes.truncate 32) }
  else if cause = 0x10 || cause = 0x11 then (s1.addRecords sq.lid [record]).killSet sq.lid sq.crew cause
  else if (s.launchOf sq.lid).debugger then s1.toDebugger q
  else (s1.addRecords sq.lid [record]).endLaunch sq.lid cause

/-- TRAP_TAKEN (R303, R306). -/
def execTrapTaken (q : Nat) (s : State) : Host.Outcome State Fault Refusal := .next (if s.trapDue q then s.actOnTrap q else s)

/-- The word of SYSCALL, which enters SIG when its thread is resumed past it (R309, R340). -/
abbrev syscallWord : BitVec 32 := 0x000000E7

/-- A thread is resumed past its SYSCALL or BRK (R309, R312, R340). -/
def Thread.past (t : Thread) (epc : Word) (word : BitVec 32) : Thread := { t with pc := epc + 4, sig := sigHash t.sig word }

/-- The result of a lane's system call is written; after the last lane the squad is resumed (R309), or stands again for the
debugger that stepped it (R313). -/
def State.answerCall (s : State) (q lane : Nat) (v : Word) : State :=
  match s.squad? q with
  | none => s
  | some sq =>
    match sq.status with
    | .serving ls =>
      let rest := ls &&& ~~~(1#32 <<< lane)
      let s1 := s.modThread q lane fun t => { t with regs := SMap.set Reg.zero t.regs 0 ⟨v, .i64⟩ }
      if rest ≠ 0 then s1.modSquad q fun x => { x with status := .serving rest } else
      let s2 := (lanesOf (sq.tlanes.truncate 32)).foldl (fun st l => st.modThread q l fun t => t.past sq.tepc syscallWord) s1
      if sq.tcause.getLsbD 9 then s2.modSquad q fun x => { x with status := .debug } else s2.resume q
    | _ => s

/-! ### The end of a single step (R313) -/

/-- The stepped instruction has issued, an INV has completed whole, an atomic or a load has been performed, and its writes have landed. -/
def State.stepOver (s : State) (q : Nat) : Option (Word × BitVec 32) :=
  match s.squad? q with
  | none => none
  | some sq => match sq.status with
    | .stepped pc lanes =>
      if s.hasWrites sq.ref || sq.accessing || sq.invs.any (fun r => r.lanes &&& lanes != 0) then none else some (pc, lanes)
    | _ => none

/-- SINGLE_STEP_STOP (R313). -/
def execSingleStepStop (q : Nat) (s : State) : Host.Outcome State Fault Refusal :=
  .next (match s.stepOver q with
    | none => s
    | some (pc, lanes) =>
      (s.modSquad q fun sq => { sq with
        tcause := BitVec.ofNat 64 (0x221 + (if sq.num = 16 then 256 else 0)), tlanes := lanes.zeroExtend 64, taddr := 0, tepc := pc, brkCode := none
        threads := sq.threads.map fun (l, t) => (l, t.landAll) }).toDebugger q)

end Sys2Proof.Machine
end

