-- ==== Sys2Proof/Machine/Timing.lean ====
section
/-!
DEFINITION. Machine/Timing.lean: what time brings to the threads of a squad: stalls pass (R56), register writes, register lines
and network configurations arrive (R57, R135, R179), YIELD ends (R322), stores land (R223).
-/
namespace Sys2Proof.Machine

/-- The cycle has nothing left that it must still hold: no issue set that has a port (R321), no release or mismatch at REJOIN (R116, R117), no watched wait at its
limit (R329). -/
def State.mayTick (s : State) : Bool :=
  s.candidates.isEmpty && !s.anyAtLimit && s.records.all fun (_, sq) =>
    sq.rejoinsLater s.cycle || !((List.range 4).any sq.joinReady || (sq.canTrap && sq.mismatch != []))

/-- n cycles pass, as far as each may. -/
def State.ticks (s : State) : Nat → State
  | 0 => s
  | n + 1 => if s.mayTick then s.tick.ticks n else s

/-- STALL_ELAPSED (R56): the cycles of a thread's stall pass. -/
def execStallElapsed (q lane : Nat) (s : State) : Host.Outcome State Fault Refusal :=
  .next (let t := s.thread q lane
    if t.live && decide (s.cycle < t.readyAt) then s.ticks (t.readyAt - s.cycle) else s)

/-- The first scoreboarded write of a thread. -/
def Thread.nextSb (t : Thread) : Option RegWrite := t.pend.find? (·.sb)

/-- The first scoreboarded write of a thread lands, with the others of its instruction and what it shifted (R10, R57). -/
def Thread.landOne (t : Thread) : Thread :=
  match t.nextSb with
  | none => t
  | some w => { t with pend := t.pend.filter fun x => !(x.sb && x.iss == w.iss) }

/-- What would land first may: the earlier writes to its places have landed (R57). -/
def Thread.mayLand (t : Thread) (now : Nat) : Bool :=
  match t.nextSb with
  | none => false
  | some w => t.pend.all fun x => !(x.sb && x.iss == w.iss) || decide (x.due ≤ now)

/-- The lanes whose first scoreboarded write lands with that of a lane: those of one issue (DEDUCED, log 75). -/
def Squad.landsWith (sq : Squad) (lane : Nat) : List Nat :=
  match (sq.thread lane).nextSb with
  | none => []
  | some w => sq.liveLanes.filter fun l => (sq.thread l).nextSb.any fun x => x.iss == w.iss

/-- The scoreboarded writes that would land with a lane's may all land. -/
def Squad.mayLand (sq : Squad) (lane now : Nat) : Bool :=
  sq.landsWith lane != [] && (sq.landsWith lane).all fun l => (sq.thread l).mayLand now

/-- A load may be performed anew now. One at the atomic point is performed after the writes to its bytes that its thread knows (R217, R236). What has not been performed
for all parties is not taken up where a later release or fence of the thread already stands by what was performed for it before (R226, R228). -/
def State.mayReload (s : State) (q : Nat) (r : Read) : Bool :=
  let met := s.mem.writes.filter fun w => w.meets r.loc r.size && s.sees r.by_ r.lane w
  let own := fun (w : Write) => w.by_ == r.by_ && w.lane == r.lane
  s.readOpen r && if r.fresh then met == [] else
    met.all own || ((s.thread q r.lane).wait == .run && !s.mem.writes.any fun w => own w && w.rel && decide (r.seq < w.seq))

/-- A load is performed anew, with what memory holds for its thread now (R223, R241, R345). -/
def State.reload (s : State) (q : Nat) (r : Read) : State :=
  let cx : Ctx := { q := q, lane := r.lane, lid := r.by_.lid, crew := r.by_.crew, num := r.by_.num }
  let x := s.readLoc cx r.loc r.size
  (match r.loc.place with
    | some p => s.noteRead p
    | none => s).modThread q r.lane fun t => t.reload r.seq (loadResult r.sgn r.tag x.1 x.2)

/-- The loads of a thread that are not fixed. -/
def State.readsOf (s : State) (q lane : Nat) : List Read :=
  s.mem.reads.filter fun r => r.by_ == (s.squad q).ref && r.lane == lane

/-- SCOREBOARD_WRITE_LANDS (R57, R223): the first scoreboarded result of a thread lands; or, with n + 1, its n-th load that is not fixed is performed anew. -/
def execScoreboardWriteLands (q : Nat) (part : LandPart) (s : State) : Host.Outcome State Fault Refusal :=
  .next (match part.n with
    | 0 => if (s.squad q).mayLand part.lane s.cycle then ((s.squad q).landsWith part.lane).foldl (fun st l => st.modThread q l Thread.landOne) s else s
    | n + 1 => match (s.readsOf q part.lane)[n]? with
      | some r => if s.mayReload q r then s.reload q r else s
      | none => s)

/-- The registers of a register line: code and lane (R178). -/
def lineRegs (line : Nat) : List (Nat × Nat) :=
  if line < 224 then (List.range 8).map fun i => (line / 4, 8 * (line % 4) + i)
  else (List.range 4).flatMap fun k => (List.range 32).map fun l => (4 * (line - 224) + k, l)

/-- What a register holds at a cycle turns POISON: the old value, where a write of it has not landed (R57, R179). -/
def Thread.poisonReg (t : Thread) (now c : Nat) : Thread :=
  let i := t.pend.findIdx fun w => w.dst == c && (w.sb || decide (now < w.due))
  if i < t.pend.length then { t with pend := t.pend.modify i fun w => { w with old := { w.old with tag := .poison } } }
  else { t with regs := SMap.set Reg.zero t.regs c { SMap.get Reg.zero t.regs c with tag := .poison } }

/-- A register line has an uncorrectable error: every register in it turns POISON (R179). -/
def Squad.poisonLine (sq : Squad) (now line : Nat) : Squad :=
  ((lineRegs line).filter fun x => x.1 < 56).foldl (fun q x =>
    if (q.thread x.2).live then q.setThread x.2 ((q.thread x.2).poisonReg now x.1) else q) sq

/-- The 64 bytes of line n of a squad's register image (R178): eight lanes of a register, 8 bytes each; or the tags of four, lane L's in nibble L. -/
def Squad.imageLine (sq : Squad) (n : Nat) : List Byte :=
  let r := fun (c l : Nat) => SMap.get Reg.zero (sq.thread l).regs c
  if n < 224 then (List.range 8).flatMap fun i => bytesLE 8 (r (n / 4) (8 * (n % 4) + i)).data.toNat
  else (List.range 4).flatMap fun k => (List.range 16).map fun b =>
    BitVec.ofNat 8 (tagCode (r (4 * (n - 224) + k) (2 * b)).tag + 16 * tagCode (r (4 * (n - 224) + k) (2 * b + 1)).tag)

/-- REGISTER_LINE_ARRIVES (R179): the line comes from the squad's image; an error in it makes its registers POISON. -/
def execRegisterLineArrives (q line : Nat) (s : State) : Host.Outcome State Fault Refusal :=
  .next (s.modSquad q fun sq =>
    let back := { sq with missing := sq.missing.filter (· != line) }
    if sq.missing.contains line && s.poisoned (.dram (sq.ctx + 64 * line) 0) then back.poisonLine s.cycle line else back)

/-- The configuration that lands next, where its 64 cycles have passed (R135). -/
def Squad.netDue (sq : Squad) (now : Nat) : Option NetWrite := sq.nPend.head?.filter fun x => decide (x.due ≤ now)

/-- A network configuration is written (R135). -/
def Squad.landNet (sq : Squad) (x : NetWrite) : Squad := { sq with n := SMap.set [] sq.n x.n x.map, nPend := sq.nPend.drop 1 }

/-- SETNET_CONFIG_LANDS (R135). -/
def execSetnetConfigLands (q : Nat) (s : State) : Host.Outcome State Fault Refusal :=
  .next (s.modSquad q fun sq =>
    match sq.netDue s.cycle with
    | some x => sq.landNet x
    | none => sq)

/-- YIELD_EXPIRES (R322): the 16 contended cycles are over. -/
def execYieldExpires (q : Nat) (s : State) : Host.Outcome State Fault Refusal :=
  .next (s.modSquad q fun sq => if sq.yielded = 1 then { sq with yielded := 0 } else sq)

/-- WRITE_LANDS (R223): the n-th outstanding write is performed for the next wider scope, or lands. -/
def execWriteLands (n : Nat) (s : State) : Host.Outcome State Fault Refusal := .next (if s.canLand n then s.landNth n else s)

end Sys2Proof.Machine
end

