-- ==== Sys2Proof/Machine/Binding.lean ====
section
/-!
DEFINITION. Machine/Binding.lean: crews are bound to cores (R107-R109, R122, R249, R254, R318-R320, R326) and pre-empted
(R323, R324, R328).
-/
namespace Sys2Proof.Machine

/-! ### Room on a core -/

/-- Squads that a crew puts on its core: the saved ones, or all of a fresh crew. -/
def Launch.slotsFor (l : Launch) (c : Crew) : Nat := if c.started then (c.saved.filter (·.1 != 16)).length else l.squads

def Crew.hasStream (c : Crew) : Bool := c.saved.any (·.1 == 16)

/-- Squad records in use on a core. -/
def State.slotsUsed (s : State) (core : Nat) : Nat := (s.records.filter fun (q, _) => coreOf q == core && recordOf q != 16).length

/-- The crews bound to a core. -/
def State.crewsOn (s : State) (core : Nat) : List Crew := s.crews.filterMap fun (_, c) => if c.core == some core then some c else none

/-- Scratchpad bytes in use on a core. -/
def State.scratchUsed (s : State) (core : Nat) : Nat := (s.crewsOn core).foldl (fun n c => n + (s.launchOf c.lid).scratch) 0

/-- A crew and a core. -/
abbrev Spot := Nat × Nat

/-- A core has the squad slots, the scratchpad and the matrix engine for a crew, beside the crews already placed there in the same step (R107, R108, R254). -/
def State.slotsRoom (s : State) (l : Launch) (placed : List Spot) (x : Spot) : Bool :=
  let here := (placed.filter (·.2 == x.2)).map fun p => s.crewOf l.lid p.1
  decide (x.2 < Config.cores)
    && decide (s.slotsUsed x.2 + (here.map l.slotsFor).sum + l.slotsFor (s.crewOf l.lid x.1) ≤ Config.squadSlots)
    && decide (s.scratchUsed x.2 + (here.length + 1) * l.scratch ≤ 1048576)
    && (!l.marked || ((s.coreAt x.2).engine.owner.isNone && here == []))

/-- A crew of a launch fits a core: also the producer slot and the deque (R320) are free for it. -/
def State.roomFor (s : State) (l : Launch) (placed : List Spot) (x : Spot) : Bool :=
  let here := (placed.filter (·.2 == x.2)).map fun p => s.crewOf l.lid p.1
  let co := s.coreAt x.2
  s.slotsRoom l placed x
    && (!(s.crewOf l.lid x.1).hasStream || ((s.squad? (recordKey x.2 16)).isNone && !here.any Crew.hasStream))
    && (!l.deques || co.dqOwner.isNone || co.dqOwner == some l.lid)
    && (!(l.deques && l.det) || (here == [] && !(s.crewsOn x.2).any (·.lid == l.lid)))

/-- The crews of a gang stand on distinct cores of one quad (R107). -/
def gangApart (gang : Nat) (placed : List Spot) (x : Spot) : Bool :=
  placed.all fun p => p.1 / gang != x.1 / gang || (p.2 / 4 == x.2 / 4 && p.2 != x.2)

/-- Places that can be taken together. -/
def State.placesOk (s : State) (l : Launch) : List Spot → List Spot → Bool
  | _, [] => true
  | done, x :: rest => s.roomFor l done x && gangApart l.gang done x && State.placesOk s l (done ++ [x]) rest

/-! ### Which set is bound -/

/-- The crews of a joined set that are to be bound: unbound and not completed. -/
def State.unboundOf (s : State) (l : Launch) (set : List (Nat × Nat)) : List Nat :=
  (crewsIn set).filter fun c => (s.crewOf l.lid c).core.isNone && !(s.crewOf l.lid c).completed

/-- The crew that a thread waits for at WAITCREW (R249). -/
def Thread.awaitedCrew (t : Thread) : Option Nat :=
  match t.wait with
  | .blocked (.waitcrew a) => some (SMap.get Reg.zero t.regs a.toNat).data.toNat
  | _ => none

def Squad.anyWaitcrew (sq : Squad) : Bool := sq.liveLanes.any fun l => (sq.thread l).awaitedCrew.isSome

/-- Every live thread of some squads of a launch waits at WAITCREW, for a crew that has not completed. -/
def State.allWait (s : State) (lid : Nat) (sqs : List Squad) : Bool :=
  sqs != [] && sqs.all fun sq => sq.liveLanes.all fun l => (sq.thread l).awaitedCrew.any fun n => !(s.crewOf lid n).completed

/-- Crews below m that satisfy a test are all of them. -/
def State.allBelow (s : State) (lid m : Nat) (p : Crew → Bool) : Bool :=
  ((s.crewsOf lid).filter fun c => decide (c.idx < m) && p c).length == m

/-- A crew that was pre-empted while every live thread of it waits at WAITCREW, and that could not go on yet. -/
def State.idleSaved (s : State) (c : Crew) : Bool := c.core.isNone && !c.completed && s.allWait c.lid (c.saved.map (·.2))

/-- A joined set may be bound now, as far as order goes: the launch runs, the set is whole and not being killed; in deterministic
mode no earlier than the crews below it (R122); in ascending order while a crew of the launch waits at WAITCREW, where crews that were pre-empted as they all waited
there hold up none (R249). -/
def State.mayBind (s : State) (l : Launch) (set : List (Nat × Nat)) : Bool :=
  s.boot == .running && l.status == .running && !rangesMeet l.killing set
    && (s.crewsOf l.lid).all (fun c => !inRanges set c.idx || c.core.isNone)
    && (!l.det || s.allBelow l.lid (setNumber set) fun _ => true)
    && (!(s.allSquads l.lid).any Squad.anyWaitcrew || s.allBelow l.lid (setNumber set) fun c => c.completed || c.core.isSome || s.idleSaved c)

/-- The places name exactly the crews of one set that are to be bound. -/
def State.wholeSet (s : State) (l : Launch) (places : List Spot) : Bool :=
  match places with
  | [] => false
  | x :: _ =>
    let names := places.map (·.1)
    let due := s.unboundOf l (l.joined x.1)
    names.length == due.length && names.eraseDups.length == names.length && names.all due.contains

/-! ### Binding -/

/-- A thread as it starts (R11, R109). -/
def startThread (l : Launch) (crew num lane at_ : Nat) : Thread :=
  let r0 := SMap.set Reg.zero [] 0 ⟨l.arg, .i64⟩
  let r1 := SMap.set Reg.zero r0 1 ⟨BitVec.ofNat 64 crew, .i64⟩
  { pc := l.entry, live := true, frm := l.frm, readyAt := at_, slice := (crew * l.squads + num) * 32 + lane
    regs := SMap.set Reg.zero r1 2 ⟨BitVec.ofNat 64 (num * 32 + lane), .i64⟩ }

/-- A squad as it starts: all its threads stand at ENTRY (R109). -/
def startSquad (l : Launch) (crew num at_ ctx : Nat) : Squad :=
  { ctx := ctx, lid := l.lid, crew := crew, num := num, prio := l.prio, set := setNumber (l.joined crew), tile := l.marked
    threads := (List.range 32).map fun lane => (lane, startThread l crew num lane at_) }

/-- All lines of a register image (R178). -/
abbrev imageLines : List Nat := List.range 238

/-- The lines of a saved squad that are no longer resident on the core that it is bound to: all on another core, some, freely, on the one it left (R326; free value,
log 9). -/
def Squad.linesGone (sq : Squad) (core draw : Nat) : List Nat :=
  if sq.home = some core then imageLines.filter fun i => Config.freeNat (draw * 4096 + sq.num * 256 + i) % 2 = 1 else imageLines

/-- A saved squad as it is bound again: its register lines return on demand (R326). -/
def Squad.rebound (sq : Squad) (core draw : Nat) : Squad :=
  { sq with missing := sq.linesGone core draw, home := none, state := 1, portAt := 0, readySince := 0, last := 0 }

/-- The context image of a crew's squad (R318). -/
def Crew.ctxOf (c : Crew) (num : Nat) : Nat := c.image.getD 0 + num * imageBytesOf

/-- The squads of a crew that is bound to a core, the stream apart. -/
def State.squadsFor (s : State) (l : Launch) (c core : Nat) : List Squad :=
  let cr := s.crewOf l.lid c
  if cr.started then (cr.saved.filter (·.1 != 16)).map fun x => x.2.rebound core s.freeCtr
  else (List.range l.squads).map fun k => startSquad l c k s.cycle (cr.ctxOf k)

/-- The free records of a core, ascending. -/
def State.freeRecords (s : State) (core : Nat) : List Nat :=
  ((List.range 16).map (recordKey core)).filter fun q => (s.squad? q).isNone

/-- A crew's engine contents on its core (R254, R326). -/
def State.takeEngine (s : State) (l : Launch) (x : Spot) (saved : Option Engine) : State :=
  if l.marked then s.modEngine x.2 fun _ => { saved.getD {} with owner := some (l.lid, x.1) } else s

/-- The deque of the core becomes the launch's; a saved deque comes back into one that had no owner (R320, R326). -/
def State.takeDeque (s : State) (l : Launch) (core : Nat) : State :=
  if !l.deques || (s.coreAt core).dqOwner == some l.lid then s else
  let back := (s.launchOf l.lid).savedDeques
  (s.modCore core fun c => { c with dqOwner := some l.lid, deque := (back.head?).getD [] }).modLaunch l.lid fun l =>
    { l with savedDeques := back.drop 1 }

/-- The context images of a crew, 17 of them (R178, R318; DESIGN CHOICE, log 14: taken from the free memory when a crew is first bound); none where there is no memory. -/
def State.takeImage (s : State) (lid c : Nat) : Option State :=
  if (s.crewOf lid c).image.isSome then some s
  else (s.takeFrame 4 crewImageBytes).map fun x => x.1.modCrew lid c fun cr => { cr with image := some x.2 }

/-- One crew is bound to a core (R107, R326). The scratchpad of one that starts is zeroed, whatever stood there (R107, R334, R345). -/
def State.bindCrew (s : State) (l : Launch) (x : Spot) : State :=
  let cr := s.crewOf l.lid x.1
  let s1 := ((s.freeRecords x.2).zip (s.squadsFor l x.1 x.2)).foldl (fun st p => st.placeSquad p.1 p.2) s
  let s2 := match cr.saved.find? (·.1 == 16) with
    | some st => s1.placeSquad (recordKey x.2 16) (st.2.rebound x.2 s.freeCtr)
    | none => s1
  let s3 := (s2.takeEngine l x cr.savedEngine).takeDeque l x.2
  let latent := if cr.started then s3.mem.latent else s3.mem.latent.filter fun p => match p with
    | .scratch lid c _ => !(lid == l.lid && c == x.1)
    | _ => true
  { s3 with seq := s3.seq + 1, freeCtr := s3.freeCtr + 1, mem := { s3.mem with latent := latent } }.setCrew l.lid x.1
    { cr with lid := l.lid, idx := x.1, core := some x.2, started := true, stopReq := false, boundAt := s3.seq, saved := [],
              savedEngine := none }

/-- The 32 bytes of the bind record that holds a squad (R318). -/
def Squad.recordBytes (sq : Squad) : List Byte :=
  bytesLE 8 sq.ctx ++ bytesLE 4 sq.lid ++ bytesLE 4 sq.crew ++ bytesLE 1 sq.num ++ bytesLE 1 sq.prio ++ bytesLE 1 sq.state
    ++ bytesLE 1 (if sq.tile then 1 else 0) ++ bytesLE 4 sq.set ++ List.replicate 8 0

/-- Records written with a reserved STATE (R319): a machine check in every squad that they name, and a report. -/
def State.faultRecords (s : State) (lid : Nat) (cs : List Nat) (state : Nat) : State :=
  (cs.flatMap (s.crewRecords lid)).foldl (fun st (q, sq) =>
    let bad := { sq with state := state }
    ((st.setSquad q bad).takeTrap q 0x11 sq.liveMask 0 ((sq.liveLanes.head?.map fun l => (sq.thread l).pc).getD 0)).note
      (.recordFault lid bad.recordBytes)) s

/-- A joined set is bound in one step (R107, R108, R319), with STATE written to its records; where it cannot be, and where STATE names no binding (0 empty, 2 evictable,
3 draining), nothing changes. -/
def State.bindSet (s : State) (lid : Nat) (places : List Spot) (state : BitVec 8) : State :=
  let l := s.launchOf lid
  let set := l.joined ((places.head?.map (·.1)).getD 0)
  let cs := places.map (·.1)
  if !(s.wholeSet l places && s.mayBind l set && s.placesOk l [] places) || state = 0 || state = 2 || state = 3 then s else
  match cs.foldlM (fun st c => State.takeImage st lid c) s with
  | none => s
  | some s1 =>
    let s2 := cs.foldl (fun st c => st.settleFuses lid c) (places.foldl (fun st x => st.bindCrew l x) s1)
    if state = 1 then s2 else s2.faultRecords lid cs state.toNat

/-- BIND (R107): a set that is bound for the first time in its attempt. -/
def execBind (lid : Nat) (records : BindSet) (s : State) : Host.Outcome State Fault Refusal :=
  .next (s.bindSet lid records.places records.state)

/-- WAITING_SET_BIND (R108): a set that waited for room. -/
def execWaitingSetBind (lid : Nat) (records : BindSet) (s : State) : Host.Outcome State Fault Refusal :=
  .next (s.bindSet lid records.places records.state)

/-! ### A place for a set (R107; the choice is Driene's: DESIGN CHOICE, log 14) -/

/-- Places for some crews beside those that have one: the first found, if there are any. `room` is what a core must have. -/
def placeCrews (gang : Nat) (room : List Spot → Spot → Bool) : List Nat → List Spot → Option (List Spot)
  | [], done => some done
  | c :: cs, done => (List.range Config.cores).findSome? fun k =>
    if room done (c, k) && gangApart gang done (c, k) then placeCrews gang room cs (done ++ [(c, k)]) else none

/-- Places for a joined set, if there is room. -/
def State.findPlaces (s : State) (l : Launch) (set : List (Nat × Nat)) : Option (List Spot) :=
  placeCrews l.gang (s.roomFor l) (s.unboundOf l set) []

/-- The set waits for squad slots, scratchpad or a matrix engine (R323), and not for a producer slot or a deque alone. -/
def State.lacksRoom (s : State) (l : Launch) (set : List (Nat × Nat)) : Bool :=
  (placeCrews l.gang (s.slotsRoom l) (s.unboundOf l set) []).isNone

/-- The lowest crew of a launch that is to be bound, those apart that satisfy a test. -/
def State.lowestUnbound (s : State) (l : Launch) (skip : Crew → Bool) : Option Nat :=
  let held := (s.crewsOf l.lid).filter fun c => c.core.isSome || c.completed || skip c
  if l.crews ≤ held.length then none else
  (List.range (min l.crews (held.length + 1))).find? fun n => !held.any (·.idx == n)

/-- The sets that wait to be bound: of each running launch the set of its lowest unbound crew, of those first that were not pre-empted as they all waited at
WAITCREW. -/
def State.waitingSets (s : State) : List (Launch × List (Nat × Nat)) :=
  s.launches.flatMap fun (_, o) => match o with
    | some l =>
      if l.status = .running
      then ((s.lowestUnbound l s.idleSaved).toList ++ (s.lowestUnbound l fun _ => false).toList).eraseDups.map fun c => (l, l.joined c)
      else []
    | none => []

/-- A crew of the set has waited to be bound for longer than the time slice (R323). -/
def State.waitedSlice (s : State) (w : Launch × List (Nat × Nat)) : Bool :=
  (s.unboundOf w.1 w.2).any fun c => decide (max w.1.since (s.crewOf w.1.lid c).idleSince + s.timeSlice < s.cycle)

/-! ### Pre-emption: victims (R249, R323) -/

/-- Every live thread of a bound crew waits at WAITCREW. -/
def State.crewIdle (s : State) (c : Crew) : Bool := s.allWait c.lid ((s.crewRecords c.lid c.idx).map (·.2))

/-- A set is to be bound for a wait at WAITCREW: a thread of the launch waits for a crew of it or of a set that is bound after it, and it can go on itself (R249). -/
def State.awaitedSet (s : State) (w : Launch × List (Nat × Nat)) : Bool :=
  ((s.allSquads w.1.lid).any fun sq => sq.liveLanes.any fun l => (sq.thread l).awaitedCrew.any fun n =>
      decide (setNumber w.2 ≤ n) && !(s.crewOf w.1.lid n).completed && (s.crewOf w.1.lid n).core.isNone)
    && (s.unboundOf w.1 w.2).all fun c => !s.idleSaved (s.crewOf w.1.lid c)

/-- Crews that can be pre-empted: bound, of a running launch, not being stopped or killed, with a squad that has not retired (R328). -/
def State.preemptable (s : State) : List (Launch × Crew) :=
  s.crews.filterMap fun (_, c) =>
    let l := s.launchOf c.lid
    if c.core.isSome && !c.stopReq && l.status == .running && !inRanges l.killing c.idx && !s.allRetired c.lid c.idx then some (l, c) else none

/-- Of some crews the one that is taken first: lowest PRIO, then the most recently bound (R323). -/
def firstVictim (cs : List (Launch × Crew)) : Option (Launch × Crew) :=
  cs.foldl (fun m x => match m with
    | none => some x
    | some y => if x.1.prio < y.1.prio || (x.1.prio == y.1.prio && decide (y.2.boundAt < x.2.boundAt)) then some x else some y) none

/-- The victim for a set that waits for slots, scratchpad or an engine, where R323 allows one: a crew of strictly lower PRIO (or of equal PRIO too, where the set has
waited for longer than the time slice), or a crew whose every thread waits at WAITCREW, where the set is to be bound for such a wait (R249). -/
def State.victimFor (s : State) (w : Launch × List (Nat × Nat)) (slice : Bool) : Option (Launch × Crew) :=
  if !s.lacksRoom w.1 w.2 || !s.mayBind w.1 w.2 || (slice && !s.waitedSlice w) then none else
  let cs := s.preemptable
  let lower := cs.filter fun x => if slice then decide (x.1.prio ≤ w.1.prio) else decide (x.1.prio < w.1.prio)
  let idle := if !slice && s.awaitedSet w
    then cs.filter fun x => decide (x.1.prio ≤ w.1.prio) && s.crewIdle x.2 else []
  match firstVictim idle with
  | some v => some v
  | none => firstVictim lower

/-- The crew belongs to the set that is taken now. -/
def State.isVictim (s : State) (lid crew : Nat) (slice : Bool) : Bool :=
  s.waitingSets.any fun w => match s.victimFor w slice with
    | some (l, c) => l.lid == lid && inRanges (l.joined c.idx) crew
    | none => false

/-- The crews of a set that pre-emption saves: bound, with a squad that has not retired; a crew that has retired whole completes where it is (R328). -/
def State.savedCrews (s : State) (lid crew : Nat) : List Crew :=
  (s.joinedCrews lid crew).filter fun c => c.core.isSome && !s.allRetired lid c.idx

/-- No squad or stream of the set issues from now on (R324 step 1). -/
def State.requestStop (s : State) (lid crew : Nat) : State :=
  (s.savedCrews lid crew).foldl (fun st c => st.modCrew lid c.idx fun c => { c with stopReq := true }) s

/-- PREEMPT_REQUEST (R323, R324). -/
def execPreemptRequest (lid crew : Nat) (s : State) : Host.Outcome State Fault Refusal :=
  .next (if s.isVictim lid crew false then s.requestStop lid crew else s)

/-- TIME_SLICE_EXPIRY (R323): a crew of equal PRIO has waited longer than the time slice. -/
def execTimeSliceExpiry (lid crew : Nat) (s : State) : Host.Outcome State Fault Refusal :=
  .next (if s.isVictim lid crew true then s.requestStop lid crew else s)

/-! ### Pre-emption takes effect (R324, R328) -/

/-- The storage port still works on a call of the squad (R368, R369): what it does is done once, and answered, before the squad is saved (R327). -/
def State.callRuns (s : State) (sq : Squad) : Bool :=
  s.io.nvme.any fun c => match c with
    | .write _ _ _ r _ _ | .read _ _ _ _ r _ _ | .zeroes _ _ r _ _ | .flush r _ _ => r == sq.ref
    | _ => false

/-- A squad stands at a stop point: no trap of it waits for its writes, no atomic for its performance, no step for its end (R303, R304, R324). An INV goes back to its
prefix, with the brackets of its last whole step (R174). -/
def Squad.stopped (sq : Squad) : Bool := sq.status != .trapped && (match sq.status with | .stepped .. => false | _ => true) && !sq.accessing

/-- An operation of an XFORM, which restarts with its node (R288). -/
def EngWork.isXform : EngWork → Bool
  | .xtile .. | .xslot .. => true
  | _ => false

/-- A crew stands at a stop point with nothing of cycle T left to apply (R324, R328): its squads, its engine operations (R255), its graph (R288). -/
def State.crewStopped (s : State) (c : Crew) : Bool :=
  (s.crewRecords c.lid c.idx).all (fun (_, sq) => sq.stopped && !s.callRuns sq) && s.crewSettled c
    && c.graph.running.all (s.nodeStopped c.lid c.idx)
    && (c.core.map fun k => !(s.coreAt k).engine.ops.any fun o => o.by_.lid == c.lid && o.by_.crew == c.idx && !o.work.isXform).getD true

/-- Retired squads of a crew whose writes are still under way: they pass to the tracker (R328). -/
def State.leaving (s : State) (c : Crew) : List (Nat × Squad) := (s.crewRecords c.lid c.idx).filter fun (_, sq) => sq.retired

/-- The set may be saved: it has been asked to stop, nothing of it is due, and the trackers have room. -/
def State.mayPreempt (s : State) (lid crew : Nat) : Bool :=
  let l := s.launchOf lid
  let cs := s.savedCrews lid crew
  cs != [] && l.status == .running && !inRanges l.killing crew
    && cs.all fun c => c.stopReq && s.crewStopped c
      && ((s.leaving c) == [] || decide ((s.coreAt (c.core.getD 0)).tracker.length
            + ((cs.filter (·.core == c.core)).flatMap s.leaving).length ≤ Config.trackerEntries))
      && (List.range l.groups.length).all fun g => !(inRanges (l.group g) c.idx && s.groupPhaseDone lid g)

/-- A squad as it is saved: what was outstanding has landed (R57, R324), and its record reads evictable (R318). -/
def Squad.saveForm (sq : Squad) (core : Nat) : Squad :=
  let netted := sq.nPend.foldl (fun (x : Squad) p => { x with n := SMap.set [] x.n p.n p.map }) sq
  { netted with
    nPend := []
    invs := []
    state := 2
    home := some core
    threads := sq.threads.map fun (l, t) => (l, t.landAll) }

/-- A saved squad's register lines in its image (R178, R324). -/
def State.writeImage (s : State) (sq : Squad) : State := s.landPart 0 0 (.dram sq.ctx 0) 0 0 (imageLines.flatMap sq.imageLine)

/-- The nodes of a crew's graph as it is saved (R288): PROG and RUN are recorded, and XFORMs restart; what the engine of another crew had accepted of one is given up. -/
def State.saveGraph (s : State) (lid crew core : Nat) : State :=
  let owner := s.ownsEngine lid crew
  let rs := (s.crewOf lid crew).graph.running
  let s1 := rs.foldl (fun st r => st.recordProg lid crew r) s
  let s2 := if owner then s1 else rs.foldl (fun st r => st.modEngine core (·.dropXform r)) s1
  s2.modGraph lid crew fun g => { g with running := g.running.map (·.restart owner) }

/-- Where no crew of the deque's owner is left on a core, its entries are saved with the launch (R324 step 6). -/
def State.saveDeque (s : State) (lid core : Nat) : State :=
  if (s.coreAt core).dqOwner != some lid || (s.crewsOn core).any (·.lid == lid) then s else
  let es := (s.coreAt core).deque
  (s.modCore core fun c => { c with dqOwner := none, deque := [] }).modLaunch lid fun l =>
    { l with savedDeques := if es = [] then l.savedDeques else l.savedDeques ++ [es] }

/-- One crew is saved (R324 steps 2 to 6), after what its FUSEs have come to (R328). -/
def State.saveCrew (s : State) (lid crew : Nat) : State :=
  let c := s.crewOf lid crew
  match c.core with
  | none => s
  | some core =>
    let gone := s.leaving c
    let s1 := (gone.foldl (fun st (q, sq) => (st.retire q).modCore core fun k => { k with tracker := k.tracker ++ [sq.ref] }) s).settleFuses lid crew
    let s2 := ((s1.crewRecords lid crew).foldl (fun st (q, _) => st.stopIntake q) s1).saveGraph lid crew core
    let squads := (s2.crewRecords lid crew).map fun (_, sq) => (sq.num, sq.saveForm core)
    let s3 := squads.foldl (fun st x => st.writeImage x.2) s2
    let eng := (s3.coreAt core).engine
    let kept := if eng.owner = some (lid, crew) then some { eng with owner := none } else none
    let s4 := (s3.leaveCore lid crew).modCrew lid crew fun c =>
      { c with saved := squads.foldl (fun m x => SMap.insert m x.1 x.2) [], savedEngine := kept, stopReq := false, idleSince := s.cycle }
    s4.saveDeque lid core

/-- PREEMPTION_TAKES_EFFECT (R324, R328). -/
def execPreemptionTakesEffect (lid crew : Nat) (s : State) : Host.Outcome State Fault Refusal :=
  .next (if s.mayPreempt lid crew then (s.savedCrews lid crew).foldl (fun st c => st.saveCrew lid c.idx) s else s)

end Sys2Proof.Machine
end

