-- ==== Sys2Proof/Machine/Branch.lean ====
section
/-!
DEFINITION. Machine/Branch.lean: branches, calls, NOP (R50, R90, R91).
-/
namespace Sys2Proof.Machine

/-- A branch's target: its own address plus the halfword offset (R90). -/
def branchTarget (cx : Ctx) (o : BitVec 18) : Word := cx.pc + sext o * 2

/-- A branch on the thread's bit of a mask (R90). -/
def Thread.branchK (t : Thread) (cx : Ctx) (want : Bool) (o : BitVec 18) (k : BitVec 3) : Except Trap Thread := do
  let b ← t.readK cx k.toNat
  .ok (if b = want then t.goto (branchTarget cx o) else t)

/-- A branch on a register's data bits, of any tag but POISON (R90). -/
def Thread.branchZ (t : Thread) (cx : Ctx) (want : Bool) (o : BitVec 18) (c : RegCode) : Except Trap Thread := do
  let v ← t.src cx (fun _ => true) c
  .ok (if (v.data == 0) = want then t.goto (branchTarget cx o) else t)

/-- BRA (R90). -/
def doBra (o : BitVec 18) (cx : Ctx) (t : Thread) : Except Trap Thread := .ok (t.goto (branchTarget cx o))

def execBra (o : BitVec 18) (s : State) : Host.Outcome State Fault Refusal :=
  .next (s.execThread (.bra o) 0 0 (doBra o))

/-- BK (R90). -/
def doBk (o : BitVec 18) (k : BitVec 3) (cx : Ctx) (t : Thread) : Except Trap Thread := t.branchK cx true o k

def execBk (o : BitVec 18) (k : BitVec 3) (s : State) : Host.Outcome State Fault Refusal :=
  .next (s.execThread (.bk o k) 0 0 (doBk o k))

/-- BNK (R90). -/
def doBnk (o : BitVec 18) (k : BitVec 3) (cx : Ctx) (t : Thread) : Except Trap Thread := t.branchK cx false o k

def execBnk (o : BitVec 18) (k : BitVec 3) (s : State) : Host.Outcome State Fault Refusal :=
  .next (s.execThread (.bnk o k) 0 0 (doBnk o k))

/-- BZ (R90). -/
def doBz (o : BitVec 18) (c : RegCode) (cx : Ctx) (t : Thread) : Except Trap Thread := t.branchZ cx true o c

def execBz (o : BitVec 18) (c : RegCode) (s : State) : Host.Outcome State Fault Refusal :=
  .next (s.execThread (.bz o c) 0 0 (doBz o c))

/-- BNZ (R90). -/
def doBnz (o : BitVec 18) (c : RegCode) (cx : Ctx) (t : Thread) : Except Trap Thread := t.branchZ cx false o c

def execBnz (o : BitVec 18) (c : RegCode) (s : State) : Host.Outcome State Fault Refusal :=
  .next (s.execThread (.bnz o c) 0 0 (doBnz o c))

/-- CALL (R90): the link, then the jump. -/
def doCall (o : BitVec 18) (l : RegCode) (cx : Ctx) (t : Thread) : Except Trap Thread := .ok ((t.write cx l ⟨cx.pc + 4, .i64⟩ latInt).goto (branchTarget cx o))

def execCall (o : BitVec 18) (l : RegCode) (s : State) : Host.Outcome State Fault Refusal :=
  .next (s.execThread (.call o l) 0 0 (doCall o l))

/-- JALR (R91): the target is computed before the link is written. -/
def doJalr (i : BitVec 12) (a : RegCode) (d : RegCode) (cx : Ctx) (t : Thread) : Except Trap Thread := do
  let v ← t.src cx isAddrTag a
  .ok ((t.write cx d ⟨cx.pc + 4, .i64⟩ latInt).goto ((v.data + sext i) &&& ~~~1))

def execJalr (i : BitVec 12) (a : RegCode) (d : RegCode) (s : State) : Host.Outcome State Fault Refusal :=
  .next (s.execThread (.jalr i a d) 0 0 (doJalr i a d))

/-- NOP (R50): holds the issue set for b further cycles, in scheduled and interlocked mode. -/
def doNop (i : BitVec 5) (cx : Ctx) (t : Thread) : Except Trap Thread := .ok { t with readyAt := cx.now + 1 + i.toNat }

def execNop (i : BitVec 5) (s : State) : Host.Outcome State Fault Refusal :=
  .next (s.execThread (.nop i) 0 0 (doNop i))

/-- INVEND other than as the end of a routine: an illegal-instruction trap (R166). -/
def doInvend (_ : Ctx) (_ : Thread) : Except Trap Thread := .error ⟨0x01, 0⟩

def execInvend (s : State) : Host.Outcome State Fault Refusal :=
  .next (s.execThread .invend 0 0 (doInvend))

end Sys2Proof.Machine
end

