-- ==== Sys2Proof/Machine/Network.lean ====
section
/-!
DEFINITION. Machine/Network.lean: packets that arrive (R359-R365), acknowledgements and NACKs, links and peers that fail.
-/
namespace Sys2Proof.Machine

/-! ### Checks at the peer (R363) -/

/-- The launches of a job whose leases a remote access is checked against. -/
def State.leaseHolders (s : State) (job : Nat) : List Launch := (s.jobLaunches job).filter fun l => l.status != .admitted

/-- One byte of a remote access (R93, R186, R200, R363): mapping and rights, covered range, lease, key slot. While a shootdown is under way it uses the old entry or the
new one, freely (R195; free value, log 9). -/
def State.remoteByte (s : State) (j : Job) (nd : Need) (a : Nat) : Except Trap Part :=
  let addr := BitVec.ofNat 64 a
  if 2 ^ 56 ≤ a then .error ⟨0x03, addr⟩
  else if s.isCovered j.num a then .error ⟨0x06, addr⟩
  else match s.translate j a (s.freeCtr * 64 + 32) with
    | .bad => .error ⟨0x11, addr⟩
    | .none => .error ⟨0x03, addr⟩
    | .leaf l =>
      if !l.grants nd then .error ⟨0x03, addr⟩
      else if (s.leaseHolders j.num).all fun la => la.outsideLease nd a 1 then .error ⟨0x04, addr⟩
      else if s.leafKey l = 0 then .error ⟨0x11, addr⟩
      else .ok ⟨.dram (l.pa a) (s.leafKey l), j.num, a, 1⟩

/-- The 16-byte parts of a remote access (R216), or the trap of its first failing byte. -/
def State.remoteParts (s : State) (j : Job) (nd : Need) (a n : Nat) : Except Trap (List Part) :=
  match firstBad (fun x => (s.remoteByte j nd x).map fun _ => ()) ((List.range n).map (a + ·)) with
  | some t => .error t
  | none => .ok ((span 16 a n).filterMap fun p => (s.remoteByte j nd p.1).toOption.map fun x => { x with n := p.2 })

/-! ### Messages -/

def Message.id : Message → Nat
  | .put id .. | .get id .. | .inbound id .. => id

/-- The party that writes the data of a message: that of a crew's GET; for a peer's PUT `lid` is 0 and `crew` names the job and the peer. -/
def messageRef (lid crew id : Nat) : SquadRef := partyRef lid crew (2 ^ 64 + id)

def peerRef (job peer id : Nat) : SquadRef := messageRef 0 (job * 65536 + peer) id

def State.setMessages (s : State) (f : List Message → List Message) : State := { s with io := { s.io with messages := f s.io.messages } }

/-- The outgoing message with a number. -/
def State.outgoing (s : State) (id : Nat) : Option Message :=
  s.io.messages.find? fun m => match m with
    | .inbound .. => false
    | m => m.id == id

/-- The peer's message with a number, of a job. -/
def State.incoming (s : State) (job peer id : Nat) : Option Message :=
  s.io.messages.find? fun m => match m with
    | .inbound i j p .. => i == id && j == job && p == peer
    | _ => false

def State.dropMessage (s : State) (m : Message) : State := s.setMessages (·.erase m)

/-- Data of a message that has not landed is given up: its node fails, and nothing of it lands after that (R362). -/
def State.dropData (s : State) (r : SquadRef) : State := { s with mem := { s.mem with writes := s.mem.writes.filter (·.by_ != r) } }

/-- The running node that a message belongs to. -/
def State.nodeOf (s : State) (lid crew node id : Nat) : Option RunNode :=
  (s.crewOf lid crew).graph.running.find? fun r => r.node.id == node && r.msg == some id

/-- Bytes for some parts of memory wait to land, each in its own time (R216, R360). -/
def State.postParts (s : State) (r : SquadRef) : List Part → List Byte → State
  | [], _ => s
  | p :: ps, bs => State.postParts (s.postPart r p.place p.job p.va (bs.take p.n)) r ps (bs.drop p.n)

/-! ### Arrivals (R360, R363, R364) -/

/-- Nothing more of a peer's message is placed (R230). -/
def State.closeMessage (s : State) (job peer msg : Nat) : State := { s with io := { s.io with acked := s.io.acked ++ [(job, peer, msg)] } }

/-- A check of a peer's access failed (R363): a NACK, and nothing more of the message lands (R362). -/
def State.refuseRemote (s : State) (job peer msg : Nat) (t : Trap) : State :=
  let s1 := (s.setMessages fun ms => ms.filter fun m => some m != s.incoming job peer msg).dropData (peerRef job peer msg)
  { s1 with io := { s1.io with refused := s1.io.refused ++ [(⟨job, peer, msg, t.cause, t.addr⟩ : Refused)] } }.sendTo job peer (.nack msg t.cause t.addr)

/-- A peer's message that has been refused. -/
def State.refusedMsg (s : State) (job peer msg : Nat) : Option Refused := s.io.refused.find? fun r => r.job == job && r.peer == peer && r.msg == msg

/-- A peer's write: checked, and placed at its address as it arrives, part by part. Of a message that has been acknowledged or refused nothing is placed any more: its
packets get the same answer again (R230, R363). -/
def State.remoteWrite (s : State) (job peer msg seq count : Nat) (addr : Word) (data : List Byte) : State :=
  match s.job? job with
  | none => s
  | some j =>
    if s.io.acked.contains (job, peer, msg) then s.sendTo job peer (.ack msg) else
    match s.refusedMsg job peer msg with
    | some r => s.sendTo job peer (.nack msg r.cause r.addr)
    | none =>
    match s.remoteParts j .store addr.toNat data.length with
    | .error t => s.refuseRemote job peer msg t
    | .ok ps =>
      let s1 := s.postParts (peerRef job peer msg) ps data
      match s.incoming job peer msg with
      | some (.inbound i j' p c got) =>
        let new : Message := .inbound i j' p c (if got.contains seq then got else got ++ [seq])
        s1.setMessages fun ms => ms.map fun m => if m = .inbound i j' p c got then new else m
      | _ => s1.setMessages (· ++ [.inbound msg job peer count [seq]])

/-- A peer's read: checked, and answered with the data, in a packet with the sequence number and entropy value of the request (R360, R363). -/
def State.remoteRead (s : State) (job peer msg seq entropy : Nat) (addr : Word) (len : Nat) : State :=
  match s.job? job with
  | none => s
  | some j =>
    match s.remoteParts j .load addr.toNat len with
    | .error t => s.sendTo job peer (.nack msg t.cause t.addr)
    | .ok ps =>
      let (bs, bad, s1) := s.readParts ps
      s1.sendTo job peer (if bad then .nack msg 0x11 addr else .readData msg seq entropy bs)

/-- Data of a GET of ours: placed at its address as it arrives, part by part (R360, R363); a failed check at home fails the node. -/
def State.getData (s : State) (msg seq off : Nat) (data : List Byte) : State :=
  match s.outgoing msg with
  | some (.get id job peer lid crew node len got) =>
    let m : Message := .get id job peer lid crew node len got
    match s.nodeOf lid crew node id with
    | none => s
    | some r =>
      if len < off + data.length then s else
      match nodeAccesses r.bytes with
      | [a] =>
        let dst := { a with addr := a.addr + r.prog + off, len := data.length }
        match s.accessesBad lid crew [dst] with
        | some t => (((s.dropMessage m).dropData (messageRef lid crew id)).failRunning lid crew r t)
        | none =>
          match s.spanParts (engineCx lid crew) dst.view.isSome .store (span 16 (s.accessBase dst + dst.addr) dst.len) with
          | some ps =>
            let new := if got.any (·.1 == seq) then got else got ++ [(seq, off, data)]
            (s.postParts (messageRef lid crew id) ps data).setMessages fun ms => ms.map fun x =>
              if x = m then .get id job peer lid crew node len new else x
          | none => s
      | _ => s
  | _ => s

/-- ROD data of a socket whose turn has come is delivered; an empty packet ends the stream (R360, R368). -/
def Socket.deliver : Nat → Socket → Socket
  | 0, k => k
  | n + 1, k =>
    match k.heldPkts.find? (·.1 == k.next) with
    | none => k
    | some (_, d) =>
      Socket.deliver n { k with
        next := k.next + 1, heldPkts := k.heldPkts.filter (·.1 != k.next), rx := k.rx ++ d, eof := k.eof || d == [] }

/-- A packet of a socket: held until its turn; one that has been delivered comes again without effect. -/
def Socket.receive (k : Socket) (seq : Nat) (data : List Byte) : Socket :=
  if seq < k.next || k.heldPkts.any (·.1 == seq) then k
  else Socket.deliver (k.heldPkts.length + 1) { k with heldPkts := k.heldPkts ++ [(seq, data)] }

def State.modSocket (s : State) (n : Nat) (f : Socket → Socket) : State :=
  { s with io := { s.io with sockets := s.io.sockets.map fun k => if k.n = n then f k else k } }

/-- The job whose key a packet must carry (R359). -/
def State.packetJob (s : State) (p : Packet) : Option Nat :=
  match p with
  | .write job .. | .readRequest job .. | .trimmed job .. | .connect job .. => some job
  | .readData msg .. => match s.outgoing msg with
    | some (.get _ job ..) => some job
    | _ => none
  | .rod n .. | .reset n => (s.io.sockets.find? (·.n == n)).map (·.job)

/-- A packet is of its job's traffic: the key that it was made with is the job's (R359). -/
def State.authentic (s : State) (p : Packet) (key : Nat) : Bool := ((s.packetJob p).bind s.job?).any fun j => j.net == key

/-- PACKET_ARRIVAL (R359, R360, R363, R368): one that is not authentic is dropped; one that was trimmed on its way is answered with a NACK. -/
def execPacketArrival (frame : NetFrame) (s : State) : Host.Outcome State Fault Refusal :=
  .next (if s.boot ≠ .running || !s.authentic frame.packet frame.key then s else
    match frame.packet with
    | .write job peer msg seq count addr data => s.remoteWrite job peer msg seq count addr data
    | .readRequest job peer msg seq entropy addr len => s.remoteRead job peer msg seq entropy addr len
    | .readData msg seq _ off data => s.getData msg seq off data
    | .trimmed job peer msg => s.sendTo job peer (.nack msg 0 0)
    | .rod n seq data => s.modSocket n fun k => k.receive seq data
    | .connect job peer port =>
      let k : Socket := ⟨s.nextSocket, 0, job, peer, port, false, [], 0, [], false, false, 0⟩
      { s with nextSocket := s.nextSocket + 1, io := { s.io with sockets := s.io.sockets ++ [k] } }
    | .reset n => s.modSocket n fun k => { k with broken := true })

/-- The bytes of a GET's piece in order, once all are there. -/
def gotBytes (len : Nat) (got : List (Nat × Nat × List Byte)) : Option (List Byte) :=
  (List.range len).mapM fun i => got.findSome? fun g => if g.2.1 ≤ i then g.2.2[i - g.2.1]? else none

/-- A message that is complete: the peer has placed a piece of a PUT, all data of a GET's piece has landed here, or every packet of a
peer's message has (R360). -/
def State.acknowledge (s : State) (m : Message) : State :=
  match m with
  | .put id _ _ lid crew node len =>
    match s.nodeOf lid crew node id with
    | some r => (s.dropMessage m).setRunning lid crew (r.advance len r.out)
    | none => s.dropMessage m
  | .get id _ _ lid crew node len got =>
    if s.hasWrites (messageRef lid crew id) then s else
    match s.nodeOf lid crew node id, gotBytes len got with
    | some r, some bs => (s.dropMessage m).setRunning lid crew (r.advance len (checksum (nAlg r.bytes) r.out bs))
    | _, _ => s
  | .inbound id job peer count got =>
    if count ≤ got.length && !s.hasWrites (peerRef job peer id) then ((s.dropMessage m).closeMessage job peer id).sendTo job peer (.ack id) else s

/-- A message by its number: one of ours, or that of a job's peer; each side numbers its own. -/
def State.messageNo (s : State) (sender : Option (Nat × Nat)) (id : Nat) : Option Message :=
  match sender with
  | none => s.outgoing id
  | some (job, peer) => s.incoming job peer id

def Message.job : Message → Nat
  | .put _ j .. | .get _ j .. | .inbound _ j .. => j

/-- A packet about a message of ours carries the key of its job (R359). -/
def State.keyFits (s : State) (m : Message) (key : Nat) : Bool := (s.job? m.job).any fun j => j.net == key

/-- MESSAGE_ACKNOWLEDGED (R360): the peer's acknowledgement of a PUT arrives, under the key of the job (R359); or all of a GET's piece, or of a peer's message, is placed
here. -/
def execMessageAcknowledged (msg : MsgName) (s : State) : Host.Outcome State Fault Refusal :=
  .next (match s.messageNo msg.sender msg.num with
    | some (.put id job peer lid crew node len) =>
      let m : Message := .put id job peer lid crew node len
      if s.keyFits m msg.key then s.acknowledge m else s
    | some m => s.acknowledge m
    | none => s)

/-- The message of ours that a packet is part of. -/
def OutPacket.message : OutPacket → Option Nat
  | .putData id .. | .getRequest id .. => some id
  | _ => none

/-- A packet is sent again, by a path that is left (R361). -/
def State.resend (s : State) (x : Sent) : State :=
  match x with
  | .packet job peer _ _ p => s.sendTo job peer p
  | _ => s

/-- The packet of a message of ours. -/
def State.packetOf (s : State) (id : Nat) : Option Sent :=
  s.io.sent.find? fun x => match x with
    | .packet _ _ _ _ p => p.message == some id
    | _ => false

/-- A message's node fails (R287, R363); where the peer met an uncorrectable error the node is retried once (R287, R288). -/
def State.failMessage (s : State) (m : Message) (t : Trap) : State :=
  match m with
  | .put id _ _ lid crew node _ | .get id _ _ lid crew node _ _ =>
    let s1 := (s.dropMessage m).dropData (messageRef lid crew id)
    match s.nodeOf lid crew node id with
    | some r => if t.cause = 0x11 then s1.stagingError s lid crew r t else s1.failRunning lid crew r t
    | none => s1
  | .inbound .. => s

/-- PACKET_NACK (R359, R363): under the key of the job: a check failed at the peer, or with cause 0 a packet was trimmed and is sent again. -/
def execPacketNack (msg : NackName) (cause : BitVec 8) (addr : Word) (s : State) : Host.Outcome State Fault Refusal :=
  .next (match s.outgoing msg.num with
    | none => s
    | some m =>
      if !s.keyFits m msg.key then s
      else if cause = 0 then (match s.packetOf msg.num with
        | some x => s.resend x
        | none => s)
      else s.failMessage m ⟨cause.toNat, addr⟩)

/-- A packet that may still be in flight: one of a message of ours that has not been acknowledged; or an answer or a socket's packet, whose arrival nothing tells this module
(DEDUCED, log 73: the peer takes what it has already seen without effect, R230, R360). -/
def State.inFlight (s : State) (p : OutPacket) : Bool :=
  match p.message with
  | some id => (s.outgoing id).isSome
  | none => true

/-- The packets in flight, to a peer or to all, that took a port are sent again (R361). -/
def State.resendFrom (s : State) (peer : Option Nat) (port : Nat) : State :=
  (s.io.sent.filter fun x => match x with
    | .packet _ dest _ path p => path == some port && peer.all (· == dest) && s.inFlight p
    | _ => false).eraseDups.foldl State.resend s

/-- LINK_FAILURE (R361): a port of this module, or of a peer, leaves the routing tables; what was in flight through it is sent again on other paths, and no result
changes. -/
def execLinkFailure (link : LinkEnd) (s : State) : Host.Outcome State Fault Refusal :=
  .next (
    let port := link.port
    let down := match link.peer with
      | none => s.io.linksDown.contains port
      | some p => s.io.peerLinksDown.contains (p, port)
    if 12 ≤ port || down then s else
    let s1 := match link.peer with
      | none => { s with io := { s.io with linksDown := s.io.linksDown ++ [port] } }
      | some p => { s with io := { s.io with peerLinksDown := s.io.peerLinksDown ++ [(p, port)] } }
    s1.resendFrom link.peer port)

/-! ### Peers (R362) -/

/-- The running PUT and GET nodes of a crew that name a peer. -/
def Graph.naming (g : Graph) (peer : Nat) : List RunNode :=
  g.running.filter fun r => (nKind r.bytes == 6 || nKind r.bytes == 7) && nPeer r.bytes == peer && !r.done

/-- The bytes of a queued node: as read, or as they stand. -/
def State.queuedBytes (s : State) (c : Crew) (n : Node) : List Byte :=
  if n.left = [] then n.bytes else (s.graphRead c.lid c.idx n.addr 64).getD []

/-- The PUT and GET nodes of a crew's graph that name a peer fail (R287, R362). -/
def State.failPeer (s : State) (peer : Nat) (c : Crew) : State :=
  let drop := fun (st : State) (r : RunNode) => match r.msg.bind fun id => st.outgoing id with
    | some m => (st.dropMessage m).dropData (messageRef c.lid c.idx m.id)
    | none => st
  let s1 := (c.graph.naming peer).foldl (fun st r => (drop st r).failRunning c.lid c.idx r ⟨0x0F, 0⟩) s
  let names := fun (n : Node) =>
    let b := s.queuedBytes c n
    (nKind b == 6 || nKind b == 7) && nPeer b == peer
  match (s1.crewOf c.lid c.idx).graph.queued.find? names with
  | none => s1
  | some n => s1.failQueued c.lid c.idx n (s.queuedBytes c n) ⟨0x0F, 0⟩

/-- PEER_UNREACHABLE (R362, R367). -/
def execPeerUnreachable (job peer : Nat) (s : State) : Host.Outcome State Fault Refusal :=
  .next (
    if (s.job? job).isNone || s.io.peersDown.contains (job, peer) then s else
    let s1 := { s with io := { s.io with peersDown := s.io.peersDown ++ [(job, peer)] } }
    let cs := (s.jobLaunches job).flatMap fun l => s.crewsOf l.lid
    (cs.foldl (fun st c => st.failPeer peer c) s1).note (.report 0x83 job (bytesLE 2 peer)))

end Sys2Proof.Machine
end

