-- ==== Sys2Proof/Machine/Control.lean ====
section
/-!
DEFINITION. Machine/Control.lean: reset, boot and the thermal trip (R352-R355), the request channel (R356-R358, R366, R367), the
debugger's operations (R312, R313), what the operator sets up (R306, R345, R358).
-/
namespace Sys2Proof.Machine

/-! ### Reset and boot (R353-R355) -/

/-- MODULE_RESET (R353): what is fused, on flash or enrolled stays; all else is as State.reset has it. -/
def State.resetModule (s : State) : State :=
  { State.reset with
    fuses := s.fuses
    keyids := s.keyids
    io := { bootA := s.io.bootA, bootB := s.io.bootB, files := s.io.files, sent := s.io.sent }
    timeSlice := s.timeSlice
    freeCtr := s.freeCtr
    agenda := s.agenda }

def execModuleReset (s : State) : Host.Outcome State Fault Refusal := .next s.resetModule

/-- D of an image: SHAKE256 of the header's first 64 bytes and the body (R353). -/
def imageDigest (b : List Byte) : List Byte := Config.shake256 (b.take 0x40 ++ b.drop 0x540) 64

/-- An image that the ROM starts: header, signature, SECVER (R353, R354). -/
def State.imageOk (s : State) (b : List Byte) : Bool :=
  field b 0 4 == 0x4E445249 && decide (field b 4 2 ≤ 127) && zeroAt b 6 2 && decide (field b 8 8 ≤ 14680064)
    && b.length == 0x540 + field b 8 8 && zeroAt b 0x10 0x30
    && Config.falconVerify Config.vendorKeyDigest (imageDigest b) ((b.drop 0x40).take 0x500)
    && decide (s.fuses ≤ field b 4 2)

/-- The ROM goes on to the second copy, and after that to recovery (R353). -/
def State.nextImage (s : State) (copy : Nat) : State := { s with boot := if copy = 0 then .rom 1 else .recovery }

/-- The ROM's read of a copy ends well, or fails: a free value, as the flash decides it (R353, log 24). -/
def State.bootReadOk (s : State) : Bool := Config.freeNat (s.freeCtr * 64 + 62) % 2 == 1

/-- BOOT_IMAGE_READ (R353): the copy is read into the service SRAM, or the read fails; an image in order starts on all 8 service cores, and the ROM is locked. -/
def execBootImageRead (s : State) : Host.Outcome State Fault Refusal :=
  .next (match s.boot with
    | .rom c =>
      let b := (if c = 0 then s.io.bootA else s.io.bootB).take Config.sramBytes
      let s0 := s.drawFree.1
      if !s.bootReadOk then s0.nextImage c else
      let s1 := { s0 with service := { s.service with sram := b } }
      if s.imageOk b then
        { s1 with boot := .starting, digest := imageDigest b, secver := field b 4 2, service := { cores := 8, sram := b, romLocked := true } }
      else s1.nextImage c
    | _ => s)

/-- DRAM that Driene has for frames and tables, the first 256 MiB being its own (DESIGN CHOICE, log 14). -/
abbrev framePool : List (Nat × Nat) := [(0x10000000, Config.dramBytes - 0x10000000)]

/-- All 256 key slots hold a key, each its own (R353 step 6; DESIGN CHOICE, log 14). -/
def allKeys : SMap Nat := (List.range 256).map fun i => (i, i + 1)

/-- DRIENE_INIT (R353 step 6); Driene sets up the two storage ports with admin commands (R369). -/
def execDrieneInit (s : State) : Host.Outcome State Fault Refusal :=
  .next (match s.boot with
    | .starting => { s with boot := .running, mem := { s.mem with
        dram := [], poison := [], latent := [], free := framePool, homed := [], keys := allKeys, frameKeys := [], lineKeys := [] }, io := { s.io with
        nvme := s.io.nvme ++ (List.range 2).flatMap fun p => [.identify, .setFeatures, .getFeatures, .getLogPage, .createCq, .createSq].map (.admin p) } }
    | _ => s)

/-- THERMAL_TRIP (R352): every core and engine stops, and every launch ends with CAUSE 0x11. -/
def execThermalTrip (s : State) : Host.Outcome State Fault Refusal :=
  .next (if s.boot ≠ .running then { s with boot := .tripped } else
    let s1 := s.launches.foldl (fun st (lid, _) => st.endLaunch lid 0x11) s
    { s1 with
      boot := .tripped
      cores := s1.cores.map fun (n, c) => (n, { c with engine := { c.engine with ops := [], mmas := [] } })
      crews := s1.crews.map fun (n, c) => (n, { c with graph := { c.graph.stopAll with running := [], failures := [] } })
      io := { s1.io with messages := [], nvme := s1.io.nvme.filter fun c => match c with | .page .. | .deallocate .. | .admin .. => true | _ => false } })

/-! ### The request channel (R366) -/

/-- A header that names a type of R367 and is in order. -/
def headerOk (h : Header) (type : Nat) : Bool :=
  h.magic == 0x51524E44 && h.type.toNat == type && h.version == 1 && h.status == 0 && decide (h.length.toNat ≤ 16777216) && h.pad == 0

/-- The controller is authenticated: its key was enrolled at a JOBOPEN or at installation (R366). -/
def State.controller (s : State) (h : Header) : Bool :=
  s.jobs.any (fun x => x.2.any fun j => j.ckey == h.key) || h.key == Config.installKey

/-- A request that has not been answered yet: the next one waits for it (R366; DESIGN CHOICE, log 23). -/
def State.channelBusy (s : State) : Bool :=
  s.fuseStep.isSome
    || s.jobs.any (fun (_, o) => o.any fun j => j.closing.isSome)
    || s.launches.any fun (_, o) => o.any fun l => l.cancel.isSome || (l.status == .admitted && !l.replied)

/-- A request of the channel (R366). Where the channel is open and its controller authenticated, it waits its turn; a bad header is answered with STATUS 0xFFFF; else
Driene does what `f` says. -/
def State.request (s : State) (i : Request) (h : Header) (type : Nat) (f : State → State) : State :=
  if s.boot ≠ .running || !s.controller h then s
  else if s.channelBusy || s.io.requests ≠ [] then { s with io := { s.io with requests := s.io.requests ++ [i] } }
  else if headerOk h type then f s
  else s.reply h.type.toNat 0xFFFF h.reqid h.job.toNat []

/-- UNLISTED_MESSAGE (R366): a bad header, or a type that is not listed. -/
def execUnlistedMessage (h : Header) (s : State) : Host.Outcome State Fault Refusal :=
  .next (
    let listed := decide (1 ≤ h.type.toNat) && decide (h.type.toNat ≤ 9)
    if listed && headerOk h h.type.toNat then s else s.request (.unlistedMessage h) h 256 id)

/-- JOBOPEN refused: the job is open, this module's number is another's, or a field is out of range (R367). -/
def State.openBad (s : State) (jn number : Nat) (fabric : Word) (peers : List (Nat × Word)) : Bool :=
  jn == 0 || (s.job? jn).isSome || decide (32767 < number) || decide (32767 < peers.length)
    || peers.any fun p => (p.1 == number && p.2 != fabric) || decide (32767 < p.1)

/-- JOBOPEN (R185, R359, R367): the job with an empty page-table root, and a key of its own for its traffic. -/
def execJobopen (h : Header) (number : Nat) (fabric : Word) (peers : List (Nat × Word)) (key : List Byte) (s : State) :
    Host.Outcome State Fault Refusal :=
  .next (s.request (.jobopen h number fabric peers key) h 0x01 fun s =>
    let jn := h.job.toNat
    match (if s.openBad jn number fabric peers then none else s.takeFrame 4 4096) with
    | none => s.reply 0x01 1 h.reqid jn []
    | some (s1, f) =>
      let j : Job := ⟨jn, number, fabric, peers, key, f, [], s.mem.nextKey, false, [], none⟩
      let s2 := s1.zeroDram f 4096
      ({ s2 with mem := { s2.mem with nextKey := s.mem.nextKey + 1 } }.setJob jn (some j)).reply 0x01 0 h.reqid jn [])

/-- JOBCLOSE (R367): answered when every launch of the job has ended and its ranges are released. -/
def execJobclose (h : Header) (s : State) : Host.Outcome State Fault Refusal :=
  .next (s.request (.jobclose h) h 0x02 fun s =>
    match s.job? h.job.toNat with
    | none => s.reply 0x02 1 h.reqid h.job.toNat []
    | some j => s.setJob j.num (some { j with closing := some h.reqid }))

/-- The pages of a section. -/
def sectionPages (x : Nat × Nat) : List Nat := (List.range ((x.2 + 4095) / 4096)).map fun i => x.1 + 4096 * i

/-- Job closed: its tables, sections and root are freed, and the request answered. -/
def State.closeJob (s : State) (j : Job) (reqid : Word) : State :=
  let pages := ((j.objects.flatMap Object.sections).flatMap sectionPages).filterMap fun va => (s.jobPlace j va).map fun p => p.2.frame
  let s0 := (s.mem.stale.filter (·.job == j.num)).foldl State.endStale s
  let s1 := (pages ++ j.tables ++ [j.root]).foldl (fun st f => st.giveFrame f 4096) s0
  let s2 := { s1 with io := { s1.io with
    sockets := s1.io.sockets.filter (·.job != j.num)
    acked := s1.io.acked.filter (·.1 != j.num)
    peersDown := s1.io.peersDown.filter (·.1 != j.num) } }
  (s2.setJob j.num none).reply 0x02 0 reqid j.num []

/-- A job that is closing and holds nothing more. -/
def State.closable (s : State) : Option (Job × Word) :=
  s.jobs.findSome? fun (jn, o) => o.bind fun j => j.closing.bind fun r =>
    if s.jobLaunches jn == [] && !s.mem.writes.any (·.job == jn) && !s.mem.whey.any (·.job == jn) && !s.mem.granules.any (fun g => g.1 / 2 ^ 48 == jn && g.2.present)
    then some (j, r) else none

/-! ### LOAD (R357, R358) -/

/-- Section k of an object's header: address, file offset, length. -/
def sectionOf (b : List Byte) (k : Nat) : Nat × Nat × Nat := (field b (8 + 16 * k) 8, field b (16 + 16 * k) 4, field b (20 + 16 * k) 4)

/-- Check 1 of R358: MAGIC, reserved bits, extents. -/
def objectFormOk (b : List Byte) : Bool :=
  decide (0x580 ≤ b.length) && field b 0 4 == 0x534B4F31 && decide (field b 6 1 ≤ 127) && bitsOf (field b 7 1) 2 6 == 0 && zeroAt b 0x38 8
    && (List.range 3).all fun k =>
      let (va, off, n) := sectionOf b k
      if n = 0 then va == 0 && off == 0 else decide (0x580 ≤ off) && decide (off + n ≤ b.length)

/-- The bytes of section k. -/
def sectionBytes (b : List Byte) (k : Nat) : List Byte := (b.drop (sectionOf b k).2.1).take (sectionOf b k).2.2

/-- Checks 2 and 3: an enrolled key, and its signature. -/
def State.objectSigned (s : State) (b : List Byte) : Bool :=
  let key := (b.drop 0x40).take 0x40
  s.keyids.contains key && Config.falconVerify key
    (Config.shake256 (b.take 0x80 ++ sectionBytes b 0 ++ sectionBytes b 1 ++ sectionBytes b 2) 64) ((b.drop 0x80).take 0x500)

/-- The sections that an object places. -/
def placedSections (b : List Byte) : List (Nat × Nat) :=
  ((List.range 3).map fun k => ((sectionOf b k).1, (sectionOf b k).2.2)).filter (·.2 != 0)

/-- Stretches that do not overlap one another. -/
def apart : List (Nat × Nat) → Bool
  | [] => true
  | x :: xs => !xs.any (fun y => meets x.1 x.2 y.1 y.2) && apart xs

/-- Check 5: where the sections lie. -/
def State.sectionsOk (s : State) (j : Job) (b : List Byte) : Bool :=
  let xs := placedSections b
  let taken := j.objects.flatMap Object.sections ++ (s.jobLaunches j.num).flatMap fun l => rangePieces l.ranges
  xs.all (fun x => x.1 % 4096 == 0 && decide (x.1 + x.2 ≤ 2 ^ 56) && !taken.any fun y => meets x.1 x.2 y.1 y.2) && apart xs

/-- The attributes of a section's pages: text and stream with RD and X, data with RD (R357; DESIGN CHOICE, log 14). -/
def sectionRange (x : Nat × Nat) (code : Bool) : Range := ⟨x.1, x.2, if code then 9 else 1, 1, 0, 0, 4, 0, 0⟩

/-- One page of a section placed. -/
def State.placePage (s : State) (jn : Nat) (x : Nat × Nat) (code : Bool) (bs : List Byte) (va : Nat) : Option State :=
  (s.takeFrame 4 4096).bind fun y =>
    let s1 := (y.1.zeroDram y.2 4096).keyFrame y.2 4096 0
    let s2 := { s1 with mem := { s1.mem with dram := s1.mem.dram.writeBytes y.2 ((bs.drop (va - x.1)).take 4096) } }
    s2.mapPage jn va 0 (leafWord (sectionRange x code) y.2 true)

/-- Section k placed. -/
def State.placeSection (s : State) (jn : Nat) (b : List Byte) (k : Nat) : Option State :=
  let x := ((sectionOf b k).1, (sectionOf b k).2.2)
  (sectionPages x).foldlM (fun st va => State.placePage st jn x (k != 1) (sectionBytes b k) va) s

/-- The object that an image holds. -/
def objectOf (b : List Byte) (handle : Nat) : Object :=
  let sec := fun k => ((sectionOf b k).1, (sectionOf b k).2.2)
  ⟨handle, BitVec.ofNat 16 (field b 4 2), field b 6 1, (field b 7 1).testBit 0, (field b 7 1).testBit 1, sec 0, sec 1, sec 2,
    Config.shake256 b 64⟩

/-- LOAD (R355, R358): the handle, or STATUS 3. -/
def execLoadObject (h : Header) (image : List Byte) (s : State) : Host.Outcome State Fault Refusal :=
  .next (s.request (.loadObject h image) h 0x03 fun s =>
    let jn := h.job.toNat
    match s.job? jn with
    | none => s.reply 0x03 3 h.reqid jn []
    | some j =>
      if !(objectFormOk image && s.objectSigned image && decide (s.fuses ≤ field image 6 1) && s.sectionsOk j image) then
        s.reply 0x03 3 h.reqid jn []
      else match [0, 1, 2].foldlM (fun st k => State.placeSection st jn image k) s with
        | none => s.reply 0x03 3 h.reqid jn []
        | some s1 =>
          let s2 := match s1.job? jn with
            | some j1 => s1.setJob jn (some { j1 with objects := j1.objects ++ [objectOf image s.nextHandle] })
            | none => s1
          { s2 with nextHandle := s.nextHandle + 1 }.reply 0x03 0 h.reqid jn (bytesLE 8 s.nextHandle))

/-! ### LAUNCH and CANCEL (R105, R367) -/

/-- LAUNCH: refused with a reason, by a retired module with 0x03 (R355), or admitted; the reply follows when its ranges are resident (R371). -/
def execLaunch (h : Header) (record : List Byte) (lid : BitVec 32) (s : State) : Host.Outcome State Fault Refusal :=
  .next (s.request (.launch h record lid) h 0x04 fun s =>
    match s.job? h.job.toNat with
    | none => s.reply 0x04 (if 128 ≤ s.fuses then 3 else 1) h.reqid h.job.toNat []
    | some j =>
      match (s.tablesSeen j record).takeLaunch j record lid.toNat none h.reqid false with
      | .ok (s1, _) => s1
      | .error why => s.reply 0x04 why h.reqid h.job.toNat [])

/-- CANCEL (R367): 1 unknown, 2 already complete, 0 once the launch has ended. -/
def execCancel (h : Header) (lid : BitVec 32) (s : State) : Host.Outcome State Fault Refusal :=
  .next (s.request (.cancel h lid) h 0x05 fun s =>
    match s.launch? lid.toNat with
    | none => s.reply 0x05 1 h.reqid h.job.toNat []
    | some l =>
      if l.status = .ended then s.reply 0x05 2 h.reqid h.job.toNat []
      else (s.endLaunch lid.toNat 0x00).modLaunch lid.toNat fun l => { l with cancel := some h.reqid })

/-! ### ATTEST, FUSESTEP, RECOVERY (R355, R356, R367) -/

/-- n bytes of a list, filled up with 0. -/
def padTo (n : Nat) (bs : List Byte) : List Byte := (bs ++ List.replicate n 0).take n

/-- The attestation report before its signature (R356). -/
def State.attestBody (s : State) (nonce obj : List Byte) : List Byte :=
  bytesLE 2 1 ++ bytesLE 2 s.fuses ++ padTo 16 Config.serialNumber ++ padTo 32 nonce ++ padTo 64 s.digest ++ bytesLE 2 s.secver
    ++ List.replicate 10 0 ++ padTo 64 obj

/-- The whole report, signed with the identity key (R356). -/
def State.attestReport (s : State) (nonce obj : List Byte) : List Byte :=
  let body := s.attestBody nonce obj
  let seed := Config.shake256 (Config.deviceSecret ++ s.digest) 64
  body ++ padTo 1280 (Config.falconSign seed (Config.shake256 body 64))

/-- ATTEST: the report; a handle that names no loaded object is refused with STATUS 1 (DESIGN CHOICE, log 23). -/
def execAttest (h : Header) (nonce : List Byte) (handle : Nat) (s : State) : Host.Outcome State Fault Refusal :=
  .next (s.request (.attest h nonce handle) h 0x06 fun s =>
    let found := (s.jobs.flatMap fun (_, o) => (o.map (·.objects)).getD []).find? (·.handle == handle)
    match handle, found with
    | 0, _ => s.reply 0x06 0 h.reqid h.job.toNat (s.attestReport nonce [])
    | _, some o => s.reply 0x06 0 h.reqid h.job.toNat (s.attestReport nonce o.digest)
    | _, none => s.reply 0x06 1 h.reqid h.job.toNat [])

/-- The vendor's signature over a new counter value (DESIGN CHOICE, log 13). -/
def stepSigned (value : Nat) (sign : List Byte) : Bool :=
  Config.falconVerify Config.vendorKeyDigest (Config.shake256 (bytesLE 4 value) 64) sign

/-- FUSESTEP (R355): 2: the signature does not verify; 1: a wrong value; else loads stop until the fuse is blown. -/
def execFusestep (h : Header) (value : Nat) (sign : List Byte) (s : State) : Host.Outcome State Fault Refusal :=
  .next (s.request (.fusestep h value sign) h 0x07 fun s =>
    if !stepSigned value sign then s.reply 0x07 2 h.reqid h.job.toNat []
    else if value ≠ s.fuses + 1 || 128 ≤ s.fuses then s.reply 0x07 1 h.reqid h.job.toNat []
    else { s with fuseStep := some (value, h.reqid) })

/-- FUSE_BLOW (R355). -/
def execFuseBlow (s : State) : Host.Outcome State Fault Refusal :=
  .next (match s.fuseStep with
    | some (v, r) => { s with fuses := v, fuseStep := none }.reply 0x07 0 r 0 []
    | none => s)

/-- RECOVERY (R353, R355, R367): in recovery the image goes to the boot partition and the module resets. -/
def execRecovery (h : Header) (image : List Byte) (s : State) : Host.Outcome State Fault Refusal :=
  .next (
    let say := fun (st : State) (n : Nat) => st.reply 0x08 n h.reqid h.job.toNat []
    match s.boot with
    | .recovery =>
      if !s.controller h || !headerOk h 0x08 then s
      else if 128 ≤ s.fuses then say s 2
      else (say { s with io := { s.io with bootA := image } } 0).resetModule
    | _ => s.request (.recovery h image) h 0x08 fun s => say s (if 128 ≤ s.fuses then 2 else 1))

/-! ### DEBUG (R312, R313) -/

/-- The stopped squad that a request names: its record where it is bound, and what it holds. -/
def State.stopped (s : State) (a : DebugAt) : Option (Option Nat × Squad) :=
  let found : Option (Option Nat × Squad) := match s.recordFor ⟨a.lid, a.crew, a.squad⟩ with
    | some q => (s.squad? q).map fun sq => (some q, sq)
    | none => ((s.crewOf a.lid a.crew).saved.find? (·.1 == a.squad)).map fun x => (none, x.2)
  found.filter fun x => x.2.status == .debug

/-- The named squad replaced. -/
def State.putStopped (s : State) (a : DebugAt) (q : Option Nat) (sq : Squad) : State :=
  match q with
  | some q => s.setSquad q sq
  | none => s.modCrew a.lid a.crew fun c => { c with saved := c.saved.map fun x => if x.1 = a.squad then (x.1, sq) else x }

/-- A debugger's operation on a stopped squad: its answer, or STATUS 1 where the squad is not stopped or the operation is refused
(DESIGN CHOICE, log 23). -/
def State.debugOp (s : State) (i : Request) (h : Header) (a : DebugAt) (f : State → Option Nat → Squad → Option (State × List Byte)) : State :=
  s.request i h 0x09 fun s =>
    match (s.stopped a).bind fun x => f s x.1 x.2 with
    | some (s1, body) => s1.reply 0x09 0 h.reqid h.job.toNat body
    | none => s.reply 0x09 1 h.reqid h.job.toNat []

/-- A register as a debugger names it (DESIGN CHOICE, log 23): codes of R8; 64-67 b; 72-79 k; 80-83 j; 84 PC; 85 FFLAGS; 86 FRM; 87 DRAW;
88 SIG; 89 LSTOP; 90 MTDONE; 91 BATCH; 92-95 n0 to n3, the 256 bytes of their Perm; 96-99 TCAUSE, TLANES, TADDR, TEPC; 100-119 the system registers 0x00-0x13 of R63 as
SRD reads them, CORE reading 0 for a squad that is not bound. -/
def State.debugValue (s : State) (q : Option Nat) (sq : Squad) (lane reg : Nat) : Option (List Byte) :=
  let t := sq.thread lane
  let cx : Ctx := { q := q.getD 0, lane := lane, lid := sq.lid, crew := sq.crew, num := sq.num, region := s.region sq, sig0 := t.sig }
  let whole := fun (r : Reg) => some (bytesLE 1 (tagCode r.tag) ++ bytesLE 8 r.data.toNat)
  let plain := fun (n : Nat) => whole ⟨BitVec.ofNat 64 n, .raw64⟩
  if 32 ≤ lane then none
  else if reg < 62 then whole (SMap.get Reg.zero t.regs reg)
  else if reg = 62 then plain 0
  else if 64 ≤ reg && reg < 68 then whole (SMap.get ⟨0, .i32x2⟩ t.brk (reg - 64))
  else if reg = 72 then plain 1
  else if 72 < reg && reg < 80 then plain (if t.k.getLsbD (reg - 72) then 1 else 0)
  else if 80 ≤ reg && reg < 84 then plain (SMap.get 0 sq.j (reg - 80)).toNat
  else if 92 ≤ reg && reg < 96 then some ((List.range 256).map fun p => BitVec.ofNat 8 (sq.perm (reg - 92) p))
  else if 100 ≤ reg && reg < 120 then plain (s.sysRegOf sq cx (reg - 100)).toNat
  else match reg with
    | 84 => plain t.pc.toNat
    | 85 => plain t.fflags.toNat
    | 86 => plain t.frm.toNat
    | 87 => plain t.draw.toNat
    | 88 => plain t.sig.toNat
    | 89 => plain t.lstop.toNat
    | 90 => plain sq.mtdone.toNat
    | 91 => plain (sq.done.toNat * 65536 + sq.closed.toNat)
    | 96 => plain sq.tcause.toNat
    | 97 => plain sq.tlanes.toNat
    | 98 => plain sq.taddr.toNat
    | 99 => plain sq.tepc.toNat
    | _ => none

/-- DEBUG_READ_STATE (R312). -/
def execDebugReadState (h : Header) (at_ : DebugAt) (lane reg : Nat) (s : State) : Host.Outcome State Fault Refusal :=
  .next (s.debugOp (.debugReadState h at_ lane reg) h at_ fun s q sq => (s.debugValue q sq lane reg).map fun b => (s, b))

/-- A configuration that a debugger writes: the permutation of R135. -/
def permOk (map : List Byte) : Bool := map.length == 256 && (List.range 256).all fun x => map.contains (BitVec.ofNat 8 x)

/-- A register of a stopped squad written; a PC is even (R21), the trap registers' reserved bits stay 0 (R305), and what SWR may not write but the above stays as it is
(DESIGN CHOICE, log 23). -/
def debugSet (sq : Squad) (lane reg : Nat) (v : Reg) (map : List Byte) : Option Squad :=
  let onT := fun (f : Thread → Thread) => some (sq.setThread lane (f (sq.thread lane)))
  if 32 ≤ lane then none
  else if reg < 62 then onT fun t => { t with regs := SMap.set Reg.zero t.regs reg v }
  else if 64 ≤ reg && reg < 68 then onT fun t => { t with brk := SMap.set ⟨0, .i32x2⟩ t.brk (reg - 64) v }
  else if 72 < reg && reg < 80 then onT fun t =>
    let m := 1#8 <<< (reg - 72)
    { t with k := if v.data.getLsbD 0 then t.k ||| m else t.k &&& ~~~m }
  else if 80 ≤ reg && reg < 84 then some { sq with j := SMap.set 0 sq.j (reg - 80) (v.data.truncate 32) }
  else if 92 ≤ reg && reg < 96 then if permOk map then some { sq with n := SMap.set [] sq.n (reg - 92) map } else none
  else match reg with
    | 84 => if v.data.getLsbD 0 then none else onT fun t => { t with pc := v.data }
    | 85 => onT fun t => { t with fflags := v.data.truncate 5 }
    | 86 => if 5 ≤ v.data.toNat then none else onT fun t => { t with frm := v.data.truncate 3 }
    | 87 => onT fun t => { t with draw := v.data.truncate 32 }
    | 88 => onT fun t => { t with sig := v.data.truncate 32 }
    | 89 => onT fun t => { t with lstop := v.data.truncate 8 }
    | 90 => some { sq with mtdone := v.data.truncate 32, threads := sq.threads.map fun (l, t) => (l, { t with mtAt := t.pc }) }
    | 91 => some { sq with closed := v.data.truncate 16, done := (v.data >>> 16).truncate 16 }
    | 96 => some { sq with tcause := v.data &&& 0x3FF }
    | 97 => some { sq with tlanes := v.data &&& 0xFFFFFFFF }
    | 98 => some { sq with taddr := v.data }
    | 99 => if v.data.getLsbD 0 then none else some { sq with tepc := v.data }
    | _ => none

/-- A debugger's write: of the squad, or of INJ (112), as SWR writes it. -/
def State.debugPut (s : State) (a : DebugAt) (q : Option Nat) (sq : Squad) (lane reg : Nat) (v : Reg) (map : List Byte) : Option State :=
  if reg = 112 then (s.putSysReg { lane := lane, lid := sq.lid, crew := sq.crew, num := sq.num } 0x12 v.data).toOption
  else (debugSet sq lane reg v map).map fun sq' => s.putStopped a q sq'

/-- DEBUG_WRITE_STATE (R312). -/
def execDebugWriteState (h : Header) (at_ : DebugAt) (lane reg : Nat) (value : DebugValue) (s : State) : Host.Outcome State Fault Refusal :=
  .next (s.debugOp (.debugWriteState h at_ lane reg value) h at_ fun s q sq =>
    (s.debugPut at_ q sq lane reg value.value value.map).map fun s' => (s', []))

/-- Advance: the threads of TLANES stand at TEPC + 4; past a BRK its word enters SIG (R312, R340). -/
def Squad.advance (sq : Squad) : Squad :=
  (lanesOf (sq.tlanes.truncate 32)).foldl (fun x l =>
    let t := x.thread l
    x.setThread l (match sq.brkCode with
      | some c => if t.pc == sq.tepc then t.past sq.tepc (sigWord (.brk c)) else { t with pc := sq.tepc + 4 }
      | none => { t with pc := sq.tepc + 4 })) sq

/-- DEBUG_ADVANCE (R312). -/
def execDebugAdvance (h : Header) (at_ : DebugAt) (s : State) : Host.Outcome State Fault Refusal :=
  .next (s.debugOp (.debugAdvance h at_) h at_ fun s q sq => some (s.putStopped at_ q (sq.advance), []))

/-- A squad resumes: the bit of MTDONE of a thread that stands at another PC than that at which it was saved is cleared (R271). -/
def Squad.resumed (sq : Squad) : Squad := { sq with mtdone := sq.mtdone &&& maskOf ((List.range 32).filter fun l => (sq.thread l).mtAt == (sq.thread l).pc) }

/-- DEBUG_RESUME (R312). -/
def execDebugResume (h : Header) (at_ : DebugAt) (s : State) : Host.Outcome State Fault Refusal :=
  .next (s.debugOp (.debugResume h at_) h at_ fun s q sq => some (s.putStopped at_ q { sq.resumed with status := .running }, []))

/-- The PC whose threads a step issues: the one named, or that of R113 or R124; none where no thread is ready there (R313). -/
def State.stepPc (s : State) (q : Nat) (sq : Squad) (pc : Option Word) : Option Word :=
  match pc with
  | some p => if s.setAt q sq p ≠ 0 then some p else none
  | none => (s.readySet q sq).map (·.1)

/-- DEBUG_STEP (R313): the squad may issue the set at the PC, in its turn for a port (R321). -/
def execDebugStep (h : Header) (at_ : DebugAt) (pc : Option Word) (s : State) : Host.Outcome State Fault Refusal :=
  .next (s.debugOp (.debugStep h at_ pc) h at_ fun s q sq =>
    q.bind fun q => (s.stepPc q sq pc).bind fun p =>
      if s.crewRuns sq then some (s.setSquad q { sq.resumed with status := .stepping p }, []) else none)

/-- A whole fetch block rewritten (R312, R315): 16 bytes at a multiple of 16, mapped in the job; then the instruction caches and fetch buffers are emptied, as by ICINV. -/
def State.rewriteBlock (s : State) (i : Request) (h : Header) (va : Word) (block : List Byte) : State :=
  s.request i h 0x09 fun s =>
    match (s.job? h.job.toNat).filter fun j => va.toNat % 16 == 0 && block.length == 16 && (s.jobPlace j va.toNat).isSome with
    | some j => (s.jobWrite j va.toNat block).emptyCode.reply 0x09 0 h.reqid h.job.toNat []
    | none => s.reply 0x09 1 h.reqid h.job.toNat []

/-- DEBUG_PLANT_BREAKPOINT (R312). -/
def execDebugPlantBreakpoint (h : Header) (va : Word) (block : List Byte) (s : State) : Host.Outcome State Fault Refusal :=
  .next (s.rewriteBlock (.debugPlantBreakpoint h va block) h va block)

/-- DEBUG_REMOVE_BREAKPOINT (R312). -/
def execDebugRemoveBreakpoint (h : Header) (va : Word) (block : List Byte) (s : State) : Host.Outcome State Fault Refusal :=
  .next (s.rewriteBlock (.debugRemoveBreakpoint h va block) h va block)

/-! ### What the operator sets up -/

/-- INJECTION_ENABLE (R345). -/
def execInjectionEnable (job : Nat) (s : State) : Host.Outcome State Fault Refusal :=
  .next (match s.job? job with
    | some j => s.setJob job (some { j with inj := true })
    | none => s)

/-- CODE_SIGNING_KEY_ENROL (R358): at most 16 keys. -/
def execCodeSigningKeyEnrol (keyid : List Byte) (s : State) : Host.Outcome State Fault Refusal :=
  .next (if s.keyids.length < 16 && !s.keyids.contains keyid && keyid.length == 64 then { s with keyids := s.keyids ++ [keyid] } else s)

/-- DEBUGGER_ATTACH (R306). -/
def execDebuggerAttach (lid : Nat) (s : State) : Host.Outcome State Fault Refusal :=
  .next (if s.lidInUse lid then s.modLaunch lid fun l => { l with debugger := true } else s)

end Sys2Proof.Machine
end

