-- ==== Sys2Proof/Machine/Device.lean ====
section
/-!
DEFINITION. Machine/Device.lean: the whey engine (R206, R207), changes of translations (R195, R196), key slots (R189), errors
(R333, R334, R339, R256), write-back (R193, R369), background activity (R344).
-/
namespace Sys2Proof.Machine

/-! ### The whey engine (R206, R207) -/

/-- Some bytes of window 0x00 meet a granule. -/
def inGranule (va a n : Nat) : Bool := meets a n va granuleBytes

/-- An engine operation accesses a granule. -/
def EngOp.touches (o : EngOp) (va : Nat) : Bool := o.left.any fun x => inGranule va x.2.1 x.2.2

/-- The node in some 64 bytes accesses a granule. -/
def State.nodeTouches (s : State) (b : List Byte) (va : Nat) : Bool :=
  (nodeAccesses b).any fun a => inGranule va (s.accessBase a + a.addr) a.len

/-- The same of a queued node, by what stands at its address; one that cannot be read now counts. -/
def State.queuedTouches (s : State) (lid crew : Nat) (n : Node) (va : Nat) : Bool :=
  match s.graphRead lid crew n.addr 64 with
  | some b => s.nodeTouches b va
  | none => true

/-- A granule is accessed by one of some nodes, given by their addresses, or by a node that follows them: `seen` have been looked at, and the number bounds how many nodes
DRAM can hold. -/
def State.granuleAhead (s : State) (lid crew va : Nat) : Nat → List Word → List Word → Bool
  | 0, _, _ => true
  | _ + 1, [], _ => false
  | n + 1, a :: todo, seen =>
    if seen.contains a then State.granuleAhead s lid crew va n todo seen
    else match s.graphRead lid crew a 64 with
      | none => true
      | some b => s.nodeTouches b va || State.granuleAhead s lid crew va n (nSuccs b a ++ todo) (a :: seen)

/-- What the thread that posted a decrement issued before it, in its granule, has completed (R206, R209): its writes, its squad's engine operations that it issued, the
nodes of the graphs that it submitted, those that are still to be launched with them. -/
def State.decrementFree (s : State) (d : Decrement) : Bool :=
  if d.seq = 0 then true else
  let va := d.va.toNat
  let g := (s.crewOf d.by_.lid d.by_.crew).graph
  let mine := fun (n : Node) => n.by_ == d.by_ && n.lane == d.lane && decide (n.seq < d.seq)
  !s.mem.writes.any (fun w => w.by_ == d.by_ && w.lane == d.lane && decide (w.seq < d.seq) && w.job == d.job && inGranule va w.va w.data.length)
    && s.cores.all (fun c => !c.2.engine.ops.any fun o => o.by_ == d.by_ && o.lanes.contains d.lane && decide (o.seq < d.seq) && o.touches va)
    && !g.queued.any (fun n => mine n && s.queuedTouches d.by_.lid d.by_.crew n va)
    && !g.running.any (fun r => mine r.node && s.nodeTouches r.bytes va)
    && (g.halted || !s.granuleAhead d.by_.lid d.by_.crew va (Config.dramBytes / 16)
      ((g.queued.filter mine).map (·.addr) ++ (g.running.filter fun r => mine r.node).flatMap fun r => nSuccs r.bytes r.node.addr) [])

/-- The decrement that is applied next: the first of the queue whose conditions hold. -/
def State.nextDecrement (s : State) : Option (Nat × Decrement) :=
  let i := s.mem.whey.findIdx s.decrementFree
  s.mem.whey[i]?.map fun d => (i, d)

/-- WHEY_DECREMENT (R206). -/
def execWheyDecrement (s : State) : Host.Outcome State Fault Refusal :=
  .next (match s.nextDecrement with
    | none => s
    | some (i, d) =>
      { s with mem := { s.mem with whey := s.mem.whey.eraseIdx i } }.modGranule d.job d.va.toNat fun g => { g with count := g.count - 1 })

/-- A granule whose count is 0 and that still holds a frame. -/
def State.granuleDue (s : State) (job va : Nat) : Bool :=
  let g := s.granule job va
  g.present && g.count == 0

/-- A shootdown in a stretch of a job's memory is under way. -/
def State.shooting (s : State) (job va n : Nat) : Bool := s.mem.stale.any fun st => st.job == job && meets st.va st.size va n

/-- GRANULE_FREE (R207): V is cleared by a shootdown; when that is complete the frame is zeroed and returned, and PRESENT is 0. -/
def execGranuleFree (job : Nat) (va : Word) (s : State) : Host.Outcome State Fault Refusal :=
  .next (
    let a := va.toNat / granuleBytes * granuleBytes
    if !s.granuleDue job a || s.shooting job a granuleBytes then s else
    match (s.job? job).bind fun j => s.jobPlace j a with
    | some (_, l) => s.changeLeaf job a l (l.raw - 1) [] none
    | none =>
      let f := (s.granule job a).frame
      (s.giveFrame f granuleBytes).modGranule job a fun _ => {})

/-! ### Translations (R195, R196) -/

/-- SHOOTDOWN (R195): Driene writes a new entry over a live leaf; until the shootdown is complete an access may use either. A page under write-back keeps its entry
(DEDUCED, log 22). -/
def execShootdown (job : Nat) (va entry : Word) (s : State) : Host.Outcome State Fault Refusal :=
  .next (match (s.job? job).bind fun j => s.jobPlace j va.toNat with
    | none => s
    | some (_, l) => if s.shooting job va.toNat 1 || l.bit 7 then s else s.changeLeaf job va.toNat l entry.toNat [] none)

/-- The shootdown of a page, where it can complete. -/
def State.shotDown (s : State) (job va : Nat) : Option Stale := (s.staleFor job va).filter s.staleOver

/-- SHOOTDOWN_COMPLETE (R195). -/
def execShootdownComplete (job : Nat) (va : Word) (s : State) : Host.Outcome State Fault Refusal :=
  .next (match s.shotDown job va.toNat with
    | some st => s.endStale st
    | none => s)

/-- A table of 512 leaves that continue a leaf word by steps of a page. -/
def fillTable (m : Memory) (tbl raw step : Nat) : Memory :=
  (List.range 512).foldl (fun m k => m.writeBytes (tbl + 8 * k) (bytesLE 8 (raw + k * step))) m

/-- The table of 4,096 bytes that an entry lies in. -/
def tableOf (at_ : Nat) : Nat := at_ / 4096 * 4096

def State.setTables (s : State) (jn : Nat) (f : List Nat → List Nat) : State :=
  match s.job? jn with
  | some j => s.setJob jn (some { j with tables := f j.tables })
  | none => s

/-- The shootdown of the larger of two sizes that translate alike: of the large entry of a page that is split, or of the small ones of a page that is joined, as one
large entry. -/
def State.shootLarge (s : State) (job va size raw : Nat) (give : List (Nat × Nat)) : State :=
  let n := pageBytes size
  { s with mem := { s.mem with stale := s.mem.stale ++ [⟨job, va / n * n, n, BitVec.ofNat 64 raw, give, none⟩] } }

/-- One entry of a large leaf becomes a pointer to a new table of smaller leaves (R196). -/
def State.splitEntry (s : State) (jn at_ raw step : Nat) : Option State :=
  (s.takeFrame 4 4096).map fun x =>
    let m := fillTable (x.1.zeroDram x.2 4096).mem.dram x.2 raw step
    ({ x.1 with mem := { x.1.mem with dram := m.writeBytes at_ (bytesLE 8 (x.2 + 1)) } }).setTables jn (· ++ [x.2])

/-- A large page split into pages of the next smaller size that tables of its kind hold, all equal in translation (R196). -/
def State.splitPage (s : State) (jn : Nat) (l : Leaf) : Option State :=
  match l.size with
  | 1 | 3 =>
    let raw := l.raw - 512
    some { s with mem := { s.mem with dram := (List.range (groupLen l.size)).foldl (fun m k =>
      m.writeBytes (l.at_ + 8 * k) (bytesLE 8 (raw + k * pageBytes (l.size - 1)))) s.mem.dram } }
  | 2 => s.splitEntry jn l.at_ (l.raw - 1024) 4096
  | 4 => (s.splitEntry jn l.at_ (l.raw - 1024) 2097152).bind fun st =>
      st.splitEntry jn (l.at_ + 8) (l.raw - 1024 + 1073741824) 2097152
  | _ => none

/-- The address of the entry that points to the table in which an address has its leaf. -/
def parentEntry (m : Memory) (va : Nat) : Nat → Nat → Option Nat
  | 0, _ => none
  | lvl + 1, tbl =>
    let at_ := tbl + 8 * bitsOf va (12 + 9 * (lvl + 1)) (if lvl + 1 = 4 then 8 else 9)
    match walkStep m va (lvl + 1) tbl with
    | (_, some next) => (parentEntry m va lvl next).or (some at_)
    | _ => none

/-- The attributes of a leaf: all but FRAME, SIZE and D. -/
def Leaf.attrs (l : Leaf) : Nat := l.raw - l.frame - l.size * 512 - (if l.bit 8 then 256 else 0)

/-- The leaves under a large page that could be joined: of the sizes that a join of that size replaces, one run of frames with equal attributes, none under write-back.
What the joined leaf is: FRAME and attributes of the first, D if any has it. -/
def State.joinWord (s : State) (j : Job) (base size : Nat) : Option Nat :=
  let small := match size with | 1 => [0] | 2 => [0, 1] | 3 => [2] | _ => [2, 3]
  let unit := if size < 3 then 4096 else 2097152
  let ls := (List.range (pageBytes size / unit)).map fun i => s.jobPlace j (base + i * unit)
  match ls.head? with
  | some (some (pa, l)) =>
    let fits := fun (x : Option (Nat × Leaf) × Nat) => x.1.any fun y =>
      small.contains y.2.size && y.1 == pa + x.2 * unit && y.2.attrs == l.attrs && !y.2.bit 7
    if pa % pageBytes size == 0 && ls.zipIdx.all fits then
      some (l.attrs + pa + size * 512 + (if ls.any fun x => x.any fun y => y.2.bit 8 then 256 else 0))
    else none
  | _ => none

/-- Small pages joined into one of a size (R196): the large entry is written, then the small ones are shot down; a table that nothing names any more goes with them. -/
def State.joinInto (s : State) (j : Job) (va size : Nat) : Option State :=
  let base := va / pageBytes size * pageBytes size
  match s.joinWord j base size, s.jobPlace j base with
  | some w, some (_, l) =>
    let write := fun (st : State) (at_ : Nat) => { st with mem := { st.mem with dram := setLeaf st.mem.dram ⟨at_, w⟩ w } }
    let tables := if size = 4 then (s.jobPlace j (base + 1073741824)).toList.map (fun x => tableOf x.2.at_) ++ [tableOf l.at_] else [tableOf l.at_]
    if s.shooting j.num base (pageBytes size) then none
    else if size = 1 || size = 3 then some ((write s l.at_).shootLarge j.num base size w [])
    else (parentEntry s.mem.dram base 4 j.root).map fun p =>
      ((write s p).shootLarge j.num base size w (tables.map fun t => (t, 4096))).setTables j.num fun ts => ts.filter fun t => !tables.contains t
  | _, _ => none

/-- The sizes that a page of a size can be joined into, the largest first. -/
def joinSizes : Nat → List Nat
  | 0 => [2, 1]
  | 1 => [2]
  | 2 => [4, 3]
  | 3 => [4]
  | _ => []

/-- PAGE_SPLIT (R196): a page is split, or small pages are joined; every access translates the same way before, during and after. A page under write-back is left
as it is (DEDUCED, log 22), and so is a covered page: a granule has one leaf entry, which its freeing clears (R207; DEDUCED, log 53). -/
def execPageSplit (job : Nat) (va : Word) (join : Bool) (s : State) : Host.Outcome State Fault Refusal :=
  .next (match s.job? job with
    | none => s
    | some j =>
      match s.jobPlace j va.toNat with
      | none => s
      | some (_, l) =>
        if s.shooting job va.toNat 1 || l.bit 7 || l.cls == 1 then s
        else if join then ((joinSizes l.size).findSome? (s.joinInto j va.toNat)).getD s
        else ((s.splitPage job l).map fun st => st.shootLarge job va.toNat l.size l.raw []).getD s)

/-- KEY_SLOT_LOAD (R189): the slot holds a new key. -/
def execKeySlotLoad (slot : BitVec 8) (s : State) : Host.Outcome State Fault Refusal :=
  .next { s with mem := { s.mem with keys := SMap.set 0 s.mem.keys slot.toNat s.mem.nextKey, nextKey := s.mem.nextKey + 1 } }

/-! ### Errors (R332-R334, R339) -/

/-- BANK_CLEAR (R333). -/
def execBankClear (bank : Nat) (s : State) : Host.Outcome State Fault Refusal := .next (if isBank bank then s.modBank bank fun _ => {} else s)

/-- The byte of a launch's stack pool at an offset. -/
def poolAt : List (Nat × Nat) → Nat → Nat
  | [], _ => 0
  | (a, n) :: rest, o => if o < n then a + o else poolAt rest (o - n)

/-- The address of stack slice i in its launch's pool (R184), whose lines are counted from there (DESIGN CHOICE, log 72). -/
def Launch.sliceAt (l : Launch) (i : Nat) : Nat := poolAt l.pool (i * l.stack)

/-- The number of a thread's stack slice. -/
def State.sliceOf (s : State) (lid crew squad lane : Nat) : Nat := ((s.recordFor ⟨lid, crew, squad⟩).map fun q => (s.thread q lane).slice).getD 0

/-- The bank and ADDR of an error by where it is found (R332): the slice of the die cache is that of the line's die (R188, R350). -/
def State.siteBank (s : State) (site : ErrorSite) (n : Nat) (addr : Word) : Nat × Nat :=
  match site with
  | .dramLine => (s.bankFor (.dram (64 * n) 0), 64 * n)
  | .dieCacheLine => (bankOf 0x07 (s.dieOf (64 * n)), 64 * n)
  | .scratchLine lid crew => (s.bankFor (.scratch lid crew (64 * n)), 64 * n)
  | .stackLine lid crew squad lane =>
    let a := (s.launchOf lid).sliceAt (s.sliceOf lid crew squad lane) + 64 * n
    (s.bankFor (.dram a 0), a)
  | .registerLine q => (bankOf 0x01 (coreOf q), n)
  | .operandStore q => (bankOf 0x02 (coreOf q), n)
  | .matrixArray core => (bankOf 0x04 core, 0)
  | .rindSlot core => (bankOf 0x05 core, n)
  | .staging lid crew => (bankOf 0x06 ((s.crewOf lid crew).core.getD 0), 0)
  | .fabricLink => (bankOf 0x09 n, addr.toNat)
  | .networkPort => (bankOf 0x0A n, addr.toNat)
  | .storagePort => (bankOf 0x0B n, addr.toNat)
  | .serviceSram => (bankOf 0x0C 0, addr.toNat)

/-- The running node of a crew whose data is staged; its retry is not held up by a write-back (R194). -/
def State.stagedNode (s : State) (lid crew node : Nat) : Option RunNode :=
  (s.crewOf lid crew).graph.running.find? fun r => r.node.id == node && r.piece.isSome && nKind r.bytes != 4
    && !(dataKind (nKind r.bytes) && s.graphHeld lid crew r.node.addr 64)

/-- The site exists (R2, R350): a line of memory, of a crew's allocation or of a live thread's slice; a resident register line; a live lane of the
operand store; a unit of the module. -/
def State.siteOk (s : State) (site : ErrorSite) (n : Nat) (addr : Word) : Bool :=
  match site with
  | .dramLine | .dieCacheLine => decide (64 * n < Config.dramBytes)
  | .scratchLine lid crew => (s.crewOf lid crew).started && decide (64 * n < (s.launchOf lid).scratch)
  | .stackLine lid crew squad lane =>
    (s.recordFor ⟨lid, crew, squad⟩).any (fun q => (s.thread q lane).live) && decide (64 * n < (s.launchOf lid).stack)
  | .registerLine q => (s.squad? q).any fun sq => decide (n < 238) && !sq.missing.contains n
  | .operandStore q => (s.squad? q).any fun sq => (sq.thread n).live
  | .matrixArray core => decide (core < Config.cores)
  | .rindSlot core => decide (core < Config.cores) && decide (n < 256)
  | .staging lid crew => (s.stagedNode lid crew n).isSome
  | .fabricLink | .networkPort | .storagePort => isBank (s.siteBank site n addr).1
  | .serviceSram => decide (addr.toNat < Config.sramBytes)

/-- What an uncorrectable error does where it is found (R179, R256, R288, R334, R339, R343). A link retries (R343); of the service SRAM the spec says no more than that
the error is recorded. What a lane holds in the operand store turns POISON, as in a register line (DESIGN CHOICE, log 78). -/
def State.spoil (s : State) (site : ErrorSite) (n : Nat) : State :=
  match site with
  | .dramLine | .dieCacheLine => s.mark (.dram (64 * n) 0)
  | .scratchLine lid crew => s.mark (.scratch lid crew (64 * n))
  | .stackLine lid crew squad lane =>
    match s.recordFor ⟨lid, crew, squad⟩ with
    | some q => s.modThread q lane fun t => { t with stackPoison := SMap.set 0 t.stackPoison n (BitVec.allOnes 64) }
    | none => s
  | .registerLine q => s.modSquad q fun sq => sq.poisonLine s.cycle n
  | .operandStore q => s.modThread q n fun t =>
    { [56, 57, 58, 59, 60, 61].foldl (fun (t : Thread) c => t.poisonReg s.cycle c) t with
      brk := (List.range 4).foldl (fun m c => SMap.set Reg.zero m c { SMap.get Reg.zero m c with tag := .poison }) t.brk }
  | .matrixArray core =>
    let e := (s.coreAt core).engine
    let s1 := s.modEngine core fun e => { e with
      tiles := e.tiles.foldl (fun m x => SMap.set {} m x.1 { x.2 with tag := none }) []
      slots := e.slots.foldl (fun m x => SMap.set {} m x.1 { x.2 with fmt := none }) [] }
    match e.owner with
    | some (lid, crew) => s1.killSet lid crew 0x11
    | none => s1
  | .rindSlot core => s.modEngine core fun e => e.setSlot n { e.slot n with fmt := none }
  | .staging lid crew =>
    match s.stagedNode lid crew n with
    | some r => s.stagingError s lid crew r ⟨0x11, 0⟩
    | none => s
  | .fabricLink | .networkPort | .storagePort | .serviceSram => s

/-- CORRECTED_ERROR (R333): it is counted in the bank of the unit where it is found, and does nothing else. -/
def execCorrectedError (found : ErrorAt) (addr : Word) (info : BitVec 128) (s : State) : Host.Outcome State Fault Refusal :=
  .next (
    let b := s.siteBank found.site found.n addr
    if s.siteOk found.site found.n addr then s.logError b.1 false (BitVec.ofNat 64 b.2) info else s)

/-- UNCORRECTABLE_ERROR (R333, R334, R339): the bank of the unit where it is found records it. -/
def execUncorrectableError (site : ErrorSite) (n : Nat) (addr : Word) (info : BitVec 128) (s : State) : Host.Outcome State Fault Refusal :=
  .next (
    let b := s.siteBank site n addr
    if s.siteOk site n addr then (s.logError b.1 true (BitVec.ofNat 64 b.2) info).spoil site n else s)

/-! ### Write-back (R193, R369) -/

/-- The pages, of whatever sizes, that stand in the file-backed ranges of the jobs' launches. -/
def State.filePages (s : State) : List (Nat × Nat) :=
  (s.jobs.flatMap fun (jn, o) => if o.isNone then [] else
    (s.jobLaunches jn).flatMap fun l => (l.ranges.filter (·.cls == 2)).flatMap fun r => (s.pagesOf jn r).map fun va => (jn, va)).eraseDups

/-- A page's leaf changed. -/
def State.modLeaf (s : State) (jn va : Nat) (f : Leaf → Nat) : State :=
  match (s.job? jn).bind fun j => s.jobPlace j va with
  | some (_, l) => { s with mem := { s.mem with dram := setLeaf s.mem.dram l (f l) } }
  | none => s

/-- WRITEBACK_SCAN (R193): WB is set on every dirty file-backed page. -/
def execWritebackScan (s : State) : Host.Outcome State Fault Refusal :=
  .next (s.filePages.foldl (fun st p => st.modLeaf p.1 p.2 fun l => if l.bit 8 && !l.bit 7 && !st.shooting p.1 p.2 1 then l.raw + 128 else l.raw) s)

/-- The command that writes a page back, if it has been given to the storage port. -/
def State.pageCommand (s : State) (job va : Nat) : Option Nvme :=
  s.io.nvme.find? fun c => match c with | .page j v _ => j == job && v.toNat == va | _ => false

/-- A store or atomic to a page that passed its checks before WB was set has not landed (R193). -/
def State.earlierStores (s : State) (job va n : Nat) : Bool :=
  let inPage := fun (j v : Nat) => j == job && decide (va ≤ v) && decide (v < va + n)
  s.mem.writes.any (fun w => inPage w.job w.va && !w.held) ||
    s.records.any fun (_, sq) => sq.threads.any fun (_, t) => match t.wait with
      | .atomic _ (.dram _ _ j v _) held _ => inPage j v && !held
      | _ => false

/-- The page under write-back whose earlier stores have landed, not yet given to the storage port: its leaf. -/
def State.drainedPage (s : State) (job va : Nat) : Option Leaf :=
  match (s.job? job).bind fun j => s.jobPlace j va with
  | some (_, l) =>
    if l.bit 7 && va % pageBytes l.size == 0 && !s.earlierStores job va (pageBytes l.size) && (s.pageCommand job va).isNone then some l else none
  | none => none

/-- The bytes of a page's frame as its leaf shows them. -/
def State.frameBytes (s : State) (l : Leaf) : List Byte := (List.range (pageBytes l.size)).map fun i => s.byteAt (.dram (l.frame + i) (s.leafKey l))

/-- A command given to the storage port. -/
def State.command (s : State) (c : Nvme) : State := { s with io := { s.io with nvme := s.io.nvme ++ [c] } }

/-- WRITEBACK_DRAINED (R193): the page is queued to the storage port, as it stands now. -/
def execWritebackDrained (job : Nat) (va : Word) (s : State) : Host.Outcome State Fault Refusal :=
  .next (match s.drainedPage job va.toNat with
    | some l => (s.noteFrame l.frame (pageBytes l.size)).command (.page job va (s.frameBytes l))
    | none => s)

/-- The file, and the offset in it, behind a file-backed page (R190). -/
def State.backing (s : State) (job va : Nat) : Option (Nat × File × Nat) :=
  (s.jobLaunches job).findSome? fun l =>
    (l.ranges.find? fun r => r.cls == 2 && decide (r.base ≤ va) && decide (va < r.base + r.length)).bind fun r =>
      (s.fileOf (bitsOf r.arg.toNat 0 32)).map fun f => (bitsOf r.arg.toNat 0 32, f, bitsOf r.arg.toNat 32 32 * 65536 + (va - r.base))

/-- A STORAGE ERROR report (R367): file handle, file offset, NVMe status, which is a free value. -/
def State.storageError (s : State) (job handle off : Nat) : State :=
  let (s1, n) := s.drawFree
  s1.note (.report 0x82 job (bytesLE 4 handle ++ bytesLE 8 off ++ bytesLE 2 (Config.freeNat (n * 64 + 63))))

/-- The write-back of a page ends (R193): flash holds the page, and D and WB are clear; or WB is clear, D stays, and the error is
reported. -/
def State.pageWritten (s : State) (job va : Nat) (data : List Byte) (ok : Bool) : State :=
  match (s.job? job).bind fun j => s.jobPlace j va with
  | none => s
  | some _ =>
    let s1 := s.modLeaf job va fun l => l.raw - (if l.bit 7 then 128 else 0) - (if ok && l.bit 8 then 256 else 0)
    match s.backing job va with
    | none => s1
    | some (h, f, off) =>
      if ok then s1.modFile f.path fun d => putFile d off data
      else s1.storageError job h off

/-- WRITEBACK_COMPLETE (R193): the flash write of a page completes. -/
def execWritebackComplete (job : Nat) (va : Word) (ok : Bool) (s : State) : Host.Outcome State Fault Refusal :=
  .next (match s.pageCommand job va.toNat with
    | some (.page j v data) => { s with io := { s.io with nvme := s.io.nvme.erase (.page j v data) } }.pageWritten job va.toNat data ok
    | _ => s)

/-! ### Background activity (R344) -/

/-- PATROL_SCRUB (R344): a line is read; an error that can be corrected is corrected in place; with one that cannot, the line is poisoned. -/
def execPatrolScrub (line : Nat) (corrected uncorrectable : Bool) (s : State) : Host.Outcome State Fault Refusal :=
  .next (
    let p : Place := .dram (64 * line) 0
    let a := BitVec.ofNat 64 (64 * line)
    if !s.siteOk .dramLine line 0 then s else
    let s1 := s.noteRead p
    if uncorrectable then (s1.logError (s.bankFor p) true a 0).mark p
    else if corrected then s1.logError (s.bankFor p) false a 0
    else s1)

/-- CALIBRATION_WINDOW (R344): it may delay accesses and changes no value. -/
def execCalibrationWindow (s : State) : Host.Outcome State Fault Refusal := .next s

/-- TELEMETRY_SAMPLE (R344): a sample is taken for Driene. -/
def execTelemetrySample (s : State) : Host.Outcome State Fault Refusal := .next (s.note (.telemetry s.cycle))

/-- WEAR_MANAGEMENT (R344, R369): blocks are given back by Dataset Management commands. -/
def execWearManagement (blocks : Discard) (s : State) : Host.Outcome State Fault Refusal :=
  .next (if blocks.port < 2 then s.command (.deallocate blocks.port blocks.blocks) else s)

end Sys2Proof.Machine
end

