-- ==== Sys2Proof/Machine/Files.lean ====
section
/-!
DEFINITION. Machine/Files.lean: the file and socket calls that SYSCALL serves (R309, R310, R368), and the commands of the storage
port (R369).
-/
namespace Sys2Proof.Machine

/-! ### The call that is served -/

/-- A system call: the lane that is served next, its call number, none where it is unknown, and g1 to g5 (R309). -/
structure Call where
  sq : Squad
  lane : Nat
  num : Option Nat
  arg : Nat → Nat

/-- The numbers of R368. -/
def knownCall (n : Nat) : Bool := [0x01, 0x02, 0x03, 0x04, 0x05, 0x06, 0x10, 0x11, 0x12, 0x13, 0x14].contains n

/-- The call of the lowest lane of a squad that Driene serves. -/
def State.call? (s : State) (q : Nat) : Option Call :=
  (s.squad? q).bind fun sq =>
    match sq.status with
    | .serving ls =>
      (lanesOf ls).head?.map fun l =>
        let g := fun n => (SMap.get Reg.zero (sq.thread l).regs n).data.toNat
        ⟨sq, l, if knownCall (g 0) then some (g 0) else none, g⟩
    | _ => none

/-- An error result (R309, R368). -/
def errno (n : Nat) : Word := BitVec.ofInt 64 (-(n : Int))

/-- A command of the storage port is under way for a thread. -/
def State.pendingFor (s : State) (r : SquadRef) (lane : Nat) : Bool :=
  s.io.nvme.any fun c => match c with
    | .write _ _ _ b l _ | .read _ _ _ _ b l _ | .zeroes _ _ b l _ | .flush b l _ => b == r && l == lane
    | _ => false

/-- What a call comes to: a result with the state it leaves; or it waits. -/
abbrev CallOutcome := Option (State × Word)

/-- One call served: where a squad's next call has the number, its effect, and the answer in g0 (R309). -/
def State.serve (s : State) (q num : Nat) (f : Call → State → CallOutcome) : State :=
  match s.call? q with
  | none => s
  | some c =>
    let l := s.launchOf c.sq.lid
    if c.num ≠ some num || s.pendingFor c.sq.ref c.lane || l.status != .running || inRanges l.killing c.sq.crew then s
    else match f c s with
      | some (s', v) => s'.answerCall q c.lane v
      | none => s

/-- A buffer lies wholly inside the caller's lease with the right that the call needs (R368). -/
def State.bufferOk (s : State) (c : Call) (nd : Need) (a n : Nat) : Bool :=
  decide (a + n ≤ 2 ^ 56) && (s.checkSpan (engineCx c.sq.lid c.sq.crew) false nd a n).toOption.isSome

/-- The state once a buffer has been read (R345). -/
def State.bufferSeen (s : State) (c : Call) (a n : Nat) : State := s.graphSeen c.sq.lid c.sq.crew (BitVec.ofNat 64 a) n

/-- The bytes of a buffer. -/
def State.readBuffer (s : State) (c : Call) (a n : Nat) : List Byte := (s.graphRead c.sq.lid c.sq.crew (BitVec.ofNat 64 a) n).getD []

/-- A handle of the caller's launch. -/
def State.handle? (s : State) (c : Call) (n : Nat) : Option Handle := SMap.get none (s.launchOf c.sq.lid).handles n

/-- A new handle of the caller's launch. -/
def State.newHandle (s : State) (c : Call) (h : Handle) : State × Word :=
  (({ s with nextHandle := s.nextHandle + 1 }).modLaunch c.sq.lid fun l =>
    { l with handles := SMap.set none l.handles s.nextHandle (some h) }, BitVec.ofNat 64 s.nextHandle)

def State.dropHandle (s : State) (c : Call) (n : Nat) : State :=
  s.modLaunch c.sq.lid fun l => { l with handles := SMap.set none l.handles n none }

def State.file? (s : State) (path : List Byte) : Option File := s.io.files.find? (·.path == path)

/-- A file is mapped by a file-backed range of a running launch. -/
def State.mapped (s : State) (path : List Byte) : Bool :=
  s.launches.any fun (_, o) => o.any fun l => l.status != .ended &&
    l.ranges.any fun r => r.cls == 2 && (s.fileOf (bitsOf r.arg.toNat 0 32)).any (·.path == path)

/-! ### The storage ports (R369) -/

/-- The device of a port is in use: it offers every NVM command that Driene issues, and has its queues. -/
def StoragePort.used (p : StoragePort) : Bool := p.offers && p.cq && p.sq

/-- Flash can be reached. -/
def State.storageUp (s : State) : Bool := (List.range 2).any fun p => (SMap.get {} s.io.ports p).used

/-- Driene still sets the ports up. -/
def State.storageStarting (s : State) : Bool := s.io.nvme.any fun c => match c with | .admin .. => true | _ => false

/-- A call that needs flash: it waits while Driene sets the ports up, and fails where no device can be used (R368, R369; DEDUCED, log 44). -/
def needsFlash (f : Call → State → CallOutcome) (c : Call) (s : State) : CallOutcome :=
  if s.storageUp then f c s else if s.storageStarting then none else some (s, errno 5)

/-- The opcode of a command (R369): admin or not, and its number. -/
def Nvme.opcode : Nvme → Bool × Nat
  | .admin _ op => (true, match op with
    | .deleteSq => 0x00
    | .createSq => 0x01
    | .getLogPage => 0x02
    | .deleteCq => 0x04
    | .createCq => 0x05
    | .identify => 0x06
    | .setFeatures => 0x09
    | .getFeatures => 0x0A)
  | .flush .. => (false, 0x00)
  | .page .. | .write .. => (false, 0x01)
  | .read .. => (false, 0x02)
  | .zeroes .. => (false, 0x08)
  | .deallocate .. => (false, 0x09)

/-- Bytes of a logical block (R369). -/
abbrev blockBytes : Nat := 4096

/-- The logical blocks that n bytes of a file take. -/
def blocksOf (n : Nat) : Nat := (n + blockBytes - 1) / blockBytes

/-- The blocks that all files take, with one of them grown to a length. -/
def State.blocksWith (s : State) (path : List Byte) (len : Nat) : Nat :=
  (s.io.files.map fun f => blocksOf (if f.path = path then max f.data.length len else f.data.length)).sum

/-! ### Files -/

/-- OPEN: path address, path length, flags. -/
def openCall (c : Call) (s : State) : CallOutcome :=
  let n := c.arg 2
  let fl := c.arg 3
  if 255 < n || 8 ≤ fl then some (s, errno 1)
  else if !s.bufferOk c .load (c.arg 1) n then some (s, errno 14)
  else
    let path := s.readBuffer c (c.arg 1) n
    let s := s.bufferSeen c (c.arg 1) n
    let found := s.file? path
    if found.isNone && !fl.testBit 2 then some (s, errno 2)
    else if fl.testBit 1 && s.mapped path then some (s, errno 16)
    else
      let s1 := if found.isSome then s else { s with io := { s.io with files := s.io.files ++ [⟨path, []⟩] } }
      some (s1.newHandle c (.file path (fl.testBit 0) (fl.testBit 1)))

/-- OPEN (R368). -/
def execFileOpen (q : Nat) (s : State) : Host.Outcome State Fault Refusal := .next (s.serve q 0x01 (needsFlash openCall))

/-- CLOSE: handle. -/
def closeCall (c : Call) (s : State) : CallOutcome :=
  match s.handle? c (c.arg 1) with
  | some (.file ..) => some (s.dropHandle c (c.arg 1), 0)
  | _ => some (s, errno 9)

/-- CLOSE (R368). -/
def execFileClose (q : Nat) (s : State) : Host.Outcome State Fault Refusal := .next (s.serve q 0x02 closeCall)

/-- READ: handle, buffer, length, file offset; the storage port's answer ends it. -/
def readCall (c : Call) (s : State) : CallOutcome :=
  match s.handle? c (c.arg 1) with
  | some (.file path true _) =>
    if !s.bufferOk c .store (c.arg 2) (c.arg 3) then some (s, errno 14)
    else match s.file? path with
      | none => some (s, errno 2)
      | some f =>
        let n := min (c.arg 3) (f.data.length - c.arg 4)
        if n = 0 then some (s, 0) else none
  | _ => some (s, errno 9)

/-- The command that a READ which does not end at once gives to the storage port. -/
def readCommand (c : Call) (s : State) : Option Nvme :=
  match s.handle? c (c.arg 1) with
  | some (.file path _ _) => (s.file? path).map fun f =>
      .read path (c.arg 4) (min (c.arg 3) (f.data.length - c.arg 4)) (BitVec.ofNat 64 (c.arg 2)) c.sq.ref c.lane (c.arg 1)
  | _ => none

/-- WRITE: handle, buffer, length, file offset; the storage port's answer ends it. -/
def writeCall (c : Call) (s : State) : CallOutcome :=
  match s.handle? c (c.arg 1) with
  | some (.file path _ true) =>
    if !s.bufferOk c .load (c.arg 2) (c.arg 3) then some (s, errno 14)
    else match s.file? path with
      | none => some (s, errno 2)
      | some f =>
        if c.arg 3 = 0 then some (s, 0)
        else if decide (Config.flashBlocks < s.blocksWith f.path (c.arg 4 + c.arg 3)) then some (s, errno 28)
        else none
  | _ => some (s, errno 9)

/-- The command of a WRITE: where it begins past the end of the file, the blocks between are filled with zeroes first (R369; DEDUCED, log 44). -/
def writeCommand (c : Call) (s : State) : Option Nvme :=
  match s.handle? c (c.arg 1) with
  | some (.file path _ _) =>
    if (s.file? path).any fun f => decide (f.data.length < c.arg 4) then some (.zeroes path (c.arg 4) c.sq.ref c.lane (c.arg 1))
    else some (.write path (c.arg 4) (s.readBuffer c (c.arg 2) (c.arg 3)) c.sq.ref c.lane (c.arg 1))
  | _ => none

/-- A command has read the buffer that a WRITE names (R345). -/
def State.commandSeen (s : State) (c : Call) : Nvme → State
  | .write .. => s.bufferSeen c (c.arg 2) (c.arg 3)
  | _ => s

/-- A call that the storage port ends: it is answered at once, or its command is given to the port. -/
def State.serveByPort (s : State) (q num : Nat) (f : Call → State → CallOutcome) (cmd : Call → State → Option Nvme) : State :=
  match s.call? q with
  | none => s
  | some c =>
    let l := s.launchOf c.sq.lid
    if c.num = some num && !s.pendingFor c.sq.ref c.lane && l.status == .running && !inRanges l.killing c.sq.crew && s.storageUp && (f c s).isNone then
      match cmd c s with
      | some x => (s.commandSeen c x).command x
      | none => s
    else s.serve q num (needsFlash f)

/-- READ (R368). -/
def execFileRead (q : Nat) (s : State) : Host.Outcome State Fault Refusal := .next (s.serveByPort q 0x03 readCall readCommand)

/-- WRITE (R368). -/
def execFileWrite (q : Nat) (s : State) : Host.Outcome State Fault Refusal := .next (s.serveByPort q 0x04 writeCall writeCommand)

/-- A WRITE of a handle is not on flash yet. -/
def State.writePending (s : State) (lid handle : Nat) : Bool :=
  s.io.nvme.any fun c => match c with
    | .write _ _ _ b _ h | .zeroes _ _ b _ h => b.lid == lid && h == handle
    | _ => false

/-- FLUSH: handle; it waits for the handle's WRITEs and then for a Flush of the storage port. -/
def flushCall (c : Call) (s : State) : CallOutcome :=
  match s.handle? c (c.arg 1) with
  | some (.file ..) => none
  | _ => some (s, errno 9)

def flushCommand (c : Call) (s : State) : Option Nvme :=
  if s.writePending c.sq.lid (c.arg 1) then none else some (.flush c.sq.ref c.lane (c.arg 1))

/-- FLUSH (R368, R369). -/
def execFileFlush (q : Nat) (s : State) : Host.Outcome State Fault Refusal := .next (s.serveByPort q 0x05 flushCall flushCommand)

/-- SIZE: handle. -/
def sizeCall (c : Call) (s : State) : CallOutcome :=
  match s.handle? c (c.arg 1) with
  | some (.file path _ _) =>
    match s.file? path with
    | some f => some (s, BitVec.ofNat 64 f.data.length)
    | none => some (s, errno 2)
  | _ => some (s, errno 9)

/-- SIZE (R368). -/
def execFileSize (q : Nat) (s : State) : Host.Outcome State Fault Refusal := .next (s.serve q 0x06 sizeCall)

/-! ### Sockets -/

/-- The socket behind a handle. -/
def State.socket? (s : State) (c : Call) (h : Nat) : Option Socket :=
  match s.handle? c h with
  | some (.sock n) => s.io.sockets.find? (·.n == n)
  | _ => none

/-- CONNECT: module number, port. -/
def connectCall (c : Call) (s : State) : CallOutcome :=
  let l := s.launchOf c.sq.lid
  if 65536 ≤ c.arg 2 then some (s, errno 1)
  else if !s.reachable c.sq.lid (c.arg 1) then some (s, errno 110)
  else
    let n := s.nextSocket
    let k : Socket := ⟨n, c.sq.lid, l.job, c.arg 1, c.arg 2, true, [], 0, [], false, false, 1⟩
    let s1 := { s with nextSocket := n + 1, io := { s.io with sockets := s.io.sockets ++ [k] } }
    some ((s1.sendTo l.job (c.arg 1) (.sockOpen n (c.arg 2))).newHandle c (.sock n))

/-- CONNECT (R368). -/
def execSockConnect (q : Nat) (s : State) : Host.Outcome State Fault Refusal := .next (s.serve q 0x10 connectCall)

/-- LISTEN: port; it waits for the first connection. -/
def listenCall (c : Call) (s : State) : CallOutcome :=
  if 65536 ≤ c.arg 1 then some (s, errno 1)
  else match s.io.sockets.find? fun k => k.lid == 0 && !k.up && k.job == (s.launchOf c.sq.lid).job && k.port == c.arg 1 with
    | none => none
    | some k => some ((s.modSocket k.n fun k => { k with lid := c.sq.lid, up := true }).newHandle c (.sock k.n))

/-- LISTEN (R368). -/
def execSockListen (q : Nat) (s : State) : Host.Outcome State Fault Refusal := .next (s.serve q 0x11 listenCall)

/-- SEND: socket, buffer, length. -/
def sendCall (c : Call) (s : State) : CallOutcome :=
  match s.socket? c (c.arg 1) with
  | none => some (s, errno 9)
  | some k =>
    if !s.bufferOk c .load (c.arg 2) (c.arg 3) then some (s, errno 14)
    else if k.broken then some (s, errno 104)
    else if s.io.peersDown.contains (k.job, k.peer) then some (s, errno 110)
    else
      let s1 := (s.bufferSeen c (c.arg 2) (c.arg 3)).sendTo k.job k.peer (.socket k.n k.out (s.readBuffer c (c.arg 2) (c.arg 3)))
      some (s1.modSocket k.n fun k => { k with out := k.out + 1 }, BitVec.ofNat 64 (c.arg 3))

/-- SEND (R368). -/
def execSockSend (q : Nat) (s : State) : Host.Outcome State Fault Refusal := .next (s.serve q 0x12 sendCall)

/-- Bytes that Driene writes into a caller's buffer, where it is still mapped; none while a page of it is under write-back (R194). -/
def State.fillBuffer (s : State) (lid crew a : Nat) (bs : List Byte) : Option State :=
  match s.spanParts (engineCx lid crew) false .store (span 16 a bs.length) with
  | none => some s
  | some ps => if ps.any s.partHeld then none else some (s.writeParts 0 0 ps bs)

/-- RECV: socket, buffer, length; it waits for bytes, the end of the stream, or an error. -/
def recvCall (c : Call) (s : State) : CallOutcome :=
  match s.socket? c (c.arg 1) with
  | none => some (s, errno 9)
  | some k =>
    if !s.bufferOk c .store (c.arg 2) (c.arg 3) then some (s, errno 14)
    else if c.arg 3 = 0 then some (s, 0)
    else if k.rx ≠ [] then
      let bs := k.rx.take (c.arg 3)
      (s.fillBuffer c.sq.lid c.sq.crew (c.arg 2) bs).map fun s1 =>
        (s1.modSocket k.n fun k => { k with rx := k.rx.drop (c.arg 3) }, BitVec.ofNat 64 bs.length)
    else if k.broken then some (s, errno 104)
    else if k.eof then some (s, 0)
    else if s.io.peersDown.contains (k.job, k.peer) then some (s, errno 110)
    else none

/-- RECV (R368). -/
def execSockRecv (q : Nat) (s : State) : Host.Outcome State Fault Refusal := .next (s.serve q 0x13 recvCall)

/-- SHUTDOWN: socket. -/
def shutdownCall (c : Call) (s : State) : CallOutcome :=
  match s.socket? c (c.arg 1) with
  | none => some (s, errno 9)
  | some k =>
    let s1 := { s with io := { s.io with sockets := s.io.sockets.filter (·.n != k.n) } }
    some ((s1.sendTo k.job k.peer (.sockEnd k.n k.out)).dropHandle c (c.arg 1), 0)

/-- SHUTDOWN (R368). -/
def execSockShutdown (q : Nat) (s : State) : Host.Outcome State Fault Refusal := .next (s.serve q 0x14 shutdownCall)

/-! ### Completions of the storage port (R369) -/

/-- The answer for a thread whose call waited for the port, where its squad is bound. -/
def State.answerRef (s : State) (r : SquadRef) (lane : Nat) (v : Word) : State :=
  match s.recordFor r with
  | some q => s.answerCall q lane v
  | none => s

def State.modPort (s : State) (p : Nat) (f : StoragePort → StoragePort) : State :=
  { s with io := { s.io with ports := SMap.set {} s.io.ports p (f (SMap.get {} s.io.ports p)) } }

/-- An admin command ends (R369). An Identify that fails, or tells that the device lacks an NVM command that Driene issues, leaves the device unused: its queues are
deleted. -/
def State.adminDone (s : State) (p : Nat) (op : AdminOp) (ok : Bool) : State :=
  match op with
  | .identify => if ok then s.modPort p fun x => { x with offers := true } else
      ((s.modPort p fun x => { x with offers := false }).command (.admin p .deleteSq)).command (.admin p .deleteCq)
  | .createCq => s.modPort p fun x => { x with cq := ok }
  | .createSq => s.modPort p fun x => { x with sq := ok }
  | .deleteCq => if ok then s.modPort p fun x => { x with cq := false } else s
  | .deleteSq => if ok then s.modPort p fun x => { x with sq := false } else s
  | .getLogPage | .setFeatures | .getFeatures => s

/-- A command of the storage port ends: its effect, or none while its buffer's page is under write-back. -/
def State.commandDone (s : State) (c : Nvme) (ok : Bool) : Option State :=
  match c with
  | .admin p op => some (s.adminDone p op ok)
  | .page job va data => some (s.pageWritten job va.toNat data ok)
  | .zeroes path stop r lane h =>
    some (if ok then s.modFile path fun d => d ++ List.replicate (stop - d.length) 0
      else (s.storageError (s.launchOf r.lid).job h stop).answerRef r lane (errno 5))
  | .flush r lane _ => some (s.answerRef r lane (if ok then 0 else errno 5))
  | .write path off data r lane h =>
    some (if ok then (s.modFile path fun d => putFile d off data).answerRef r lane (BitVec.ofNat 64 data.length)
      else (s.storageError (s.launchOf r.lid).job h off).answerRef r lane (errno 5))
  | .read path off len buf r lane _ =>
    if !ok || (s.recordFor r).isNone then some (s.answerRef r lane (errno 5)) else
    let bs := (((s.file? path).map (·.data)).getD [] |>.drop off).take len
    (s.fillBuffer r.lid r.crew buf.toNat bs).map fun s1 => s1.answerRef r lane (BitVec.ofNat 64 bs.length)
  | .deallocate .. => some s

/-- NVME_COMPLETION (R369): the n-th outstanding command ends, well or with an error. -/
def execNvmeCompletion (n : Nat) (ok : Bool) (s : State) : Host.Outcome State Fault Refusal :=
  .next (match s.io.nvme[n]? with
    | none => s
    | some c => ({ s with io := { s.io with nvme := s.io.nvme.eraseIdx n } }.commandDone c ok).getD s)

end Sys2Proof.Machine
end

