-- ==== Sys2Proof/Machine/Invert.lean ====
section
/-!
DEFINITION. Machine/Invert.lean: INV and INV.DEC, monotone inversion by bisection (R165-R175), and the bracket moves BSET and
BGET (R168).
-/
namespace Sys2Proof.Machine

/-! ### Bracket registers -/

/-- A bracket register as a thread reads it: tag I32x2 at thread start (R11, R57, R167). -/
def Thread.readB (t : Thread) (cx : Ctx) (k : Nat) : Except Trap Reg :=
  match t.early cx (64 + k) with
  | none => .ok (SMap.get ⟨0, .i32x2⟩ t.brk k)
  | some w => if cx.chk then .error ⟨0x0B, 0⟩ else .ok w.old

/-- A bracket register written by INV; an earlier move to it has landed. -/
def Thread.setB (t : Thread) (k : Nat) (v : Reg) : Thread :=
  { t with brk := SMap.set ⟨0, .i32x2⟩ t.brk k v, pend := t.pend.filter (·.dst != 64 + k) }

def bracketTag (t : Tag) : Bool := t == .i32x2 || t == .f32x2

/-- BSET (R168): the INVEND's word enters SIG too. -/
def doBset (k : BitVec 2) (a : RegCode) (cx : Ctx) (t : Thread) : Except Trap Thread := do
  let v ← t.src cx bracketTag a
  .ok { t with
    brk := SMap.set ⟨0, .i32x2⟩ t.brk k.toNat v
    pend := t.outstanding cx (64 + k.toNat) (SMap.get ⟨0, .i32x2⟩ t.brk k.toNat) latInt
    sig := sigHash t.sig 0x3E }

def execBset (k : BitVec 2) (a : RegCode) (s : State) : Host.Outcome State Fault Refusal :=
  .next (s.execThread (.bset k a) 0 0 (doBset k a))

/-- BGET (R168); a bracket register tagged POISON, which only a debugger can write, is a machine check, as every operand so tagged (R13). -/
def doBget (k : BitVec 2) (d : RegCode) (cx : Ctx) (t : Thread) : Except Trap Thread := do
  let v ← t.readB cx k.toNat
  need (fun _ => true) v
  .ok { t.write cx d v latInt with sig := sigHash t.sig 0x3E }

def execBget (k : BitVec 2) (d : RegCode) (s : State) : Host.Outcome State Fault Refusal :=
  .next (s.execThread (.bget k d) 0 0 (doBget k d))

/-! ### The routine -/

/-- An instruction of one thread. -/
abbrev ThreadOp := Ctx → Thread → Except Trap Thread

/-- An F-R instruction in a routine: a false guard leaves the private copy unchanged (R169). -/
def guarded (g : BitVec 2) (f : ThreadOp) : Option ThreadOp :=
  some fun cx t =>
    match t.guardOn cx g with
    | .error e => .error e
    | .ok on => if on then f cx t else .ok t

/-- What an instruction of a routine does to the private copy (R166). -/
def routineOp (i : Instr) : Option ThreadOp :=
  match i with
  | .addC b d => some (doAddC b d)
  | .subC b d => some (doSubC b d)
  | .andC b d => some (doAndC b d)
  | .orC b d => some (doOrC b d)
  | .xorC b d => some (doXorC b d)
  | .shliC i d => some (doShliC i d)
  | .shriC i d => some (doShriC i d)
  | .addiC i d => some (doAddiC i d)
  | .movC b d => some (doMovC b d)
  | .faddC b d => some (doFaddC b d)
  | .fmulC b d => some (doFmulC b d)
  | .fmao b d => some (doFmao b d)
  | .nop i => some (doNop i)
  | .add f => guarded f.g (doAdd f)
  | .sub f => guarded f.g (doSub f)
  | .and f => guarded f.g (doAnd f)
  | .or f => guarded f.g (doOr f)
  | .xor f => guarded f.g (doXor f)
  | .andn f => guarded f.g (doAndn f)
  | .shl f => guarded f.g (doShl f)
  | .shr f => guarded f.g (doShr f)
  | .shrU f => guarded f.g (doShrU f)
  | .rol f => guarded f.g (doRol f)
  | .mul f => guarded f.g (doMul f)
  | .mulh f => guarded f.g (doMulh f)
  | .mulhU f => guarded f.g (doMulhU f)
  | .min f => guarded f.g (doMin f)
  | .minU f => guarded f.g (doMinU f)
  | .max f => guarded f.g (doMax f)
  | .maxU f => guarded f.g (doMaxU f)
  | .adds f => guarded f.g (doAdds f)
  | .addsU f => guarded f.g (doAddsU f)
  | .subs f => guarded f.g (doSubs f)
  | .subsU f => guarded f.g (doSubsU f)
  | .mov f => guarded f.g (doMov f)
  | .fadd f => guarded f.g (doFadd f)
  | .fsub f => guarded f.g (doFsub f)
  | .fmul f => guarded f.g (doFmul f)
  | .fma f => guarded f.g (doFma f)
  | .fnma f => guarded f.g (doFnma f)
  | .fmin f => guarded f.g (doFmin f)
  | .fmax f => guarded f.g (doFmax f)
  | .addi i a d => some (doAddi i a d)
  | .andi i a d => some (doAndi i a d)
  | .ori i a d => some (doOri i a d)
  | .xori i a d => some (doXori i a d)
  | .shli i a d => some (doShli i a d)
  | .shri i a d => some (doShri i a d)
  | .shriU i a d => some (doShriU i a d)
  | .muli i a d => some (doMuli i a d)
  | .movi i d => some (doMovi i d)
  | .retag t a d => some (doRetag t a d)
  | .ldhi i d => some (doLdhi i d)
  | .pcrel i d => some (doPcrel i d)
  | .div b a d => some (doDiv b a d)
  | .divU b a d => some (doDivU b a d)
  | .rem b a d => some (doRem b a d)
  | .remU b a d => some (doRemU b a d)
  | .popc a d => some (doPopc a d)
  | .clz a d => some (doClz a d)
  | .ctz a d => some (doCtz a d)
  | .brev a d => some (doBrev a d)
  | .bswap a d => some (doBswap a d)
  | .abs a d => some (doAbs a d)
  | .neg a d => some (doNeg a d)
  | .ext b a d => some (doExt b a d)
  | .extU b a d => some (doExtU b a d)
  | .ins b a d => some (doIns b a d)
  | .fdiv b a d => some (doFdiv b a d)
  | .fsqrt r a d => some (doFsqrt r a d)
  | .fabs a d => some (doFabs a d)
  | .fneg a d => some (doFneg a d)
  | .fcpys b a d => some (doFcpys b a d)
  | .fclass a d => some (doFclass a d)
  | .frint r a d => some (doFrint r a d)
  | .cvtF64 x m a d => some (doCvtF64 x m a d)
  | .cvtF32 x m a d => some (doCvtF32 x m a d)
  | .cvtF16 x m a d => some (doCvtF16 x m a d)
  | .cvtBf16 x m a d => some (doCvtBf16 x m a d)
  | .cvtE4m3 x m a d => some (doCvtE4m3 x m a d)
  | .cvtE5m2 x m a d => some (doCvtE5m2 x m a d)
  | .cvtE2m1 x m a d => some (doCvtE2m1 x m a d)
  | .cvtI64 x m a d => some (doCvtI64 x m a d)
  | .cvtI64U x m a d => some (doCvtI64U x m a d)
  | .cvtI32 x m a d => some (doCvtI32 x m a d)
  | .cvtI32U x m a d => some (doCvtI32U x m a d)
  | .cvtI16 x m a d => some (doCvtI16 x m a d)
  | .cvtI16U x m a d => some (doCvtI16U x m a d)
  | .cvtI8 x m a d => some (doCvtI8 x m a d)
  | .cvtI8U x m a d => some (doCvtI8U x m a d)
  | .pack b a d => some (doPack b a d)
  | .unpackLo b a d => some (doUnpackLo b a d)
  | .unpackHi b a d => some (doUnpackHi b a d)
  | _ => none

/-- The instruction writes only o0-o3, e0, e1, z or the INV's out register (R166). -/
def routineOk (out : RegCode) (i : Instr) : Bool :=
  match instrRoutineDst i with
  | none => false
  | some ds => ds.all fun d => (decide (56 ≤ d) && decide (d ≤ 62)) || d == out.toNat

/-- The routine from a PC: its instructions with their PCs, and the PC after its INVEND; n instructions may still be read,
INVEND among them (R166). -/
def State.readRoutine (s : State) (la : Launch) (core : Nat) (out : RegCode) : Nat → Word → Except Trap (List (Word × Instr) × Word)
  | 0, _ => .error ⟨0x01, 0⟩
  | n + 1, pc =>
    match s.fetch la core pc s.freeCtr with
    | .error t => .error t
    | .ok .invend => .ok ([], pc + 2)
    | .ok i =>
      if routineOk out i then
        match s.readRoutine la core out n (pc + BitVec.ofNat 64 i.len) with
        | .error t => .error t
        | .ok (is, fin) => .ok ((pc, i) :: is, fin)
      else .error ⟨0x01, 0⟩

/-- The routine run once on a private copy. -/
def runRoutine (cx : Ctx) : List (Word × Instr) → Thread → Except Trap Thread
  | [], t => .ok t
  | (pc, i) :: is, t =>
    match routineOp i with
    | none => .error ⟨0x01, 0⟩
    | some f =>
      match f { cx with pc := pc, routine := true } t with
      | .error e => .error e
      | .ok t' => runRoutine cx is t'

/-- What an INV names. -/
structure InvArgs where
  dec : Bool
  tol : Nat
  k : Nat
  target : RegCode
  inn : RegCode
  out : RegCode
  body : List (Word × Instr)
  fin : Word
  deriving DecidableEq, Repr

/-- Eval(x) of R169: the private copy at the end; the argument stands in element 0 of `in`. -/
def InvArgs.eval (p : InvArgs) (cx : Ctx) (t : Thread) (f32 : Bool) (x : Nat) : Except Trap Thread :=
  runRoutine cx p.body { t with
    regs := SMap.set Reg.zero t.regs p.inn.toNat ⟨BitVec.ofNat 64 x, if f32 then .f32x2 else .i32x2⟩, fflags := 0 }

/-- The result of an evaluation, whose tag must be that of the earlier results where there are any (R169). -/
def InvArgs.value (p : InvArgs) (tag : Option Tag) (t : Thread) : Except Trap (Tag × Nat) :=
  let r := SMap.get Reg.zero t.regs p.out.toNat
  if bracketTag r.tag && (tag == none || tag == some r.tag) then .ok (r.tag, elem r.data 32 0) else .error ⟨0x02, 0⟩

/-! ### Bisection (R170, R171) -/

/-- v < w in the order of a result tag. -/
def ordLt (f32 : Bool) (v w : Nat) : Bool :=
  if f32 then (Fmt.b32.decode v).lt (Fmt.b32.decode w) else decide (signed 32 v < signed 32 w)

def ordNan (f32 : Bool) (v : Nat) : Bool := f32 && (Fmt.b32.decode v).isNan

def InvLane.f32 (x : InvLane) : Bool := x.dom == .f32x2

/-- Beyond(v) of R170. -/
def beyond (dec f32 : Bool) (goal v : Nat) : Bool := if dec then !ordLt f32 goal v else !ordLt f32 v goal

/-- Step 0 of a lane: the checks before step 1, in their order (R170); `b` and `y` are what it read from its bracket register and its target. -/
def InvArgs.open_ (p : InvArgs) (cx : Ctx) (t : Thread) (b y : Reg) : Except Trap InvLane := do
  need bracketTag b
  let df := b.tag == .f32x2
  let lo := elem b.data 32 0
  let hi := elem b.data 32 1
  if ordNan df lo || ordNan df hi then .error ⟨0x08, 0⟩
  if decide (keyOf df hi ≤ keyOf df lo) then .error ⟨0x08, 0⟩
  let tl ← p.eval cx t df lo
  let (g, flo) ← p.value none tl
  let th ← p.eval cx t df hi
  let (_, fhi) ← p.value (some g) th
  need (fun z => z == g || z == .raw64) y
  let goal := elem y.data 32 0
  let rf := g == .f32x2
  if ordNan rf goal || ordNan rf flo || ordNan rf fhi || beyond p.dec rf goal flo || !beyond p.dec rf goal fhi then .error ⟨0x08, 0⟩
  .ok ⟨cx.lane, b.tag, lo, hi, g, flo, fhi, goal⟩

/-- The largest key gap at which a lane stops (R171). -/
def InvArgs.gap (p : InvArgs) : Nat := if p.tol ≤ 1 then 1 else 2 ^ (p.tol - 1)

def InvLane.width (x : InvLane) : Nat := keyOf x.f32 x.hi - keyOf x.f32 x.lo

/-- One later step of a lane (R170). -/
def InvArgs.bisect (p : InvArgs) (cx : Ctx) (t : Thread) (x : InvLane) : Except Trap InvLane :=
  if x.width ≤ p.gap then .ok x else do
  let m := keyInv x.f32 (keyOf x.f32 x.lo + x.width / 2)
  let tm ← p.eval cx t x.f32 m
  let (_, fm) ← p.value (some x.tag) tm
  let rf := x.tag == .f32x2
  if ordNan rf fm || (ordLt rf fm x.flo && ordLt rf fm x.fhi) || (ordLt rf x.flo fm && ordLt rf x.fhi fm) then .error ⟨0x09, 0⟩
  else .ok (if beyond p.dec rf x.goal fm then { x with hi := m, fhi := fm } else { x with lo := m, flo := fm })

/-- A lane's bracket register between steps. -/
def InvLane.bracket (x : InvLane) : Reg := ⟨BitVec.ofNat 64 (x.hi * 2 ^ 32 + x.lo), x.dom⟩

/-- The completion of a lane: the private copy's o0-o3, e0 and e1, out, the flags, SIG and the PC (R170, R172, R175); the bracket register is as the steps left it. `t` has
been advanced past the prefix. -/
def InvArgs.finish (p : InvArgs) (cx : Ctx) (t priv : Thread) (x : InvLane) : Thread :=
  let regs := (List.range 6).foldl (fun m i => SMap.set Reg.zero m (56 + i) (SMap.get Reg.zero priv.regs (56 + i))) t.regs
  let t := { t with regs := regs, pend := t.pend.filter fun w => !(decide (56 ≤ w.dst) && decide (w.dst ≤ 61)) }
  let t := (t.put cx p.out.toNat ⟨BitVec.ofNat 64 x.hi, x.dom⟩ .sb).raise priv.fflags
  { t with pc := p.fin, sig := sigHash ((p.body.map (·.2)).foldl (fun h i => sigHash h (sigWord i)) t.sig) 0x3E }

/-! ### The lanes together (R172, R173) -/

/-- How a step ends: the lanes still at work, those that stop for good inside an ENUM region with their cause, and the failure that ends the instruction. -/
structure StepEnd where
  on : List InvLane
  off : List (Nat × Nat)
  fail : Option SetTrap
  deriving DecidableEq, Repr

/-- The end of a step from what its lanes came to: in an ENUM region the suppressed traps stop their lanes; any other ends the instruction with the cause of the
lowest lane that meets one (R154, R173). -/
def stepEnd (region : Nat) (rs : List (Nat × Except Trap InvLane)) : StepEnd :=
  let fs := rs.filterMap fun (l, r) => match r with | .error t => some (l, t) | .ok _ => none
  { on := rs.filterMap fun (_, r) => r.toOption
    off := fs.map fun f => (f.1, f.2.cause)
    fail := match fs.filter fun f => !(region == 1 && decide (1 ≤ f.2.cause) && decide (f.2.cause ≤ 9)) with
      | [] => none
      | (_, t) :: _ => some (t, maskOf ((fs.filter fun f => f.2.cause == t.cause).map (·.1))) }

/-- Step 0 in every lane. -/
def InvArgs.start (p : InvArgs) (s : State) (region : Nat) (args : List (Nat × Reg × Reg)) : StepEnd :=
  stepEnd region (args.map fun x => (x.1, p.open_ (s.ctx x.1) (s.thread s.cur.q x.1) x.2.1 x.2.2))

/-- A later step in every lane; one that has stopped idles (R172). -/
def InvArgs.round (p : InvArgs) (s : State) (region : Nat) (xs : List InvLane) : StepEnd :=
  stepEnd region (xs.map fun x => (x.lane, p.bisect (s.ctx x.lane) (s.thread s.cur.q x.lane) x))

/-- The brackets that lanes have reached in a step are kept; a lane that idled writes none (R170, R173). -/
def InvArgs.keep (p : InvArgs) (s : State) (before xs : List InvLane) : State :=
  (xs.filter fun x => !before.contains x).foldl (fun st x => st.modThread s.cur.q x.lane fun t => t.setB p.k x.bracket) s

/-- A lane has a slot in which its PC stays at the prefix (R172, R173), and then waits for some cycles. -/
def Thread.inSlot (t : Thread) (cx : Ctx) (stall : Nat) : Thread := { t.settle cx.now with stamp := cx.slot, readyAt := cx.now + 1 + stall }

/-- The lanes of the executing set have such a slot. -/
def State.slotAll (s : State) (stall : Nat) : State :=
  (lanesOf s.cur.lanes).foldl (fun st l => st.setThread s.cur.q l ((s.thread s.cur.q l).inSlot (s.ctx l) stall)) s

/-- The lanes have the stamp that they had before their INV: a trap of it changes none (R303). -/
def State.oldStamps (s : State) (q : Nat) (ls : List Nat) : State :=
  ls.foldl (fun st l => st.modThread q l fun t => { t with stamp := t.prior, prior := 0 }) s

/-- The further cycles for which a routine's NOP holds its set (R50). -/
def InvRun.stall (r : InvRun) : Nat :=
  match r.next with
  | some (.nop b) => b.toNat
  | _ => 0

/-- The cycles until a routine instruction's result is ready (R56); a scoreboarded one's next cycle, since the spec sets it no time (log 67). -/
def routineLat (i : Instr) : Nat :=
  match i with
  | .fadd .. | .fsub .. | .fmul .. | .fma .. | .fnma .. | .fmin .. | .fmax .. | .fmao .. | .faddC .. | .fmulC .. => 4
  | .div .. | .divU .. | .rem .. | .remU .. | .popc .. | .clz .. | .ctz .. | .brev .. | .bswap .. | .abs .. | .neg .. | .ext .. | .extU .. | .ins ..
  | .fdiv .. | .fsqrt .. | .fabs .. | .fneg .. | .fcpys .. | .fclass .. | .frint .. | .cvtF64 .. | .cvtF32 .. | .cvtF16 .. | .cvtBf16 .. | .cvtE4m3 ..
  | .cvtE5m2 .. | .cvtE2m1 .. | .cvtI64 .. | .cvtI64U .. | .cvtI32 .. | .cvtI32U .. | .cvtI16 .. | .cvtI16U .. | .cvtI8 .. | .cvtI8U .. | .pack ..
  | .unpackLo .. | .unpackHi .. => 1
  | _ => 2

/-- A routine instruction has issued: the results it will have ready; each evaluation starts on a fresh private copy (R169). -/
def InvRun.issued (r : InvRun) (now : Nat) : InvRun :=
  match r.next with
  | none => { r with idx := r.idx + 1 }
  | some i =>
    let due := (60 :: 61 :: instrDsts i).map fun c => (c, now + routineLat i)
    { r with idx := r.idx + 1, due := if (r.idx + 1) % r.body.length = 0 then [] else due ++ r.due }

/-- The routine instructions that issue in a step: an evaluation at each bracket in step 0, one evaluation later (R172). -/
def InvRun.length (r : InvRun) : Nat := if r.step = 0 then 2 * r.body.length else r.body.length

/-- The INV of some lanes stands so from now on, or is over. -/
def State.setRun (s : State) (q : Nat) (lanes : BitVec 32) (r : Option InvRun) : State :=
  s.modSquad q fun sq => { sq with invs := (sq.invs.filter fun x => x.lanes != lanes) ++ r.toList }

/-- A step ends (R170, R173): the trap of a failing lane, or the brackets kept, the lanes that stop parked, and the next step begun, the final evaluation where every lane
has stopped. -/
def InvArgs.endStep (p : InvArgs) (s : State) (r : InvRun) : State :=
  let q := s.cur.q
  let region := (s.ctx 0).region
  let e := if r.step = 0 then p.start s region r.args else p.round s region r.work
  match e.fail with
  | some (t, m) => (s.oldStamps q (lanesOf r.lanes)).takeTrap q t.cause m t.addr r.pc
  | none =>
    let s1 := if r.step = 0 then s else p.keep s r.work e.on
    let s2 := e.off.foldl (fun st x => st.park q x.1 (BitVec.ofNat 8 x.2)) s1
    s2.setRun q r.lanes (if e.on = [] then none else
      some { r with lanes := maskOf (e.on.map (·.lane)), work := e.on, idx := 0, due := [],
                    step := if e.on.all fun x => decide (x.width ≤ p.gap) then 2 else 1 })

/-- The final evaluation is complete: every lane's registers are written in one step (R170, R172). -/
def InvArgs.complete (p : InvArgs) (s : State) (i : Instr) (r : InvRun) : State :=
  (r.work.foldl (fun st x => st.modThread s.cur.q x.lane fun t =>
    match p.eval (s.ctx x.lane) t x.f32 x.hi with
    | .error _ => t
    | .ok priv => { p.finish (s.ctx x.lane) (t.advance (s.ctx x.lane) i 0) priv x with readyAt := t.readyAt, prior := 0 }) s).setRun s.cur.q r.lanes none

/-- A slot of an INV under way: its next routine instruction issues (R172). -/
def InvArgs.slot (p : InvArgs) (s : State) (i : Instr) (r : InvRun) : State :=
  let s1 := s.slotAll r.stall
  let r1 := r.issued s.cur.at_
  if r1.idx < r.length then s1.setRun s.cur.q r.lanes (some r1)
  else if r.step = 2 then p.complete s1 i r
  else p.endStep s1 r

/-- An INV begins in some lanes, `s0` being the state before its prefix: their stamps are kept for a trap (R303), and loads whose values stand in the registers that INV
copies and writes back are fixed (R169, R170; DESIGN CHOICE, log 4). -/
def State.beginInv (s s0 : State) (ls : List Nat) : State :=
  let q := s0.cur.q
  (ls.foldl (fun st l => st.modThread q l fun t => { t with prior := (s0.thread q l).stamp }) s).fixReads fun r =>
    if r.by_ == (s0.squad q).ref && ls.contains r.lane && ((s0.thread q r.lane).holding r.seq).any (fun c => decide (56 ≤ c) && decide (c ≤ 61))
    then 4 else 0

/-- The slot of the prefix (R166): the routine is read and checked whole, the bracket registers and targets are read; in an ENUM region a bad routine stops the lanes
(R154). The prefix takes an issue slot before those of its routine (DESIGN CHOICE, log 67). -/
def State.openInv (s : State) (i : Instr) (k : BitVec 2) (target out : RegCode) : State :=
  s.execSet i 0 0 fun _ s0 act => do
    let q := s0.cur.q
    let la := s0.launchOf (s0.squad q).lid
    let pc := s0.cur.pc + 4
    match s0.readRoutine la (coreOf q) out 17 pc with
    | .error t =>
      if suppressed (s0.ctx 0) t then .ok (act.foldl (fun st l => st.park q l (BitVec.ofNat 8 t.cause)) s0) else .error (t, maskOf act)
    | .ok (body, fin) =>
      let args ← gatherLanes act fun l => do
        let b ← (s0.thread q l).readB (s0.ctx l) k.toNat
        let y ← (s0.thread q l).read (s0.ctx l) target
        .ok (b, y)
      .ok ((((s0.slotAll 0).beginInv s0 act).cacheCode la (coreOf q) pc (fin - pc).toNat s0.freeCtr).setRun q (maskOf act)
        (some { pc := s0.cur.pc, instr := i, lanes := maskOf act, args := args, body := body, fin := fin, step := 0, idx := 0, due := [], work := [] }))

/-- INV and INV.DEC (R165-R175): the executing set's INV is begun, or goes on by a slot. -/
def State.invert (s : State) (i : Instr) (dec : Bool) (tol : BitVec 3) (k : BitVec 2) (target inn out : RegCode) : State :=
  match (s.squad s.cur.q).invs.find? fun r => r.lanes == s.cur.lanes with
  | some r => (InvArgs.mk dec tol.toNat k.toNat target inn out r.body r.fin).slot s i r
  | none => s.openInv i k target out

/-- INV (R165, R170). -/
def execInv (t : BitVec 3) (k : BitVec 2) (g : RegCode) (i : RegCode) (o : RegCode) (s : State) : Host.Outcome State Fault Refusal :=
  .next (s.invert (.inv t k g i o) false t k g i o)

/-- INV.DEC (R165, R170). -/
def execInvDec (t : BitVec 3) (k : BitVec 2) (g : RegCode) (i : RegCode) (o : RegCode) (s : State) : Host.Outcome State Fault Refusal :=
  .next (s.invert (.invDec t k g i o) true t k g i o)

end Sys2Proof.Machine
end

