-- ==== Sys2Proof/Machine/Queues.lean ====
section
/-!
DEFINITION. Machine/Queues.lean: submitting graph nodes and waiting for completion objects (R291, R292), queues in scratchpad
(R293-R296), producer streams (R297-R299), work deques (R330, R331).
-/
namespace Sys2Proof.Machine

/-- The active lanes wait, their instruction undone (R111). -/
def State.blockAll (s' s0 : State) (act : List Nat) (i : Instr) : State := act.foldl (fun st l => st.block (s0.ctx l) i) s'

/-! ### GSUB (R291) -/

/-- An address of GSUB: a 64-byte write in window 0x00 (R93). -/
def State.nodeAddr (s : State) (cx : Ctx) (a : Word) : Except Trap Unit :=
  if a.toNat / 2 ^ 56 ≠ 0 then .error ⟨0x03, a⟩ else (s.resolve cx false .store a 64).map fun _ => ()

/-- The operands of GSUB of one thread: root and error area; root 0 clears a halt, and the error area is not read. -/
def State.gsubArgs (s0 : State) (b a : RegCode) (l : Nat) : Except Trap (Word × Word) := do
  let cx := s0.ctx l
  let t := s0.thread s0.cur.q l
  let root ← t.src cx isAddrTag a
  if root.data = 0 then .ok (0, 0) else
  let area ← t.src cx isAddrTag b
  s0.nodeAddr cx root.data
  s0.nodeAddr cx area.data
  .ok (root.data, area.data)

/-- One thread's submission to a queue, as node `id`: the queue, and the status; none where 256 launched nodes have not started. -/
def Graph.submit (g : Graph) (by_ : SquadRef) (lane seq id : Nat) (x : Word × Word) : Option (Graph × Word) :=
  if x.1 = 0 then some ({ g with halted := false }, 0)
  else if g.halted then some (g, 1)
  else if Config.graphEntries ≤ g.queued.length then none
  else some ({ g with queued := g.queued ++ [{ id := id, addr := x.1, err := x.2, root := true, by_ := by_, lane := lane, seq := seq, got := [] }] }, 0)

/-- The submissions of an issue set in ascending lane order; `seq` is their number in the order of accesses. -/
def Graph.submitAll (by_ : SquadRef) (seq : Nat) : List (Nat × Word × Word) → Nat → Graph → Option (Graph × List (Nat × Reg))
  | [], _, g => some (g, [])
  | (l, x) :: rest, id, g =>
    match g.submit by_ l seq id x with
    | none => none
    | some (g', v) => (Graph.submitAll by_ seq rest (id + 1) g').map fun r => (r.1, (l, ⟨v, .i64⟩) :: r.2)

/-- GSUB (R291). -/
def execGsub (b : RegCode) (a : RegCode) (d : RegCode) (s : State) : Host.Outcome State Fault Refusal :=
  .next (s.execSet (.gsub b a d) 0 0 fun s' s0 act => do
    let sq := s0.squad s0.cur.q
    let xs ← gatherLanes act (s0.gsubArgs b a)
    match Graph.submitAll sq.ref s'.seq xs s'.seq (s0.crewOf sq.lid sq.crew).graph with
    | none => .ok (s'.blockAll s0 act (.gsub b a d))
    | some (g, vs) =>
      .ok (({ s' with seq := s'.seq + xs.length + 1 }.modCrew sq.lid sq.crew fun c => { c with graph := g }).scatter s0 d .sb vs))

/-! ### WAITOBJ and POLLOBJ (R292) -/

/-- What a thread finds at its object: SEQ as a number against its count, and the status word. The object is read at the atomic point (R236); the read that
finds the count reached is an acquire, after the releases of the thread that must stand before it (R224); it fixes the earlier loads that it must follow;
none while what must have been performed has not been. -/
def State.readObject (b a : RegCode) (cx : Ctx) (s : State) : Except Trap (Option (Bool × Reg × State)) := do
  let t := s.thread cx.q cx.lane
  let obj ← t.src cx isAddrTag a
  let count ← t.src cx isAddrTag b
  let loc ← s.resolve cx false .load obj.data 16
  let (s1, fresh) := s.bring (s.loadNeeds cx loc ⟨false, true⟩ 16)
  let (bs, bad) := s1.readLoc cx loc 16
  let reached := decide (count.data.toNat ≤ field bs 0 8)
  let (s2, ready) := if reached then s1.bring (s1.loadNeeds cx loc ⟨true, true⟩ 16) else (s1, true)
  let s3 := match loc.place with
    | some p => s2.noteRead p
    | none => s2
  let s4 := s3.fixOwn cx.ref cx.lane fun r => r.keeps loc 16 0
  .ok (if fresh && ready then some (reached, ⟨BitVec.ofNat 64 (field bs 8 8), if bad then .poison else .i64⟩, s4) else none)

/-- WAITOBJ of one thread. -/
def waitobjLane (b a d : RegCode) (cx : Ctx) (s : State) : Except Trap State := do
  match ← s.readObject b a cx with
  | some (true, v, s') => .ok (s'.modThread cx.q cx.lane fun t => t.write cx d v .sb)
  | _ => .ok (s.block cx (.waitobj b a d))

/-- WAITOBJ (R292). -/
def execWaitobj (b : RegCode) (a : RegCode) (d : RegCode) (s : State) : Host.Outcome State Fault Refusal :=
  .next (s.execLanes (.waitobj b a d) 0 0 (waitobjLane b a d))

/-- POLLOBJ of one thread. -/
def pollobjLane (b a d : RegCode) (cx : Ctx) (s : State) : Except Trap State := do
  match ← s.readObject b a cx with
  | some (reached, v, s') => .ok (s'.modThread cx.q cx.lane fun t => (t.write cx d v .sb).writeK cx 1 (!reached) .sb)
  | none => .ok (s.block cx (.pollobj b a d))

/-- POLLOBJ (R292). -/
def execPollobj (b : RegCode) (a : RegCode) (d : RegCode) (s : State) : Host.Outcome State Fault Refusal :=
  .next (s.execLanes (.pollobj b a d) 0 0 (pollobjLane b a d))

/-! ### Queues (R293-R296) -/

/-- A control word with a reserved bit or value (R293, R294). -/
def queueWordBad (w : Word) : Bool :=
  let x := w.toNat
  let depth := bitsOf x 40 16
  bitsOf x 57 3 != 0 || bitsOf x 20 20 != 0 || bitsOf x 60 4 == 13 || bitsOf x 60 4 == 15 || depth == 1 || decide (32768 < depth)
    || bitsOf x 0 20 % 64 != 0

/-- The queue that a control word sets up, empty. -/
def queueOf (w : Word) : Queue :=
  let x := w.toNat
  { tag := tagOf (bitsOf x 60 4), es := bitsOf x 56 1 == 1, depth := bitsOf x 40 16, offset := bitsOf x 0 20 }

/-- Bytes of the ring (R293). -/
def Queue.bytes (q : Queue) : Nat := q.depth * (if q.es then 16 else 8)

/-- A thread waits at queue n. -/
def Thread.atQueue (t : Thread) (n : BitVec 3) : Bool :=
  match t.wait with
  | .blocked (.qpush _ _ m) | .blocked (.qpop m _) => m == n
  | _ => false

/-- A thread of the crew, or its stream, waits at queue n. -/
def State.queueAwaited (s : State) (lid crew : Nat) (n : BitVec 3) : Bool :=
  (s.crewRecords lid crew).any fun (_, sq) => sq.liveLanes.any fun l => (sq.thread l).atQueue n

def Crew.queue (c : Crew) (n : BitVec 3) : Queue := SMap.get {} c.queues n.toNat

def Crew.setQueue (c : Crew) (n : BitVec 3) (q : Queue) : Crew := { c with queues := SMap.set {} c.queues n.toNat q }

/-- QCFG (R294). -/
def execQcfg (a : RegCode) (q : BitVec 3) (s : State) : Host.Outcome State Fault Refusal :=
  .next (s.execSet (.qcfg a q) 0 0 fun s' s0 act => do
    let sq := s0.squad s0.cur.q
    let la := s0.launchOf sq.lid
    let vs ← s0.addrRegs act a
    laneCheck vs 0x01 queueWordBad
    equalCheck vs (·.toNat)
    let new := queueOf ((vs.head?.map (·.2)).getD 0)
    if new.depth ≠ 0 && decide (la.scratch < new.offset + new.bytes) then
      .error (⟨0x03, scratchAddr la sq.crew (new.offset + new.bytes - 1)⟩, maskOf act)
    else if s0.queueAwaited sq.lid sq.crew q then .error (⟨0x01, 0⟩, maskOf act)
    else .ok (s'.modCrew sq.lid sq.crew fun c => c.setQueue q new))

/-- The queue that an issue set of n threads uses: configured, and at least n elements deep (R295). -/
def Queue.usable (q : Queue) (act : List Nat) : Bool := decide (act.length ≤ q.depth) && q.depth != 0

/-- The element that a thread pushes (R295); an unconfigured queue has no TAG to ask for. -/
def State.pushed (s0 : State) (q : Queue) (b a : RegCode) (l : Nat) : Except Trap (Word × Word) := do
  let cx := s0.ctx l
  let t := s0.thread s0.cur.q l
  let ok := fun (g : Tag) => g == q.tag || g == .raw64 || q.depth == 0
  let x ← t.src cx ok a
  if q.es then
    let y ← t.src cx ok b
    .ok (x.data, y.data)
  else .ok (x.data, 0)

/-- What some threads did before, and what was performed for them before, is performed at a scope (2 crew, 4 device), as far as it can be; none where it is not all
performed, but for UO pages (R221, R228, R296, R330). -/
def State.publish (s : State) (r : SquadRef) (act : List Nat) (scope : Nat) : Option State :=
  let (s1, ready) := s.bring fun w => act.foldl (fun m l => max m (s.fenceNeeds r l scope false s.seq w)) 0
  if ready then some s1 else none

/-- The places of a ring that hold no element. -/
def Queue.freePlaces (q : Queue) : List Nat := (List.range q.depth).filter fun p => !q.places.contains p

/-- An element enters a ring, at a place that is free and freely chosen (R293; free value, log 27); its bytes are written there. -/
def State.pushElem (s : State) (lid crew : Nat) (n : BitVec 3) (e : Word × Word) : State :=
  let q := (s.crewOf lid crew).queue n
  let p := (q.freePlaces[Config.freeNat s.freeCtr % q.freePlaces.length]?).getD 0
  let size := if q.es then 16 else 8
  let bs := bytesLE 8 e.1.toNat ++ (if q.es then bytesLE 8 e.2.toNat else [])
  ({ s with freeCtr := s.freeCtr + 1 }.putScratch lid crew (q.offset + p * size) bs).modCrew lid crew fun c =>
    c.setQueue n { q with elems := q.elems ++ [e], places := q.places ++ [p] }

/-- QPUSH (R295, R296). -/
def execQpush (b : RegCode) (a : RegCode) (q : BitVec 3) (s : State) : Host.Outcome State Fault Refusal :=
  .next (s.execSet (.qpush b a q) 0 0 fun s' s0 act => do
    let sq := s0.squad s0.cur.q
    let qu := (s0.crewOf sq.lid sq.crew).queue q
    let vs ← gatherLanes act fun l => do
      let x ← s0.pushed qu b a l
      if qu.usable act then .ok x else .error ⟨0x01, 0⟩
    if qu.depth < qu.elems.length + act.length then .ok (s'.blockAll s0 act (.qpush b a q)) else
    match s'.publish sq.ref act 2 with
    | none => .ok (s'.blockAll s0 act (.qpush b a q))
    | some s1 => .ok (vs.foldl (fun st v => st.pushElem sq.lid sq.crew q v.2) s1))

/-- A popped element in a thread's registers (R295). -/
def Thread.takePopped (t : Thread) (cx : Ctx) (q : Queue) (d : RegCode) (e : Word × Word) : Thread :=
  let t1 := t.write cx d ⟨e.1, q.tag⟩ .sb
  if q.es then t1.write cx (d + 1) ⟨e.2, q.tag⟩ .sb else t1

/-- QPOP (R295, R296). -/
def execQpop (q : BitVec 3) (d : RegCode) (s : State) : Host.Outcome State Fault Refusal :=
  .next (s.execSet (.qpop q d) 0 0 fun s' s0 act => do
    let sq := s0.squad s0.cur.q
    let qu := (s0.crewOf sq.lid sq.crew).queue q
    if !qu.usable act || (qu.es && decide (54 < d.toNat)) then .error (⟨0x01, 0⟩, maskOf act)
    else if qu.elems.length < act.length then .ok (s'.blockAll s0 act (.qpop q d))
    else
      let s1 := (act.zip qu.elems).foldl (fun st x => st.modThread s0.cur.q x.1 fun t => t.takePopped (s0.ctx x.1) qu d x.2) s'
      .ok (s1.modCrew sq.lid sq.crew fun c => c.setQueue q { qu with elems := qu.elems.drop act.length, places := qu.places.drop act.length }))

/-! ### Streams (R297-R299) -/

/-- A stream that starts (R297): one thread. It starts at a; bit 0 of a PC is 0 (R7, R21), so that bit 0 of a is left out (DEDUCED, log 69). -/
def streamSquad (sq : Squad) (a b : Word) (at_ : Nat) : Squad :=
  { ctx := sq.ctx + (16 - sq.num) * imageBytesOf, lid := sq.lid, crew := sq.crew, num := 16, prio := sq.prio, set := sq.set, tile := sq.tile
    threads := [(0, { pc := a &&& ~~~1#64, live := true, readyAt := at_,
                      regs := SMap.set Reg.zero (SMap.set Reg.zero [] 0 ⟨b, .i64⟩) 1 ⟨BitVec.ofNat 64 sq.crew, .i64⟩ })] }

/-- FEED (R297): once per issue, for the lowest active lane. -/
def execFeed (b : RegCode) (a : RegCode) (d : RegCode) (s : State) : Host.Outcome State Fault Refusal :=
  .next (s.execSet (.feed b a d) 0 0 fun s' s0 act => do
    let q := s0.cur.q
    let sq := s0.squad q
    let la := s0.launchOf sq.lid
    let va ← s0.addrRegs (act.take 1) a
    let vb ← s0.addrRegs (act.take 1) b
    let first := fun (vs : List (Nat × Word)) => (vs.head?.map (·.2)).getD 0
    laneCheck va 0x01 fun w => decide (w.toNat < la.streamLo) || decide (la.streamLo + la.streamLen ≤ w.toNat)
    let rec16 := recordKey (coreOf q) 16
    let held := (s0.squad? rec16).isSome
    let s1 := if held || act == [] then s' else s'.placeSquad rec16 (streamSquad sq (first va) (first vb) (s0.cycle + 1))
    .ok (s1.scatter s0 d .sb (act.map fun l => (l, ⟨if held then 1 else 0, .i64⟩))))

/-- SLOOP of the stream's thread (R298, R299). -/
def doSloop (o : BitVec 12) (d : RegCode) (cx : Ctx) (t : Thread) : Except Trap Thread := do
  if recordOf cx.q ≠ 16 then .error ⟨0x01, 0⟩ else
  let v ← t.src cx isAddrTag d
  let n := v.data - 1
  let t1 := t.write cx d ⟨n, v.tag⟩ .sb
  .ok (if n = 0 then t1 else t1.goto (cx.pc - BitVec.ofNat 64 (2 * o.toNat)))

/-- SLOOP (R299). -/
def execSloop (o : BitVec 12) (d : RegCode) (s : State) : Host.Outcome State Fault Refusal :=
  .next (s.execThread (.sloop o d) 0 0 (doSloop o d))

/-! ### Deques (R330, R331): the top of a deque is the head of its list -/

/-- The deque of a core belongs to a launch. -/
def State.ownsDeque (s : State) (core lid : Nat) : Bool := (s.coreAt core).dqOwner == some lid

/-- The launch of the issuing squad owns its core's deque. -/
def State.dequeOwn (s0 : State) : Bool := s0.ownsDeque (coreOf s0.cur.q) (s0.squad s0.cur.q).lid

/-- One thread's push. -/
def State.dqPut (s0 s : State) (x : Nat × Reg) : State :=
  let core := coreOf s0.cur.q
  let full := decide (Config.dequeEntries ≤ (s.coreAt core).deque.length)
  let s1 := if full then s else s.modCore core fun c => { c with deque := c.deque ++ [x.2] }
  s1.modThread s0.cur.q x.1 fun t => t.writeK (s0.ctx x.1) 1 full .sb

/-- DQPUSH (R331). -/
def execDqpush (a : RegCode) (s : State) : Host.Outcome State Fault Refusal :=
  .next (s.execSet (.dqpush a) 0 0 fun s' s0 act => do
    let vs ← gatherLanes act fun l => do
      let x ← (s0.thread s0.cur.q l).src (s0.ctx l) (fun _ => true) a
      if s0.dequeOwn then .ok x else .error ⟨0x01, 0⟩
    match s'.publish (s0.squad s0.cur.q).ref act 4 with
    | none => .ok (s'.blockAll s0 act (.dqpush a))
    | some s1 => .ok (vs.foldl (State.dqPut s0) s1))

/-- A thread takes an entry of a core's deque, from its bottom or its top; none where there is no such deque. -/
def State.dqTake (s0 s : State) (core : Option Nat) (bottom : Bool) (d : RegCode) (l : Nat) : State :=
  let es := (core.map fun c => (s.coreAt c).deque).getD []
  let e := if bottom then es.getLast? else es.head?
  let rest := if bottom then es.dropLast else es.drop 1
  let s1 := match core, e with
    | some c, some _ => s.modCore c fun co => { co with deque := rest }
    | _, _ => s
  s1.modThread s0.cur.q l fun t => (t.write (s0.ctx l) d (e.getD Reg.zero) .sb).writeK (s0.ctx l) 1 e.isNone .sb

/-- DQPOP (R331). -/
def execDqpop (d : RegCode) (s : State) : Host.Outcome State Fault Refusal :=
  .next (s.execSet (.dqpop d) 0 0 fun s' s0 act => do
    if !s0.dequeOwn then .error (⟨0x01, 0⟩, maskOf act) else
    .ok (act.foldl (fun st l => State.dqTake s0 st (some (coreOf s0.cur.q)) true d l) s'))

/-- The core that a value names in the layout of CORE (R110). -/
def coreNamed (n : Nat) : Option Nat := if bitsOf n 2 5 < 24 then some (bitsOf n 7 2 * 96 + bitsOf n 2 5 * 4 + bitsOf n 0 2) else none

/-- The cores of a die in ascending order. -/
def dieCores (die : Nat) : List Nat := (List.range Config.coresPerDie).map fun i => die * Config.coresPerDie + i

/-- The core of a die whose deque a launch owns and that holds the most entries, the lowest among ties (R331). -/
def State.fullest (s : State) (die lid : Nat) : Option Nat :=
  ((dieCores die).filter fun c => s.ownsDeque c lid).foldl (fun best c =>
    match best with
    | none => some c
    | some b => if (s.coreAt b).deque.length < (s.coreAt c).deque.length then some c else some b) none

/-- The deque that a DQSTEAL operand names. -/
def State.victim (s : State) (core lid : Nat) (w : Word) : Option Nat :=
  if w.getLsbD 63 then s.fullest (core / Config.coresPerDie) lid
  else (coreNamed (bitsOf w.toNat 0 9)).filter fun c => s.ownsDeque c lid

/-- DQSTEAL (R123, R331). -/
def execDqsteal (a : RegCode) (d : RegCode) (s : State) : Host.Outcome State Fault Refusal :=
  .next (s.execSet (.dqsteal a d) 0 0 fun s' s0 act => do
    let sq := s0.squad s0.cur.q
    let core := coreOf s0.cur.q
    let vs ← gatherLanes act fun l => do
      let x ← (s0.thread s0.cur.q l).src (s0.ctx l) isAddrTag a
      if (s0.launchOf sq.lid).det then .error ⟨0x0D, 0⟩
      else if bitsOf x.data.toNat 9 54 != 0 then .error ⟨0x01, 0⟩
      else if !x.data.getLsbD 63 && bitsOf x.data.toNat 7 2 != core / Config.coresPerDie then .error ⟨0x01, 0⟩
      else .ok x.data
    .ok (vs.foldl (fun st x => State.dqTake s0 st (st.victim core sq.lid x.2) false d x.1) s'))

end Sys2Proof.Machine
end

