-- ==== Sys2Proof/Machine/Dispatch.lean ====
section
/-!
DEFINITION. Machine/Dispatch.lean: one arm for every constructor of Instr.
-/
namespace Sys2Proof.Machine

def exec (i : Instr) (s : State) : Host.Outcome State Fault Refusal :=
  match i with
  | .addC b d => Sys2Proof.Machine.execAddC b d s
  | .subC b d => Sys2Proof.Machine.execSubC b d s
  | .andC b d => Sys2Proof.Machine.execAndC b d s
  | .orC b d => Sys2Proof.Machine.execOrC b d s
  | .xorC b d => Sys2Proof.Machine.execXorC b d s
  | .shliC v d => Sys2Proof.Machine.execShliC v d s
  | .shriC v d => Sys2Proof.Machine.execShriC v d s
  | .addiC v d => Sys2Proof.Machine.execAddiC v d s
  | .movC b d => Sys2Proof.Machine.execMovC b d s
  | .faddC b d => Sys2Proof.Machine.execFaddC b d s
  | .fmulC b d => Sys2Proof.Machine.execFmulC b d s
  | .fmao b d => Sys2Proof.Machine.execFmao b d s
  | .ld64C b d => Sys2Proof.Machine.execLd64C b d s
  | .st64C b d => Sys2Proof.Machine.execSt64C b d s
  | .cmpltC b d => Sys2Proof.Machine.execCmpltC b d s
  | .nop v => Sys2Proof.Machine.execNop v s
  | .invend => Sys2Proof.Machine.execInvend s
  | .yield => Sys2Proof.Machine.execYield s
  | .add f => Sys2Proof.Machine.execAdd f s
  | .sub f => Sys2Proof.Machine.execSub f s
  | .and f => Sys2Proof.Machine.execAnd f s
  | .or f => Sys2Proof.Machine.execOr f s
  | .xor f => Sys2Proof.Machine.execXor f s
  | .andn f => Sys2Proof.Machine.execAndn f s
  | .shl f => Sys2Proof.Machine.execShl f s
  | .shr f => Sys2Proof.Machine.execShr f s
  | .shrU f => Sys2Proof.Machine.execShrU f s
  | .rol f => Sys2Proof.Machine.execRol f s
  | .mul f => Sys2Proof.Machine.execMul f s
  | .mulh f => Sys2Proof.Machine.execMulh f s
  | .mulhU f => Sys2Proof.Machine.execMulhU f s
  | .min f => Sys2Proof.Machine.execMin f s
  | .minU f => Sys2Proof.Machine.execMinU f s
  | .max f => Sys2Proof.Machine.execMax f s
  | .maxU f => Sys2Proof.Machine.execMaxU f s
  | .adds f => Sys2Proof.Machine.execAdds f s
  | .addsU f => Sys2Proof.Machine.execAddsU f s
  | .subs f => Sys2Proof.Machine.execSubs f s
  | .subsU f => Sys2Proof.Machine.execSubsU f s
  | .mov f => Sys2Proof.Machine.execMov f s
  | .fadd f => Sys2Proof.Machine.execFadd f s
  | .fsub f => Sys2Proof.Machine.execFsub f s
  | .fmul f => Sys2Proof.Machine.execFmul f s
  | .fma f => Sys2Proof.Machine.execFma f s
  | .fnma f => Sys2Proof.Machine.execFnma f s
  | .fmin f => Sys2Proof.Machine.execFmin f s
  | .fmax f => Sys2Proof.Machine.execFmax f s
  | .cmpeq f => Sys2Proof.Machine.execCmpeq f s
  | .cmpne f => Sys2Proof.Machine.execCmpne f s
  | .cmplt f => Sys2Proof.Machine.execCmplt f s
  | .cmpltU f => Sys2Proof.Machine.execCmpltU f s
  | .cmple f => Sys2Proof.Machine.execCmple f s
  | .cmpleU f => Sys2Proof.Machine.execCmpleU f s
  | .fcmpeq f => Sys2Proof.Machine.execFcmpeq f s
  | .fcmplt f => Sys2Proof.Machine.execFcmplt f s
  | .fcmple f => Sys2Proof.Machine.execFcmple f s
  | .fcmpun f => Sys2Proof.Machine.execFcmpun f s
  | .kand f => Sys2Proof.Machine.execKand f s
  | .kor f => Sys2Proof.Machine.execKor f s
  | .kxor f => Sys2Proof.Machine.execKxor f s
  | .kandn f => Sys2Proof.Machine.execKandn f s
  | .netmv f => Sys2Proof.Machine.execNetmv f s
  | .gatherb f => Sys2Proof.Machine.execGatherb f s
  | .compose f => Sys2Proof.Machine.execCompose f s
  | .addi v a d => Sys2Proof.Machine.execAddi v a d s
  | .andi v a d => Sys2Proof.Machine.execAndi v a d s
  | .ori v a d => Sys2Proof.Machine.execOri v a d s
  | .xori v a d => Sys2Proof.Machine.execXori v a d s
  | .shli v a d => Sys2Proof.Machine.execShli v a d s
  | .shri v a d => Sys2Proof.Machine.execShri v a d s
  | .shriU v a d => Sys2Proof.Machine.execShriU v a d s
  | .muli v a d => Sys2Proof.Machine.execMuli v a d s
  | .cmpeqi v a k => Sys2Proof.Machine.execCmpeqi v a k s
  | .cmplti v a k => Sys2Proof.Machine.execCmplti v a k s
  | .cmpltiU v a k => Sys2Proof.Machine.execCmpltiU v a k s
  | .movi v d => Sys2Proof.Machine.execMovi v d s
  | .retag t a d => Sys2Proof.Machine.execRetag t a d s
  | .srd sel d => Sys2Proof.Machine.execSrd sel d s
  | .swr sel a => Sys2Proof.Machine.execSwr sel a s
  | .swrFrm a => Sys2Proof.Machine.execSwrFrm a s
  | .swrFflags a => Sys2Proof.Machine.execSwrFflags a s
  | .swrDraw a => Sys2Proof.Machine.execSwrDraw a s
  | .swrInj a => Sys2Proof.Machine.execSwrInj a s
  | .jalr v a d => Sys2Proof.Machine.execJalr v a d s
  | .ldhi v d => Sys2Proof.Machine.execLdhi v d s
  | .pcrel v d => Sys2Proof.Machine.execPcrel v d s
  | .sigchk v => Sys2Proof.Machine.execSigchk v s
  | .ld8 q o b d => Sys2Proof.Machine.execLd8 q o b d s
  | .ld8U q o b d => Sys2Proof.Machine.execLd8U q o b d s
  | .ld16 q o b d => Sys2Proof.Machine.execLd16 q o b d s
  | .ld16U q o b d => Sys2Proof.Machine.execLd16U q o b d s
  | .ld32 q o b d => Sys2Proof.Machine.execLd32 q o b d s
  | .ld32U q o b d => Sys2Proof.Machine.execLd32U q o b d s
  | .ld64 q o b d => Sys2Proof.Machine.execLd64 q o b d s
  | .st8 q o b d => Sys2Proof.Machine.execSt8 q o b d s
  | .st16 q o b d => Sys2Proof.Machine.execSt16 q o b d s
  | .st32 q o b d => Sys2Proof.Machine.execSt32 q o b d s
  | .st64 q o b d => Sys2Proof.Machine.execSt64 q o b d s
  | .lea o b d => Sys2Proof.Machine.execLea o b d s
  | .bra o => Sys2Proof.Machine.execBra o s
  | .bk o k => Sys2Proof.Machine.execBk o k s
  | .bnk o k => Sys2Proof.Machine.execBnk o k s
  | .bz o c => Sys2Proof.Machine.execBz o c s
  | .bnz o c => Sys2Proof.Machine.execBnz o c s
  | .call o l => Sys2Proof.Machine.execCall o l s
  | .div b a d => Sys2Proof.Machine.execDiv b a d s
  | .divU b a d => Sys2Proof.Machine.execDivU b a d s
  | .rem b a d => Sys2Proof.Machine.execRem b a d s
  | .remU b a d => Sys2Proof.Machine.execRemU b a d s
  | .popc a d => Sys2Proof.Machine.execPopc a d s
  | .clz a d => Sys2Proof.Machine.execClz a d s
  | .ctz a d => Sys2Proof.Machine.execCtz a d s
  | .brev a d => Sys2Proof.Machine.execBrev a d s
  | .bswap a d => Sys2Proof.Machine.execBswap a d s
  | .abs a d => Sys2Proof.Machine.execAbs a d s
  | .neg a d => Sys2Proof.Machine.execNeg a d s
  | .ext b a d => Sys2Proof.Machine.execExt b a d s
  | .extU b a d => Sys2Proof.Machine.execExtU b a d s
  | .ins b a d => Sys2Proof.Machine.execIns b a d s
  | .fdiv b a d => Sys2Proof.Machine.execFdiv b a d s
  | .fsqrt r a d => Sys2Proof.Machine.execFsqrt r a d s
  | .fabs a d => Sys2Proof.Machine.execFabs a d s
  | .fneg a d => Sys2Proof.Machine.execFneg a d s
  | .fcpys b a d => Sys2Proof.Machine.execFcpys b a d s
  | .fclass a d => Sys2Proof.Machine.execFclass a d s
  | .frint r a d => Sys2Proof.Machine.execFrint r a d s
  | .cvtF64 x m a d => Sys2Proof.Machine.execCvtF64 x m a d s
  | .cvtF32 x m a d => Sys2Proof.Machine.execCvtF32 x m a d s
  | .cvtF16 x m a d => Sys2Proof.Machine.execCvtF16 x m a d s
  | .cvtBf16 x m a d => Sys2Proof.Machine.execCvtBf16 x m a d s
  | .cvtE4m3 x m a d => Sys2Proof.Machine.execCvtE4m3 x m a d s
  | .cvtE5m2 x m a d => Sys2Proof.Machine.execCvtE5m2 x m a d s
  | .cvtE2m1 x m a d => Sys2Proof.Machine.execCvtE2m1 x m a d s
  | .cvtI64 x m a d => Sys2Proof.Machine.execCvtI64 x m a d s
  | .cvtI64U x m a d => Sys2Proof.Machine.execCvtI64U x m a d s
  | .cvtI32 x m a d => Sys2Proof.Machine.execCvtI32 x m a d s
  | .cvtI32U x m a d => Sys2Proof.Machine.execCvtI32U x m a d s
  | .cvtI16 x m a d => Sys2Proof.Machine.execCvtI16 x m a d s
  | .cvtI16U x m a d => Sys2Proof.Machine.execCvtI16U x m a d s
  | .cvtI8 x m a d => Sys2Proof.Machine.execCvtI8 x m a d s
  | .cvtI8U x m a d => Sys2Proof.Machine.execCvtI8U x m a d s
  | .pack b a d => Sys2Proof.Machine.execPack b a d s
  | .unpackLo b a d => Sys2Proof.Machine.execUnpackLo b a d s
  | .unpackHi b a d => Sys2Proof.Machine.execUnpackHi b a d s
  | .split j => Sys2Proof.Machine.execSplit j s
  | .rejoin j => Sys2Proof.Machine.execRejoin j s
  | .exit => Sys2Proof.Machine.execExit s
  | .tail => Sys2Proof.Machine.execTail s
  | .voteAll m k => Sys2Proof.Machine.execVoteAll m k s
  | .voteAny m k => Sys2Proof.Machine.execVoteAny m k s
  | .ballot m d => Sys2Proof.Machine.execBallot m d s
  | .matchLanes a d => Sys2Proof.Machine.execMatchLanes a d s
  | .scanAdd a d => Sys2Proof.Machine.execScanAdd a d s
  | .scanMin a d => Sys2Proof.Machine.execScanMin a d s
  | .scanMax a d => Sys2Proof.Machine.execScanMax a d s
  | .reduceAdd a d => Sys2Proof.Machine.execReduceAdd a d s
  | .reduceMin a d => Sys2Proof.Machine.execReduceMin a d s
  | .reduceMax a d => Sys2Proof.Machine.execReduceMax a d s
  | .setnet a n => Sys2Proof.Machine.execSetnet a n s
  | .fuse a => Sys2Proof.Machine.execFuse a s
  | .barC => Sys2Proof.Machine.execBarC s
  | .barG a => Sys2Proof.Machine.execBarG a s
  | .arriveG a => Sys2Proof.Machine.execArriveG a s
  | .waitG a => Sys2Proof.Machine.execWaitG a s
  | .scanMinU a d => Sys2Proof.Machine.execScanMinU a d s
  | .scanMaxU a d => Sys2Proof.Machine.execScanMaxU a d s
  | .reduceMinU a d => Sys2Proof.Machine.execReduceMinU a d s
  | .reduceMaxU a d => Sys2Proof.Machine.execReduceMaxU a d s
  | .reduceAnd a d => Sys2Proof.Machine.execReduceAnd a d s
  | .reduceOr a d => Sys2Proof.Machine.execReduceOr a d s
  | .reduceXor a d => Sys2Proof.Machine.execReduceXor a d s
  | .ldt q t b a d => Sys2Proof.Machine.execLdt q t b a d s
  | .aadd o b a d => Sys2Proof.Machine.execAadd o b a d s
  | .aand o b a d => Sys2Proof.Machine.execAand o b a d s
  | .aor o b a d => Sys2Proof.Machine.execAor o b a d s
  | .axor o b a d => Sys2Proof.Machine.execAxor o b a d s
  | .amin o b a d => Sys2Proof.Machine.execAmin o b a d s
  | .aminU o b a d => Sys2Proof.Machine.execAminU o b a d s
  | .amax o b a d => Sys2Proof.Machine.execAmax o b a d s
  | .amaxU o b a d => Sys2Proof.Machine.execAmaxU o b a d s
  | .axchg o b a d => Sys2Proof.Machine.execAxchg o b a d s
  | .acas o b a d => Sys2Proof.Machine.execAcas o b a d s
  | .afx o b a => Sys2Proof.Machine.execAfx o b a s
  | .afxrd o a d => Sys2Proof.Machine.execAfxrd o a d s
  | .fenceSquad => Sys2Proof.Machine.execFenceSquad s
  | .fenceCrew => Sys2Proof.Machine.execFenceCrew s
  | .fenceGang => Sys2Proof.Machine.execFenceGang s
  | .fenceDevice => Sys2Proof.Machine.execFenceDevice s
  | .fenceSystem => Sys2Proof.Machine.execFenceSystem s
  | .fenceFull => Sys2Proof.Machine.execFenceFull s
  | .waitcrew a => Sys2Proof.Machine.execWaitcrew a s
  | .valloc b a d => Sys2Proof.Machine.execValloc b a d s
  | .vdup b a d => Sys2Proof.Machine.execVdup b a d s
  | .vsplit b a d => Sys2Proof.Machine.execVsplit b a d s
  | .vnarrow b a d => Sys2Proof.Machine.execVnarrow b a d s
  | .vdrop a => Sys2Proof.Machine.execVdrop a s
  | .vquery b a d => Sys2Proof.Machine.execVquery b a d s
  | .vbound sel a d => Sys2Proof.Machine.execVbound sel a d s
  | .runnew => Sys2Proof.Machine.execRunnew s
  | .enum b a d => Sys2Proof.Machine.execEnum b a d s
  | .enumOne b d => Sys2Proof.Machine.execEnumOne b d s
  | .merge m a d => Sys2Proof.Machine.execMerge m a d s
  | .endch a d => Sys2Proof.Machine.execEndch a d s
  | .choose b a d => Sys2Proof.Machine.execChoose b a d s
  | .mmaQE4m3 sel a h t => Sys2Proof.Machine.execMmaQE4m3 sel a h t s
  | .mmaQE5m2 sel a h t => Sys2Proof.Machine.execMmaQE5m2 sel a h t s
  | .mmaQMxfp4 sel a h t => Sys2Proof.Machine.execMmaQMxfp4 sel a h t s
  | .mmaQBf16 sel a h t => Sys2Proof.Machine.execMmaQBf16 sel a h t s
  | .mmaQI8 sel a h t => Sys2Proof.Machine.execMmaQI8 sel a h t s
  | .bld sel a h f => Sys2Proof.Machine.execBld sel a h f s
  | .tzero a t => Sys2Proof.Machine.execTzero a t s
  | .tld b a t => Sys2Proof.Machine.execTld b a t s
  | .tst b a t => Sys2Proof.Machine.execTst b a t s
  | .trd t a d => Sys2Proof.Machine.execTrd t a d s
  | .tver t d => Sys2Proof.Machine.execTver t d s
  | .mfence d => Sys2Proof.Machine.execMfence d s
  | .mwait a => Sys2Proof.Machine.execMwait a s
  | .gsub b a d => Sys2Proof.Machine.execGsub b a d s
  | .waitobj b a d => Sys2Proof.Machine.execWaitobj b a d s
  | .pollobj b a d => Sys2Proof.Machine.execPollobj b a d s
  | .qcfg a q => Sys2Proof.Machine.execQcfg a q s
  | .qpush b a q => Sys2Proof.Machine.execQpush b a q s
  | .qpop q d => Sys2Proof.Machine.execQpop q d s
  | .feed b a d => Sys2Proof.Machine.execFeed b a d s
  | .sloop o d => Sys2Proof.Machine.execSloop o d s
  | .dqpush a => Sys2Proof.Machine.execDqpush a s
  | .dqpop d => Sys2Proof.Machine.execDqpop d s
  | .dqsteal a d => Sys2Proof.Machine.execDqsteal a d s
  | .syscall => Sys2Proof.Machine.execSyscall s
  | .brk c => Sys2Proof.Machine.execBrk c s
  | .icinv => Sys2Proof.Machine.execIcinv s
  | .clk d => Sys2Proof.Machine.execClk d s
  | .rand d => Sys2Proof.Machine.execRand d s
  | .inv t k g v o => Sys2Proof.Machine.execInv t k g v o s
  | .invDec t k g v o => Sys2Proof.Machine.execInvDec t k g v o s
  | .bset k a => Sys2Proof.Machine.execBset k a s
  | .bget k d => Sys2Proof.Machine.execBget k d s
  | .stallElapsed q lane => Sys2Proof.Machine.execStallElapsed q lane s
  | .scoreboardWriteLands q part => Sys2Proof.Machine.execScoreboardWriteLands q part s
  | .registerLineArrives q line => Sys2Proof.Machine.execRegisterLineArrives q line s
  | .setnetConfigLands q => Sys2Proof.Machine.execSetnetConfigLands q s
  | .yieldExpires q => Sys2Proof.Machine.execYieldExpires q s
  | .writeLands n => Sys2Proof.Machine.execWriteLands n s
  | .atomicPerformed q => Sys2Proof.Machine.execAtomicPerformed q s
  | .fenceComplete q => Sys2Proof.Machine.execFenceComplete q s
  | .icinvComplete q => Sys2Proof.Machine.execIcinvComplete q s
  | .rejoinRelease q j => Sys2Proof.Machine.execRejoinRelease q j s
  | .barrierPhaseComplete lid group n => Sys2Proof.Machine.execBarrierPhaseComplete lid group n s
  | .enumGroupAssembled lid crew base => Sys2Proof.Machine.execEnumGroupAssembled lid crew base s
  | .mergeGathering lid crew base => Sys2Proof.Machine.execMergeGathering lid crew base s
  | .endchMapWrite lid crew base => Sys2Proof.Machine.execEndchMapWrite lid crew base s
  | .tileVersionAccept q => Sys2Proof.Machine.execTileVersionAccept q s
  | .microTileLand part => Sys2Proof.Machine.execMicroTileLand part s
  | .bldComplete part bad => Sys2Proof.Machine.execBldComplete part bad s
  | .tileTransferComplete part bad => Sys2Proof.Machine.execTileTransferComplete part bad s
  | .wheyDecrement => Sys2Proof.Machine.execWheyDecrement s
  | .granuleFree job va => Sys2Proof.Machine.execGranuleFree job va s
  | .squadRetire q => Sys2Proof.Machine.execSquadRetire q s
  | .trackerEntryDrained core n => Sys2Proof.Machine.execTrackerEntryDrained core n s
  | .crewComplete lid crew => Sys2Proof.Machine.execCrewComplete lid crew s
  | .watchdogTimeout lid n => Sys2Proof.Machine.execWatchdogTimeout lid n s
  | .trapTaken q => Sys2Proof.Machine.execTrapTaken q s
  | .launchEnded lid => Sys2Proof.Machine.execLaunchEnded lid s
  | .relaunchDecision lid crew => Sys2Proof.Machine.execRelaunchDecision lid crew s
  | .singleStepStop q => Sys2Proof.Machine.execSingleStepStop q s
  | .copyNode lid crew part => Sys2Proof.Machine.execCopyNode lid crew part s
  | .xformNode lid crew part => Sys2Proof.Machine.execXformNode lid crew part s
  | .checkNode lid crew part => Sys2Proof.Machine.execCheckNode lid crew part s
  | .launchNode lid crew part => Sys2Proof.Machine.execLaunchNode lid crew part s
  | .signalNode lid crew part => Sys2Proof.Machine.execSignalNode lid crew part s
  | .putNode lid crew part => Sys2Proof.Machine.execPutNode lid crew part s
  | .getNode lid crew part => Sys2Proof.Machine.execGetNode lid crew part s
  | .nodeFinish lid crew node => Sys2Proof.Machine.execNodeFinish lid crew node s
  | .errorAreaWrite lid crew => Sys2Proof.Machine.execErrorAreaWrite lid crew s
  | .bind lid records => Sys2Proof.Machine.execBind lid records s
  | .waitingSetBind lid records => Sys2Proof.Machine.execWaitingSetBind lid records s
  | .timeSliceExpiry lid crew => Sys2Proof.Machine.execTimeSliceExpiry lid crew s
  | .preemptRequest lid crew => Sys2Proof.Machine.execPreemptRequest lid crew s
  | .preemptionTakesEffect lid crew => Sys2Proof.Machine.execPreemptionTakesEffect lid crew s
  | .shootdown job va entry => Sys2Proof.Machine.execShootdown job va entry s
  | .shootdownComplete job va => Sys2Proof.Machine.execShootdownComplete job va s
  | .pageSplit job va join => Sys2Proof.Machine.execPageSplit job va join s
  | .keySlotLoad slot => Sys2Proof.Machine.execKeySlotLoad slot s
  | .bankClear bank => Sys2Proof.Machine.execBankClear bank s
  | .correctedError found addr info => Sys2Proof.Machine.execCorrectedError found addr info s
  | .uncorrectableError site n addr info => Sys2Proof.Machine.execUncorrectableError site n addr info s
  | .writebackScan => Sys2Proof.Machine.execWritebackScan s
  | .writebackDrained job va => Sys2Proof.Machine.execWritebackDrained job va s
  | .writebackComplete job va ok => Sys2Proof.Machine.execWritebackComplete job va ok s
  | .nvmeCompletion n ok => Sys2Proof.Machine.execNvmeCompletion n ok s
  | .patrolScrub line corrected uncorrectable => Sys2Proof.Machine.execPatrolScrub line corrected uncorrectable s
  | .calibrationWindow => Sys2Proof.Machine.execCalibrationWindow s
  | .telemetrySample => Sys2Proof.Machine.execTelemetrySample s
  | .packetArrival frame => Sys2Proof.Machine.execPacketArrival frame s
  | .messageAcknowledged msg => Sys2Proof.Machine.execMessageAcknowledged msg s
  | .packetNack msg cause addr => Sys2Proof.Machine.execPacketNack msg cause addr s
  | .linkFailure link => Sys2Proof.Machine.execLinkFailure link s
  | .peerUnreachable job peer => Sys2Proof.Machine.execPeerUnreachable job peer s
  | .moduleReset => Sys2Proof.Machine.execModuleReset s
  | .bootImageRead => Sys2Proof.Machine.execBootImageRead s
  | .drieneInit => Sys2Proof.Machine.execDrieneInit s
  | .thermalTrip => Sys2Proof.Machine.execThermalTrip s
  | .jobopen h number fabric peers key => Sys2Proof.Machine.execJobopen h number fabric peers key s
  | .jobclose h => Sys2Proof.Machine.execJobclose h s
  | .loadObject h image => Sys2Proof.Machine.execLoadObject h image s
  | .launch h record lid => Sys2Proof.Machine.execLaunch h record lid s
  | .launchResident lid => Sys2Proof.Machine.execLaunchResident lid s
  | .cancel h lid => Sys2Proof.Machine.execCancel h lid s
  | .attest h nonce handle => Sys2Proof.Machine.execAttest h nonce handle s
  | .fusestep h value sign => Sys2Proof.Machine.execFusestep h value sign s
  | .fuseBlow => Sys2Proof.Machine.execFuseBlow s
  | .recovery h image => Sys2Proof.Machine.execRecovery h image s
  | .unlistedMessage h => Sys2Proof.Machine.execUnlistedMessage h s
  | .debugReadState h at_ lane reg => Sys2Proof.Machine.execDebugReadState h at_ lane reg s
  | .debugWriteState h at_ lane reg value => Sys2Proof.Machine.execDebugWriteState h at_ lane reg value s
  | .debugAdvance h at_ => Sys2Proof.Machine.execDebugAdvance h at_ s
  | .debugResume h at_ => Sys2Proof.Machine.execDebugResume h at_ s
  | .debugStep h at_ pc => Sys2Proof.Machine.execDebugStep h at_ pc s
  | .debugPlantBreakpoint h va block => Sys2Proof.Machine.execDebugPlantBreakpoint h va block s
  | .debugRemoveBreakpoint h va block => Sys2Proof.Machine.execDebugRemoveBreakpoint h va block s
  | .fileOpen q => Sys2Proof.Machine.execFileOpen q s
  | .fileClose q => Sys2Proof.Machine.execFileClose q s
  | .fileRead q => Sys2Proof.Machine.execFileRead q s
  | .fileWrite q => Sys2Proof.Machine.execFileWrite q s
  | .fileFlush q => Sys2Proof.Machine.execFileFlush q s
  | .fileSize q => Sys2Proof.Machine.execFileSize q s
  | .sockConnect q => Sys2Proof.Machine.execSockConnect q s
  | .sockListen q => Sys2Proof.Machine.execSockListen q s
  | .sockSend q => Sys2Proof.Machine.execSockSend q s
  | .sockRecv q => Sys2Proof.Machine.execSockRecv q s
  | .sockShutdown q => Sys2Proof.Machine.execSockShutdown q s
  | .mmaQIntakeEnd q => Sys2Proof.Machine.execMmaQIntakeEnd q s
  | .wearManagement blocks => Sys2Proof.Machine.execWearManagement blocks s
  | .injectionEnable job => Sys2Proof.Machine.execInjectionEnable job s
  | .codeSigningKeyEnrol keyid => Sys2Proof.Machine.execCodeSigningKeyEnrol keyid s
  | .debuggerAttach lid => Sys2Proof.Machine.execDebuggerAttach lid s

end Sys2Proof.Machine
end

