-- ==== Sys2Proof/Machine/Due.lean ====
section
/-!
DEFINITION. Machine/Due.lean: what comes about of itself where the agenda names nothing (DESIGN CHOICE, log 1): the event that is due, and
the threads whose wait has ended.
-/
namespace Sys2Proof.Machine

/-! ### Waits that end (R111) -/

/-- An instruction that its issue set performs together waits as a set; the others wait thread by thread. -/
def waitsAsSet : Instr → Bool
  | .gsub .. | .qpush .. | .qpop .. | .dqpush .. | .mfence .. | .tail | .valloc .. | .vdup .. | .vsplit .. | .vnarrow .. | .vdrop .. | .vquery .. => true
  | _ => false

/-- The lane waits with its instruction undone: the instruction. -/
def Thread.blockedAt (t : Thread) : Option Instr :=
  match t.wait with
  | .blocked i | .batch _ i => some i
  | _ => none

/-- The lane waits for a batch that has not completed (R274). -/
def State.batchWaits (s : State) (q : Nat) (t : Thread) : Bool :=
  match t.wait with
  | .batch n _ => (s.coreAt (coreOf q)).engine.batchBusy (s.squad q).ref n
  | _ => false

/-- The waiting lanes of a squad in the groups in which they act. -/
def Squad.blockedGroups (sq : Squad) : List (Instr × List Nat) :=
  sq.liveLanes.filterMap fun l =>
    match (sq.thread l).blockedAt with
    | none => none
    | some i =>
      let group := sq.liveLanes.filter fun m => (sq.thread m).wait == (sq.thread l).wait && (sq.thread m).stamp == (sq.thread l).stamp
      if waitsAsSet i then (if group.head? = some l then some (i, group) else none) else some (i, [l])

/-- A group of waiting lanes performs its instruction, where it can now, its register lines have arrived (R179), and its squad is not stopped; else nothing
changes. Its operands are those of its issue (R22). -/
def State.retry (s : State) (q : Nat) (x : Instr × List Nat) : State :=
  match x.2 with
  | [] => s
  | l :: _ =>
    let sq := s.squad q
    let t := sq.thread l
    if t.blockedAt ≠ some x.1 || s.batchWaits q t || x.2.any (sq.lineWaits x.1) then s else
    let c : Cur := { q := q, pc := t.pc, lanes := maskOf x.2, slot := s.releaseStamp sq t, at_ := t.since }
    match exec x.1 { s.unwait q x.2 with cur := c } with
    | .next s' =>
      if ((s'.squad q).thread l).blockedAt = some x.1 || (sq.status == .debug && (s'.squad q).status != .debug) then s else s'
    | _ => s

/-- The squad's waits can end: its set is not being stopped, and no trap of it is open. -/
def State.waitsRun (s : State) (sq : Squad) : Bool := s.crewRuns sq && (sq.canTrap || sq.status == .debug)

/-- The waiting threads of a record. -/
def State.retryRecord (s : State) (q : Nat) : State :=
  match s.squad? q with
  | none => s
  | some sq =>
    let s1 := sq.liveLanes.foldl (fun st l => st.retryLoad q l) s
    if s.waitsRun sq then sq.blockedGroups.foldl (fun st x => st.retry q x) s1 else s1

/-- A system call whose number is unknown is answered with -1 (R309). -/
def State.answerUnknown (s : State) (q : Nat) : State :=
  match s.call? q with
  | some c => if c.num.isNone then s.answerCall q c.lane (errno 1) else s
  | none => s

/-- A request of the channel, as its own row has it. -/
def Request.run (r : Request) (s : State) : Host.Outcome State Fault Refusal :=
  match r with
  | .unlistedMessage h => execUnlistedMessage h s
  | .jobopen h number fabric peers key => execJobopen h number fabric peers key s
  | .jobclose h => execJobclose h s
  | .loadObject h image => execLoadObject h image s
  | .launch h record lid => execLaunch h record lid s
  | .cancel h lid => execCancel h lid s
  | .attest h nonce handle => execAttest h nonce handle s
  | .fusestep h value sign => execFusestep h value sign s
  | .recovery h image => execRecovery h image s
  | .debugReadState h at_ lane reg => execDebugReadState h at_ lane reg s
  | .debugWriteState h at_ lane reg value => execDebugWriteState h at_ lane reg value s
  | .debugAdvance h at_ => execDebugAdvance h at_ s
  | .debugResume h at_ => execDebugResume h at_ s
  | .debugStep h at_ pc => execDebugStep h at_ pc s
  | .debugPlantBreakpoint h va block => execDebugPlantBreakpoint h va block s
  | .debugRemoveBreakpoint h va block => execDebugRemoveBreakpoint h va block s

/-- The first request that waits is taken, once the one before it has been answered (R366). -/
def State.nextRequest (s : State) : State :=
  match s.io.requests with
  | [] => s
  | r :: rest =>
    if s.channelBusy then s else
    match r.run { s with io := { s.io with requests := [] } } with
    | .next s' => { s' with io := { s'.io with requests := s'.io.requests ++ rest } }
    | _ => s

/-- A job that is closing and holds nothing more is closed (R367). -/
def State.closeJobs (s : State) : State :=
  match s.closable with
  | some (j, r) => s.closeJob j r
  | none => s

/-- FUSEs whose outcome is known by now (R139). -/
def State.wakeFuses (s : State) : State :=
  ((s.records.filter fun x => x.2.atFuse.isSome).map (·.1)).foldl State.settleFuse s

/-- What ends of itself after a step: waits (R111, R139), unknown calls (R309), tiles doomed by a failed XFORM (R287), XFORMs that can no longer go on (R335), a job that is
closing (R367), requests that wait (R366). The number that free values of the next step are drawn by moves on (DESIGN CHOICE, log 9). -/
def State.wake (s : State) : State :=
  let s0 := s.drawFree.1
  let s1 := (s0.records.map (·.1)).foldl (fun st q => (st.answerUnknown q).retryRecord q) s0
  let s2 := (s1.cores.filter fun c => c.2.engine.doomed != []).foldl (fun st c => st.settleDoomed c.1) s1.wakeFuses
  let s3 := (s2.crews.filter fun c => c.2.graph.running != []).foldl (fun st c => st.settleStuck c.2.lid c.2.idx) s2
  s3.closeJobs.nextRequest

/-! ### The event that is due -/

/-- An event that the default order can take; each carries the arguments of its row of the opcode table. -/
inductive Due where
  | scoreboardWriteLands (q lane : Nat)
  | registerLineArrives (q line : Nat)
  | setnetConfigLands (q : Nat)
  | yieldExpires (q : Nat)
  | writeLands (n : Nat)
  | atomicPerformed (q : Nat)
  | fenceComplete (q : Nat)
  | icinvComplete (q : Nat)
  | rejoinRelease (q j : Nat)
  | barrierPhaseComplete (lid : Nat) (group : Bool) (n : Nat)
  | enumGroupAssembled (lid crew base : Nat)
  | mergeGathering (lid crew base : Nat)
  | endchMapWrite (lid crew base : Nat)
  | tileVersionAccept (q : Nat)
  | microTileLand (core : Nat)
  | bldComplete (core n : Nat)
  | tileTransferComplete (core n : Nat)
  | wheyDecrement
  | granuleFree (job : Nat) (va : Word)
  | squadRetire (q : Nat)
  | trackerEntryDrained (core n : Nat)
  | crewComplete (lid crew : Nat)
  | watchdogTimeout (lid n : Nat)
  | trapTaken (q : Nat)
  | launchEnded (lid : Nat)
  | relaunchDecision (lid crew : Nat)
  | singleStepStop (q : Nat)
  | copyNode (lid crew node : Nat)
  | xformNode (lid crew node : Nat)
  | checkNode (lid crew node : Nat)
  | launchNode (lid crew node : Nat)
  | signalNode (lid crew node : Nat)
  | putNode (lid crew node : Nat)
  | getNode (lid crew node : Nat)
  | nodeFinish (lid crew node : Nat)
  | errorAreaWrite (lid crew : Nat)
  | bind (lid : Nat) (places : List (Nat × Nat))
  | waitingSetBind (lid : Nat) (places : List (Nat × Nat))
  | preemptRequest (lid crew : Nat)
  | timeSliceExpiry (lid crew : Nat)
  | preemptionTakesEffect (lid crew : Nat)
  | shootdownComplete (job : Nat) (va : Word)
  | writebackDrained (job : Nat) (va : Word)
  | writebackComplete (job : Nat) (va : Word) (ok : Bool)
  | nvmeCompletion (n : Nat) (ok : Bool)
  | messageAcknowledged (sender : Option (Nat × Nat)) (msg : Nat)
  | bootImageRead
  | drieneInit
  | launchResident (lid : Nat)
  | fuseBlow
  | fileOpen (q : Nat)
  | fileClose (q : Nat)
  | fileRead (q : Nat)
  | fileWrite (q : Nat)
  | fileFlush (q : Nat)
  | fileSize (q : Nat)
  | sockConnect (q : Nat)
  | sockListen (q : Nat)
  | sockSend (q : Nat)
  | sockRecv (q : Nat)
  | sockShutdown (q : Nat)
  | mmaQIntakeEnd (q : Nat)
  deriving DecidableEq, Repr

/-- The event taken: its own meaning, as exec has it. -/
def Due.run (e : Due) (s : State) : Host.Outcome State Fault Refusal :=
  match e with
  | .scoreboardWriteLands q lane => execScoreboardWriteLands q ⟨lane, 0⟩ s
  | .registerLineArrives q line => execRegisterLineArrives q line s
  | .setnetConfigLands q => execSetnetConfigLands q s
  | .yieldExpires q => execYieldExpires q s
  | .writeLands n => execWriteLands n s
  | .atomicPerformed q => execAtomicPerformed q s
  | .fenceComplete q => execFenceComplete q s
  | .icinvComplete q => execIcinvComplete q s
  | .rejoinRelease q j => execRejoinRelease q j s
  | .barrierPhaseComplete lid group n => execBarrierPhaseComplete lid group n s
  | .enumGroupAssembled lid crew base => execEnumGroupAssembled lid crew base s
  | .mergeGathering lid crew base => execMergeGathering lid crew base s
  | .endchMapWrite lid crew base => execEndchMapWrite lid crew base s
  | .tileVersionAccept q => execTileVersionAccept q s
  | .microTileLand core => execMicroTileLand ⟨core, 0⟩ s
  | .bldComplete core n => execBldComplete ⟨core, n, 0⟩ false s
  | .tileTransferComplete core n => execTileTransferComplete ⟨core, n, 0⟩ false s
  | .wheyDecrement => execWheyDecrement s
  | .granuleFree job va => execGranuleFree job va s
  | .squadRetire q => execSquadRetire q s
  | .trackerEntryDrained core n => execTrackerEntryDrained core n s
  | .crewComplete lid crew => execCrewComplete lid crew s
  | .watchdogTimeout lid n => execWatchdogTimeout lid n s
  | .trapTaken q => execTrapTaken q s
  | .launchEnded lid => execLaunchEnded lid s
  | .relaunchDecision lid crew => execRelaunchDecision lid crew s
  | .singleStepStop q => execSingleStepStop q s
  | .copyNode lid crew node => execCopyNode lid crew ⟨node, 0⟩ s
  | .xformNode lid crew node => execXformNode lid crew ⟨node, 0⟩ s
  | .checkNode lid crew node => execCheckNode lid crew ⟨node, 0⟩ s
  | .launchNode lid crew node => execLaunchNode lid crew ⟨node, 0⟩ s
  | .signalNode lid crew node => execSignalNode lid crew ⟨node, 0⟩ s
  | .putNode lid crew node => execPutNode lid crew ⟨node, 0⟩ s
  | .getNode lid crew node => execGetNode lid crew ⟨node, 0⟩ s
  | .nodeFinish lid crew node => execNodeFinish lid crew node s
  | .errorAreaWrite lid crew => execErrorAreaWrite lid crew s
  | .bind lid places => execBind lid ⟨places, 1⟩ s
  | .waitingSetBind lid places => execWaitingSetBind lid ⟨places, 1⟩ s
  | .preemptRequest lid crew => execPreemptRequest lid crew s
  | .timeSliceExpiry lid crew => execTimeSliceExpiry lid crew s
  | .preemptionTakesEffect lid crew => execPreemptionTakesEffect lid crew s
  | .shootdownComplete job va => execShootdownComplete job va s
  | .writebackDrained job va => execWritebackDrained job va s
  | .writebackComplete job va ok => execWritebackComplete job va ok s
  | .nvmeCompletion n ok => execNvmeCompletion n ok s
  | .messageAcknowledged sender msg => execMessageAcknowledged ⟨sender, msg, 0⟩ s
  | .bootImageRead => execBootImageRead s
  | .drieneInit => execDrieneInit s
  | .launchResident lid => execLaunchResident lid s
  | .fuseBlow => execFuseBlow s
  | .fileOpen q => execFileOpen q s
  | .fileClose q => execFileClose q s
  | .fileRead q => execFileRead q s
  | .fileWrite q => execFileWrite q s
  | .fileFlush q => execFileFlush q s
  | .fileSize q => execFileSize q s
  | .sockConnect q => execSockConnect q s
  | .sockListen q => execSockListen q s
  | .sockSend q => execSockSend q s
  | .sockRecv q => execSockRecv q s
  | .sockShutdown q => execSockShutdown q s
  | .mmaQIntakeEnd q => execMmaQIntakeEnd q s

/-- An event whose step changes the state. -/
def State.moves (s : State) (i : Due) : Option Due :=
  match i.run s with
  | .next s' => if s' = s then none else some i
  | _ => none

/-- The event, where a condition holds. -/
def onlyIf (c : Bool) (i : Due) : Option Due := if c then some i else none

/-- The event of the call that a squad's next lane makes (R368). -/
def callEvent (q : Nat) : Nat → Option Due
  | 0x01 => some (.fileOpen q)
  | 0x02 => some (.fileClose q)
  | 0x03 => some (.fileRead q)
  | 0x04 => some (.fileWrite q)
  | 0x05 => some (.fileFlush q)
  | 0x06 => some (.fileSize q)
  | 0x10 => some (.sockConnect q)
  | 0x11 => some (.sockListen q)
  | 0x12 => some (.sockSend q)
  | 0x13 => some (.sockRecv q)
  | 0x14 => some (.sockShutdown q)
  | _ => none

/-- Registers and waits of one record. -/
def State.dueOfThreads (s : State) (q : Nat) (sq : Squad) : Option Due :=
  (sq.liveLanes.find? fun l => sq.mayLand l s.cycle).map (Due.scoreboardWriteLands q)
    <|> sq.missing.head?.map (Due.registerLineArrives q)
    <|> onlyIf (sq.netDue s.cycle).isSome (.setnetConfigLands q)
    <|> onlyIf (sq.yielded == 1) (.yieldExpires q)
    <|> (if sq.rejoinsLater s.cycle then none
      else ((List.range 4).find? fun n => sq.joinReady n || (sq.canTrap && sq.mismatch != [])).map (Due.rejoinRelease q))
    <|> onlyIf (s.fenceDone q != []) (.fenceComplete q)
    <|> onlyIf (s.icinvDone q != []) (.icinvComplete q)

/-- The squad's atomics, engine work, end, traps and calls. -/
def State.dueOfSquad (s : State) (q : Nat) (sq : Squad) : Option Due :=
  (onlyIf (s.crewRuns sq && sq.canTrap && (s.tileReady q).isSome) (.tileVersionAccept q)).bind s.moves
    <|> onlyIf (s.crewRuns sq && (s.intakeEnds q).isSome) (.mmaQIntakeEnd q)
    <|> (match sq.atomicLanes with
        | [] => none
        | ls => match execAtomicPerformed q s with
          | .next s' => onlyIf ((s'.squad q).atomicLanes != ls) (.atomicPerformed q)
          | _ => none)
    <|> onlyIf (s.canRetire q) (.squadRetire q)
    <|> onlyIf (s.trapDue q) (.trapTaken q)
    <|> onlyIf (s.stepOver q).isSome (.singleStepStop q)
    <|> (((s.call? q).bind (·.num)).bind (callEvent q)).bind s.moves

/-- What is due in a record. -/
def State.dueOfRecord (s : State) (x : Nat × Squad) : Option Due := s.dueOfThreads x.1 x.2 <|> s.dueOfSquad x.1 x.2

/-- What is due in a core's engine and tracker (R119, R258, R262, R269). -/
def State.dueOfCore (s : State) (x : Nat × Core) : Option Due :=
  let n := x.2.engine.ops.length
  (onlyIf (n != 0 || (s.nextTake x.1).isSome) (.microTileLand x.1)).bind s.moves
    <|> (List.range n).findSome? (fun i => s.moves (.bldComplete x.1 i) <|> s.moves (.tileTransferComplete x.1 i))
    <|> (match x.2.tracker.findIdx fun r => !s.squadBusy r with
        | n => onlyIf (decide (n < x.2.tracker.length)) (.trackerEntryDrained x.1 n))

/-- Writes and the whey engine (R206, R207, R223). -/
def State.dueOfMemory (s : State) : Option Due :=
  ((List.range s.mem.writes.length).find? s.canLand).map Due.writeLands
    <|> onlyIf (s.nextDecrement).isSome .wheyDecrement
    <|> (s.mem.granules.find? fun g => s.granuleDue (g.1 / 2 ^ 48) (g.1 % 2 ^ 48 * granuleBytes)
        && !s.shooting (g.1 / 2 ^ 48) (g.1 % 2 ^ 48 * granuleBytes) granuleBytes).map (fun g =>
      Due.granuleFree (g.1 / 2 ^ 48) (BitVec.ofNat 64 (g.1 % 2 ^ 48 * granuleBytes)))
    <|> (s.mem.stale.find? s.staleOver).map (fun st => Due.shootdownComplete st.job (BitVec.ofNat 64 st.va))

/-- The event of a node's kind (R278). -/
def nodeEvent (lid crew node : Nat) : Nat → Due
  | 1 => .copyNode lid crew node
  | 2 => .xformNode lid crew node
  | 3 => .checkNode lid crew node
  | 4 => .launchNode lid crew node
  | 6 => .putNode lid crew node
  | 7 => .getNode lid crew node
  | _ => .signalNode lid crew node

/-- A node that finishes, goes on, or starts (R286). -/
def State.dueOfGraph (s : State) (c : Crew) : Option Due :=
  let g := c.graph
  (g.running.find? (s.finishFree c.lid c.idx)).map (fun r => .nodeFinish c.lid c.idx r.node.id)
    <|> (g.running.filter fun r => !r.done).findSome? (fun r => s.moves (nodeEvent c.lid c.idx r.node.id (nKind r.bytes)))
    <|> (g.queued.find? fun n => s.mayStart c.lid c.idx n).bind (fun n => s.moves (nodeEvent c.lid c.idx n.id (startKind n.bytes)))
    <|> (onlyIf g.recordDue.isSome (.errorAreaWrite c.lid c.idx)).bind s.moves

/-- Gatherings of a crew (R153, R157, R158). -/
def State.dueOfRegions (s : State) (c : Crew) : Option Due :=
  ((s.crewRecords c.lid c.idx).findSome? fun (_, sq) => sq.atEnum.bind fun x =>
      onlyIf (s.enumReady c.lid c.idx (descOf x.2).gbase).isSome (.enumGroupAssembled c.lid c.idx (descOf x.2).gbase))
    <|> (c.chunks.findSome? fun ch =>
      if (s.gathered c.lid c.idx ch.gbase).isNone then none
      else s.moves (.mergeGathering c.lid c.idx ch.gbase) <|> s.moves (.endchMapWrite c.lid c.idx ch.gbase))

/-- What is due in a crew. -/
def State.dueOfCrew (s : State) (c : Crew) : Option Due :=
  s.dueOfGraph c
    <|> onlyIf (s.crewPhaseDone c.lid c.idx) (.barrierPhaseComplete c.lid false c.idx)
    <|> s.dueOfRegions c
    <|> onlyIf (s.crewDone c.lid c.idx) (.crewComplete c.lid c.idx)
    <|> onlyIf (c.stopReq && s.mayPreempt c.lid c.idx) (.preemptionTakesEffect c.lid c.idx)

/-- What is due in a launch (R105, R142, R336, R346). -/
def State.dueOfLaunch (s : State) (l : Launch) : Option Due :=
  onlyIf (l.status == .admitted) (.launchResident l.lid)
    <|> ((List.range l.groups.length).find? fun g => l.status == .running && s.groupPhaseDone l.lid g).map
      (Due.barrierPhaseComplete l.lid true)
    <|> onlyIf (s.endDue l.lid).isSome (.launchEnded l.lid)
    <|> (l.killing.find? fun r => s.quiet l.lid (inRanges (l.joined r.1))).bind (fun r => s.moves (.relaunchDecision l.lid r.1))

/-- Binding and pre-emption (R107, R108, R323). -/
def State.dueOfSets (s : State) : Option Due :=
  s.waitingSets.findSome? fun w =>
    if !s.mayBind w.1 w.2 then none else
    match s.findPlaces w.1 w.2 with
    | some (p :: ps) =>
      if (s.crewOf w.1.lid p.1).started then some (.waitingSetBind w.1.lid (p :: ps)) else some (.bind w.1.lid (p :: ps))
    | _ =>
      if s.crews.any (fun c => c.2.stopReq) then none
      else (s.victimFor w false).map (fun v => .preemptRequest v.1.lid v.2.idx)
        <|> (s.victimFor w true).map fun v => .timeSliceExpiry v.1.lid v.2.idx

/-- The storage port, messages, boot (R193, R353, R355, R360, R369). -/
def State.dueOfDevices (s : State) : Option Due :=
  (match s.boot with
    | .rom _ => some .bootImageRead
    | .starting => some .drieneInit
    | _ => none)
    <|> onlyIf s.fuseStep.isSome .fuseBlow
    <|> (s.filePages.find? fun p => (s.drainedPage p.1 p.2).isSome).map (fun p => .writebackDrained p.1 (BitVec.ofNat 64 p.2))
    <|> (match s.io.nvme with
        | [] => none
        | .page j va _ :: _ => s.moves (.writebackComplete j va true)
        | _ :: _ => s.moves (.nvmeCompletion 0 true))
    <|> s.io.messages.findSome? fun m => match m with
        | .inbound id job peer .. => s.moves (.messageAcknowledged (some (job, peer)) id)
        | .get id .. => s.moves (.messageAcknowledged none id)
        | .put .. => none

/-- The event that the default order takes next, if one is due. -/
def State.dueEvent (s : State) : Option Due :=
  s.records.findSome? s.dueOfRecord
    <|> s.cores.findSome? s.dueOfCore
    <|> s.dueOfMemory
    <|> s.crews.findSome? (fun c => s.dueOfCrew c.2)
    <|> s.launches.findSome? (fun x => x.2.bind s.dueOfLaunch)
    <|> s.dueOfSets
    <|> s.dueOfDevices

/-- A watchdog whose count has reached its limit in a cycle in which its wait has not ended (R145, R347): it comes when the cycle
has nothing else left. -/
def State.dueTimeout (s : State) : Option Due :=
  s.launches.findSome? fun x => x.2.bind fun l =>
    ((List.range l.watches.length).find? fun n => (s.timedOut l.lid n).isSome).map (Due.watchdogTimeout l.lid)

end Sys2Proof.Machine
end

