-- ==== Sys2Proof/Machine/Placement.lean ====
section
/-!
DEFINITION. Machine/Placement.lean: a program put where it issues next (DESIGN CHOICE, log 2), for State.withFetchWord.
-/
namespace Sys2Proof.Machine

/-- A named choice of an issue set: of the records of a core, that which a port is given to (R321). -/
def State.chosenIssue (s : State) (q : Nat) (pc : Word) : Option Cur :=
  ((firstOf s.cycle (s.candidates.filter fun c => coreOf c.1 == coreOf q)).filter fun c => c.1 == q && c.2.2.1 == pc).map (·.cur)

/-- Base of the placed program: the address, and the physical page (R185). -/
abbrev placeVA : Nat := 0x10000
abbrev placePA : Nat := 0x10000

/-- Page tables of five levels that map the page of the program with every right: tables at 0x1000 to 0x5000. -/
def placeTables (m : Memory) : Memory :=
  let m := m.writeBytes 0x1000 (bytesLE 8 0x2001)
  let m := m.writeBytes 0x2000 (bytesLE 8 0x3001)
  let m := m.writeBytes 0x3000 (bytesLE 8 0x4001)
  let m := m.writeBytes 0x4000 (bytesLE 8 0x5001)
  m.writeBytes (0x5000 + 8 * 0x10) (bytesLE 8 0x4800000001003F)

/-- The launch under which the placed program runs: interlocked, one crew of one squad. -/
def placeLaunch : Launch :=
  { lid := 1, job := 1, entry := BitVec.ofNat 64 placeVA, status := .running, seed := 0, scratch := 4096, stack := 4096,
    ranges := [⟨placeVA, 4096, 15, 1, 0, 0, 4, 0, 0⟩], marked := true, deques := true, streamLo := placeVA, streamLen := 4096 }

def placeJob : Job :=
  { num := 1, module := 0, fabric := 0, peers := [], ckey := [], root := 0x1000, inj := false, objects := [], closing := none }

/-- The squad: lane 0 stands at the program, the other lanes have exited. -/
def fetchSquad : Squad :=
  { lid := 1, threads := [(0, { pc := BitVec.ofNat 64 placeVA, live := true })] }

/-- A program word placed (DESIGN CHOICE, log 2). -/
def State.placeWord (s : State) (nbits w : Nat) : State :=
  { s with
    boot := .running
    agenda := []
    jobs := [(1, some placeJob)]
    launches := [(1, some placeLaunch)]
    crews := [(crewKey 1 0, { lid := 1, core := some 0, started := true })]
    cores := [(0, { engine := { owner := some (1, 0) }, dqOwner := some 1 })]
    squads := [(recordKey 0 0, some fetchSquad)]
    mem := { s.mem with
      dram := (placeTables s.mem.dram).writeBytes placePA (bytesOfNat longestInstr (w % 2 ^ nbits))
      writes := []
      stale := []
      keys := SMap.set 0 s.mem.keys 0 1
      frameKeys := []
      lineKeys := []
      errors := []
      free := [(0x10000000, Config.dramBytes - 0x10000000)] } }

end Sys2Proof.Machine
end

