-- ==== Sys2Proof/Machine/Step.lean ====
section
/-!
DEFINITION. Machine/Step.lean: one step of the module (DESIGN CHOICE, log 1): the choice at the front of the agenda, or else the event that
is due, or else the issue set whose turn it is, or else a watchdog's end (R347), or else the passing of a cycle.
-/
namespace Sys2Proof.Machine

/-- Threads whose wait has ended become ready before the next step. -/
def awaken (o : Host.Outcome State Fault Refusal) : Host.Outcome State Fault Refusal :=
  match o with
  | .next s => .next s.wake
  | .fault f => .fault f
  | .refused r => .refused r

/-- What an issue set executes: the INV in which its lanes are (R172), or the instruction at its PC, fetched and decoded (R22). -/
def State.instrFor (s : State) (c : Cur) : Except Trap Instr :=
  let sq := s.squad c.q
  match (lanesOf c.lanes).findSome? sq.runOf with
  | some r => .ok r.instr
  | none => s.fetch (s.launchOf sq.lid) (coreOf c.q) c.pc s.freeCtr

/-- An issue set issues, and its instruction is executed (R22). -/
def issue (s : State) (c : Cur) : Host.Outcome State Fault Refusal :=
  match s.instrFor c with
  | .error t => .next ((s.beginIssue c).fetchTrap c t)
  | .ok i => exec i (s.beginIssue c)

/-- A choice of the agenda; one that cannot be made changes nothing (DESIGN CHOICE, log 5). -/
def choose (s : State) (c : Choice) : Host.Outcome State Fault Refusal :=
  match c with
  | .event i => exec i s
  | .issue q pc =>
    match s.chosenIssue q pc with
    | some c => issue s c
    | none => .next s
  | .tick => .next (if s.mayTick then s.tick else s)

/-- One step. -/
def step (s : State) : Host.Outcome State Fault Refusal :=
  match s.agenda with
  | c :: rest => awaken (choose { s with agenda := rest } c)
  | [] =>
    match s.dueEvent with
    | some e => awaken (e.run s)
    | none =>
      if s.boot = .tripped then .fault .thermalStop else
      match s.nextIssue with
      | some c => awaken (issue s c)
      | none =>
        match s.dueTimeout with
        | some e => awaken (e.run s)
        | none => .next s.tick.wake

/-- The machine with an instruction placed where it issues next: a job, a launch and a squad of one thread stand ready at
the page that holds it (DESIGN CHOICE, log 2). -/
def State.withFetchWord (s : State) (nbits w : Nat) : State := s.placeWord nbits w

end Sys2Proof.Machine
end

