-- ==== Sys2Proof/Safety.lean ====
section
/-!
DEFINITION. Safety.lean: the terms in which claims about an issue set are made: its lanes, what they read, when an instruction
may run in them, and the state with new threads in place of the old ones and nothing else changed.
-/
namespace Sys2Proof.Machine

/-- The lanes of the executing issue set, ascending. -/
def State.lanes (s : State) : List Nat := lanesOf s.cur.lanes

/-- The thread of a lane of the executing squad. -/
def State.th (s : State) (l : Nat) : Thread := s.thread s.cur.q l

/-- A lane can read a register now: no write to it is too recent (R57). -/
def State.canRead (s : State) (c : RegCode) (l : Nat) : Bool :=
  match (s.th l).read (s.ctx l) c with
  | .ok _ => true
  | .error _ => false

/-- What a lane reads in a register. -/
def State.operand (s : State) (c : RegCode) (l : Nat) : Reg :=
  match (s.th l).read (s.ctx l) c with
  | .ok r => r
  | .error _ => Reg.zero

/-- A lane can read its bit of a mask now (R57). -/
def State.canReadK (s : State) (k : Nat) (l : Nat) : Bool :=
  match (s.th l).readK (s.ctx l) k with
  | .ok _ => true
  | .error _ => false

/-- A lane's bit of a mask. -/
def State.maskBit (s : State) (k : Nat) (l : Nat) : Bool :=
  match (s.th l).readK (s.ctx l) k with
  | .ok b => b
  | .error _ => false

/-- A lane reads a register with a tag that satisfies a test, POISON never among them (R13, R44). -/
def State.holds (s : State) (ok : Tag → Bool) (c : RegCode) (l : Nat) : Bool :=
  s.canRead c l && (s.operand c l).tag != .poison && ok (s.operand c l).tag

/-- An instruction may run in the issue set (R22): the squad exists, the instruction is admitted where it stands (R154, R164,
R298), and every lane can read its guard (R55). -/
def State.ready (s : State) (i : Instr) (g : BitVec 2) : Bool :=
  (s.squad? s.cur.q).isSome && admitted (s.ctx 0) i && s.lanes.all (s.canReadK g.toNat)

/-- The lanes whose guard is true (R55). -/
def State.active (s : State) (g : BitVec 2) : List Nat := s.lanes.filter (s.maskBit g.toNat)

/-- A lane's thread past an instruction, before the instruction's own effect (R22, R340). -/
def State.past (s : State) (i : Instr) (stall : Nat) (l : Nat) : Thread := (s.th l).advance (s.ctx l) i stall

/-- The threads of lanes of a record replaced; nothing else changes. -/
def State.setThreads (s : State) (q : Nat) (ls : List Nat) (f : Nat → Thread) : State :=
  ls.foldl (fun st l => st.setThread q l (f l)) s

/-- The issue set has run an instruction: an active lane's thread is `res l`, another lane has only moved past it. -/
def State.ran (s : State) (i : Instr) (g : BitVec 2) (stall : Nat) (res : Nat → Thread) : State :=
  s.setThreads s.cur.q s.lanes fun l => if s.maskBit g.toNat l then res l else s.past i stall l

/-- The issue set has run an instruction together: every lane has moved past it, then the active ones hold `res l`. -/
def State.ranTogether (s : State) (i : Instr) (g : BitVec 2) (stall : Nat) (res : Nat → Thread) : State :=
  (s.advanceAll i stall).setThreads s.cur.q (s.active g) res

/-- The lanes of the issue set have run one after another in ascending order: `f l st` is what lane l makes of the state `st`. -/
def State.oneByOne (s : State) (f : Nat → State → State) : State := s.lanes.foldl (fun st l => f l st) s

/-- The state that lane l finds, when the lanes below it have run. -/
def State.before (s : State) (f : Nat → State → State) (l : Nat) : State :=
  (s.lanes.takeWhile (· != l)).foldl (fun st m => f m st) s

/-- Two integer-class operands pair (R44, R45). -/
def pairInt (x y : Tag) : Bool := isIntTag x && isIntTag y && (x == y || x == .raw64 || y == .raw64)

/-- The tag that governs a pair: the one that is not RAW64 (R45). -/
def pairTag (x y : Tag) : Tag := if x = .raw64 then y else x

/-- Two operands of PACK and UNPACK pair (R86): equal tags or one RAW64, of at least two elements. -/
def pairAny (x y : Tag) : Bool := (x == y || x == .raw64 || y == .raw64) && decide (2 ≤ tagCount (pairTag x y))

/-- The float tag among the tags of float operands (R45). -/
def floatTag (ts : List Tag) : Tag := (ts.find? (· != .raw64)).getD .raw64

/-- Float operands pair (R44, R45): one float tag, beside which only RAW64 stands. -/
def pairFloat (ts : List Tag) : Bool := isFloatTag (floatTag ts) && ts.all fun t => t == .raw64 || t == floatTag ts

/-- The elements of d ± a × b with the flags of all (R80). -/
def fusedElems (g : Tag) (m : Rm) (minus : Bool) (x y z : Word) : Word × Flags :=
  floatElems g (((elems g x).zip ((elems g y).zip (elems g z))).map fun e =>
    (fmtOf g).fma m ((fmtOf g).decode e.2.2) (if minus then ((fmtOf g).decode e.1).negate else (fmtOf g).decode e.1)
      ((fmtOf g).decode e.2.1))

/-- The operands of an F-M form have their tags (R53, R92, R235): the base, and o3 too for a view. -/
def State.holdsFM (s : State) (q : BitVec 2) (b : RegCode) (l : Nat) : Bool :=
  if q = 3 then s.holds (· == .view) b l && s.holds isAddrTag 59 l else s.holds isAddrTag b l

/-- What an F-M form names in a lane (R92, R237): base + offset × size, or a byte of a view. -/
def State.accessFM (s : State) (q : BitVec 2) (o : BitVec 10) (b : RegCode) (size : Nat) (l : Nat) : AddrOp :=
  if q = 3 then .view (s.operand b l) (((s.operand 59 l).data.toNat : Int) + o.toInt * size)
  else .plain ((s.operand b l).data + o.signExtend 64 * BitVec.ofNat 64 size)

/-- Lane l is past a load whose value is r: it is noted as one that may still change (R223), and d receives it when it is performed. -/
def State.tookLoad (s : State) (i : Instr) (l : Nat) (loc : Loc) (k : LoadKind) (size : Nat) (sgn : Bool) (g : Tag) (d : RegCode) (r : Reg) : State :=
  ((s.setThread s.cur.q l (s.past i 0 l)).noteLoad (s.ctx l) loc k size sgn g).modThread s.cur.q l fun t => t.write (s.ctx l) d r (.mem s.seq)

/-- Every outstanding write has been performed as far as a load must find it (R217, R219, R224, R236). -/
def State.loadFree (s : State) (cx : Ctx) (loc : Loc) (k : LoadKind) (size : Nat) : Bool :=
  s.mem.writes.all fun w => decide (s.loadNeeds cx loc k size w ≤ w.stage)

/-- Nothing holds an atomic up: its page's write-back (R194), a lower lane (R245), or writes that must be performed before it (R217, R219, R224, R236); its
bytes are sound (R241), and no injected flip waits in their line. -/
def State.atomicFree (s : State) (cx : Ctx) (loc : Loc) (size : Nat) (ar writes : Bool) : Bool :=
  let p : AtomicPlan := { base := Reg.zero, off := Reg.zero, nd := .atomic, size := size, det := .free, bad := false, ar := ar,
                          writes := writes, new := id, res := fun _ t => t }
  !s.atomicHeld loc p && !s.lowerWaits cx && s.mem.writes.all (fun w => decide (s.atomicNeeds cx loc p w ≤ w.stage))
    && !s.locPoisoned cx loc && loc.place.all fun p => !s.mem.latent.contains p.line

/-- The bytes of an atomic are put where it acts, at once; elsewhere than in a stack slice the write takes its number in the order of accesses. -/
def State.putAtomic (s : State) (cx : Ctx) (loc : Loc) (bs : List Byte) : State :=
  match loc with
  | .stack _ => s.storeLoc cx loc bs false
  | .dram pa key job va _ => { s with seq := s.seq + 1 }.landPart cx.lid cx.crew (.dram pa key) job va bs
  | .scratch l c o => { s with seq := s.seq + 1 }.landPart cx.lid cx.crew (.scratch l c o) 0 0 bs

/-- Node n of a kind runs in a crew's graph, and its body goes on (R286, R288). -/
def State.atNode (s : State) (lid crew n kind : Nat) (r : RunNode) : Prop :=
  (s.crewOf lid crew).graph.running.find? (fun r => r.node.id == n && nKind r.bytes == kind) = some r ∧
    s.bodyRuns lid crew r = true

/-- Driene serves a call now: no command of the storage port is under way for it, its launch runs and its set is not being killed
(R309, R335). -/
def State.mayServe (s : State) (c : Call) : Bool :=
  !s.pendingFor c.sq.ref c.lane && (s.launchOf c.sq.lid).status == .running && !inRanges (s.launchOf c.sq.lid).killing c.sq.crew

/-- What an instruction that changes threads one by one makes of a lane, or the trap that it meets there (R22). -/
def State.laneResult (s : State) (i : Instr) (g : BitVec 2) (stall : Nat) (f : Ctx → Thread → Except Trap Thread) (l : Nat) :
    Except Trap Thread :=
  if admitted (s.ctx l) i then
    match (s.th l).guardOn (s.ctx l) g with
    | .error e => .error e
    | .ok on => if on then f (s.ctx l) (s.past i stall l) else .ok (s.past i stall l)
  else .error ⟨0x01, 0⟩

/-- A lane meets a trap of a cause. -/
def State.failsWith (s : State) (i : Instr) (g : BitVec 2) (stall : Nat) (f : Ctx → Thread → Except Trap Thread) (cause l : Nat) : Bool :=
  match s.laneResult i g stall f l with
  | .error t => t.cause == cause
  | .ok _ => false

/-- The fuse counter and the step under way are in order (R355): at most 128 fuses are blown, and a step names the next value. -/
def State.fusesInOrder (s : State) : Prop :=
  s.fuses ≤ 128 ∧ ∀ v r, s.fuseStep = some (v, r) → v = s.fuses + 1 ∧ s.fuses < 128

/-- The addresses that reading one byte of memory can tell apart: every byte of DRAM and of every scratchpad. -/
def State.sameMemory (s t : State) : Prop := ∀ p : Place, t.byteAt p = s.byteAt p

/-- A run of the machine: k steps, each to a next state. -/
inductive Reaches : State → State → Prop
  | refl (s : State) : Reaches s s
  | step {s t u : State} (h : Reaches s t) (e : step t = .next u) : Reaches s u

end Sys2Proof.Machine
end

