-- ==== Sys2Proof/Certificates/Slice0/Obligations.lean ====
section
/-!
DEFINITION. Certificates/Slice0/Obligations.lean: the statements made of this model, each with the rules of spec/ it
formalises. The words ready, active, holds, operand, past, ran and ranTogether are those of Sys2Proof/Safety.lean: `s.ran i g n r`
is the state `s` in which the lanes of the issue set have moved past instruction `i`, the active ones with thread `r l`, and in
which nothing else differs from `s`, so that each statement about a result states its frame too.
-/

open Sys2Proof Sys2Proof.Machine

/-! ### Integer instructions -/

/-- R73, R77, R49: the element-wise integer operations of two registers. Wherever the issue set may run the instruction and the
active lanes hold integer-class operands that pair, it completes: every active lane's d receives the elements that the table
gives, in the layout and with the tag that governs the pair; DIV by 0 gives all ones and REM by 0 gives x. -/
def Obligations.IntegerOperationsComplete : Prop :=
  (∀ p ∈ [(Instr.add, fun w x y => (x + y) % 2 ^ w), (.sub, fun w x y => (x + (2 ^ w - y % 2 ^ w)) % 2 ^ w),
      (.shl, fun w x y => if y ≥ w then 0 else x * 2 ^ y % 2 ^ w), (.shr, shrE),
      (.shrU, fun w x y => if y ≥ w then 0 else x / 2 ^ y), (.rol, rolE), (.mul, fun w x y => x * y % 2 ^ w),
      (.mulh, fun w x y => wrap w (signed w x * signed w y / (2 : Int) ^ w)), (.mulhU, fun w x y => x * y / 2 ^ w),
      (.min, fun w x y => if signed w x ≤ signed w y then x else y), (.minU, fun _ x y => if x ≤ y then x else y),
      (.max, fun w x y => if signed w x ≥ signed w y then x else y), (.maxU, fun _ x y => if x ≥ y then x else y),
      (.adds, fun w x y => satS w (signed w x + signed w y)), (.addsU, fun w x y => satU w ((x : Int) + y)),
      (.subs, fun w x y => satS w (signed w x - signed w y)), (.subsU, fun w x y => satU w ((x : Int) - y))],
    ∀ (f : FR) (s : State), s.ready (p.1 f) f.g = true →
    (∀ l ∈ s.active f.g, s.canRead f.a l = true ∧ s.canRead f.b l = true ∧
      pairInt (s.operand f.a l).tag (s.operand f.b l).tag = true) →
    exec (p.1 f) s = .next (s.ran (p.1 f) f.g f.s.toNat fun l =>
      let g := pairTag (s.operand f.a l).tag (s.operand f.b l).tag
      (s.past (p.1 f) f.s.toNat l).write (s.ctx l) f.d ⟨zipElems g p.2 (s.operand f.a l).data (s.operand f.b l).data, g⟩ latInt)) ∧
  (∀ p ∈ [(Instr.addC, fun w x y => (x + y) % 2 ^ w), (.subC, fun w x y => (x + (2 ^ w - y % 2 ^ w)) % 2 ^ w)],
    ∀ (b : BitVec 5) (d : RegCode) (s : State), s.ready (p.1 b d) 0 = true →
    (∀ l ∈ s.lanes, s.canRead d l = true ∧ s.canRead (b.zeroExtend 6) l = true ∧
      pairInt (s.operand d l).tag (s.operand (b.zeroExtend 6) l).tag = true) →
    exec (p.1 b d) s = .next (s.ran (p.1 b d) 0 0 fun l =>
      let g := pairTag (s.operand d l).tag (s.operand (b.zeroExtend 6) l).tag
      (s.past (p.1 b d) 0 l).write (s.ctx l) d
        ⟨zipElems g p.2 (s.operand d l).data (s.operand (b.zeroExtend 6) l).data, g⟩ latInt)) ∧
  (∀ p ∈ [(Instr.div, fun w x y => if y = 0 then 2 ^ w - 1 else wrap w ((signed w x).tdiv (signed w y))),
      (.divU, fun w x y => if y = 0 then 2 ^ w - 1 else x / y),
      (.rem, fun w x y => if y = 0 then x else wrap w ((signed w x).tmod (signed w y))),
      (.remU, fun _ x y => if y = 0 then x else x % y)],
    ∀ (b a d : RegCode) (s : State), s.ready (p.1 b a d) 0 = true →
    (∀ l ∈ s.lanes, s.canRead a l = true ∧ s.canRead b l = true ∧
      pairInt (s.operand a l).tag (s.operand b l).tag = true) →
    exec (p.1 b a d) s = .next (s.ran (p.1 b a d) 0 0 fun l =>
      let g := pairTag (s.operand a l).tag (s.operand b l).tag
      (s.past (p.1 b a d) 0 l).write (s.ctx l) d ⟨zipElems g p.2 (s.operand a l).data (s.operand b l).data, g⟩ .sb))

/-- R73, R75, R49: the bitwise operations work on all 64 bits at once and give the tag of a; an immediate stands in every
element. They accept every tag but VIEW and POISON (R44). -/
def Obligations.BitwiseOperationsComplete : Prop :=
  (∀ p ∈ [(Instr.and, fun (x y : Word) => x &&& y), (.or, fun x y => x ||| y), (.xor, fun x y => x ^^^ y),
      (.andn, fun x y => x &&& ~~~y)],
    ∀ (f : FR) (s : State), s.ready (p.1 f) f.g = true →
    (∀ l ∈ s.active f.g, s.holds isBitTag f.a l = true ∧ s.holds isBitTag f.b l = true) →
    exec (p.1 f) s = .next (s.ran (p.1 f) f.g f.s.toNat fun l => (s.past (p.1 f) f.s.toNat l).write (s.ctx l) f.d
      ⟨p.2 (s.operand f.a l).data (s.operand f.b l).data, (s.operand f.a l).tag⟩ latInt)) ∧
  (∀ p ∈ [(Instr.andC, fun (x y : Word) => x &&& y), (.orC, fun x y => x ||| y), (.xorC, fun x y => x ^^^ y)],
    ∀ (b : BitVec 5) (d : RegCode) (s : State), s.ready (p.1 b d) 0 = true →
    (∀ l ∈ s.lanes, s.holds isBitTag d l = true ∧ s.holds isBitTag (b.zeroExtend 6) l = true) →
    exec (p.1 b d) s = .next (s.ran (p.1 b d) 0 0 fun l => (s.past (p.1 b d) 0 l).write (s.ctx l) d
      ⟨p.2 (s.operand d l).data (s.operand (b.zeroExtend 6) l).data, (s.operand d l).tag⟩ latInt)) ∧
  (∀ p ∈ [(Instr.andi, fun (x y : Word) => x &&& y), (.ori, fun x y => x ||| y), (.xori, fun x y => x ^^^ y)],
    ∀ (v : BitVec 12) (a d : RegCode) (s : State), s.ready (p.1 v a d) 0 = true →
    (∀ l ∈ s.lanes, s.holds isBitTag a l = true) →
    exec (p.1 v a d) s = .next (s.ran (p.1 v a d) 0 0 fun l => (s.past (p.1 v a d) 0 l).write (s.ctx l) d
      ⟨p.2 (s.operand a l).data (immElems (s.operand a l).tag (v.signExtend 64)), (s.operand a l).tag⟩ latInt))

/-- R75, R77, R49: an immediate in every element, and the operations of one register. -/
def Obligations.ImmediateAndUnaryComplete : Prop :=
  (∀ p ∈ [(Instr.addi, fun w x y => (x + y) % 2 ^ w), (.muli, fun w x y => x * y % 2 ^ w)],
    ∀ (v : BitVec 12) (a d : RegCode) (s : State), s.ready (p.1 v a d) 0 = true → (∀ l ∈ s.lanes, s.holds isIntTag a l = true) →
    exec (p.1 v a d) s = .next (s.ran (p.1 v a d) 0 0 fun l => (s.past (p.1 v a d) 0 l).write (s.ctx l) d
      ⟨zipElems (s.operand a l).tag p.2 (s.operand a l).data (immElems (s.operand a l).tag (v.signExtend 64)),
        (s.operand a l).tag⟩ latInt)) ∧
  (∀ p ∈ [(Instr.shli, fun w x y => if y ≥ w then 0 else x * 2 ^ y % 2 ^ w), (.shri, shrE),
      (.shriU, fun w x y => if y ≥ w then 0 else x / 2 ^ y)],
    ∀ (v : BitVec 6) (a d : RegCode) (s : State), s.ready (p.1 v a d) 0 = true → (∀ l ∈ s.lanes, s.holds isIntTag a l = true) →
    exec (p.1 v a d) s = .next (s.ran (p.1 v a d) 0 0 fun l => (s.past (p.1 v a d) 0 l).write (s.ctx l) d
      ⟨zipElems (s.operand a l).tag p.2 (s.operand a l).data (immElems (s.operand a l).tag (v.zeroExtend 64)),
        (s.operand a l).tag⟩ latInt)) ∧
  (∀ p ∈ [(Instr.shliC, fun w x y => if y ≥ w then 0 else x * 2 ^ y % 2 ^ w, fun (v : BitVec 5) => v.zeroExtend 64),
      (.shriC, shrE, fun v => v.zeroExtend 64), (.addiC, fun w x y => (x + y) % 2 ^ w, fun v => v.signExtend 64)],
    ∀ (v : BitVec 5) (d : RegCode) (s : State), s.ready (p.1 v d) 0 = true → (∀ l ∈ s.lanes, s.holds isIntTag d l = true) →
    exec (p.1 v d) s = .next (s.ran (p.1 v d) 0 0 fun l => (s.past (p.1 v d) 0 l).write (s.ctx l) d
      ⟨zipElems (s.operand d l).tag p.2.1 (s.operand d l).data (immElems (s.operand d l).tag (p.2.2 v)),
        (s.operand d l).tag⟩ latInt)) ∧
  (∀ p ∈ [(Instr.popc, popcE), (.clz, clzE), (.ctz, ctzE), (.brev, brevE), (.bswap, bswapE),
      (.abs, fun w x => wrap w (signed w x).natAbs), (.neg, fun w x => wrap w (-(signed w x)))],
    ∀ (a d : RegCode) (s : State), s.ready (p.1 a d) 0 = true → (∀ l ∈ s.lanes, s.holds isIntTag a l = true) →
    exec (p.1 a d) s = .next (s.ran (p.1 a d) 0 0 fun l => (s.past (p.1 a d) 0 l).write (s.ctx l) d
      ⟨mapElems (s.operand a l).tag p.2 (s.operand a l).data, (s.operand a l).tag⟩ .sb))

/-- R74, R95, R49: MOV and RETAG read a register of any tag but POISON. R75: MOVI reads none. R239: LEA adds its byte offset and accesses
no memory. -/
def Obligations.MovesAndConstantsComplete : Prop :=
  (∀ (f : FRU) (s : State), s.ready (.mov f) f.g = true → (∀ l ∈ s.active f.g, s.holds (fun _ => true) f.a l = true) →
    exec (.mov f) s = .next (s.ran (.mov f) f.g f.s.toNat fun l =>
      (s.past (.mov f) f.s.toNat l).write (s.ctx l) f.d (s.operand f.a l) latInt)) ∧
  (∀ (b : BitVec 5) (d : RegCode) (s : State), s.ready (.movC b d) 0 = true →
    (∀ l ∈ s.lanes, s.holds (fun _ => true) (b.zeroExtend 6) l = true) →
    exec (.movC b d) s = .next (s.ran (.movC b d) 0 0 fun l =>
      (s.past (.movC b d) 0 l).write (s.ctx l) d (s.operand (b.zeroExtend 6) l) latInt)) ∧
  (∀ (x : BitVec 4) (a d : RegCode) (s : State), s.ready (.retag x a d) 0 = true →
    (∀ l ∈ s.lanes, s.holds (fun _ => true) a l = true) →
    exec (.retag x a d) s = .next (s.ran (.retag x a d) 0 0 fun l =>
      (s.past (.retag x a d) 0 l).write (s.ctx l) d ⟨(s.operand a l).data, tagOf x.toNat⟩ latInt)) ∧
  (∀ (v : BitVec 12) (d : RegCode) (s : State), s.ready (.movi v d) 0 = true →
    exec (.movi v d) s = .next (s.ran (.movi v d) 0 0 fun l =>
      (s.past (.movi v d) 0 l).write (s.ctx l) d ⟨v.signExtend 64, .i64⟩ latInt)) ∧
  (∀ (o : BitVec 10) (b d : RegCode) (s : State), s.ready (.lea o b d) 0 = true → (∀ l ∈ s.lanes, s.holds isAddrTag b l = true) →
    exec (.lea o b d) s = .next (s.ran (.lea o b d) 0 0 fun l =>
      (s.past (.lea o b d) 0 l).write (s.ctx l) d ⟨(s.operand b l).data + o.signExtend 64, .i64⟩ .sb))

/-- R76: LDHI writes sext(imm18) × 4,096 to d, and PCREL the same plus the address of the PCREL with its twelve low bits
cleared; both results carry tag I64, and neither reads a register. -/
def Obligations.LdhiAndPcrelResults : Prop :=
  (∀ (v : BitVec 18) (d : RegCode) (s : State), s.ready (.ldhi v d) 0 = true →
    exec (.ldhi v d) s = .next (s.ran (.ldhi v d) 0 0 fun l =>
      (s.past (.ldhi v d) 0 l).write (s.ctx l) d ⟨v.signExtend 64 * 4096, .i64⟩ latInt)) ∧
  (∀ (v : BitVec 18) (d : RegCode) (s : State), s.ready (.pcrel v d) 0 = true →
    exec (.pcrel v d) s = .next (s.ran (.pcrel v d) 0 0 fun l =>
      (s.past (.pcrel v d) 0 l).write (s.ctx l) d ⟨(s.cur.pc &&& ~~~0xFFF) + v.signExtend 64 * 4096, .i64⟩ latInt))

/-- R78: the field [pos + len − 1 : pos] of a, with len clipped at bit 63; R86: PACK narrows two registers and UNPACK interleaves
halves of them. -/
def Obligations.FieldAndPackComplete : Prop :=
  (∀ p ∈ [(Instr.ext, true), (.extU, false)], ∀ (b a d : RegCode) (s : State), s.ready (p.1 b a d) 0 = true →
    (∀ l ∈ s.lanes, s.holds isAddrTag a l = true ∧ s.holds isAddrTag b l = true) →
    exec (p.1 b a d) s = .next (s.ran (p.1 b a d) 0 0 fun l =>
      let y := (s.operand b l).data.toNat
      let len := min (y / 256 % 64 + 1) (64 - y % 64)
      let v := (s.operand a l).data.toNat / 2 ^ (y % 64) % 2 ^ len
      (s.past (p.1 b a d) 0 l).write (s.ctx l) d ⟨BitVec.ofNat 64 (if p.2 then wrap 64 (signed len v) else v), .i64⟩ .sb)) ∧
  (∀ (b a d : RegCode) (s : State), s.ready (.ins b a d) 0 = true →
    (∀ l ∈ s.lanes, s.holds isAddrTag a l = true ∧ s.holds isAddrTag b l = true ∧ s.holds isAddrTag d l = true) →
    exec (.ins b a d) s = .next (s.ran (.ins b a d) 0 0 fun l =>
      let y := (s.operand b l).data.toNat
      let len := min (y / 256 % 64 + 1) (64 - y % 64)
      let m : Word := BitVec.ofNat 64 ((2 ^ len - 1) * 2 ^ (y % 64))
      (s.past (.ins b a d) 0 l).write (s.ctx l) d
        ⟨((s.operand d l).data &&& ~~~m) ||| (((s.operand a l).data <<< (y % 64)) &&& m), .i64⟩ .sb)) ∧
  (∀ p ∈ [(Instr.pack, fun _ (x y : Word) => (x &&& 0xFFFFFFFF) ||| (y <<< 32)), (.unpackLo, fun g => interleave g 0), (.unpackHi, fun g => interleave g (tagCount g / 2))],
    ∀ (b a d : RegCode) (s : State), s.ready (p.1 b a d) 0 = true →
    (∀ l ∈ s.lanes, s.holds isBitTag a l = true ∧ s.holds isBitTag b l = true ∧
      pairAny (s.operand a l).tag (s.operand b l).tag = true) →
    exec (p.1 b a d) s = .next (s.ran (p.1 b a d) 0 0 fun l =>
      let g := pairTag (s.operand a l).tag (s.operand b l).tag
      (s.past (p.1 b a d) 0 l).write (s.ctx l) d ⟨p.2 g (s.operand a l).data (s.operand b l).data, g⟩ .sb))

/-! ### Compares and mask operations -/

/-- R75, R87, R49: a compare writes the thread's bit of kd: 1 where the relation holds in every element; the C form writes k1.
R89: the mask operations work on the thread's bits of two masks, k0 reading 1. -/
def Obligations.ComparesAndMasksComplete : Prop :=
  (∀ p ∈ [(Instr.cmpeq, fun (_ x y : Nat) => x == y), (.cmpne, fun _ x y => x != y),
      (.cmplt, fun w x y => decide (signed w x < signed w y)), (.cmpltU, fun _ x y => decide (x < y)),
      (.cmple, fun w x y => decide (signed w x ≤ signed w y)), (.cmpleU, fun _ x y => decide (x ≤ y))],
    ∀ (f : FRK) (s : State), s.ready (p.1 f) f.g = true →
    (∀ l ∈ s.active f.g, s.canRead f.a l = true ∧ s.canRead f.b l = true ∧
      pairInt (s.operand f.a l).tag (s.operand f.b l).tag = true) →
    exec (p.1 f) s = .next (s.ran (p.1 f) f.g f.s.toNat fun l =>
      let g := pairTag (s.operand f.a l).tag (s.operand f.b l).tag
      (s.past (p.1 f) f.s.toNat l).writeK (s.ctx l) f.k.toNat
        (((elems g (s.operand f.a l).data).zip (elems g (s.operand f.b l).data)).all fun e => p.2 (tagWidth g) e.1 e.2) latInt)) ∧
  (∀ p ∈ [(Instr.cmpeqi, fun (_ x y : Nat) => x == y), (.cmplti, fun w x y => decide (signed w x < signed w y)),
      (.cmpltiU, fun _ x y => decide (x < y))],
    ∀ (v : BitVec 12) (a : RegCode) (k : BitVec 3) (s : State), s.ready (p.1 v a k) 0 = true →
    (∀ l ∈ s.lanes, s.holds isIntTag a l = true) →
    exec (p.1 v a k) s = .next (s.ran (p.1 v a k) 0 0 fun l =>
      let g := (s.operand a l).tag
      (s.past (p.1 v a k) 0 l).writeK (s.ctx l) k.toNat
        (((elems g (s.operand a l).data).zip (elems g (immElems g (v.signExtend 64)))).all fun e => p.2 (tagWidth g) e.1 e.2) latInt)) ∧
  (∀ (b : BitVec 5) (d : RegCode) (s : State), s.ready (.cmpltC b d) 0 = true →
    (∀ l ∈ s.lanes, s.canRead d l = true ∧ s.canRead (b.zeroExtend 6) l = true ∧
      pairInt (s.operand d l).tag (s.operand (b.zeroExtend 6) l).tag = true) →
    exec (.cmpltC b d) s = .next (s.ran (.cmpltC b d) 0 0 fun l =>
      let g := pairTag (s.operand d l).tag (s.operand (b.zeroExtend 6) l).tag
      (s.past (.cmpltC b d) 0 l).writeK (s.ctx l) 1
        (((elems g (s.operand d l).data).zip (elems g (s.operand (b.zeroExtend 6) l).data)).all fun e =>
          decide (signed (tagWidth g) e.1 < signed (tagWidth g) e.2)) latInt)) ∧
  (∀ p ∈ [(Instr.kand, fun x y => x && y), (.kor, fun x y => x || y), (.kxor, fun x y => x != y), (.kandn, fun x y => x && !y)],
    ∀ (f : FRM) (s : State), s.ready (p.1 f) f.g = true →
    (∀ l ∈ s.active f.g, s.canReadK f.m.toNat l = true ∧ s.canReadK f.n.toNat l = true) →
    exec (p.1 f) s = .next (s.ran (p.1 f) f.g f.s.toNat fun l =>
      (s.past (p.1 f) f.s.toNat l).writeK (s.ctx l) f.k.toNat (p.2 (s.maskBit f.m.toNat l) (s.maskBit f.n.toNat l)) latInt))

/-! ### Floating point -/

/-- R80, R81, R82, R79, R49: the element-wise float operations of two and of three registers. They round once, under the thread's
mode read as R17 says, write d with the tag that governs the pair (R44, R45), and raise the flags of all elements (R15). -/
def Obligations.FloatArithmeticCompletes : Prop :=
  (∀ p ∈ [(Instr.fadd, fun (f : Fmt) (m : Rm) x y => f.add m (f.decode x) (f.decode y)),
      (.fsub, fun f m x y => f.add m (f.decode x) (f.decode y).negate), (.fmul, fun f m x y => f.mul m (f.decode x) (f.decode y)),
      (.fmin, fun f _ x y => f.minmax false x y), (.fmax, fun f _ x y => f.minmax true x y)],
    ∀ (f : FR) (s : State), s.ready (p.1 f) f.g = true →
    (∀ l ∈ s.active f.g, s.canRead f.a l = true ∧ s.canRead f.b l = true ∧
      pairFloat [(s.operand f.a l).tag, (s.operand f.b l).tag] = true) →
    exec (p.1 f) s = .next (s.ran (p.1 f) f.g f.s.toNat fun l =>
      let g := floatTag [(s.operand f.a l).tag, (s.operand f.b l).tag]
      let t := s.past (p.1 f) f.s.toNat l
      t.writeF (s.ctx l) f.d g (floatElems g ((elems g (s.operand f.a l).data).zipWith (p.2 (fmtOf g) t.rm)
        (elems g (s.operand f.b l).data))) latFp)) ∧
  (∀ p ∈ [(Instr.faddC, fun (f : Fmt) (m : Rm) x y => f.add m (f.decode x) (f.decode y)),
      (.fmulC, fun f m x y => f.mul m (f.decode x) (f.decode y))],
    ∀ (b : BitVec 5) (d : RegCode) (s : State), s.ready (p.1 b d) 0 = true →
    (∀ l ∈ s.lanes, s.canRead d l = true ∧ s.canRead (b.zeroExtend 6) l = true ∧
      pairFloat [(s.operand d l).tag, (s.operand (b.zeroExtend 6) l).tag] = true) →
    exec (p.1 b d) s = .next (s.ran (p.1 b d) 0 0 fun l =>
      let g := floatTag [(s.operand d l).tag, (s.operand (b.zeroExtend 6) l).tag]
      let t := s.past (p.1 b d) 0 l
      t.writeF (s.ctx l) d g (floatElems g ((elems g (s.operand d l).data).zipWith (p.2 (fmtOf g) t.rm)
        (elems g (s.operand (b.zeroExtend 6) l).data))) latFp)) ∧
  (∀ p ∈ [(Instr.fdiv, fun (f : Fmt) (m : Rm) x y => f.div m (f.decode x) (f.decode y)),
      (.fcpys, fun f _ x y => signTo f x (signBit f y))],
    ∀ (b a d : RegCode) (s : State), s.ready (p.1 b a d) 0 = true →
    (∀ l ∈ s.lanes, s.canRead a l = true ∧ s.canRead b l = true ∧
      pairFloat [(s.operand a l).tag, (s.operand b l).tag] = true) →
    exec (p.1 b a d) s = .next (s.ran (p.1 b a d) 0 0 fun l =>
      let g := floatTag [(s.operand a l).tag, (s.operand b l).tag]
      let t := s.past (p.1 b a d) 0 l
      t.writeF (s.ctx l) d g (floatElems g ((elems g (s.operand a l).data).zipWith (p.2 (fmtOf g) t.rm)
        (elems g (s.operand b l).data))) .sb)) ∧
  (∀ p ∈ [(Instr.fma, false), (.fnma, true)], ∀ (f : FR) (s : State), s.ready (p.1 f) f.g = true →
    (∀ l ∈ s.active f.g, s.canRead f.a l = true ∧ s.canRead f.b l = true ∧ s.canRead f.d l = true ∧
      pairFloat [(s.operand f.a l).tag, (s.operand f.b l).tag, (s.operand f.d l).tag] = true) →
    exec (p.1 f) s = .next (s.ran (p.1 f) f.g f.s.toNat fun l =>
      let g := floatTag [(s.operand f.a l).tag, (s.operand f.b l).tag, (s.operand f.d l).tag]
      let t := s.past (p.1 f) f.s.toNat l
      t.writeF (s.ctx l) f.d g (fusedElems g t.rm p.2 (s.operand f.a l).data (s.operand f.b l).data (s.operand f.d l).data) latFp)) ∧
  (∀ (b : BitVec 5) (d : RegCode) (s : State), s.ready (.fmao b d) 0 = true →
    (∀ l ∈ s.lanes, s.canRead 56 l = true ∧ s.canRead (b.zeroExtend 6) l = true ∧ s.canRead d l = true ∧
      pairFloat [(s.operand 56 l).tag, (s.operand (b.zeroExtend 6) l).tag, (s.operand d l).tag] = true) →
    exec (.fmao b d) s = .next (s.ran (.fmao b d) 0 0 fun l =>
      let g := floatTag [(s.operand 56 l).tag, (s.operand (b.zeroExtend 6) l).tag, (s.operand d l).tag]
      let t := s.past (.fmao b d) 0 l
      t.writeF (s.ctx l) d g (fusedElems g t.rm false (s.operand 56 l).data (s.operand (b.zeroExtend 6) l).data
        (s.operand d l).data) latFp))

/-- R82, R83, R87, R88: FSQRT and FRINT under their rounding control, FABS and FNEG on the sign, FCLASS with an integer tag, and the
float compares, which write the thread's bit of kd and raise NV as R88 says. R84, R85, R36, R37: a conversion completes wherever its
source has a tag the destination accepts, its AUX value fits, the scale stands in o1 where E2M1 takes part, and d can be read where
the old elements move down. It converts the part of the source that AUX names, element by element; where the destination has more
elements the old ones move down and the new ones stand on top; it raises the flags of all elements, and under SR, where R36 lets SR
take effect, it moves DRAW on by a block for every eight. -/
def Obligations.FloatUnaryAndConversionsComplete : Prop :=
  (∀ p ∈ [(Instr.fsqrt, fun (f : Fmt) (m : Rm) x => f.sqrt m (f.decode x)), (.frint, fun f m x => f.rint m (f.decode x) x)],
    ∀ (r : BitVec 3) (a d : RegCode) (s : State), s.ready (p.1 r a d) 0 = true → (∀ l ∈ s.lanes, s.holds isFloatTag a l = true) →
    exec (p.1 r a d) s = .next (s.ran (p.1 r a d) 0 0 fun l =>
      let g := (s.operand a l).tag
      let t := s.past (p.1 r a d) 0 l
      t.writeF (s.ctx l) d g (floatElems g ((elems g (s.operand a l).data).map (p.2 (fmtOf g) (t.rmCode r).plain))) .sb)) ∧
  (∀ p ∈ [(Instr.fabs, fun (f : Fmt) x => signTo f x false), (.fneg, fun f x => signTo f x (!signBit f x))],
    ∀ (a d : RegCode) (s : State), s.ready (p.1 a d) 0 = true → (∀ l ∈ s.lanes, s.holds isFloatTag a l = true) →
    exec (p.1 a d) s = .next (s.ran (p.1 a d) 0 0 fun l =>
      let g := (s.operand a l).tag
      (s.past (p.1 a d) 0 l).writeF (s.ctx l) d g (floatElems g ((elems g (s.operand a l).data).map (p.2 (fmtOf g)))) .sb)) ∧
  (∀ (a d : RegCode) (s : State), s.ready (.fclass a d) 0 = true → (∀ l ∈ s.lanes, s.holds isFloatTag a l = true) →
    exec (.fclass a d) s = .next (s.ran (.fclass a d) 0 0 fun l =>
      let g := (s.operand a l).tag
      let f := fmtOf g
      (s.past (.fclass a d) 0 l).write (s.ctx l) d
        ⟨mapElems g (fun _ e => (f.decode e).fclass f e) (s.operand a l).data,
          if g = .f64 then .i64 else if g = .f32x2 then .i32x2 else .i16x4⟩ .sb)) ∧
  (∀ p ∈ [(Instr.fcmpeq, FVal.eq, true), (.fcmplt, fun x y => !x.isNan && !y.isNan && x.lt y, false),
      (.fcmple, fun x y => !x.isNan && !y.isNan && !y.lt x, false), (.fcmpun, fun x y => x.isNan || y.isNan, true)],
    ∀ (f : FRK) (s : State), s.ready (p.1 f) f.g = true →
    (∀ l ∈ s.active f.g, s.canRead f.a l = true ∧ s.canRead f.b l = true ∧
      pairFloat [(s.operand f.a l).tag, (s.operand f.b l).tag] = true) →
    exec (p.1 f) s = .next (s.ran (p.1 f) f.g f.s.toNat fun l =>
      let g := floatTag [(s.operand f.a l).tag, (s.operand f.b l).tag]
      let es := ((elems g (s.operand f.a l).data).map (fmtOf g).decode).zip ((elems g (s.operand f.b l).data).map (fmtOf g).decode)
      ((s.past (p.1 f) f.s.toNat l).writeK (s.ctx l) f.k.toNat (es.all fun e => p.2.1 e.1 e.2) latFp).raise
        (if es.any fun e => if p.2.2 then e.1.isSig || e.2.isSig else e.1.isNan || e.2.isNan then flagNV else 0))) ∧
  (∀ p ∈ [(Instr.cvtF64, Tag.f64, false), (.cvtF32, .f32x2, false), (.cvtF16, .f16x4, false), (.cvtBf16, .bf16x4, false),
      (.cvtE4m3, .e4m3x8, false), (.cvtE5m2, .e5m2x8, false), (.cvtE2m1, .e2m1x16, false), (.cvtI64, .i64, false),
      (.cvtI64U, .i64, true), (.cvtI32, .i32x2, false), (.cvtI32U, .i32x2, true), (.cvtI16, .i16x4, false),
      (.cvtI16U, .i16x4, true), (.cvtI8, .i8x8, false), (.cvtI8U, .i8x8, true)],
    ∀ (x m : BitVec 3) (a d : RegCode) (s : State), s.ready (p.1 x m a d) 0 = true →
    (∀ l ∈ s.lanes, s.holds (cvtAccepts p.2.1) a l = true ∧ auxFits (s.operand a l).tag p.2.1 x = true ∧
      ((s.operand a l).tag = .e2m1x16 ∨ p.2.1 = .e2m1x16 → s.holds (· == .scale) 57 l = true) ∧
      (tagCount (s.operand a l).tag < tagCount p.2.1 → s.holds (fun _ => true) d l = true)) →
    exec (p.1 x m a d) s = .next (s.ran (p.1 x m a d) 0 0 fun l =>
      let src := s.operand a l
      let n := min (tagCount src.tag) (tagCount p.2.1)
      let part := if tagCount p.2.1 < tagCount src.tag then x.toNat * tagCount p.2.1 else 0
      let t := s.past (p.1 x m a d) 0 l
      let mode := t.rmCode m
      let rnd := fun k => (t.block (s.ctx l) (k / 8)).toNat / 2 ^ (16 * (k % 8)) % 65536
      let rs := (List.range n).map fun k => convElem src.tag p.2.1 p.2.2 mode x
        (if src.tag = .e2m1x16 ∨ p.2.1 = .e2m1x16 then (s.operand 57 l).data.toNat % 256 else 0) (if mode = .sr then rnd k else 0)
        (elem src.data (tagWidth src.tag) (part + k))
      let new := ofElems (tagWidth p.2.1) (rs.map (·.1))
      let data := if tagCount src.tag < tagCount p.2.1 then ((s.operand d l).data >>> (n * tagWidth p.2.1)) |||
        (new <<< ((tagCount p.2.1 - n) * tagWidth p.2.1)) else new
      { t.writeF (s.ctx l) d p.2.1 (data, rs.foldl (fun fl r => fl ||| r.2) 0) .sb with
        draw := if mode = .sr ∧ srDest p.2.1 = true ∧ cvtExact src.tag p.2.1 = false then t.draw + BitVec.ofNat 32 ((n + 7) / 8)
          else t.draw }))

/-! ### Branches, and what one thread does by itself -/

/-- R90, R91, R340: a branch that is taken moves the PC to its target, the branch's address plus twice the offset, and restarts SIG; one
that is not taken goes on. CALL and JALR write the address of the next instruction, JALR after it has computed its target. -/
def Obligations.BranchesComplete : Prop :=
  (∀ (o : BitVec 18) (s : State), s.ready (.bra o) 0 = true →
    exec (.bra o) s = .next (s.ran (.bra o) 0 0 fun l =>
      { s.past (.bra o) 0 l with pc := s.cur.pc + o.signExtend 64 * 2, sig := 0 })) ∧
  (∀ p ∈ [(Instr.bk, true), (.bnk, false)], ∀ (o : BitVec 18) (k : BitVec 3) (s : State), s.ready (p.1 o k) 0 = true →
    (∀ l ∈ s.lanes, s.canReadK k.toNat l = true) →
    exec (p.1 o k) s = .next (s.ran (p.1 o k) 0 0 fun l =>
      if s.maskBit k.toNat l = p.2 then { s.past (p.1 o k) 0 l with pc := s.cur.pc + o.signExtend 64 * 2, sig := 0 }
      else s.past (p.1 o k) 0 l)) ∧
  (∀ p ∈ [(Instr.bz, true), (.bnz, false)], ∀ (o : BitVec 18) (c : RegCode) (s : State), s.ready (p.1 o c) 0 = true →
    (∀ l ∈ s.lanes, s.holds (fun _ => true) c l = true) →
    exec (p.1 o c) s = .next (s.ran (p.1 o c) 0 0 fun l =>
      if ((s.operand c l).data == 0) = p.2 then { s.past (p.1 o c) 0 l with pc := s.cur.pc + o.signExtend 64 * 2, sig := 0 }
      else s.past (p.1 o c) 0 l)) ∧
  (∀ (o : BitVec 18) (c : RegCode) (s : State), s.ready (.call o c) 0 = true →
    exec (.call o c) s = .next (s.ran (.call o c) 0 0 fun l =>
      { (s.past (.call o c) 0 l).write (s.ctx l) c ⟨s.cur.pc + 4, .i64⟩ latInt with
        pc := s.cur.pc + o.signExtend 64 * 2, sig := 0 })) ∧
  (∀ (v : BitVec 12) (a d : RegCode) (s : State), s.ready (.jalr v a d) 0 = true → (∀ l ∈ s.lanes, s.holds isAddrTag a l = true) →
    exec (.jalr v a d) s = .next (s.ran (.jalr v a d) 0 0 fun l =>
      { (s.past (.jalr v a d) 0 l).write (s.ctx l) d ⟨s.cur.pc + 4, .i64⟩ latInt with
        pc := ((s.operand a l).data + v.signExtend 64) &&& ~~~1, sig := 0 }))

/-- R50, R98, R97, R168, R299, R341: NOP holds the thread for its count; RAND writes the thread's next block and moves DRAW on; CLK
writes the core's cycle counter, which is at most 8 from the module's; BSET and BGET move a bracket register; SLOOP counts down
and branches back until 0; SIGCHK clears a SIG whose fold is the immediate. R340: BSET and BGET take their second halfword, 0x003E, into SIG after the
prefix (DEDUCED, log 24: R340 does not say how an instruction of two halfwords enters SIG), and an SLOOP that branches clears SIG as a taken branch does (DEDUCED,
log 60). The rounds of RAND's generator, philoxBlock, are PRESUMED (log 11). -/
def Obligations.ThreadOperationsComplete : Prop :=
  (∀ (n : BitVec 5) (s : State), s.ready (.nop n) 0 = true →
    exec (.nop n) s = .next (s.ran (.nop n) 0 0 fun l => { s.past (.nop n) 0 l with readyAt := s.cur.at_ + 1 + n.toNat })) ∧
  (∀ (d : RegCode) (s : State), s.ready (.rand d) 0 = true →
    exec (.rand d) s = .next (s.ran (.rand d) 0 0 fun l =>
      let t := s.past (.rand d) 0 l
      { t.write (s.ctx l) d ⟨(philoxBlock (s.ctx l).seed t.draw (BitVec.ofNat 32 ((s.ctx l).num * 32 + l))
          (BitVec.ofNat 32 (s.ctx l).crew) (BitVec.ofNat 32 (s.ctx l).lid)).extractLsb' 0 64, .raw64⟩ .sb with
        draw := t.draw + 1 })) ∧
  (∀ (d : RegCode) (s : State), s.ready (.clk d) 0 = true →
    ∃ skew ≤ 8, exec (.clk d) s = .next (s.ran (.clk d) 0 0 fun l =>
      (s.past (.clk d) 0 l).write (s.ctx l) d ⟨BitVec.ofNat 64 (s.cur.at_ + skew), .i64⟩ .sb)) ∧
  (∀ (k : BitVec 2) (a : RegCode) (s : State), s.ready (.bset k a) 0 = true → (∀ l ∈ s.lanes, s.holds bracketTag a l = true) →
    ∃ res : Nat → Thread, exec (.bset k a) s = .next (s.ran (.bset k a) 0 0 res) ∧
      ∀ l ∈ s.lanes, SMap.get ⟨0, .i32x2⟩ (res l).brk k.toNat = s.operand a l ∧ (res l).regs = (s.th l).regs ∧
        ∀ j, j ≠ k.toNat → SMap.get ⟨0, .i32x2⟩ (res l).brk j = SMap.get ⟨0, .i32x2⟩ (s.th l).brk j) ∧
  (∀ (k : BitVec 2) (d : RegCode) (s : State), s.ready (.bget k d) 0 = true →
    (∀ l ∈ s.lanes, ((s.th l).readB (s.ctx l) k.toNat).isOk = true ∧
      (((s.th l).readB (s.ctx l) k.toNat).toOption.getD Reg.zero).tag ≠ .poison) →
    exec (.bget k d) s = .next (s.ran (.bget k d) 0 0 fun l =>
      let t := s.past (.bget k d) 0 l
      { t.write (s.ctx l) d (((s.th l).readB (s.ctx l) k.toNat).toOption.getD Reg.zero) latInt with sig := sigHash t.sig 0x3E })) ∧
  (∀ (o : BitVec 12) (d : RegCode) (s : State), s.ready (.sloop o d) 0 = true → recordOf s.cur.q = 16 →
    (∀ l ∈ s.lanes, s.holds isAddrTag d l = true) →
    exec (.sloop o d) s = .next (s.ran (.sloop o d) 0 0 fun l =>
      let v := s.operand d l
      let t := (s.past (.sloop o d) 0 l).write (s.ctx l) d ⟨v.data - 1, v.tag⟩ .sb
      if v.data - 1 = 0 then t else { t with pc := s.cur.pc - BitVec.ofNat 64 (2 * o.toNat), sig := 0 })) ∧
  (∀ (v : BitVec 18) (s : State), s.ready (.sigchk v) 0 = true →
    (∀ l ∈ s.lanes, ((s.th l).sig ^^^ ((s.th l).sig >>> 14)).truncate 18 = v) →
    exec (.sigchk v) s = .next (s.ran (.sigchk v) 0 0 fun l => { s.past (.sigchk v) 0 l with sig := 0 }))

/-! ### Loads, stores, system registers -/

/-- R92, R93, R94, R235, R237, R240: outside an enumerated region a load completes wherever every lane's base (and o3, for a view) has
its tag, the checks of R93 (and of R200) give a location, and no outstanding write must be performed first (R217, R219, R224,
R236). In ascending lane order every lane's d receives its bytes as the lane sees them, extended and tagged as the table says; POISON where the line
is poisoned (R241). Each load is noted as one whose value may still be that of a later write (R223; the model's way of saying so is log 4's), and nothing else
changes. -/
def Obligations.LoadsComplete : Prop :=
  (∀ p ∈ [(Instr.ld8, 1, true, Tag.i64), (.ld8U, 1, false, .i64), (.ld16, 2, true, .i64), (.ld16U, 2, false, .i64),
      (.ld32, 4, true, .i64), (.ld32U, 4, false, .i64), (.ld64, 8, false, .raw64)],
    ∀ (q : BitVec 2) (o : BitVec 10) (b d : RegCode) (s : State) (loc : Nat → Word × Loc), s.ready (p.1 q o b d) 0 = true →
    s.mem.latent = [] →
    (∀ l ∈ s.lanes, s.holdsFM q b l = true ∧ (s.ctx l).region ≠ 1 ∧
      s.locate (s.ctx l) (s.accessFM q o b p.2.1 l) .load p.2.1 = .ok (loc l) ∧
      s.loadFree (s.ctx l) (loc l).2 (loadKind (s.ctx l) q) p.2.1 = true) →
    exec (p.1 q o b d) s = .next (s.oneByOne fun l st => st.tookLoad (p.1 q o b d) l (loc l).2 (loadKind (s.ctx l) q) p.2.1 p.2.2.1 p.2.2.2 d
      (loadResult p.2.2.1 p.2.2.2 (s.readLoc (s.ctx l) (loc l).2 p.2.1).1 (s.readLoc (s.ctx l) (loc l).2 p.2.1).2))) ∧
  (∀ (b : BitVec 5) (d : RegCode) (s : State) (loc : Nat → Word × Loc), s.ready (.ld64C b d) 0 = true → s.mem.latent = [] →
    (∀ l ∈ s.lanes, s.holds isAddrTag (b.zeroExtend 6) l = true ∧ (s.ctx l).region ≠ 1 ∧
      s.locate (s.ctx l) (.plain (s.operand (b.zeroExtend 6) l).data) .load 8 = .ok (loc l) ∧
      s.loadFree (s.ctx l) (loc l).2 (loadKind (s.ctx l) 0) 8 = true) →
    exec (.ld64C b d) s = .next (s.oneByOne fun l st => st.tookLoad (.ld64C b d) l (loc l).2 (loadKind (s.ctx l) 0) 8 false .raw64 d
      (loadResult false .raw64 (s.readLoc (s.ctx l) (loc l).2 8).1 (s.readLoc (s.ctx l) (loc l).2 8).2))) ∧
  (∀ (q : BitVec 2) (t : BitVec 4) (b a d : RegCode) (s : State) (loc : Nat → Word × Loc), s.ready (.ldt q t b a d) 0 = true →
    s.mem.latent = [] →
    (∀ l ∈ s.lanes, s.holds isAddrTag b l = true ∧ s.holds (fun g => if q = 3 then g == .view else isAddrTag g) a l = true ∧
      (s.ctx l).region ≠ 1 ∧
      s.locate (s.ctx l) (if q = 3 then .view (s.operand a l) (s.operand b l).data.toNat
        else .plain ((s.operand a l).data + (s.operand b l).data)) .load 8 = .ok (loc l) ∧
      s.loadFree (s.ctx l) (loc l).2 (loadKind (s.ctx l) q) 8 = true) →
    exec (.ldt q t b a d) s = .next (s.oneByOne fun l st => st.tookLoad (.ldt q t b a d) l (loc l).2 (loadKind (s.ctx l) q) 8 false
      (tagOf t.toNat) d (loadResult false (tagOf t.toNat) (s.readLoc (s.ctx l) (loc l).2 8).1 (s.readLoc (s.ctx l) (loc l).2 8).2)))

/-- R92, R93, R94, R223, R235: outside an enumerated region a store completes wherever every lane's operands have their tags and the
checks give a location. In ascending lane order each lane's low bytes of data go to its stack slice at once, and elsewhere become
a write of that lane which lands in its own time; nothing else changes. -/
def Obligations.StoresComplete : Prop :=
  (∀ p ∈ [(Instr.st8, 1), (.st16, 2), (.st32, 4), (.st64, 8)],
    ∀ (q : BitVec 2) (o : BitVec 10) (b d : RegCode) (s : State) (loc : Nat → Word × Loc), s.ready (p.1 q o b d) 0 = true →
    (∀ l ∈ s.lanes, s.holdsFM q b l = true ∧ s.holds (fun _ => true) d l = true ∧ (s.ctx l).region ≠ 1 ∧ (s.ctx l).region ≠ 2 ∧
      s.locate (s.ctx l) (s.accessFM q o b p.2 l) .store p.2 = .ok (loc l)) →
    exec (p.1 q o b d) s = .next (s.lanes.foldl (fun st l => (st.setThread s.cur.q l (s.past (p.1 q o b d) 0 l)).storeLoc (s.ctx l)
      (loc l).2 (bytesLE p.2 (s.operand d l).data.toNat) (q == 1)) s)) ∧
  (∀ (b : BitVec 5) (d : RegCode) (s : State) (loc : Nat → Word × Loc), s.ready (.st64C b d) 0 = true →
    (∀ l ∈ s.lanes, s.holds isAddrTag (b.zeroExtend 6) l = true ∧ s.holds (fun _ => true) d l = true ∧ (s.ctx l).region ≠ 1 ∧
      (s.ctx l).region ≠ 2 ∧ s.locate (s.ctx l) (.plain (s.operand (b.zeroExtend 6) l).data) .store 8 = .ok (loc l)) →
    exec (.st64C b d) s = .next (s.lanes.foldl (fun st l => (st.setThread s.cur.q l (s.past (.st64C b d) 0 l)).storeLoc (s.ctx l)
      (loc l).2 (bytesLE 8 (s.operand d l).data.toNat) false) s))

/-- R150, R154, R162, R163, R164: the accesses of lanes inside a region, one after another. Under ENUM each byte that a load returns is that of the lane's
latest entry that wrote it, else that of memory, and the load's line enters the chunk's read filter; a store is withheld: it appends one entry,
which holds LANE, SEQ, ADDR, DATA, MASK and the view used, and leaves DRAM, every other byte of scratchpad and the outstanding writes as they
were; a store that finds the queue full stops the lane with LSTOP 0xFE and appends nothing. Under ENUM.ONE a store is made and its line enters the
crew's written-line filter. A line sets one bit in each half of a filter. -/
def Obligations.RegionAccessesComplete : Prop :=
  (∀ (q : BitVec 2) (o : BitVec 10) (b d : RegCode) (s : State),
    (∀ p ∈ [(Instr.ld8, 1, true, Tag.i64), (.ld8U, 1, false, .i64), (.ld16, 2, true, .i64), (.ld16U, 2, false, .i64),
        (.ld32, 4, true, .i64), (.ld32U, 4, false, .i64), (.ld64, 8, false, .raw64)],
      ∀ (loc : Nat → Word × Loc) (ch : Nat → Chunk),
      let f := fun (l : Nat) (st : State) =>
        let c := st.crewOf (st.ctx l).lid (st.ctx l).crew
        let wrote := fun (i : Nat) (e : HoldEntry) =>
          let x := (loc l).1 + BitVec.ofNat 64 i
          e.mask ≠ 0 && e.lane = (ch l).groupLane (st.ctx l).num l && e.addr = (x &&& ~~~7) && e.mask.getLsbD (x.toNat % 8)
        let own := fun i => (((chunkEntries c (ch l)).filter (wrote i)).getLast?).map fun e =>
          BitVec.ofNat 8 (e.data.toNat / 2 ^ (8 * (((loc l).1 + BitVec.ofNat 64 i).toNat % 8)))
        let mem := st.readLoc (st.ctx l) (loc l).2 p.2.1
        let bytes := (List.range p.2.1).map fun i => (own i).getD (mem.1.getD i 0)
        let bad := mem.2 && (List.range p.2.1).any fun i => (own i).isNone
        (st.setCrew (st.ctx l).lid (st.ctx l).crew (c.modChunk (ch l).gbase fun x => { x with readF := x.readF ||| lineBits (loc l).1 })).tookLoad
          (p.1 q o b d) l (loc l).2 ⟨false, false⟩ p.2.1 p.2.2.1 p.2.2.2 d (loadResult p.2.2.1 p.2.2.2 bytes bad)
      (∀ l ∈ s.lanes, let st := s.before f l
        st.ready (p.1 q o b d) 0 = true ∧ (st.ctx l).region = 1 ∧ st.holdsFM q b l = true ∧ st.mem.latent = [] ∧
        (st.crewOf (st.ctx l).lid (st.ctx l).crew).chunkOf (st.ctx l).num = some (ch l) ∧
        st.locate (st.ctx l) (st.accessFM q o b p.2.1 l) .load p.2.1 = .ok (loc l) ∧
        st.loadFree (st.ctx l) (loc l).2 ⟨false, false⟩ p.2.1 = true) →
      exec (p.1 q o b d) s = .next (s.oneByOne f)) ∧
    (∀ p ∈ [(Instr.st8, 1), (.st16, 2), (.st32, 4), (.st64, 8)], ∀ (loc : Nat → Word × Loc) (ch : Nat → Chunk),
      let f := fun (l : Nat) (st : State) =>
        let s0 := st.setThread st.cur.q l (st.past (p.1 q o b d) 0 l)
        if (st.ctx l).region = 1 then
          if (ch l).used = (ch l).cap then s0.modThread st.cur.q l fun t => { t with pc := s.cur.pc, sig := (st.th l).sig, wait := .parked, lstop := 0xFE }
          else s0.hold (st.ctx l) (st.accessFM q o b p.2 l) (loc l).1 p.2 (st.operand d l).data
        else (s0.storeLoc (st.ctx l) (loc l).2 (bytesLE p.2 (st.operand d l).data.toNat) (q == 1)).modCrew (st.ctx l).lid (st.ctx l).crew fun c =>
          { c with filter := c.filter ||| lineBits (loc l).1 }
      (∀ l ∈ s.lanes, let st := s.before f l
        st.ready (p.1 q o b d) 0 = true ∧ ((st.ctx l).region = 1 ∨ (st.ctx l).region = 2) ∧ st.holdsFM q b l = true ∧
        ((st.ctx l).region = 1 → (st.crewOf (st.ctx l).lid (st.ctx l).crew).chunkOf (st.ctx l).num = some (ch l)) ∧
        st.holds (fun _ => true) d l = true ∧ st.locate (st.ctx l) (st.accessFM q o b p.2 l) .store p.2 = .ok (loc l)) →
      exec (p.1 q o b d) s = .next (s.oneByOne f))) ∧
  (∀ (s : State) (cx : Ctx) (a : AddrOp) (addr : Word) (size : Nat) (data : Word) (ch : Chunk), (s.squad? cx.q).isSome = true →
    (s.crewOf cx.lid cx.crew).chunkOf cx.num = some ch → ch.used < ch.cap → (s.crewOf cx.lid cx.crew).inj.arm = false →
    let t := s.hold cx a addr size data
    let at_ := ch.offset + 32 * (32 + ch.used)
    (t.crewOf cx.lid cx.crew).chunkOf cx.num = some { ch with used := ch.used + 1 } ∧
    (t.crewOf cx.lid cx.crew).scratch.readBytes at_ 32 = bytesLE 8 (addr &&& ~~~7).toNat
      ++ bytesLE 8 (data.toNat % 2 ^ (8 * size) * 2 ^ (8 * (addr.toNat % 8))) ++ [BitVec.ofNat 8 ((2 ^ size - 1) * 2 ^ (addr.toNat % 8))]
      ++ bytesLE 1 (ch.groupLane cx.num cx.lane) ++ bytesLE 2 (s.thread cx.q cx.lane).held
      ++ [BitVec.ofNat 8 (match a with | .view .. => 1 | .plain _ => 0), 0#8, 0#8, 0#8]
      ++ bytesLE 8 (match a with | .view h _ => h.data.toNat | .plain _ => 0) ∧
    (t.thread cx.q cx.lane).held = (s.thread cx.q cx.lane).held + 1 ∧
    t.mem = s.mem ∧
    ∀ p : Place, (∀ o, p = .scratch cx.lid cx.crew o → o < at_ ∨ at_ + 32 ≤ o) → t.byteAt p = s.byteAt p) ∧
  (∀ (a : Word) (j : Nat), (lineBits a).getLsbD j = true ↔
    let x := a.toNat / 64
    j = [0, 10, 20, 30, 40, 50].foldl (fun m k => m ^^^ x / 2 ^ k % 1024) 0 ∨
    j = 1024 + ((x % 2 ^ 32) ^^^ (x / 2 ^ 32)) * 0x9E3779B1 % 2 ^ 32 / 2 ^ 22)

/-- R15, R16, R63, R96, R99, R345: SRD writes the system register with tag I64; SWR writes FRM, FFLAGS and DRAW of the thread, and
INJ of the crew where the controller has enabled injection, wherever the value has no reserved bit and no reserved value. The
threads of an issue set write INJ, which is their crew's, in ascending order, so that the value of the highest stays (DESIGN CHOICE,
log 55). R96: an SWR to a register that takes no program write traps as an illegal instruction, and the register is left unchanged:
TCAUSE, TLANES, TADDR and TEPC say so, and nothing but the landing of outstanding writes changes otherwise. -/
def Obligations.SystemRegistersComplete : Prop :=
  (∀ (n : BitVec 12) (d : RegCode) (s : State), s.ready (.srd n d) 0 = true →
    exec (.srd n d) s = .next (s.ran (.srd n d) 0 0 fun l =>
      (s.past (.srd n d) 0 l).write (s.ctx l) d ⟨s.sysReg (s.ctx l) n.toNat, .i64⟩ .sb)) ∧
  (∀ (a : RegCode) (s : State), s.ready (.swrFrm a) 0 = true →
    (∀ l ∈ s.lanes, s.holds isAddrTag a l = true ∧ (s.operand a l).data.toNat < 5) →
    exec (.swrFrm a) s = .next (s.ran (.swrFrm a) 0 0 fun l =>
      { s.past (.swrFrm a) 0 l with frm := (s.operand a l).data.truncate 3 })) ∧
  (∀ (a : RegCode) (s : State), s.ready (.swrFflags a) 0 = true →
    (∀ l ∈ s.lanes, s.holds isAddrTag a l = true ∧ (s.operand a l).data.toNat < 32) →
    exec (.swrFflags a) s = .next (s.ran (.swrFflags a) 0 0 fun l =>
      { s.past (.swrFflags a) 0 l with fflags := (s.operand a l).data.truncate 5 })) ∧
  (∀ (a : RegCode) (s : State), s.ready (.swrDraw a) 0 = true →
    (∀ l ∈ s.lanes, s.holds isAddrTag a l = true ∧ (s.operand a l).data.toNat < 2 ^ 32) →
    exec (.swrDraw a) s = .next (s.ran (.swrDraw a) 0 0 fun l =>
      { s.past (.swrDraw a) 0 l with draw := (s.operand a l).data.truncate 32 })) ∧
  (∀ (a : RegCode) (s : State),
    let f := fun (l : Nat) (st : State) =>
      let x := (st.operand a l).data.toNat
      (st.setThread st.cur.q l (st.past (.swrInj a) 0 l)).modCrew (st.ctx l).lid (st.ctx l).crew fun c =>
        { c with inj := { skip := x / 2 ^ 16 % 2 ^ 16, bit := x / 2 ^ 7 % 2 ^ 9, target := x / 2 ^ 4 % 8, mode := x / 2 % 4,
                          arm := x % 2 == 1 } }
    (∀ l ∈ s.lanes, let st := s.before f l
      let x := (st.operand a l).data.toNat
      st.ready (.swrInj a) 0 = true ∧ st.holds isAddrTag a l = true ∧
      (st.job? (st.launchOf (st.ctx l).lid).job).map (·.inj) = some true ∧
      x < 2 ^ 33 ∧ x / 2 ^ 3 % 2 = 0 ∧ x / 2 ^ 4 % 8 < 3 ∧ x / 2 % 4 ≠ 3) →
    exec (.swrInj a) s = .next (s.oneByOne f)) ∧
  (∀ (n : BitVec 12) (a : RegCode) (s : State), s.ready (.swr n a) 0 = true → s.lanes ≠ [] → (s.ctx 0).region ≠ 1 →
    n ≠ 0x0C → n ≠ 0x0F → n ≠ 0x10 → n ≠ 0x12 → (∀ l ∈ s.lanes, s.holds isAddrTag a l = true) →
    exec (.swr n a) s = .next (s.takeTrap s.cur.q 0x01 s.cur.lanes 0 s.cur.pc))

/-- R18: an SWR to FFLAGS or FRM that would set a reserved bit, or that would write an RM value from 5 to 7, raises an illegal-instruction
trap that names the lanes whose value is at fault, and the register is left unchanged, in every lane. -/
def Obligations.ReservedFlagWritesTrap : Prop :=
  ∀ p ∈ [(Instr.swrFrm, 5), (.swrFflags, 32)], ∀ (a : RegCode) (s : State), s.ready (p.1 a) 0 = true → (s.ctx 0).region ≠ 1 →
    (∀ l ∈ s.lanes, s.holds isAddrTag a l = true) → (∃ l ∈ s.lanes, p.2 ≤ (s.operand a l).data.toNat) →
    exec (p.1 a) s = .next (s.takeTrap s.cur.q 0x01
      (maskOf (s.lanes.filter fun l => decide (p.2 ≤ (s.operand a l).data.toNat))) 0 s.cur.pc) ∧
    ∀ t, exec (p.1 a) s = .next t → ∀ q l, (t.thread q l).frm = (s.thread q l).frm ∧ (t.thread q l).fflags = (s.thread q l).fflags

/-! ### Atomics -/

/-- R218, R242, R243, R245: an integer atomic that nothing holds up, thread by thread in lane order, reads the old value and writes the new
one at one point, and d receives the old value, with tag I64 or I32x2 by its width; ACAS writes b where the old value is that
of d. -/
def Obligations.AtomicsComplete : Prop :=
  ∀ (o : BitVec 1) (b a d : RegCode) (s : State) (loc : Nat → Word × Loc),
    let off := fun (st : State) l => if (st.operand a l).tag = .view then st.operand 59 l else Reg.zero
    let act := fun (i : Instr) (size : State → Nat → Nat) (new : State → Nat → Nat → Nat) (l : Nat) (st : State) =>
      let old := natLE (st.landedBytes (st.ctx l) (loc l).2 (size st l))
      (((st.setThread st.cur.q l (st.past i 0 l)).fixAtomic (st.ctx l) (loc l).2 (size st l) (o == 1) true).putAtomic (st.ctx l) (loc l).2
        (bytesLE (size st l) (new st l old))).modThread st.cur.q l fun t => t.write (st.ctx l) d ⟨BitVec.ofNat 64 old, if size st l = 8 then .i64 else .i32x2⟩ .sb
    let may := fun (i : Instr) (size : State → Nat → Nat) (st : State) (l : Nat) =>
      st.ready i 0 = true ∧ st.holds atomicBase a l = true ∧ st.holds atomicTag b l = true ∧
      ((st.operand a l).tag = .view → st.holds isAddrTag 59 l = true) ∧
      st.atomicLoc (st.ctx l) (st.operand a l) (off st l) .atomic (size st l) .atomic = .ok (loc l) ∧
      st.atomicFree (st.ctx l) (loc l).2 (size st l) (o == 1) true = true
    (∀ p ∈ [(Instr.aadd, fun w old y => (old + y) % 2 ^ w), (.aand, fun _ old y => old &&& y), (.aor, fun _ old y => old ||| y),
        (.axor, fun _ old y => old ^^^ y), (.amin, fun w old y => if signed w old ≤ signed w y then old else y),
        (.aminU, fun _ old y => if old ≤ y then old else y), (.amax, fun w old y => if signed w old ≥ signed w y then old else y),
        (.amaxU, fun _ old y => if old ≥ y then old else y), (.axchg, fun _ _ y => y)],
      let size := fun (st : State) l => if (st.operand b l).tag = .i32x2 then 4 else 8
      let f := act (p.1 o b a d) size fun st l old => p.2 (8 * size st l) old ((st.operand b l).data.toNat % 2 ^ (8 * size st l))
      (∀ l ∈ s.lanes, may (p.1 o b a d) size (s.before f l) l) → exec (p.1 o b a d) s = .next (s.oneByOne f)) ∧
    (let size := fun (st : State) l => if pairTag (st.operand d l).tag (st.operand b l).tag = .i32x2 then 4 else 8
      let f := act (.acas o b a d) size fun st l old =>
        if old = (st.operand d l).data.toNat % 2 ^ (8 * size st l) then (st.operand b l).data.toNat % 2 ^ (8 * size st l) else old
      (∀ l ∈ s.lanes, may (.acas o b a d) size (s.before f l) l ∧ (s.before f l).holds atomicTag d l = true ∧
        pairInt ((s.before f l).operand d l).tag ((s.before f l).operand b l).tag = true) →
      exec (.acas o b a d) s = .next (s.oneByOne f))

/-- R33, R246, R247: AFX, thread by thread in lane order, adds the fixed-point values of its addends, none of them special, to a 16-byte
cell; AFXRD writes d with the cell as F64, raising its flags. -/
def Obligations.FixedPointAtomicsComplete : Prop :=
  ∀ (o : BitVec 1) (a : RegCode) (s : State) (loc : Nat → Word × Loc),
    let off := fun (st : State) l => if (st.operand a l).tag = .view then st.operand 59 l else Reg.zero
    (∀ b : RegCode,
      let f := fun (l : Nat) (st : State) => ((st.setThread st.cur.q l (st.past (.afx o b a) 0 l)).fixAtomic (st.ctx l) (loc l).2 16 (o == 1)
        true).putAtomic (st.ctx l) (loc l).2 (bytesLE 16 ((natLE (st.landedBytes (st.ctx l) (loc l).2 16)
          + ((afxAddends (st.operand b l)).map toFX).foldl (· + ·) 0) % 2 ^ 128))
      (∀ l ∈ s.lanes, let st := s.before f l
        st.ready (.afx o b a) 0 = true ∧ st.holds atomicBase a l = true ∧ st.holds afxTag b l = true ∧
        ((st.operand a l).tag = .view → st.holds isAddrTag 59 l = true) ∧
        st.atomicLoc (st.ctx l) (st.operand a l) (off st l) .atomic 16 .free = .ok (loc l) ∧
        (afxAddends (st.operand b l)).any FVal.special = false ∧ st.atomicFree (st.ctx l) (loc l).2 16 (o == 1) true = true) →
      exec (.afx o b a) s = .next (s.oneByOne f)) ∧
    (∀ d : RegCode,
      let f := fun (l : Nat) (st : State) =>
        let r := fromFX (natLE (st.landedBytes (st.ctx l) (loc l).2 16))
        (st.fixAtomic (st.ctx l) (loc l).2 16 (o == 1) false).setThread st.cur.q l
          (((st.past (.afxrd o a d) 0 l).write (st.ctx l) d ⟨BitVec.ofNat 64 r.1, .f64⟩ .sb).raise r.2)
      (∀ l ∈ s.lanes, let st := s.before f l
        st.ready (.afxrd o a d) 0 = true ∧ st.holds atomicBase a l = true ∧
        ((st.operand a l).tag = .view → st.holds isAddrTag 59 l = true) ∧
        st.atomicLoc (st.ctx l) (st.operand a l) (off st l) .atomicRead 16 .read = .ok (loc l) ∧
        st.atomicFree (st.ctx l) (loc l).2 16 (o == 1) false = true) →
      exec (.afxrd o a d) s = .next (s.oneByOne f))

/-! ### Waits on memory and on crews -/

/-- R292, R249: WAITOBJ completes where every lane's object has reached its count; POLLOBJ always, with k1 saying whether it had not; both
write the object's status word, tagged POISON where the object's line is poisoned (DEDUCED, log 58: R292 names no other tag than I64, and R241 speaks of
loads). A load of the thread that the object's read must follow is fixed (log 4). WAITCREW of a crew that has completed goes on. -/
def Obligations.ObjectWaitsComplete : Prop :=
  (∀ p ∈ [(Instr.waitobj, false), (.pollobj, true)], ∀ (b a d : RegCode) (s : State) (loc : Nat → Loc),
    s.ready (p.1 b a d) 0 = true → s.mem.latent = [] →
    (∀ l ∈ s.lanes, s.holds isAddrTag a l = true ∧ s.holds isAddrTag b l = true ∧
      s.resolve (s.ctx l) false .load (s.operand a l).data 16 = .ok (loc l) ∧
      s.loadFree (s.ctx l) (loc l) ⟨decide ((s.operand b l).data.toNat ≤ field (s.readLoc (s.ctx l) (loc l) 16).1 0 8), true⟩ 16 = true ∧
      (p.2 = false → (s.operand b l).data.toNat ≤ field (s.readLoc (s.ctx l) (loc l) 16).1 0 8)) →
    exec (p.1 b a d) s = .next (s.oneByOne fun l st => (st.fixOwn (s.ctx l).ref l fun r => r.keeps (loc l) 16 0).setThread s.cur.q l <|
      let r := s.readLoc (s.ctx l) (loc l) 16
      let t := (s.past (p.1 b a d) 0 l).write (s.ctx l) d ⟨BitVec.ofNat 64 (field r.1 8 8), if r.2 then .poison else .i64⟩ .sb
      if p.2 then t.writeK (s.ctx l) 1 (!decide ((s.operand b l).data.toNat ≤ field r.1 0 8)) .sb else t)) ∧
  (∀ (a : RegCode) (s : State), s.ready (.waitcrew a) 0 = true →
    (∀ l ∈ s.lanes, s.holds isAddrTag a l = true ∧
      let n := (s.operand a l).data.toNat
      ((s.ctx l).det = true → n < (s.ctx l).crew) ∧ n ≠ (s.ctx l).crew ∧ n < (s.launchOf (s.ctx l).lid).crews ∧
      (s.crewOf (s.ctx l).lid n).completed = true) →
    exec (.waitcrew a) s = .next (s.ran (.waitcrew a) 0 0 (s.past (.waitcrew a) 0)))
/-! ### Instructions of the whole issue set -/

/-- R127, R132: VOTE.ALL and VOTE.ANY write one verdict over the bits of km of the issue set's threads to kd of each; BALLOT writes
the mask of the threads whose bit is 1. R133: MATCH, of registers with one tag that it accepts, gives each thread the mask of those
whose key is equal. R127, R128, R134: a SCAN or REDUCE of registers with one tag that it accepts folds the elements of the issue set
in ascending lane order and, within a lane, element order, under the rounding mode of the lowest active thread. SCAN gives each lane
the running values at its own elements, REDUCE gives every element of every lane the last one; every thread's FFLAGS takes in the
flags of the whole fold. -/
def Obligations.CrossLaneOperationsComplete : Prop :=
  (∀ p ∈ [(Instr.voteAll, fun (ls : List Nat) (b : Nat → Bool) => ls.all b), (.voteAny, fun ls b => ls.any b)],
    ∀ (m k : BitVec 3) (s : State), s.ready (p.1 m k) 0 = true → (∀ l ∈ s.lanes, s.canReadK m.toNat l = true) →
    exec (p.1 m k) s = .next (s.ranTogether (p.1 m k) 0 0 fun l =>
      (s.past (p.1 m k) 0 l).writeK (s.ctx l) k.toNat (p.2 s.lanes (s.maskBit m.toNat)) .sb)) ∧
  (∀ (m : BitVec 3) (d : RegCode) (s : State), s.ready (.ballot m d) 0 = true → (∀ l ∈ s.lanes, s.canReadK m.toNat l = true) →
    exec (.ballot m d) s = .next (s.ranTogether (.ballot m d) 0 0 fun l => (s.past (.ballot m d) 0 l).write (s.ctx l) d
      ⟨(maskOf (s.lanes.filter (s.maskBit m.toNat))).zeroExtend 64, .i64⟩ .sb)) ∧
  (∀ (a d : RegCode) (s : State) (g : Tag), s.ready (.matchLanes a d) 0 = true → matchTag g = true →
    (∀ l ∈ s.lanes, s.canRead a l = true ∧ (s.operand a l).tag = g) →
    exec (.matchLanes a d) s = .next (s.ranTogether (.matchLanes a d) 0 0 fun l => (s.past (.matchLanes a d) 0 l).write (s.ctx l) d
      ⟨(maskOf (s.lanes.filter fun m => matchKey (s.operand a m) == matchKey (s.operand a l))).zeroExtend 64, .i64⟩ .sb)) ∧
  (∀ p ∈ [(Instr.scanAdd, FoldOp.add, true), (.scanMin, .min, true), (.scanMax, .max, true), (.reduceAdd, .add, false),
      (.reduceMin, .min, false), (.reduceMax, .max, false), (.scanMinU, .minU, true), (.scanMaxU, .maxU, true),
      (.reduceMinU, .minU, false), (.reduceMaxU, .maxU, false), (.reduceAnd, .and, false), (.reduceOr, .or, false),
      (.reduceXor, .xor, false)],
    ∀ (a d : RegCode) (s : State) (g : Tag), s.ready (p.1 a d) 0 = true → p.2.1.accepts g = true → s.lanes ≠ [] →
    (∀ l ∈ s.lanes, s.canRead a l = true ∧ (s.operand a l).tag = g) →
    exec (p.1 a d) s = .next (
      let lay := p.2.1.layout g
      let n := tagCount lay
      let m := (rmOf (s.th (s.lanes.headD 0)).frm.toNat).plain
      let xs := s.lanes.flatMap fun l => elems lay (s.operand a l).data
      let run := foldRun (p.2.1.step lay m) none xs
      let es := fun l => if p.2.2 then (run.1.drop (n * s.lanes.idxOf l)).take n else List.replicate n (run.1.getLast?.getD 0)
      let res := fun l => (s.past (p.1 a d) 0 l).write (s.ctx l) d ⟨ofElems (tagWidth lay) (es l), g⟩ .sb
      (s.ranTogether (p.1 a d) 0 0 res).setThreads s.cur.q s.lanes fun l => (res l).raise (foldFlags p.2.1 lay xs run.2)))

/-- R127, R135, R136, R137, R159: SETNET takes a permutation of the 256 byte positions, which the network register holds from 64 cycles
after issue; NETMV gives byte p of the result the byte that the register names of the active lanes' operands, and 0 from a lane
that is not active; GATHERB looks its own bytes up in them; COMPOSE looks the entries of one map up in another, unknown (255)
staying unknown. -/
def Obligations.NetworkAndMapsComplete : Prop :=
  (∀ (a : RegCode) (n : BitVec 2) (s : State), s.ready (.setnet a n) 0 = true →
    (∀ l ∈ s.lanes, s.canRead a l = true ∧ (s.operand a l).tag = .map8) →
    let byte := fun p => if p / 8 ∈ s.lanes then elem (s.operand a (p / 8)).data 8 (p % 8) else p
    (∀ p < 256, ∀ r < 256, byte p = byte r → p = r) →
    exec (.setnet a n) s = .next ((s.advanceAll (.setnet a n) 0).modSquad s.cur.q fun sq =>
      { sq with nPend := sq.nPend ++ [⟨n.toNat, (List.range 256).map fun p => BitVec.ofNat 8 (byte p), s.cycle + 64, maskOf s.lanes⟩] })) ∧
  (∀ (f : FRN) (s : State) (g : Tag), s.ready (.netmv f) f.g = true → moveTag g = true →
    (∀ l ∈ s.active f.g, s.canRead f.a l = true ∧ (s.operand f.a l).tag = g) → s.active f.g ≠ [] →
    let byte := fun p => if p / 8 ∈ s.active f.g then elem (s.operand f.a (p / 8)).data 8 (p % 8) else 0
    exec (.netmv f) s = .next (s.ranTogether (.netmv f) f.g f.s.toNat fun l => (s.past (.netmv f) f.s.toNat l).write (s.ctx l) f.d
      ⟨ofElems 8 ((List.range 8).map fun b => byte ((s.squad s.cur.q).perm f.n.toNat (8 * l + b))), g⟩ latNet)) ∧
  (∀ (f : FR) (s : State) (g : Tag), s.ready (.gatherb f) f.g = true → moveTag g = true →
    (∀ l ∈ s.active f.g, s.canRead f.a l = true ∧ (s.operand f.a l).tag = g ∧ s.holds indexTag f.b l = true) → s.active f.g ≠ [] →
    let byte := fun p => if p / 8 ∈ s.active f.g then elem (s.operand f.a (p / 8)).data 8 (p % 8) else 0
    exec (.gatherb f) s = .next (s.ranTogether (.gatherb f) f.g f.s.toNat fun l => (s.past (.gatherb f) f.s.toNat l).write (s.ctx l)
      f.d ⟨ofElems 8 ((elems .map8 (s.operand f.b l).data).map byte), g⟩ latMap)) ∧
  (∀ (f : FR) (s : State), s.ready (.compose f) f.g = true →
    (∀ l ∈ s.active f.g, s.canRead f.a l = true ∧ (s.operand f.a l).tag = .map8 ∧ s.canRead f.b l = true ∧
      (s.operand f.b l).tag = .map8) →
    let byte := fun p => if p / 8 ∈ s.active f.g then elem (s.operand f.b (p / 8)).data 8 (p % 8) else 255
    exec (.compose f) s = .next (s.ranTogether (.compose f) f.g f.s.toNat fun l => (s.past (.compose f) f.s.toNat l).write (s.ctx l)
      f.d ⟨ofElems 8 ((elems .map8 (s.operand f.a l).data).map fun x => if x = 255 then 255 else byte x), .map8⟩ latMap))

/-- R115: SPLIT jn writes jn as the set of the issuing issue set's threads, and so clears the bit of every other thread. R116: at REJOIN
jn a thread outside jn goes on, and one in jn waits there until every thread of jn that has not exited does. -/
def Obligations.SplitAndRejoinComplete : Prop :=
  (∀ (j : BitVec 2) (s : State), s.ready (.split j) 0 = true →
    (∀ l ∈ (s.squad s.cur.q).liveLanes, (s.th l).atRejoin j.toNat = false) →
    exec (.split j) s = .next ((s.advanceAll (.split j) 0).modSquad s.cur.q fun sq =>
      { sq with j := SMap.set 0 sq.j j.toNat (maskOf s.lanes) })) ∧
  (∀ (j : BitVec 2) (s : State), s.ready (.rejoin j) 0 = true →
    exec (.rejoin j) s = .next (s.ranTogether (.rejoin j) 0 0 fun l =>
      if (SMap.get 0 (s.squad s.cur.q).j j.toNat).getLsbD l
      then (s.past (.rejoin j) 0 l).waitAt (s.ctx l) (.rejoin j) (.rejoin j.toNat)
      else { s.past (.rejoin j) 0 l with sig := sigHash 0 (s.cur.pc.truncate 32) }))

/-- R130: a SPLIT jn issued while any thread of the squad waits at a REJOIN jn raises a rejoin-mismatch trap, which names the issuing
threads together with those that wait on jn; jn is then unchanged. -/
def Obligations.SplitOfAwaitedJoinTraps : Prop :=
  ∀ (j : BitVec 2) (s : State), s.ready (.split j) 0 = true →
    let waiting := (s.squad s.cur.q).liveLanes.filter fun l => (s.th l).atRejoin j.toNat
    waiting ≠ [] →
    exec (.split j) s = .next (s.takeTrap s.cur.q 0x0A (maskOf s.lanes ||| maskOf waiting) 0 s.cur.pc) ∧
    ∀ t, exec (.split j) s = .next t → SMap.get 0 (t.squad s.cur.q).j j.toNat = SMap.get 0 (s.squad s.cur.q).j j.toNat

/-- R118, R119, R131: EXIT and TAIL end the threads of the issue set; what that releases waits for the squad's next slot. EXIT of a
squad's last thread retires the squad, which keeps its slot; TAIL of it frees the slot at once where the core's tracker has room,
and what the squad has outstanding passes to the tracker; where the tracker is full, TAIL waits. Squads that wait at FUSE are then
settled (R139). R138, R139: a FUSE whose lanes hold one operand without reserved bits clears k1 at once where the issue set is not
all of the squad's threads or the partner is the squad itself or no squad of the launch, and else waits for its partner, which
decides it. A squad that waits for this one in a FUSE of other operands is refused. -/
def Obligations.SquadEndsComplete : Prop :=
  (∀ (i : Instr) (s : State), s.ready i 0 = true →
    let sq := s.squad s.cur.q
    let ended := (s.ranTogether i 0 0 fun l => { (s.past i 0 l).landAll with live := false }).modSquad s.cur.q fun sq =>
      { sq with rejoins := true }
    (i = .exit → exec .exit s = .next ((ended.retireExited s.cur.q).settleFuses sq.lid sq.crew)) ∧
    (i = .tail →
      ((ended.squad s.cur.q).liveLanes ≠ [] → exec .tail s = .next (ended.settleFuses sq.lid sq.crew)) ∧
      ((ended.squad s.cur.q).liveLanes = [] → (s.coreAt (coreOf s.cur.q)).tracker.length < Config.trackerEntries →
        exec .tail s = .next (((ended.retire s.cur.q).modCore (coreOf s.cur.q) fun c =>
          { c with tracker := c.tracker ++ [sq.ref] }).settleFuses sq.lid sq.crew)) ∧
      ((ended.squad s.cur.q).liveLanes = [] → Config.trackerEntries ≤ (s.coreAt (coreOf s.cur.q)).tracker.length →
        exec .tail s = .next (s.ranTogether .tail 0 0 fun l => (s.past .tail 0 l).waitAt (s.ctx l) .tail (.blocked .tail))))) ∧
  (∀ (a : RegCode) (s : State) (v : Word), s.ready (.fuse a) 0 = true → s.lanes ≠ [] →
    (∀ l ∈ s.lanes, s.holds isAddrTag a l = true ∧ (s.operand a l).data = v) → v.toNat / 2 ^ 32 = 0 → v.toNat / 16 % 4096 = 0 →
    let sq := s.squad s.cur.q
    let p := v.toNat % 16
    let mask := v.toNat / 2 ^ 16 % 2 ^ 16
    (maskOf s.lanes ≠ sq.liveMask ∨ p = sq.num ∨ (s.launchOf sq.lid).squads ≤ p →
      exec (.fuse a) s = .next ((s.ranTogether (.fuse a) 0 0 fun l =>
        ((s.past (.fuse a) 0 l).writeK (s.ctx l) 1 false .sb).holdTill (sq.landsBy s.lanes)).refusePartners sq.lid sq.crew sq.num
          fun _ _ _ => false)) ∧
    (maskOf s.lanes = sq.liveMask ∧ p ≠ sq.num ∧ p < (s.launchOf sq.lid).squads →
      exec (.fuse a) s = .next (((s.ranTogether (.fuse a) 0 0 fun l =>
        (s.past (.fuse a) 0 l).waitAt (s.ctx l) (.fuse a) (.fuse mask p)).refusePartners sq.lid sq.crew sq.num fun n m pc =>
          n == p && m == mask && pc == s.cur.pc).settleFuses sq.lid sq.crew)))

/-- R141, R142, R143: BAR.C arrives at the phase of the crew's barrier and waits there; BAR.G, ARRIVE.G and WAIT.G do so at the
phase of a group that the crew belongs to: BAR.G arrives and waits, ARRIVE.G arrives and goes on, WAIT.G waits where the phase of
its last arrival has not completed; a thread that has already arrived at the phase waits to arrive again. R226, R248, R316, R322: a
fence goes on at once where what each of its lanes wrote, and what was performed for it before, has been performed at the fence's
scope (1 squad, 2 crew, 3 gang, 4 device and system; FENCE.FULL takes in UO pages), and from then on an earlier load of a lane takes
no value of a later write by a party within that scope (log 4); ICINV, where all of its lanes' has been performed for the device,
empties the instruction caches. YIELD gives up the squad's ports for the next 16 contended cycles. -/
def Obligations.BarriersAndFencesComplete : Prop :=
  (∀ (s : State), s.ready .barC 0 = true →
    let sq := s.squad s.cur.q
    let p := (s.crewOf sq.lid sq.crew).barPhase
    exec .barC s = .next ((s.ranTogether .barC 0 0 fun l =>
      { (s.past .barC 0 l).waitAt (s.ctx l) .barC (.barC p) with arrC := some (p, s.seq) }).settleFuses sq.lid sq.crew)) ∧
  (∀ (a : RegCode) (s : State) (g : Nat), s.lanes ≠ [] →
    (∀ l ∈ s.lanes, s.holds isAddrTag a l = true ∧ (s.operand a l).data.toNat = g) → g < 256 →
    let sq := s.squad s.cur.q
    let la := s.launchOf sq.lid
    let p := SMap.get 0 la.phases g
    let here := fun l => (SMap.get none (s.th l).arrG g).map (·.1) = some p
    let put := fun (t : Thread) => { t with arrG := SMap.set none t.arrG g (some (p, s.seq)) }
    g < la.groups.length → inRanges (la.group g) sq.crew = true →
    (s.ready (.barG a) 0 = true → exec (.barG a) s = .next ((s.ranTogether (.barG a) 0 0 fun l =>
      let t := s.past (.barG a) 0 l
      if here l then t.waitAt (s.ctx l) (.barG a) (.arrive g p (.barG a)) else (put t).waitAt (s.ctx l) (.barG a) (.barG g p)).settleFuses
        sq.lid sq.crew)) ∧
    (s.ready (.arriveG a) 0 = true → exec (.arriveG a) s = .next ((s.ranTogether (.arriveG a) 0 0 fun l =>
      let t := s.past (.arriveG a) 0 l
      if here l then t.waitAt (s.ctx l) (.arriveG a) (.arrive g p (.arriveG a)) else put t).settleFuses sq.lid sq.crew)) ∧
    (s.ready (.waitG a) 0 = true → exec (.waitG a) s = .next ((s.ranTogether (.waitG a) 0 0 fun l =>
      let t := s.past (.waitG a) 0 l
      if here l then t.waitAt (s.ctx l) (.waitG a) (.barG g p) else t).settleFuses sq.lid sq.crew))) ∧
  (∀ p ∈ [(Instr.fenceSquad, 1, false), (.fenceCrew, 2, false), (.fenceGang, 3, false), (.fenceDevice, 4, false),
      (.fenceSystem, 4, false), (.fenceFull, 4, true)],
    ∀ (s : State), s.ready p.1 0 = true →
    (∀ l ∈ s.lanes, s.fenced (s.squad s.cur.q).ref l p.2.1 p.2.2 s.seq = true) →
    exec p.1 s = .next (s.lanes.foldl (fun st l => st.fixFence (s.squad s.cur.q).ref l p.2.1 p.2.2) (s.advanceAll p.1 0))) ∧
  (∀ (s : State), s.ready .icinv 0 = true → (∀ l ∈ s.lanes, s.fenced (s.squad s.cur.q).ref l 4 true s.seq = true) →
    exec .icinv s = .next (s.advanceAll .icinv 0).emptyCode) ∧
  (∀ (s : State), s.ready .yield 0 = true →
    exec .yield s = .next ((s.advanceAll .yield 0).modSquad s.cur.q fun sq => { sq with yielded := 17 }))
/-! ### Views -/

/-- R201, R205: VBOUND writes a field of its view: CBASE, LO, HI, or region and effective rights; VQUERY writes the count and
PRESENT of the granule at its offset, once no decrement that the thread posted waits. Neither changes anything but d. R201, R202:
VALLOC, thread by thread, over whole granules of one covered range of its launch, none of them counted or present. Where no entry of
the view table or too few frames of the range's HOME are free it is refused: d reads 0 and k1 is 1. Otherwise every granule gets a
zeroed frame with count 1, the next entry becomes a view of the range with every right, and d receives its handle with k1 = 0. -/
def Obligations.ViewsOpenAndAnswer : Prop :=
  (∀ (sel : BitVec 2) (a d : RegCode) (s : State) (e : Nat → View), s.ready (.vbound sel a d) 0 = true →
    (∀ l ∈ s.lanes, (s.th l).wait = .run ∧ s.holds handleTag a l = true ∧
      s.resolveView (s.launchOf (s.ctx l).lid) (s.operand a l).data = .ok (e l)) →
    exec (.vbound sel a d) s = .next (s.ran (.vbound sel a d) 0 0 fun l => (s.past (.vbound sel a d) 0 l).write (s.ctx l) d
      ⟨if sel = 0 then (e l).cbase else if sel = 1 then BitVec.ofNat 64 (e l).lo else if sel = 2 then BitVec.ofNat 64 (e l).hi
        else BitVec.ofNat 64 ((e l).region.toNat * 2 ^ 16 + (hRights (s.operand a l).data &&& (e l).rights).toNat), .i64⟩ .sb)) ∧
  (∀ (b a d : RegCode) (s : State) (e : Nat → View), s.ready (.vquery b a d) 0 = true →
    (∀ l ∈ s.lanes, (s.th l).wait = .run ∧ s.holds handleTag a l = true ∧ s.holds isAddrTag b l = true ∧
      s.resolveView (s.launchOf (s.ctx l).lid) (s.operand a l).data = .ok (e l) ∧ (s.operand b l).data.toNat < (e l).clen ∧
      s.hasDecrements ⟨(s.ctx l).lid, (s.ctx l).crew, (s.ctx l).num⟩ l = false) →
    exec (.vquery b a d) s = .next (s.ran (.vquery b a d) 0 0 fun l =>
      let g := s.granule (e l).job ((e l).cbase + (s.operand b l).data).toNat
      (s.past (.vquery b a d) 0 l).write (s.ctx l) d
        ⟨BitVec.ofNat 64 ((if g.present then 2 ^ 32 else 0) + g.count % 2 ^ 21), .i64⟩ .sb)) ∧
  (∀ (b a d : RegCode) (s : State) (j : Nat → Job) (r : Nat → Range),
    let va := fun (st : State) l => (st.operand a l).data.toNat
    let n := fun (st : State) l => (st.operand b l).data.toNat
    let f := fun (l : Nat) (st : State) =>
      let s0 := st.setThread st.cur.q l (st.past (.valloc b a d) 0 l)
      let gs := granulesOf (va st l) (va st l + n st l)
      let region := BitVec.ofNat 16 (r l).arg.toNat
      match st.nextView with
      | none => s0.viewResult (st.ctx l) d none
      | some k =>
        if st.freeFrames (r l).home < gs.length then s0.viewResult (st.ctx l) d none
        else
          let gen := (SMap.get ({} : View) st.mem.views k).gen
          (((gs.foldl (fun st g => st.fillGranule (j l) (r l) g) s0).takeView k
            { cbase := (st.operand a l).data, clen := n st l, lo := 0, hi := n st l, region := region, rights := 0x7F,
              job := (st.launchOf (st.ctx l).lid).job }).recordView (st.ctx l) k gen.toNat).viewResult (st.ctx l) d
                (some (handleWord k gen region 0x7F))
    (∀ l ∈ s.lanes, let st := s.before f l
      let la := st.launchOf (st.ctx l).lid
      st.ready (.valloc b a d) 0 = true ∧ (st.th l).wait = .run ∧ st.holds isAddrTag a l = true ∧ st.holds isAddrTag b l = true ∧
      va st l % 65536 = 0 ∧ n st l ≠ 0 ∧ n st l % 65536 = 0 ∧ st.job? la.job = some (j l) ∧
      (st.coveredRanges la.job).find? (fun q => decide (q.base ≤ va st l) && decide (va st l + n st l ≤ q.base + q.length))
        = some (r l) ∧
      (∃ q ∈ la.ranges, q.cls = 1 ∧ q.base = (r l).base) ∧
      ∀ g ∈ granulesOf (va st l) (va st l + n st l),
        (st.granule la.job g).count = 0 ∧ (st.granule la.job g).present = false) →
    exec (.valloc b a d) s = .next (s.oneByOne f))

/-- R201, R203, R211: VDUP, VSPLIT and VNARROW, thread by thread, of handles that name a view with the right needed and a range inside its
window, where the whey queue has room (R206). VDUP makes a view of [x, x + n), VSPLIT one of [LO, x) while the old view keeps [x, HI), each refused where no entry is
free; VNARROW makes the view itself [x, x + n) with fewer rights, under the same handle index and generation. -/
def Obligations.ViewReshapingCompletes : Prop :=
  ∀ (b a d : RegCode) (s : State) (e : Nat → View),
    let h := fun (st : State) l => (st.operand a l).data
    let x := fun (st : State) l => (st.operand b l).data.toNat
    let n := fun (st : State) l => (st.operand 57 l).data.toNat
    let rights := fun (st : State) l => hRights (h st l) &&& (e l).rights
    let less := fun (st : State) l => rights st l &&& (st.operand 58 l).data.truncate 7
    let may := fun (i : Instr) (right : BitVec 7) (st : State) (l : Nat) =>
      st.ready i 0 = true ∧ (st.th l).wait = .run ∧ st.holds handleTag a l = true ∧ st.holds isAddrTag b l = true ∧
      st.resolveView (st.launchOf (st.ctx l).lid) (h st l) = .ok (e l) ∧ rights st l &&& right ≠ 0 ∧ (e l).lo ≤ x st l
    let more := fun (st : State) (l : Nat) => st.holds isAddrTag 57 l = true ∧ st.holds isAddrTag 58 l = true ∧
      x st l + n st l ≤ (e l).hi
    (
      let f := fun (l : Nat) (st : State) =>
        let s0 := st.setThread st.cur.q l (st.past (.vdup b a d) 0 l)
        (match s0.newView (st.ctx l) (e l) (x st l) (x st l + n st l) (less st l) with
        | none => s0.viewResult (st.ctx l) d none
        | some (s1, w) => s1.viewResult (st.ctx l) d (some w))
      (∀ l ∈ s.lanes, may (.vdup b a d) vDS (s.before f l) l ∧ more (s.before f l) l) →
      exec (.vdup b a d) s = .next (s.oneByOne f)) ∧
    (
      let f := fun (l : Nat) (st : State) =>
        let s0 := st.setThread st.cur.q l (st.past (.vsplit b a d) 0 l)
        (match s0.newView (st.ctx l) (e l) (e l).lo (x st l) (rights st l) with
        | none => (s0.recordNarrow (st.ctx l)).viewResult (st.ctx l) d none
        | some (s1, w) => ((s1.reshape (st.ctx l) (hIndex (h st l)) { (e l) with lo := x st l }).recordNarrow (st.ctx l)).viewResult
            (st.ctx l) d (some w))
      s.wheyFull = false → (∀ l ∈ s.lanes, may (.vsplit b a d) vDS (s.before f l) l ∧ x (s.before f l) l ≤ (e l).hi) →
      exec (.vsplit b a d) s = .next (s.oneByOne f)) ∧
    (
      let f := fun (l : Nat) (st : State) =>
        let s0 := st.setThread st.cur.q l (st.past (.vnarrow b a d) 0 l)
        ((s0.reshape (st.ctx l) (hIndex (h st l)) { (e l) with lo := x st l, hi := x st l + n st l, rights := less st l }).recordNarrow
          (st.ctx l)).modThread st.cur.q l fun t =>
            t.write (st.ctx l) d ⟨handleWord (hIndex (h st l)) (e l).gen (e l).region (less st l), .view⟩ .sb
      s.wheyFull = false → (∀ l ∈ s.lanes, may (.vnarrow b a d) vNA (s.before f l) l ∧ more (s.before f l) l) →
      exec (.vnarrow b a d) s = .next (s.oneByOne f))

/-- R204: VDROP of handles that name views, thread by thread, where the whey queue has room (R206). With the DR right it frees the entry, whose GEN goes up by 1, posts one
decrement for each granule of the window, and writes no register; the thread of lowest lane without it raises a widening fault
with TADDR = CBASE + LO. -/
def Obligations.VdropFreesOrTraps : Prop :=
  ∀ (a : RegCode) (s : State) (e : Nat → View),
    let h := fun l => (s.operand a l).data
    let dr := fun l => hRights (h l) &&& (e l).rights &&& vDR
    s.ready (.vdrop a) 0 = true → s.wheyFull = false →
    (∀ l ∈ s.lanes, (s.th l).wait = .run ∧ s.holds handleTag a l = true ∧
      s.resolveView (s.launchOf (s.ctx l).lid) (h l) = .ok (e l)) →
    (∀ l ∈ s.lanes, ∀ m ∈ s.lanes, hIndex (h l) = hIndex (h m) → l = m) →
    ((∀ l ∈ s.lanes, dr l ≠ 0) → ∃ t, exec (.vdrop a) s = .next t ∧
      (∀ l ∈ s.lanes, SMap.get {} t.mem.views (hIndex (h l)) = { gen := (e l).gen + 1 }) ∧
      t.mem.viewFreed = s.mem.viewFreed ++ s.lanes.map (fun l => hIndex (h l)) ∧
      (∀ k, (∀ l ∈ s.lanes, k ≠ hIndex (h l)) → SMap.get {} t.mem.views k = SMap.get {} s.mem.views k) ∧
      t.mem.whey.map (fun w => (w.job, w.va.toNat)) = s.mem.whey.map (fun w => (w.job, w.va.toNat)) ++
        s.lanes.flatMap (fun l => (e l).granules.map fun g => ((e l).job, g % 2 ^ 64)) ∧
      (∀ q l, (t.thread q l).regs = (s.thread q l).regs) ∧ t.sameMemory s) ∧
    (∀ l ∈ s.lanes, dr l = 0 → (∀ m ∈ s.lanes, m < l → dr m ≠ 0) →
      exec (.vdrop a) s = .next (s.takeTrap s.cur.q 0x05 (maskOf (s.lanes.filter fun m => dr m == 0))
        ((e l).cbase + BitVec.ofNat 64 (e l).lo) s.cur.pc))

/-! ### Enumerated runs -/

/-- R152: RUNNEW clears the crew's written-line filter. R153: ENUM of a whole squad, with maps in every lane and one sound
descriptor whose group holds the squad, waits for its group with the map it has read; R164: ENUM.ONE opens a chunk of the squad
alone, its lowest lane runs on and the others are parked. That LSTOP of each of these lanes is 0 is the model's choice (DESIGN
CHOICE, log 33), and so are the bytes of the header until ENDCH writes it (free values, log 9). R157, R158, R164: in a region under
ENUM, MERGE and ENDCH wait for the group to gather, with the key that the lane's registers give. Under ENUM.ONE a MERGE goes on at
once, and the ENDCH of the running lane closes the chunk and gives every lane of the squad the map that leads the entry state to the
exit state, in d and in the last-result file, in none where d is z (R16); the parked lanes go on after the ENDCH. Where register
lines of the squad that hold d have not arrived, that ENDCH waits for them (R179). R160: CHOOSE of lanes that name one entry state
and the descriptor of a pending chunk, whose area is sound, closes the chunk. Either it commits the stores of the true chain in
order, notes their lines, and gives every lane the exit state with k1 = 0; or it commits none, and gives every lane 0xFF with the
reason of the miss above it and k1 = 1. Which chunk that is where several are pending at one OFFSET, that the whole area is read,
and that a carries RAW64 or I64, are the model's choices (log 33). -/
def Obligations.EnumerationCompletes : Prop :=
  (∀ (s : State), s.ready .runnew 0 = true →
    exec .runnew s = .next ((s.advanceAll .runnew 0).modCrew (s.squad s.cur.q).lid (s.squad s.cur.q).crew fun c =>
      { c with filter := 0 })) ∧
  (∀ (b a d : RegCode) (s : State) (w : Word), s.ready (.enum b a d) 0 = true → s.lanes ≠ [] →
    let sq := s.squad s.cur.q
    let la := s.launchOf sq.lid
    let e := descOf w
    (∀ l ∈ s.lanes, s.canRead a l = true ∧ (s.operand a l).tag = .map8 ∧ s.holds isAddrTag b l = true ∧ (s.operand b l).data = w) →
    e.ok = true → e.gbase ≤ sq.num → sq.num ≤ e.gbase + e.gsize → e.gbase + e.gsize < la.squads →
    e.offset + 32 * e.entries ≤ la.scratch → maskOf s.lanes = sq.liveMask → (s.crewOf sq.lid sq.crew).chunkOf sq.num = none →
    (∀ x ∈ s.crewRecords sq.lid sq.crew, x.1 ≠ s.cur.q → descClash sq.num w x.2 = false) →
    exec (.enum b a d) s = .next (s.ranTogether (.enum b a d) 0 0 fun l =>
      (s.past (.enum b a d) 0 l).waitAt (s.ctx l) (.enum b a d) (.enum d.toNat (s.operand a l) w))) ∧
  (∀ (b d : RegCode) (s : State) (w : Word) (l : Nat) (ls : List Nat), s.ready (.enumOne b d) 0 = true → s.lanes = l :: ls →
    let sq := s.squad s.cur.q
    let la := s.launchOf sq.lid
    let e := descOf w
    (∀ m ∈ s.lanes, s.holds isAddrTag b m = true ∧ (s.operand b m).data = w) → s.holds isAddrTag d l = true →
    e.ok = true → e.gsize = 0 → e.gbase = sq.num → sq.num < la.squads →
    e.offset + 32 * e.entries ≤ la.scratch → maskOf s.lanes = sq.liveMask → (s.crewOf sq.lid sq.crew).chunkOf sq.num = none →
    exec (.enumOne b d) s = .next (ls.foldl (fun st m => st.parkLane s.cur.q m 0)
      (((s.advanceAll (.enumOne b d) 0).openChunk sq.lid sq.crew ⟨sq.num, 0, e.entries, e.offset, true, false, 0, 0, [], l,
        (s.operand d l).data.truncate 8⟩).modThread s.cur.q l fun t => { t with lstop := 0 }))) ∧
  (∀ (m : BitVec 3) (a d : RegCode) (s : State), s.ready (.merge m a d) 0 = true →
    (∀ l ∈ s.lanes, s.holds isAddrTag a l = true ∧ ∀ c ∈ mergeRegs m d, s.holds (fun _ => true) c l = true) →
    ((s.ctx 0).region = 1 → exec (.merge m a d) s = .next (s.ran (.merge m a d) 0 0 fun l =>
      (s.past (.merge m a d) 0 l).waitAt (s.ctx l) (.merge m a d) (.merge (s.operand a l) ((mergeRegs m d).map fun c => s.operand c l)))) ∧
    ((s.ctx 0).region = 2 → exec (.merge m a d) s = .next (s.ran (.merge m a d) 0 0 (s.past (.merge m a d) 0)))) ∧
  (∀ (a d : RegCode) (s : State), s.ready (.endch a d) 0 = true → (s.ctx 0).region = 1 →
    (∀ l ∈ s.lanes, s.holds (fun _ => true) a l = true) →
    exec (.endch a d) s = .next (s.ran (.endch a d) 0 0 fun l =>
      (s.past (.endch a d) 0 l).waitAt (s.ctx l) (.endch a d) (.endch d.toNat (s.operand a l)))) ∧
  (∀ (a d : RegCode) (s : State) (l : Nat) (ch : Chunk), s.ready (.endch a d) 0 = true → s.lanes = [l] →
    let sq := s.squad s.cur.q
    sq.linesIn d.toNat = true →
    (s.crewOf sq.lid sq.crew).chunkOf sq.num = some ch → ch.one = true → ch.pending = false → s.holds isAddrTag a l = true →
    ∃ t, exec (.endch a d) s = .next t ∧
      (t.crewOf sq.lid sq.crew).chunks = (s.crewOf sq.lid sq.crew).chunks.filter (·.gbase != ch.gbase) ∧
      (∀ m ∈ sq.liveLanes, (t.th m).regs = ((s.th m).write (s.ctx m) d
          (mapWord ((List.replicate 256 0xFF).set ch.entry.toNat ((s.operand a l).data.truncate 8)) m) .sb).regs ∧
        (m ≠ l → (t.th m).wait = .run ∧ (t.th m).pc = s.cur.pc + 4))) ∧
  (∀ (b a d : RegCode) (s : State) (l : Nat) (ls : List Nat) (x : Nat) (w : Word) (ch : Chunk), s.ready (.choose b a d) 0 = true →
    s.lanes = l :: ls →
    (∀ m ∈ s.lanes, s.holds isAddrTag a m = true ∧ s.holds isAddrTag b m = true ∧ (s.operand a m).data.toNat % 256 = x ∧
      (s.operand b m).data = w) →
    let sq := s.squad s.cur.q
    let la := s.launchOf sq.lid
    let e := descOf w
    e.ok = true → e.gbase + e.gsize < la.squads → e.offset + 32 * e.entries ≤ la.scratch →
    (s.crewOf sq.lid sq.crew).pendingAt e = some ch → s.mem.latent = [] →
    let s1 := s.advanceAll (.choose b a d) 0
    s1.areaPoisoned sq.lid sq.crew ch = false →
    (∀ ss res, s1.chooseOutcome (s.ctx l) ch (BitVec.ofNat 8 x) = .ok (ss, res) →
      exec (.choose b a d) s = .next (
        let s2 := ss.foldl (fun st y => (st.storeLoc (s.ctx l) y.2.1 y.2.2 false).noteWritten sq.lid sq.crew y.1) s1
        ((s2.scatter s d .sb (s.lanes.map fun m => (m, ⟨res.zeroExtend 64, .i64⟩))).scatterK s 1 .sb
          (s.lanes.map fun m => (m, false))).closeChunk sq.lid sq.crew ch)) ∧
    (∀ r, s1.chooseOutcome (s.ctx l) ch (BitVec.ofNat 8 x) = .error r →
      exec (.choose b a d) s = .next (((s1.scatter s d .sb
        (s.lanes.map fun m => (m, ⟨BitVec.ofNat 64 (0x100 * r + 0xFF), .i64⟩))).scatterK s 1 .sb
          (s.lanes.map fun m => (m, true))).closeChunk sq.lid sq.crew ch)))

/-! ### The matrix engine -/

/-- R254, R258, R260-R262, R265-R267: an engine instruction of a marked object is accepted where its lanes hold sound operands and,
for a tile, the version that they name is due; an MMA.Q that was interrupted is the writer of its tile still, and goes on (R272). An
MMA.Q whose tile and slot fit its format enters intake with the rows not yet done; BLD, TZERO, TLD and TST become operations of the
squad's open batch; the writers of a tile hold it until they land. R263: TRD reads the cells that each lane's descriptor names,
rounded to F32 or BF16 or clamped to I32, with the flags of the rounding. R264: TVER reads a tile's version and tag without waiting.
R274: MFENCE closes the open batch where fewer than 8 are live; R275: MWAIT of batches that have completed goes on. -/
def Obligations.MatrixEngineCompletes : Prop :=
  (∀ (s : State) (a : RegCode) (w : Word), s.lanes ≠ [] → (s.launchOf (s.squad s.cur.q).lid).marked = true →
    (∀ l ∈ s.lanes, s.holds isAddrTag a l = true) →
    let q := s.cur.q
    let sq := s.squad q
    let la := s.launchOf sq.lid
    let cx := engineCx sq.lid sq.crew
    let free := fun (t : BitVec 3) (v : Nat) => (s.engineOf.tile t.toNat).ver.toNat % 16 = v ∧ (s.engineOf.tile t.toNat).writer = false
    (∀ p ∈ [(Instr.mmaQE4m3, 0), (.mmaQE5m2, 1), (.mmaQMxfp4, 2), (.mmaQBf16, 3), (.mmaQI8, 4)],
      ∀ (n : BitVec 6) (h : BitVec 2) (t : BitVec 3) (v : Nat), s.ready (p.1 n a h t) 0 = true → sq.intake = none →
      let again := fun (e : Engine) => e.pausedMma sq.ref s.cur.pc t.toNat
      (s.engineOf.tile t.toNat).ver.toNat % 16 = v → (s.engineOf.tile t.toNat).writer = false ∨ (again s.engineOf).isSome = true →
      (∀ l ∈ s.lanes, rowVer (s.operand a l).data = v ∧ (s.operand a l).data.getLsbD 20 = false ∧
        (sq.mtdone.getLsbD l = false → rowOff (s.operand a l).data % 8 = 0 ∧
          rowOff (s.operand a l).data + recordBytes p.2 ≤ la.scratch)) →
      (s.engineOf.tile t.toNat).tag = some (p.2 == 4) → (s.engineOf.slot (h.toNat * 64 + n.toNat)).fmt = some p.2 →
      exec (p.1 n a h t) s = .next (
        let rows := (s.lanes.filter fun l => !sq.mtdone.getLsbD l).map fun l => (l, (s.operand a l).data)
        let s1 := { s.advanceAll (p.1 n a h t) 0 with seq := s.seq + 1 }
        let s2 := s1.modEngine (coreOf q) fun e =>
          { e.modTile t.toNat Tile.begin with mmas := (e.mmas.filter fun m => again e != some m) ++
            [{ id := s.seq, tile := t.toNat, by_ := sq.ref, batch := sq.closed + 1, open_ := true, left := rows.length, paused := none }] }
        let s3 := s2.modSquad q fun sq => { sq with intake := some ⟨p.1 n a h t, rows, [], maskOf s.lanes, s.seq, false⟩ }
        s.lanes.foldl (fun st l => st.modThread q l fun th => th.waitAt (s.ctx l) (p.1 n a h t) .intake) s3)) ∧
    ((∀ l ∈ s.lanes, (s.operand a l).data = w) →
      (∀ (n : BitVec 6) (h : BitVec 2) (f : BitVec 3), s.ready (.bld n a h f) 0 = true → w.toNat % 64 = 0 → w.toNat / 2 ^ 56 < 2 →
        s.checkSpan cx false .load w.toNat (imageBytes f.toNat) = .ok () →
        exec (.bld n a h f) s = .next (((s.advanceAll (.bld n a h f) 0).acceptOp s s.lanes (.bld (h.toNat * 64 + n.toNat) f.toNat w)).modEngine
          (coreOf q) fun e => e.setSlot (h.toNat * 64 + n.toNat) { e.slot (h.toNat * 64 + n.toNat) with fmt := some f.toNat })) ∧
      (∀ (t : BitVec 3), s.ready (.tzero a t) 0 = true → w.toNat / 32 = 0 → free t (w.toNat % 16) →
        exec (.tzero a t) s = .next (((s.advanceAll (.tzero a t) 0).acceptOp s s.lanes (.tzero t.toNat (w.getLsbD 4))).modEngine
          (coreOf q) fun e => e.modTile t.toNat Tile.begin)) ∧
      (∀ (b : RegCode) (t : BitVec 3) (v : Word), (∀ l ∈ s.lanes, s.holds isAddrTag b l = true ∧ (s.operand b l).data = v) →
        free t (v.toNat % 16) → w.toNat % 64 = 0 → w.toNat / 2 ^ 56 < 2 →
        (s.ready (.tld b a t) 0 = true → v.toNat / 32 = 0 → s.checkSpan cx false .load w.toNat tileBytes = .ok () →
          exec (.tld b a t) s = .next (((s.advanceAll (.tld b a t) 0).acceptOp s s.lanes (.tld t.toNat (v.getLsbD 4) w)).modEngine
            (coreOf q) fun e => e.modTile t.toNat Tile.begin)) ∧
        (s.ready (.tst b a t) 0 = true → v.toNat / 16 = 0 → (s.engineOf.tile t.toNat).tag ≠ none →
          s.checkSpan cx false .store w.toNat tileBytes = .ok () →
          exec (.tst b a t) s = .next ((s.advanceAll (.tst b a t) 0).acceptOp s s.lanes (.tst t.toNat w)))))) ∧
  (∀ (s : State), (s.launchOf (s.squad s.cur.q).lid).marked = true →
    let sq := s.squad s.cur.q
    (∀ (t : BitVec 3) (a d : RegCode) (v : Nat), s.ready (.trd t a d) 0 = true → s.lanes ≠ [] →
      (s.engineOf.tile t.toNat).ver.toNat % 16 = v → (s.engineOf.tile t.toNat).writer = false →
      (∀ l ∈ s.lanes, s.holds isAddrTag a l = true ∧ trdReserved (s.operand a l).data = false ∧
        bitsOf (s.operand a l).data.toNat 16 4 = v ∧
        (s.engineOf.tile t.toNat).tag = some (bitsOf (s.operand a l).data.toNat 20 2 == 2)) →
      exec (.trd t a d) s = .next (s.ranTogether (.trd t a d) 0 0 fun l =>
        let x := (s.operand a l).data.toNat
        let cell := fun (i : Nat) => (SMap.get 0 (s.engineOf.tile t.toNat).cells (128 * bitsOf x 8 7 + bitsOf x 0 7 + i)).toNat
        let th := s.past (.trd t a d) 0 l
        let float := fun (g : Tag) => floatElems g ((List.range (tagCount g)).map fun i =>
          (fmtOf g).round (Fmt.acc48.decode (cell i)) th.rm false 0)
        if bitsOf x 20 2 = 2 then
          th.write (s.ctx l) d ⟨ofElems 32 ((List.range 2).map fun i => satS 32 (signed 48 (cell i))), .i32x2⟩ .sb
        else
          let g : Tag := if bitsOf x 20 2 = 1 then .bf16x4 else .f32x2
          (th.write (s.ctx l) d ⟨(float g).1, g⟩ .sb).raise (float g).2)) ∧
    (∀ (t : BitVec 3) (d : RegCode), s.ready (.tver t d) 0 = true →
      exec (.tver t d) s = .next (s.ranTogether (.tver t d) 0 0 fun l => (s.past (.tver t d) 0 l).write (s.ctx l) d
        ⟨BitVec.ofNat 64 ((match (s.engineOf.tile t.toNat).tag with | none => 0 | some false => 1 | some true => 2) * 2 ^ 16
          + (s.engineOf.tile t.toNat).ver.toNat), .i64⟩ .sb)) ∧
    (∀ (d : RegCode), s.ready (.mfence d) 0 = true → s.engineOf.liveBatches sq < 8 →
      exec (.mfence d) s = .next ((((s.advanceAll (.mfence d) 0).modSquad s.cur.q fun sq =>
        { sq with closed := sq.closed + 1 }).settleBatches s.cur.q).scatter s d .sb
          (s.lanes.map fun l => (l, ⟨(sq.closed + 1).zeroExtend 64, .i64⟩)))) ∧
    (∀ (a : RegCode), s.ready (.mwait a) 0 = true →
      (∀ l ∈ s.lanes, s.holds isAddrTag a l = true ∧ (s.operand a l).data.toNat < 2 ^ 16 ∧
        ((s.operand a l).data.truncate 16 = sq.closed ∨ 0x7FFF < ((s.operand a l).data.truncate 16 - sq.closed).toNat) ∧
        sq.batchDone ((s.operand a l).data.truncate 16) = true) →
      exec (.mwait a) s = .next (s.advanceAll (.mwait a) 0)))

/-! ### Graphs, queues, streams, deques -/

/-- R287, R291: GSUB, thread by thread in lane order. Root 0 clears a halt and d reads 0; with the crew's queue halted a root is not
submitted and d reads 1; otherwise the node is launched as a root with the thread's name and d reads 0. Where the queue has no room
for the set's roots the whole set waits, and nothing is submitted. R293-R296: QCFG sets up an empty queue of the crew where no
thread waits at it; QPUSH of a set appends its elements in lane order once there is room for all and what the squad did before has
been performed; QPOP takes the oldest elements, one for each lane. Which free place of the ring an element lies in is the model's
choice (DESIGN CHOICE, log 27: R293 leaves the layout open); a QPOP of two registers moves e0 and e1 on twice, once for each
register (DEDUCED, log 6). -/
def Obligations.SubmissionsComplete : Prop :=
  (∀ (b a d : RegCode) (s : State) (g : Graph) (vs : List (Nat × Reg)), s.ready (.gsub b a d) 0 = true →
    (∀ l ∈ s.lanes, s.holds isAddrTag a l = true ∧ ((s.operand a l).data ≠ 0 → s.holds isAddrTag b l = true ∧
      s.nodeAddr (s.ctx l) (s.operand a l).data = .ok () ∧ s.nodeAddr (s.ctx l) (s.operand b l).data = .ok ())) →
    let sq := s.squad s.cur.q
    let put := fun (acc : Option (Graph × List (Nat × Reg))) (l : Nat) => acc.bind fun x =>
      if (s.operand a l).data = 0 then some ({ x.1 with halted := false }, x.2 ++ [(l, (⟨0, .i64⟩ : Reg))])
      else if x.1.halted then some (x.1, x.2 ++ [(l, ⟨1, .i64⟩)])
      else if Config.graphEntries ≤ x.1.queued.length then none
      else some ({ x.1 with queued := x.1.queued ++
        [⟨s.seq + s.lanes.idxOf l, (s.operand a l).data, (s.operand b l).data, true, sq.ref, l, s.seq, [], false⟩] }, x.2 ++ [(l, ⟨0, .i64⟩)])
    (s.lanes.foldl put (some ((s.crewOf sq.lid sq.crew).graph, [])) = some (g, vs) →
      exec (.gsub b a d) s = .next (({ s.advanceAll (.gsub b a d) 0 with seq := s.seq + s.lanes.length + 1 }.modCrew sq.lid sq.crew fun c =>
        { c with graph := g }).scatter s d .sb vs)) ∧
    (s.lanes.foldl put (some ((s.crewOf sq.lid sq.crew).graph, [])) = none →
      exec (.gsub b a d) s = .next (s.ranTogether (.gsub b a d) 0 0 fun l =>
        (s.past (.gsub b a d) 0 l).waitAt (s.ctx l) (.gsub b a d) (.blocked (.gsub b a d))))) ∧
  (∀ (a : RegCode) (n : BitVec 3) (s : State) (w : Word), s.ready (.qcfg a n) 0 = true → s.lanes ≠ [] →
    (∀ l ∈ s.lanes, s.holds isAddrTag a l = true ∧ (s.operand a l).data = w) → queueWordBad w = false →
    let sq := s.squad s.cur.q
    ((queueOf w).depth = 0 ∨ (queueOf w).offset + (queueOf w).bytes ≤ (s.launchOf sq.lid).scratch) →
    s.queueAwaited sq.lid sq.crew n = false →
    exec (.qcfg a n) s = .next ((s.advanceAll (.qcfg a n) 0).modCrew sq.lid sq.crew fun c => c.setQueue n
      { tag := tagOf (w.toNat / 2 ^ 60), es := w.getLsbD 56, depth := w.toNat / 2 ^ 40 % 2 ^ 16, offset := w.toNat % 2 ^ 20 })) ∧
  (∀ (b a : RegCode) (n : BitVec 3) (s : State) (s1 : State), s.ready (.qpush b a n) 0 = true →
    let sq := s.squad s.cur.q
    let qu := (s.crewOf sq.lid sq.crew).queue n
    qu.depth ≠ 0 → qu.elems.length + s.lanes.length ≤ qu.depth →
    (∀ l ∈ s.lanes, s.holds (fun g => g == qu.tag || g == .raw64) a l = true ∧
      (qu.es = true → s.holds (fun g => g == qu.tag || g == .raw64) b l = true)) →
    (s.advanceAll (.qpush b a n) 0).publish sq.ref s.lanes 2 = some s1 →
    exec (.qpush b a n) s = .next (s.lanes.foldl (fun st l =>
      st.pushElem sq.lid sq.crew n ((s.operand a l).data, if qu.es then (s.operand b l).data else 0)) s1)) ∧
  (∀ (s : State) (lid crew : Nat) (n : BitVec 3) (e : Word × Word),
    let qu := (s.crewOf lid crew).queue n
    ∃ p, (((s.pushElem lid crew n e).crewOf lid crew).queue n) = { qu with elems := qu.elems ++ [e], places := qu.places ++ [p] } ∧
      (qu.freePlaces ≠ [] → p ∈ qu.freePlaces)) ∧
  (∀ (n : BitVec 3) (d : RegCode) (s : State), s.ready (.qpop n d) 0 = true →
    let sq := s.squad s.cur.q
    let qu := (s.crewOf sq.lid sq.crew).queue n
    qu.depth ≠ 0 → s.lanes.length ≤ qu.depth → s.lanes.length ≤ qu.elems.length → (qu.es = true → d.toNat ≤ 54) →
    exec (.qpop n d) s = .next ((s.ranTogether (.qpop n d) 0 0 fun l =>
      let e := qu.elems.getD (s.lanes.idxOf l) (0, 0)
      let t := (s.past (.qpop n d) 0 l).write (s.ctx l) d ⟨e.1, qu.tag⟩ .sb
      if qu.es then t.write (s.ctx l) (d + 1) ⟨e.2, qu.tag⟩ .sb else t).modCrew sq.lid sq.crew fun c =>
        c.setQueue n { qu with elems := qu.elems.drop s.lanes.length, places := qu.places.drop s.lanes.length }))

/-- R297: FEED starts the core's producer stream at a target inside the launch's stream section, for the lowest lane, where the slot is
free (bit 0 of the target left out: the model's reading, log 69), and d reads 0; where a stream holds the slot, d reads 1 and nothing starts. R330, R331: DQPUSH, DQPOP and DQSTEAL of a
thread put an entry at the bottom of a deque or take one from its bottom or top, with k1 = 1 where it is full or has none. -/
def Obligations.StreamsAndDequesComplete : Prop :=
  (∀ (b a d : RegCode) (s : State) (l : Nat) (ls : List Nat), s.ready (.feed b a d) 0 = true → s.lanes = l :: ls →
    s.holds isAddrTag a l = true → s.holds isAddrTag b l = true →
    let sq := s.squad s.cur.q
    let la := s.launchOf sq.lid
    la.streamLo ≤ (s.operand a l).data.toNat → (s.operand a l).data.toNat < la.streamLo + la.streamLen →
    let slot := recordKey (coreOf s.cur.q) 16
    ((s.squad? slot).isSome = true → exec (.feed b a d) s = .next (s.ranTogether (.feed b a d) 0 0 fun m =>
      (s.past (.feed b a d) 0 m).write (s.ctx m) d ⟨1, .i64⟩ .sb)) ∧
    (s.squad? slot = none → exec (.feed b a d) s = .next (((s.advanceAll (.feed b a d) 0).setSquad slot
      (streamSquad sq (s.operand a l).data (s.operand b l).data (s.cycle + 1))).scatter s d .sb
        (s.lanes.map fun m => (m, ⟨0, .i64⟩))))) ∧
  (∀ (a d : RegCode) (s : State),
    let sq := s.squad s.cur.q
    let core := coreOf s.cur.q
    let give := fun (st : State) (l : Nat) (e : Option Reg) => st.modThread s.cur.q l fun t =>
      (t.write (s.ctx l) d (e.getD Reg.zero) .sb).writeK (s.ctx l) 1 e.isNone .sb
    (∀ s1, s.ready (.dqpush a) 0 = true → (∀ l ∈ s.lanes, s.holds (fun _ => true) a l = true) →
      (s.coreAt core).dqOwner = some sq.lid → (s.advanceAll (.dqpush a) 0).publish sq.ref s.lanes 4 = some s1 →
      exec (.dqpush a) s = .next (s.lanes.foldl (fun st l =>
        let full := decide (Config.dequeEntries ≤ (st.coreAt core).deque.length)
        (if full then st else st.modCore core fun c => { c with deque := c.deque ++ [s.operand a l] }).modThread s.cur.q l fun t =>
          t.writeK (s.ctx l) 1 full .sb) s1)) ∧
    (s.ready (.dqpop d) 0 = true → (s.coreAt core).dqOwner = some sq.lid →
      exec (.dqpop d) s = .next (s.lanes.foldl (fun st l =>
        match (st.coreAt core).deque.getLast? with
        | none => give st l none
        | some e => give (st.modCore core fun c => { c with deque := (st.coreAt core).deque.dropLast }) l (some e))
        (s.advanceAll (.dqpop d) 0))) ∧
    (s.ready (.dqsteal a d) 0 = true → (s.launchOf sq.lid).det = false →
      (∀ l ∈ s.lanes, s.holds isAddrTag a l = true ∧ (s.operand a l).data.toNat / 2 ^ 9 % 2 ^ 54 = 0 ∧
        ((s.operand a l).data.getLsbD 63 = false → (s.operand a l).data.toNat / 2 ^ 7 % 4 = core / Config.coresPerDie)) →
      exec (.dqsteal a d) s = .next (s.lanes.foldl (fun st l =>
        match st.victim core sq.lid (s.operand a l).data with
        | none => give st l none
        | some c => match (st.coreAt c).deque with
          | [] => give st l none
          | e :: rest => give (st.modCore c fun co => { co with deque := rest }) l (some e))
        (s.advanceAll (.dqsteal a d) 0))))

/-! ### Inversion -/

/-- R165-R172: INV and INV.DEC run slot by slot (the model gives the prefix a slot of its own, log 67, and fixes a load whose value stands in a register
that INV copies, log 4). The prefix reads its routine whole, and each lane's bracket register and target; each further slot issues one routine
instruction, the PC staying at the prefix; at the end of a step in which no lane fails, each lane whose bracket the step changed has it in its bracket
register and the next step begins, the final evaluation where every lane has stopped; when that is complete, each lane's out register is the high
end of its last bracket and its o0-o3, e0 and e1 are those of the evaluation there, and the PC stands after the routine. -/
def Obligations.InversionCompletes : Prop :=
  ∀ p ∈ [(Instr.inv, false), (.invDec, true)], ∀ (tol : BitVec 3) (k : BitVec 2) (tgt inn out : RegCode) (s : State),
    let i := p.1 tol k tgt inn out
    let sq := s.squad s.cur.q
    (∀ (body : List (Word × Instr)) (fin : Word) (b : Nat → Reg), s.ready i 0 = true → s.lanes ≠ [] →
      (sq.invs.find? fun r => r.lanes == s.cur.lanes) = none →
      s.readRoutine (s.launchOf sq.lid) (coreOf s.cur.q) out 17 (s.cur.pc + 4) = .ok (body, fin) →
      (∀ l ∈ s.lanes, (s.th l).readB (s.ctx l) k.toNat = .ok (b l) ∧ s.canRead tgt l = true) →
      exec i s = .next ((((s.slotAll 0).beginInv s s.lanes).cacheCode (s.launchOf sq.lid) (coreOf s.cur.q) (s.cur.pc + 4) (fin - (s.cur.pc + 4)).toNat s.freeCtr).setRun
        s.cur.q (maskOf s.lanes)
        (some ⟨s.cur.pc, i, maskOf s.lanes, s.lanes.map fun l => (l, b l, s.operand tgt l), body, fin, 0, 0, [], []⟩))) ∧
    (∀ r : InvRun, (sq.invs.find? fun r => r.lanes == s.cur.lanes) = some r →
      let v : InvArgs := ⟨p.2, tol.toNat, k.toNat, tgt, inn, out, r.body, r.fin⟩
      let u := s.slotAll r.stall
      (r.idx + 1 < r.length →
        exec i s = .next (u.setRun s.cur.q r.lanes (some (r.issued s.cur.at_))) ∧ (r.issued s.cur.at_).idx = r.idx + 1) ∧
      (∀ xs : List InvLane, r.length ≤ r.idx + 1 → r.step < 2 → xs ≠ [] →
        (if r.step = 0 then v.start u (s.ctx 0).region r.args else v.round u (s.ctx 0).region r.work) = ⟨xs, [], none⟩ →
        exec i s = .next ((if r.step = 0 then u else (xs.filter fun x => !r.work.contains x).foldl
            (fun st x => st.modThread s.cur.q x.lane fun t => t.setB k.toNat x.bracket) u).setRun s.cur.q r.lanes
          (some { r with lanes := maskOf (xs.map (·.lane)), work := xs, idx := 0, due := [], step := if xs.all fun x => decide (x.width ≤ v.gap) then 2 else 1 }))) ∧
      (∀ priv : Nat → Thread, r.length ≤ r.idx + 1 → r.step = 2 → r.work.map (·.lane) = s.lanes → (s.squad? s.cur.q).isSome = true →
        (∀ x ∈ r.work, v.eval (u.ctx x.lane) (u.th x.lane) x.f32 x.hi = .ok (priv x.lane)) →
        ∃ t, exec i s = .next t ∧ t.sameMemory s ∧ (∀ x ∈ (t.squad s.cur.q).invs, x.lanes ≠ r.lanes) ∧
          ∀ x ∈ r.work, (t.th x.lane).pc = r.fin ∧ (t.th x.lane).brk = (s.th x.lane).brk ∧
            SMap.get Reg.zero (t.th x.lane).regs out.toNat = ⟨BitVec.ofNat 64 x.hi, x.dom⟩ ∧
            (∀ c, c < 56 → c ≠ out.toNat → SMap.get Reg.zero (t.th x.lane).regs c = SMap.get Reg.zero (s.th x.lane).regs c) ∧
            (∀ c, 56 ≤ c → c < 62 → c ≠ out.toNat →
              SMap.get Reg.zero (t.th x.lane).regs c = SMap.get Reg.zero (priv x.lane).regs c) ∧
            (t.th x.lane).fflags = (s.th x.lane).fflags ||| (priv x.lane).fflags))

/-- R170, R171: a step of bisection keeps its bracket. Where the value at the low end lies before the target and the value at the high end
does not, the same holds after the step, over a bracket half as wide, rounded up. -/
def Obligations.BisectionKeepsItsBracket : Prop :=
  ∀ (p : InvArgs) (cx : Ctx) (t : Thread) (x y : InvLane), x.lo < 2 ^ 32 → x.hi < 2 ^ 32 →
    keyOf x.f32 x.lo < keyOf x.f32 x.hi →
    beyond p.dec (x.tag == .f32x2) x.goal x.flo = false → beyond p.dec (x.tag == .f32x2) x.goal x.fhi = true →
    p.bisect cx t x = .ok y →
    beyond p.dec (y.tag == .f32x2) y.goal y.flo = false ∧ beyond p.dec (y.tag == .f32x2) y.goal y.fhi = true ∧
      y.goal = x.goal ∧ y.tag = x.tag ∧ y.dom = x.dom ∧ y.lo < 2 ^ 32 ∧ y.hi < 2 ^ 32 ∧
      keyOf y.f32 y.lo < keyOf y.f32 y.hi ∧ (p.gap < x.width → y.width ≤ (x.width + 1) / 2)

/-! ### Traps -/

/-- R166, R309, R311: what an instruction does whose effect is a trap. SYSCALL of threads without a poisoned argument takes the
system-call trap (0x20), BRK the breakpoint trap (0x21) with TADDR = its code, INVEND outside a routine the illegal-instruction
trap (0x01); each names the threads of the issue set, with TEPC at the instruction, and nothing but the trap registers, the
squad's standing and the landing of outstanding writes changes. -/
def Obligations.TrapInstructionsTrap : Prop :=
  ∀ (s : State),
    (s.ready .syscall 0 = true → (∀ l ∈ s.lanes, (s.th l).callPoisoned = false) →
      exec .syscall s = .next (s.takeTrap s.cur.q 0x20 (maskOf s.lanes) 0 s.cur.pc)) ∧
    (∀ c : BitVec 6, s.ready (.brk c) 0 = true →
      exec (.brk c) s = .next (s.takeTrap s.cur.q 0x21 (maskOf s.lanes) (c.zeroExtend 64) s.cur.pc)) ∧
    (s.ready .invend 0 = true → s.lanes ≠ [] → (s.ctx 0).region ≠ 1 →
      exec .invend s = .next (s.takeTrap s.cur.q 0x01 (maskOf s.lanes) 0 s.cur.pc))

/-! ### Events: time, memory, gatherings -/

/-- R56, R57, R135, R179, R322, R223: what time brings. The cycles of a stall pass, while no issue set has a port; the scoreboarded
results of an issue land in all its lanes together (DEDUCED, log 75: R56 sets each result a time of its own, R251 and R252 show one
set of lanes go on), each with what its instruction shifted; a load whose value is not fixed is performed anew (the model's way of
saying R223, log 4); a sound register line arrives; a network configuration whose 64 cycles have passed is written; YIELD ends.
R194, R218, R223, R226, R245, R316: an outstanding write that no write-back holds and that nothing must go before is performed for
the next wider scope, and at last lands, which fixes loads that must not return it or must stand before it (log 4); the atomics of
the lanes that waited are performed, in ascending lane order, each at the location that its checks found; the threads whose fence or
ICINV has nothing left to wait for go on, an ICINV with every cache and fetch buffer emptied. -/
def Obligations.TimeAndMemoryEventsComplete : Prop :=
  (∀ (q lane : Nat) (s : State), (s.thread q lane).live = true → s.cycle < (s.thread q lane).readyAt →
    (∀ k, k < (s.thread q lane).readyAt - s.cycle → (Nat.iterate State.tick k s).mayTick = true) →
    let t := Nat.iterate State.tick ((s.thread q lane).readyAt - s.cycle) s
    exec (.stallElapsed q lane) s = .next t ∧ t.cycle = (s.thread q lane).readyAt ∧ t.mem.dram = s.mem.dram ∧ t.mem.writes = s.mem.writes) ∧
  (∀ (q lane : Nat) (s : State) (w : RegWrite), (s.thread q lane).pend.find? (·.sb) = some w →
    ((s.squad q).mayLand lane s.cycle = true → exec (.scoreboardWriteLands q ⟨lane, 0⟩) s =
      .next (((s.squad q).landsWith lane).foldl (fun st l => st.modThread q l Thread.landOne) s)) ∧
    (lane ∈ (s.squad q).liveLanes → ((s.squad q).mayLand lane s.cycle = true ↔
      ∀ l ∈ (s.squad q).landsWith lane, ∀ x ∈ (s.thread q l).pend, x.sb = true → x.iss = w.iss → x.due ≤ s.cycle)) ∧
    (∀ l, l ∈ (s.squad q).landsWith lane ↔ l ∈ (s.squad q).liveLanes ∧
      ∃ x, (s.thread q l).pend.find? (·.sb) = some x ∧ x.iss = w.iss) ∧
    (s.thread q lane).landOne = { s.thread q lane with pend := (s.thread q lane).pend.filter fun x => !(x.sb && x.iss == w.iss) }) ∧
  (∀ (q lane n : Nat) (s : State) (r : Read), (s.mem.reads.filter fun r => r.by_ == (s.squad q).ref && r.lane == lane)[n]? = some r →
    s.mayReload q r = true → s.mem.latent = [] →
    exec (.scoreboardWriteLands q ⟨lane, n + 1⟩) s = .next (s.modThread q lane fun t =>
      let x := s.readLoc { q := q, lane := lane, lid := r.by_.lid, crew := r.by_.crew, num := r.by_.num } r.loc r.size
      t.reload r.seq (loadResult r.sgn r.tag x.1 x.2))) ∧
  (∀ (q line : Nat) (s : State) (sq : Squad), s.squad? q = some sq → s.poisoned (.dram (sq.ctx + 64 * line) 0) = false →
    exec (.registerLineArrives q line) s = .next (s.setSquad q { sq with missing := sq.missing.filter (· != line) })) ∧
  (∀ (q : Nat) (x : NetWrite) (rest : List NetWrite) (s : State) (sq : Squad), s.squad? q = some sq → sq.nPend = x :: rest → x.due ≤ s.cycle →
    exec (.setnetConfigLands q) s = .next (s.setSquad q { sq with n := SMap.set [] sq.n x.n x.map, nPend := rest })) ∧
  (∀ (q : Nat) (s : State) (sq : Squad), s.squad? q = some sq → sq.yielded = 1 →
    exec (.yieldExpires q) s = .next (s.setSquad q { sq with yielded := 0 })) ∧
  (∀ (n : Nat) (s : State) (w : Write), s.mem.writes[n]? = some w → (w.held && s.placeHeld w.job w.va w.place) = false →
    (∀ e ∈ s.mem.writes, s.holdsBack w.next e w = false) →
    let rest := s.mem.writes.eraseIdx n
    let s1 := s.fixReads (s.fixedBy w w.next)
    (4 ≤ w.next → exec (.writeLands n) s = .next ({ s1 with seq := s1.seq + 1, mem := { s1.mem with writes := rest } }.landPart
      w.by_.lid w.by_.crew w.place w.job w.va w.data)) ∧
    (w.next < 4 → exec (.writeLands n) s = .next { s1 with seq := s1.seq + 1, mem := { s1.mem with
      writes := rest ++ [{ w with times := w.times ++ List.replicate (w.next - w.stage) s1.seq }] } })) ∧
  (∀ (q l : Nat) (i : Instr) (rest : List (Nat × Instr)) (plan : Ctx → Thread → Except Trap AtomicPlan) (s : State)
    (at_ : Nat → Word × Loc × Bool) (p : Nat → AtomicPlan),
    (s.squad q).atomicLanes = (l, i) :: rest → atomicOf i = some plan →
    let ls := l :: rest.map (·.1)
    let u : State := { s.unwait q ls with cur := { q := q, pc := (s.thread q l).pc, lanes := maskOf ls, slot := (s.thread q l).stamp,
                                                   at_ := (s.thread q l).since } }
    let act := fun (m : Nat) (st : State) =>
      let old := natLE (st.landedBytes (st.ctx m) (at_ m).2.1 (p m).size)
      let st1 := (st.setThread st.cur.q m (st.past i 0 m)).fixAtomic (st.ctx m) (at_ m).2.1 (p m).size (p m).ar (p m).writes
      (if (p m).writes then st1.putAtomic (st.ctx m) (at_ m).2.1 (bytesLE (p m).size ((p m).new old)) else st1).modThread q m ((p m).res old)
    (∀ m ∈ u.lanes, let st := u.before act m
      (s.thread q m).wait = .atomic (at_ m).1 (at_ m).2.1 (at_ m).2.2 i ∧ st.ready i 0 = true ∧
      plan (st.ctx m) (st.past i 0 m) = .ok (p m) ∧
      st.atomicFree (st.ctx m) (at_ m).2.1 (p m).size (p m).ar (p m).writes = true) →
    exec (.atomicPerformed q) s = .next (u.oneByOne act)) ∧
  (∀ (q : Nat) (s : State),
    let ls := (s.squad q).liveLanes.filter fun l => match (s.thread q l).wait with
      | .fence scope full n => s.mem.writes.all fun w => decide (s.fenceNeeds (s.squad q).ref l scope full n w ≤ w.stage)
      | _ => false
    exec (.fenceComplete q) s = .next ((ls.foldl (fun st l => st.endFence q l) s).releaseLanes q ls)) ∧
  (∀ (q : Nat) (s : State), s.icinvDone q ≠ [] →
    exec (.icinvComplete q) s = .next (s.releaseLanes q (s.icinvDone q)).emptyCode)

/-- R116, R142: what releases threads that wait for one another. When every thread of jn that has not exited waits at one REJOIN,
all go on together after it; when a phase of the barrier of a crew or of a group is complete, it is over, and the threads that wait
for it go on; a thread that waits for it to arrive again arrives at the next phase (R143). R149, R150, R153, R157, R158: the
gatherings of an enumerated group. Assembled, it opens its chunk: a lane with a candidate holds it in d and goes on, one without is
parked with LSTOP 0xFC. At a MERGE PC a lane goes on where it is the lowest of its class, and else is parked: absorbed (0xFD), with
a merge record, or stopped (0xFE) where the hold queue is full; that several MERGE PCs are taken in the order of their lowest lanes
is the model's choice (DESIGN CHOICE, log 33). When every live lane waits at one ENDCH the chunk header (MAP, READF, CAND, LSTOP) is
written, d of every lane of the group, parked lanes too, holds the map, the chunk is pending, and the lanes stand past the ENDCH:
those with a state of tag RAW64 or I64 run, the others are parked with LSTOP 0x02. -/
def Obligations.GatheringsRelease : Prop :=
  (∀ (q j : Nat) (s : State) (sq : Squad), s.squad? q = some sq → sq.joinFull j = true → sq.joinOne j = true →
    sq.rejoinsLater s.cycle = false →
    ∃ t, exec (.rejoinRelease q j) s = .next t ∧ (∀ l ∈ sq.joinLanes j, (t.thread q l).wait = .run ∧
      (t.thread q l).pc = (s.thread q l).pc + 4 ∧ (t.thread q l).sig = sigHash 0 ((s.thread q l).pc.truncate 32)) ∧
      (∀ p l, (p ≠ q ∨ l ∉ sq.joinLanes j) → t.thread p l = s.thread p l)) ∧
  (∀ (lid n : Nat) (s : State), s.crewPhaseDone lid n = true →
    ∃ t, exec (.barrierPhaseComplete lid false n) s = .next t ∧ (t.crewOf lid n).barPhase = (s.crewOf lid n).barPhase + 1 ∧
      ∀ q, (q, s.squad q) ∈ s.crewRecords lid n → ∀ l ∈ (s.squad q).liveLanes,
        (s.thread q l).wait = .barC (s.crewOf lid n).barPhase →
        (t.thread q l).wait = .run ∧ (t.thread q l).pc = (s.thread q l).pc + 4) ∧
  (∀ (lid g : Nat) (s : State), (s.launch? lid).isSome = true → s.groupPhaseDone lid g = true →
    ∃ t, exec (.barrierPhaseComplete lid true g) s = .next t ∧ t.groupPhase lid g = s.groupPhase lid g + 1 ∧
      ∀ q, (q, s.squad q) ∈ s.records → (s.squad q).lid = lid → ∀ l ∈ (s.squad q).liveLanes,
        ((s.thread q l).wait = .barG g (s.groupPhase lid g) →
          (t.thread q l).wait = .run ∧ (t.thread q l).pc = (s.thread q l).pc + 4) ∧
        (∀ a, (s.thread q l).wait = .arrive g (s.groupPhase lid g) (.barG a) → (t.thread q l).wait = .barG g (s.groupPhase lid g + 1) ∧
          (t.thread q l).phaseG g = some (s.groupPhase lid g + 1)) ∧
        (∀ a, (s.thread q l).wait = .arrive g (s.groupPhase lid g) (.arriveG a) → (t.thread q l).wait = .run ∧
          (t.thread q l).pc = (s.thread q l).pc + 4 ∧ (t.thread q l).phaseG g = some (s.groupPhase lid g + 1))) ∧
  (∀ (lid crew base : Nat) (w : Word) (s : State), s.enumReady lid crew base = some w →
    let e := descOf w
    let lanes := s.groupLanes lid crew e.gbase e.gsize
    let cand := candidates (lanes.map fun x => (x.2.2, elem (s.thread x.1 x.2.1).gatherArgs.2.data 8 (x.2.2 / 32))) 256 []
    (lanes.map fun x => (x.1, x.2.1)).Nodup → (∃ c ∈ cand, c ≠ 0xFF) →
    ∃ t, exec (.enumGroupAssembled lid crew base) s = .next t ∧
      (t.crewOf lid crew).chunks = (s.crewOf lid crew).chunks ++
        [⟨e.gbase, e.gsize, e.entries, e.offset, false, false, 0, 0, cand, 0, 0⟩] ∧
      ∀ x ∈ lanes, (cand.getD x.2.2 0xFF = 0xFF → (t.thread x.1 x.2.1).wait = .parked ∧ (t.thread x.1 x.2.1).lstop = 0xFC) ∧
        (cand.getD x.2.2 0xFF ≠ 0xFF → (t.thread x.1 x.2.1).wait = .run ∧
          (t.thread x.1 x.2.1).pc = (s.thread x.1 x.2.1).pc + 4 ∧
          (t.thread x.1 x.2.1).regs = ((s.thread x.1 x.2.1).writeAt s.cycle (s.thread x.1 x.2.1).gatherArgs.1
            ⟨(cand.getD x.2.2 0xFF).zeroExtend 64, .i64⟩).regs)) ∧
  (∀ (lid crew base : Nat) (ch : Chunk) (s : State), s.gathered lid crew base = some ch →
    let ms := s.atMerge (s.liveGroup lid crew ch)
    ms ≠ [] →
    exec (.mergeGathering lid crew base) s = .next ((ms.map fun x => (s.thread x.1 x.2.1).pc).eraseDups.foldl (fun st pc =>
      let here := ms.filter fun y => (s.thread y.1 y.2.1).pc == pc
      here.foldl (s.mergeOne lid crew base here) st) s) ∧
    ∀ (here : List (Nat × Nat × Nat)) (st : State) (x y : Nat × Nat × Nat) (c : Chunk),
      (here.find? fun z => (s.thread z.1 z.2.1).mergeKey == (s.thread x.1 x.2.1).mergeKey) = some y →
      (y.2.2 = x.2.2 → s.mergeOne lid crew base here st x = st.releaseLanes x.1 [x.2.1]) ∧
      (y.2.2 ≠ x.2.2 → (st.crewOf lid crew).chunkAt base = some c →
        (c.used = c.cap → s.mergeOne lid crew base here st x = st.modThread x.1 x.2.1 fun t => { t with wait := .parked, word := 0, lstop := 0xFE }) ∧
        (c.used ≠ c.cap → s.mergeOne lid crew base here st x =
          (st.appendEntry lid crew c ⟨BitVec.ofNat 64 (y.2.2 + (s.thread y.1 y.2.1).held * 65536), 0, 0, x.2.2, 0, false, 0⟩).modThread
            x.1 x.2.1 fun t => { t with wait := .parked, word := 0, lstop := 0xFD }))) ∧
  (∀ (lid crew base d : Nat) (ch : Chunk) (pc : Word) (s : State), s.gathered lid crew base = some ch →
    let lanes := s.groupLanes lid crew ch.gbase ch.gsize
    (lanes.map fun x => (x.1, x.2.1)).Nodup → s.liveGroup lid crew ch ≠ [] → d < 64 →
    (∀ x ∈ s.liveGroup lid crew ch, (∃ a, (s.thread x.1 x.2.1).wait = .endch d a) ∧ (s.thread x.1 x.2.1).pc = pc) →
    (∀ x ∈ lanes, (s.squad x.1).linesIn d = true) →
    let state := fun (x : Nat × Nat × Nat) => (s.thread x.1 x.2.1).gatherArgs.2
    let code := fun (g : Nat) => match lanes.find? (·.2.2 == g) with
      | none => 0xFC
      | some x => if (s.thread x.1 x.2.1).wait = .parked then (s.thread x.1 x.2.1).lstop.toNat
        else if (state x).tag = .raw64 ∨ (state x).tag = .i64 then 0 else 2
    let exit := fun (g : Nat) => match lanes.find? (·.2.2 == g) with
      | none => 0xFF
      | some x => (state x).data.toNat % 256
    let map := (List.range 256).foldl (fun (m : List Byte) g =>
      let c := ch.cand.getD g 0xFF
      let p := chainEnd (chunkEntries (s.crewOf lid crew) ch) code 256 g
      if c ≠ 0xFF ∧ code p = 0 then m.set c.toNat (BitVec.ofNat 8 (exit p)) else m) (List.replicate 256 0xFF)
    ∃ t, exec (.endchMapWrite lid crew base) s = .next t ∧ (t.crewOf lid crew).chunkAt base = some { ch with pending := true } ∧
      ((s.crewOf lid crew).inj.arm = false → ch.cand.length = 256 → (t.crewOf lid crew).scratch.readBytes ch.offset 1024 =
        map ++ bytesLE 256 ch.readF.toNat ++ ch.cand ++ (List.range 256).map fun g => BitVec.ofNat 8 (code g)) ∧
      ∀ x ∈ lanes, (t.thread x.1 x.2.1).pc = pc + 4 ∧
        (t.thread x.1 x.2.1).regs = ((s.thread x.1 x.2.1).writeAt s.cycle (BitVec.ofNat 6 d) ⟨ofElems 8 ((List.range 8).map fun i =>
          (map.getD (8 * x.2.1 + i) 0xFF).toNat), .map8⟩).regs ∧
        ((s.thread x.1 x.2.1).wait = .parked → (t.thread x.1 x.2.1).wait = .parked ∧
          (t.thread x.1 x.2.1).lstop = (s.thread x.1 x.2.1).lstop) ∧
        ((s.thread x.1 x.2.1).wait ≠ .parked → code x.2.2 = 0 → (t.thread x.1 x.2.1).wait = .run ∧ (t.thread x.1 x.2.1).lstop = 0) ∧
        ((s.thread x.1 x.2.1).wait ≠ .parked → code x.2.2 ≠ 0 → (t.thread x.1 x.2.1).wait = .parked ∧ (t.thread x.1 x.2.1).lstop = 2))

/-! ### Events: the matrix engine -/

/-- R216, R258, R260, R262, R267, R269: a waiting issue set whose tile version has come executes its instruction; a row lands in its tile, and an
MMA.Q whose last row has landed advances the version; with no row waiting, the next row of an intake is taken in with the last part of its
record, and lands; an MMA.Q whose rows are all taken in lets its threads go on. BLD, TLD and TST access their memory part by part; with
the last part BLD fills its slot, TLD and TST are done, or leave the slot or tile INVALID on an uncorrectable error, except that a slot keeps the tag that a
fill accepted later has given it (DEDUCED, log 68: R258 says that the slot's tag is INVALID then, R270 that landing times change no tag); TZERO is done. -/
def Obligations.EngineEventsComplete : Prop :=
  (∀ (q l : Nat) (i : Instr) (f : State → State → List Nat → Except SetTrap State) (s v : State), s.tileReady q = some (l, i) →
    tileEffect i = some f → (s.squad q).canTrap = true →
    let ls := (s.squad q).liveLanes.filter fun m => (s.thread q m).wait == (s.thread q l).wait &&
      (s.thread q m).stamp == (s.thread q l).stamp
    ls.any ((s.squad q).lineWaits i) = false →
    let u : State := { s.unwait q ls with cur := { q := q, pc := (s.thread q l).pc, lanes := maskOf ls,
                                                   slot := s.releaseStamp (s.squad q) (s.thread q l), at_ := (s.thread q l).since } }
    exec (.tileVersionAccept q) s = exec i u ∧
    (u.ready i 0 = true → f (u.advanceAll i 0) u u.lanes = .ok v → exec (.tileVersionAccept q) s = .next v)) ∧
  (∀ (core n k0 : Nat) (o : EngOp) (id t k fmt r lane : Nat) (sa : BitVec 32) (bytes : List Byte) (s : State),
    s.firstOp core (fun w => match w with | .row .. => true | _ => false) = some (n, o) → o.work = .row id t k fmt r lane sa bytes →
    exec (.microTileLand ⟨core, k0⟩) s = .next (((s.dropOp core n).modEngine core fun e =>
      (if (e.slot k).bad then e.modTile t fun x => { x with tag := none }
      else e.modTile t fun x => { x with cells := (List.range 128).foldl (fun cs c =>
        SMap.set 0 cs (128 * r + c) (promote fmt (fun i => bytes.getD i 0) (e.slot k).image.read sa c (SMap.get 0 x.cells (128 * r + c)))) x.cells }).rowDone id).settleFor o.by_)) ∧
  (∀ (core q : Nat) (it : Intake) (x : Nat × Word) (rest : List (Nat × Word)) (p : Nat × Nat) (s : State),
    s.firstOp core (fun w => match w with | .row .. => true | _ => false) = none → s.nextTake core = some (q, it) →
    it.left = x :: rest → it.parts x = [p] → s.rowBad (s.squad q) it x = false →
    let row := s.takenRow (s.squad q) it it.got x
    exec (.microTileLand ⟨core, 0⟩) s = .next (((s.rowNote (s.squad q) (mmaFmtOf it.instr) x).modEngine (coreOf q) fun e =>
      (e.landRow row).rowDone it.id).modSquad q fun sq => { sq with intake := some { it with left := rest, got := [], bad := false } })) ∧
  (∀ (q : Nat) (it : Intake) (s : State), s.intakeEnds q = some it →
    ∃ t, exec (.mmaQIntakeEnd q) s = .next t ∧ (t.squad q).intake = none ∧
      (t.squad q).mtdone = (s.squad q).mtdone &&& ~~~it.lanes ∧
      ∀ l ∈ lanesOf it.lanes, (t.thread q l).wait = .run ∧ (t.thread q l).pc = (s.thread q l).pc + 4) ∧
  (∀ (core n k slot fmt off : Nat) (bad : Bool) (addr : Word) (o : EngOp) (p : Part) (s : State),
    s.opAt core n = some o → o.work = .bld slot fmt addr → s.opPart o k = some (off, p) →
    let o1 := { o with left := o.left.eraseIdx k, got := o.got.writeBytes off (s.readPart p).1, bad := o.bad || bad || s.poisoned p.place }
    let s1 := s.noteRead p.place
    (o1.left ≠ [] → exec (.bldComplete ⟨core, n, k⟩ bad) s = .next (s1.setOp core n o1)) ∧
    (o1.left = [] → o1.bad = false → exec (.bldComplete ⟨core, n, k⟩ bad) s = .next (((s1.dropOp core n).modEngine core fun e =>
      e.setSlot slot { e.slot slot with image := o1.got, bad := false }).settleFor o.by_)) ∧
    (o1.left = [] → o1.bad = true →
      exec (.bldComplete ⟨core, n, k⟩ bad) s = .next ((((s1.dropOp core n).modEngine core fun e => e.setSlot slot { e.slot slot with
        fmt := if e.refilled slot o.seq then (e.slot slot).fmt else none, bad := true }).logError (bankOf 0x05 core) true
          (BitVec.ofNat 64 slot) 0).settleFor o.by_))) ∧
  (∀ (core n k t off : Nat) (bad int : Bool) (addr : Word) (o : EngOp) (p : Part) (s : State), s.opAt core n = some o →
    (o.work = .tzero t int → exec (.tileTransferComplete ⟨core, n, k⟩ bad) s = .next (((s.dropOp core n).modEngine core fun e =>
      e.modTile t fun x => { x with tag := some int, cells := [], ver := x.ver + 1, writer := false }).settleFor o.by_)) ∧
    (o.work = .tld t int addr → s.opPart o k = some (off, p) →
      let o1 := { o with left := o.left.eraseIdx k, got := o.got.writeBytes off (s.readPart p).1, bad := o.bad || bad || s.poisoned p.place }
      let s1 := s.noteRead p.place
      (o1.left ≠ [] → exec (.tileTransferComplete ⟨core, n, k⟩ bad) s = .next (s1.setOp core n o1)) ∧
      (o1.left = [] → exec (.tileTransferComplete ⟨core, n, k⟩ bad) s = .next (((s1.dropOp core n).modEngine core fun e => e.modTile t fun x =>
        { x with tag := if o1.bad then none else some int, cells := cellsOf 16384 0 (o1.got.readBytes 0 98304), ver := x.ver + 1,
                 writer := false }).settleFor o.by_))) ∧
    (o.work = .tst t addr → s.opPart o k = some (off, p) →
      let s1 := s.writePart o.by_.lid o.by_.crew p (tilePart ((s.coreAt core).engine.tile t) off p.n)
      let s2 := if bad then s1.mark p.place else s1
      exec (.tileTransferComplete ⟨core, n, k⟩ bad) s = .next (if o.left.eraseIdx k ≠ [] then s2.setOp core n { o with left := o.left.eraseIdx k }
        else (s2.dropOp core n).settleFor o.by_)))

/-! ### Events: the ends of squads, crews and launches -/

/-- R118, R119, R121, R206, R207: a decrement lowers its granule's count; of a granule whose count is 0 the entry is cleared by a
shootdown, and when that is complete the frame is zeroed and returned; a squad whose last thread has ended and that has nothing
under way frees its record, and retires if it has not (a squad that ended by EXIT retired then); a tracker entry drains; a crew that
has retired whole frees its core, and the last one ends the launch with DONE. R145, R303, R306, R309, R313, R335, R336, R346: a
watched wait that times out ends its launch with cause 0x0E; a trap whose writes have landed is acted on by its cause; a killed set
that is quiet is relaunched or its launch ends; a launch that is ending and quiet signals DONE and is freed; a step that is over
stops the squad for its debugger. R107, R108, R249, R319, R323, R324: a joined set is bound in one step where the places name its
crews whole, its order allows it and there is room, a reserved STATE being a machine check in its squads; a crew that must make room
is asked to stop, with its whole set; a set that has stopped, with nothing due, is saved. -/
def Obligations.LifecycleEventsComplete : Prop :=
  (∀ (i : Nat) (d : Decrement) (s : State), s.nextDecrement = some (i, d) →
    exec .wheyDecrement s = .next ({ s with mem := { s.mem with whey := s.mem.whey.eraseIdx i } }.modGranule d.job d.va.toNat fun g =>
      { g with count := g.count - 1 })) ∧
  (∀ (job : Nat) (va : Word) (s : State),
    let a := va.toNat / 65536 * 65536
    let f := (s.granule job a).frame
    s.granuleDue job a = true → s.shooting job a 65536 = false →
    (∀ pl, ((s.job? job).bind fun j => s.jobPlace j a) = some pl →
      exec (.granuleFree job va) s = .next (s.changeLeaf job a pl.2 (pl.2.raw - 1) [] none)) ∧
    (((s.job? job).bind fun j => s.jobPlace j a) = none →
      ∃ t, exec (.granuleFree job va) s = .next t ∧ t.granule job a = {} ∧ t.mem.free = joinFree f 65536 s.mem.free ∧
        ∀ k, k < 65536 → t.mem.dram.read (f + k) = 0)) ∧
  (∀ (q : Nat) (s : State) (sq : Squad), s.squad? q = some sq → recordOf q ≠ 16 → sq.liveLanes = [] → sq.intake = none →
    s.squadBusy sq.ref = false →
    exec (.squadRetire q) s = .next ((if sq.retired then s.freeRecord q else ((((s.freeRecord q).modCrew sq.lid sq.crew fun c =>
      { c with retired := c.retired ++ [sq.num] }).modLaunch sq.lid fun l => { l with arrived := l.arrived ++ sq.arrivals }).endStream sq.lid sq.crew)).settleFuses
        sq.lid sq.crew)) ∧
  (∀ (core n : Nat) (r : SquadRef) (s : State), (s.coreAt core).tracker[n]? = some r → s.squadBusy r = false →
    exec (.trackerEntryDrained core n) s = .next (s.modCore core fun c => { c with tracker := c.tracker.eraseIdx n })) ∧
  (∀ (lid crew : Nat) (s : State), s.crewDone lid crew = true →
    let s1 := ((s.leaveCore lid crew).freeImage lid crew).modCrew lid crew fun c =>
      { lid := lid, idx := crew, started := true, completed := true, boundAt := c.boundAt }
    exec (.crewComplete lid crew) s =
      .next (if s1.launchDone lid then (s1.signalDone (s1.launchOf lid) 0).freeLaunch lid else s1)) ∧
  (∀ (lid n : Nat) (w : Watch) (s : State), s.timedOut lid n = some w →
    ∃ t recs, exec (.watchdogTimeout lid n) s = .next t ∧ (t.launchOf lid).status = .ending 0x0E ∧
      (t.launchOf lid).records = (s.launchOf lid).records ++ s.diagRecord lid w :: recs) ∧
  (∀ (q : Nat) (s : State), s.trapDue q = true →
    let sq := s.squad q
    let c := sq.tcause.toNat % 256
    let s1 := s.stopIntake q
    let s2 := s1.addRecords sq.lid [trapRecord sq (some (coreOf q))]
    (c = 0x20 → exec (.trapTaken q) s = .next (s1.modSquad q fun x => { x with status := .serving (sq.tlanes.truncate 32) })) ∧
    (c = 0x10 ∨ c = 0x11 → exec (.trapTaken q) s = .next (s2.killSet sq.lid sq.crew c)) ∧
    (c ≠ 0x20 → c ≠ 0x10 → c ≠ 0x11 → (s.launchOf sq.lid).debugger = true → exec (.trapTaken q) s = .next (s1.toDebugger q)) ∧
    (c ≠ 0x20 → c ≠ 0x10 → c ≠ 0x11 → (s.launchOf sq.lid).debugger = false →
      exec (.trapTaken q) s = .next (s2.endLaunch sq.lid c))) ∧
  (∀ (lid c : Nat) (s : State), s.endDue lid = some c →
    let l := s.launchOf lid
    exec (.launchEnded lid) s = .next (((s.signalDone l (c * 2 ^ 8 + 1)).note (.report 0x81 l.job
      (bytesLE 4 lid ++ bytesLE 8 (c * 2 ^ 8 + 1) ++ l.records.flatten))).freeLaunch lid)) ∧
  (∀ (lid crew : Nat) (s : State),
    let l := s.launchOf lid
    let set := l.joined crew
    l.status = .running → inRanges l.killing crew = true → s.quiet lid (inRanges set) = true →
    exec (.relaunchDecision lid crew) s = .next (if s.mayRelaunch l set then s.relaunch l set
      else s.endLaunch lid (SMap.get 0x11 l.killCauses (setNumber set)))) ∧
  (∀ (q : Nat) (s : State) (sq : Squad) (pc : Word) (lanes : BitVec 32), s.squad? q = some sq → sq.status = .stepped pc lanes →
    s.hasWrites sq.ref = false → sq.accessing = false → (∀ r ∈ sq.invs, r.lanes &&& lanes = 0) →
    ∃ t, exec (.singleStepStop q) s = .next t ∧ (t.squad q).status = .debug ∧ (t.squad q).tepc = pc ∧
      (t.squad q).tlanes = lanes.zeroExtend 64 ∧ (t.squad q).tcause = BitVec.ofNat 64 (0x221 + (if sq.num = 16 then 256 else 0)) ∧
      ∀ l, (t.thread q l).pc = (s.thread q l).pc) ∧
  (∀ p ∈ [Instr.bind, .waitingSetBind], ∀ (lid : Nat) (places : List (Nat × Nat)) (state : BitVec 8) (s s1 : State),
    let l := s.launchOf lid
    let cs := places.map (·.1)
    s.wholeSet l places = true → s.mayBind l (l.joined ((places.head?.map (·.1)).getD 0)) = true → s.placesOk l [] places = true →
    cs.foldlM (fun st c => State.takeImage st lid c) s = some s1 →
    let s2 := cs.foldl (fun st c => st.settleFuses lid c) (places.foldl (fun st x => st.bindCrew l x) s1)
    (state = 1 → exec (p lid ⟨places, state⟩) s = .next s2) ∧
    (3 < state.toNat → exec (p lid ⟨places, state⟩) s = .next (s2.faultRecords lid cs state.toNat))) ∧
  (∀ p ∈ [(Instr.preemptRequest, false), (.timeSliceExpiry, true)], ∀ (lid crew : Nat) (s : State),
    s.isVictim lid crew p.2 = true →
    exec (p.1 lid crew) s = .next ((s.savedCrews lid crew).foldl (fun st c =>
      st.modCrew lid c.idx fun c => { c with stopReq := true }) s)) ∧
  (∀ (lid crew : Nat) (s : State), s.mayPreempt lid crew = true →
    exec (.preemptionTakesEffect lid crew) s = .next ((s.savedCrews lid crew).foldl (fun st c => st.saveCrew lid c.idx) s))

/-- R11, R109: every thread of a squad starts at ENTRY, live, with ARG, the crew index and the thread index as I64 in g0, g1 and g2, 0 with
tag RAW64 in every other register, 0 with tag I32x2 in the bracket registers, no mask bit set, FFLAGS, DRAW and SIG 0, and FRM as
the launch names it. -/
def Obligations.ThreadsStartAtEntry : Prop :=
  ∀ (l : Launch) (crew num at_ ctx lane : Nat), lane < 32 →
    let t := (startSquad l crew num at_ ctx).thread lane
    t.pc = l.entry ∧ t.live = true ∧ t.wait = .run ∧ SMap.get Reg.zero t.regs 0 = ⟨l.arg, .i64⟩ ∧
      SMap.get Reg.zero t.regs 1 = ⟨BitVec.ofNat 64 crew, .i64⟩ ∧
      SMap.get Reg.zero t.regs 2 = ⟨BitVec.ofNat 64 (num * 32 + lane), .i64⟩ ∧
      (∀ c, 3 ≤ c → SMap.get Reg.zero t.regs c = ⟨0, .raw64⟩) ∧ (∀ b, SMap.get ⟨0, .i32x2⟩ t.brk b = ⟨0, .i32x2⟩) ∧
      t.k = 0 ∧ t.fflags = 0 ∧ t.draw = 0 ∧ t.sig = 0 ∧ t.frm = l.frm ∧
      (∀ n, SMap.get 0 (startSquad l crew num at_ ctx).j n = 0)

/-! ### Events: the dependence graph -/

/-- R216, R229, R280, R281, R286, R288, R359, R363: a queued node that may start has its 64 bytes read part by part; once they are read it runs (the destination of
an XFORM into memory is undefined from there on), or fails where something is wrong in it, an uncorrectable error only once it has been retried. A node whose KIND is
reserved fails in the step of a SIGNAL node (startKind; DEDUCED, log 21). A running COPY, CHECK or PUT begins its next piece of at most 4,096 bytes, reads its source
part by part (staging it in 64-byte units), writes its destination part by part, and with the last part sums the piece, or sends it; a GET asks for its piece. A PUT or
GET sends ONE message for each piece, whose sequence number is PROG / 4096 (DESIGN CHOICE, log 42; the entropy value and the port that follows from it: log 73). -/
def Obligations.NodesRunPieceByPiece : Prop :=
  (∀ p ∈ [(Instr.copyNode, 1), (.xformNode, 2), (.checkNode, 3), (.launchNode, 4), (.signalNode, 5), (.putNode, 6), (.getNode, 7)],
    ∀ (lid crew k : Nat) (n : Node) (s : State),
    let g := (s.crewOf lid crew).graph
    (g.running.find? fun r => r.node.id == n.id && nKind r.bytes == p.2) = none → g.queued.find? (·.id == n.id) = some n →
    s.mayStart lid crew n = true →
    (∀ (o : Nat) (part : Part), n.left[k]? = some o → s.nodeAccess lid crew n.addr = none →
      s.enginePart (engineCx lid crew) false .load (n.addr.toNat + o) 16 = some part → s.poisoned part.place = false →
      exec (p.1 lid crew ⟨n.id, k⟩) s = .next ((s.noteRead part.place).modGraph lid crew fun g => { g with
        queued := g.queued.map fun m => if m.id = n.id then { m with got := m.got ++ [(o, (s.readPart part).1)] } else m })) ∧
    (n.left = [] → startKind n.bytes = p.2 →
      (s.nodeBad lid crew n n.bytes = none → exec (p.1 lid crew ⟨n.id, k⟩) s =
        .next ((if p.2 = 2 ∧ xDkind n.bytes = 0 then s.freeDst lid crew n.bytes else s).modGraph lid crew fun g => { g with
          queued := g.queued.erase n
          running := g.running ++ [⟨n, n.bytes, 0, if dataKind (nKind n.bytes) then BitVec.ofNat 32 (nRun n.bytes) else 0, n.retried,
            nKind n.bytes == 5, 0, 0, none, none, none, 0, if p.2 = 2 then s.xformPlaces lid crew n.bytes else [], false⟩] })) ∧
      (∀ t, s.nodeBad lid crew n n.bytes = some t → t.cause ≠ 0x11 → exec (p.1 lid crew ⟨n.id, k⟩) s = .next (((s.modGraph lid crew fun g => { g with
        queued := g.queued.erase n }).failNode lid crew n n.bytes none t).reportStranger lid n n.bytes t)) ∧
      (∀ t, s.nodeBad lid crew n n.bytes = some t → t.cause = 0x11 → exec (p.1 lid crew ⟨n.id, k⟩) s = .next (if n.retried
        then (s.modGraph lid crew fun g => { g with queued := g.queued.erase n }).failNode lid crew n n.bytes none t
        else s.modGraph lid crew fun g => { g with
          queued := g.queued.map fun m => if m.id = n.id then { m with got := [], retried := true } else m })))) ∧
  (∀ p ∈ [(Instr.copyNode, 1), (.checkNode, 3), (.putNode, 6)], ∀ (lid crew n k : Nat) (r : RunNode) (s : State),
    s.atNode lid crew n p.2 r →
    (r.piece = none → r.span ≠ 0 → r.msg = none →
      exec (p.1 lid crew ⟨n, k⟩) s = .next (s.setRunning lid crew { r with piece := some (s.dataPiece r) })) ∧
    (∀ (pc q : Piece) (x : Nat × Nat × Nat) (part : Part) (s2 : State), r.piece = some pc → pc.src[k]? = some x →
      s.nodePart lid crew (srcView r.bytes) .load x.2.1 x.2.2 = .ok (some part) → s.poisoned part.place = false →
      State.stageUnits lid crew (pc.len / 64 + 1) { pc with src := pc.src.eraseIdx k, got := pc.got.writeBytes x.1 (s.readPart part).1 }
        (s.noteRead part.place) = (q, false, s2) →
      exec (p.1 lid crew ⟨n, k⟩) s = .next (s2.pieceNext lid crew r q)) ∧
    (∀ (pc : Piece) (x : Nat × Nat × Nat) (part : Part), p.2 = 1 → r.piece = some pc → pc.src[k]? = none →
      (pc.dst.filter fun x => decide (x.1 + x.2.2 ≤ pc.out.length))[k - pc.src.length]? = some x →
      s.nodePart lid crew (dstView r.bytes) .store x.2.1 x.2.2 = .ok (some part) → s.partHeld part = false →
      exec (p.1 lid crew ⟨n, k⟩) s = .next ((s.writePart lid crew part (pc.out.drop x.1)).pieceNext lid crew r { pc with dst := pc.dst.erase x }))) ∧
  (∀ (lid crew : Nat) (r : RunNode) (p : Piece) (s : State), dataKind (nKind r.bytes) = true →
    (p.src ≠ [] ∨ p.dst ≠ [] → s.pieceNext lid crew r p = s.setRunning lid crew { r with piece := some p }) ∧
    (p.src = [] → p.dst = [] →
      (nKind r.bytes = 1 → s.pieceNext lid crew r p = s.setRunning lid crew (r.advance p.len (checksum (nAlg r.bytes) r.out p.out))) ∧
      (nKind r.bytes = 3 →
        s.pieceNext lid crew r p = s.setRunning lid crew (r.advance p.len (checksum (nAlg r.bytes) r.out (p.got.readBytes 0 p.len)))) ∧
      (nKind r.bytes = 6 →
        let job := (s.launchOf lid).job
        let t := s.pieceNext lid crew r p
        t.nextMsg = s.nextMsg + 1 ∧
        t.io.messages = s.io.messages ++ [.put s.nextMsg job (nPeer r.bytes) lid crew r.node.id p.len] ∧
        let e := Config.entropy r.node.addr.toNat (r.prog / 4096)
        t.io.sent = s.io.sent ++ [.packet job (nPeer r.bytes) (((s.job? job).map (·.net)).getD 0) (s.route (nPeer r.bytes) e)
          (.putData s.nextMsg (r.prog / 4096) e (BitVec.ofNat 64 (nDst r.bytes + r.prog)) p.out)] ∧
        (r ∈ (s.crewOf lid crew).graph.running →
          { r with out := checksum (nAlg r.bytes) r.out p.out, msg := some s.nextMsg, piece := none } ∈ (t.crewOf lid crew).graph.running)))) ∧
  (∀ (lid crew n k : Nat) (r : RunNode) (s : State), s.atNode lid crew n 7 r → r.span ≠ 0 → r.msg = none →
    let e := Config.entropy r.node.addr.toNat (r.prog / 4096)
    ∃ t, exec (.getNode lid crew ⟨n, k⟩) s = .next t ∧ t.nextMsg = s.nextMsg + 1 ∧
      t.io.messages = s.io.messages ++ [.get s.nextMsg (s.launchOf lid).job (nPeer r.bytes) lid crew n r.span []] ∧
      t.io.sent = s.io.sent ++ [.packet (s.launchOf lid).job (nPeer r.bytes) (((s.job? (s.launchOf lid).job).map (·.net)).getD 0)
        (s.route (nPeer r.bytes) e) (.getRequest s.nextMsg (r.prog / 4096) e (BitVec.ofNat 64 (nSrc r.bytes + r.prog)) r.span)] ∧
      { r with msg := some s.nextMsg } ∈ (t.crewOf lid crew).graph.running)

/-- R281, R283, R284, R286, R287, R288: an XFORM into a tile or slot is accepted in its turn; in its turn it begins to read, reads its source and, into memory, makes
accesses to its destination part by part, which leave it undefined; with the last part its memory, tile or slot holds what it has converted, or free values where its
source has changed while it ran. A LAUNCH reads its record, which with the last part goes to Driene, and finishes with the reason where Driene refuses it; a SIGNAL has
nothing but its finish. A node that is done takes the actions of its finish one by one: it records PROG, passes RUN on, signals its object, and counts its successors
down, and leaves the queue; it fails where a check of what an action touches fails. A halted queue whose nodes have ended writes its error record and signals the error
area's object. -/
def Obligations.NodesFinish : Prop :=
  (∀ (lid crew n k : Nat) (r : RunNode) (s : State), s.atNode lid crew n 2 r →
    let b := r.bytes
    let turn := (xDkind b = 0 ∨ r.op.isSome = true) ∧ s.xformTurn lid crew r = true
    (∀ e, xDkind b = 1 → r.op = none → s.engineFor lid crew = some e → (e.tile (nDst b)).due (xTver b % 16) = true →
      exec (.xformNode lid crew ⟨n, k⟩) s = .next (s.acceptXform lid crew r (.xtile (nDst b)))) ∧
    (∀ e, xDkind b = 2 → r.op = none → s.engineFor lid crew = some e →
      exec (.xformNode lid crew ⟨n, k⟩) s = .next (s.acceptXform lid crew r (.xslot (nDst b) (xSfmt b)))) ∧
    (turn → r.piece = none → exec (.xformNode lid crew ⟨n, k⟩) s = .next (s.setRunning lid crew
      { r with piece := some ⟨rowBytes (xSrcRows b), s.xformSrc b, rowParts (nDst b) (xDstRows b), [], []⟩ })) ∧
    (∀ (pc q : Piece) (x : Nat × Nat × Nat) (part : Part) (s2 : State), turn → r.piece = some pc → pc.src[k]? = some x →
      s.nodePart lid crew (srcView b) .load x.2.1 x.2.2 = .ok (some part) → s.poisoned part.place = false →
      State.stageUnits lid crew (pc.len / 64 + 1) { pc with src := pc.src.eraseIdx k, got := pc.got.writeBytes x.1 (s.readPart part).1 }
        (s.noteRead part.place) = (q, false, s2) →
      exec (.xformNode lid crew ⟨n, k⟩) s = .next (if q.src ≠ [] ∨ (xDkind b = 0 ∧ q.dst ≠ []) then s2.setRunning lid crew { r with piece := some q }
        else s2.endXform lid crew r q)) ∧
    (∀ (pc : Piece) (x : Nat × Nat × Nat) (part : Part), turn → xDkind b = 0 → r.piece = some pc → pc.src = [] → pc.out.length = pc.len →
      (pc.dst.filter fun x => decide (x.1 + x.2.2 ≤ (xformRows b pc.out).length))[k]? = some x →
      s.nodePart lid crew (dstView b) .store x.2.1 x.2.2 = .ok (some part) → s.partHeld part = false →
      let q := { pc with dst := pc.dst.erase x }
      (q.dst ≠ [] ∨ s.dstHeld lid crew b = false) → exec (.xformNode lid crew ⟨n, k⟩) s = .next (if q.dst ≠ []
        then (s.freePart part).setRunning lid crew { r with piece := some q } else (s.freePart part).endXform lid crew r q))) ∧
  (∀ (lid crew : Nat) (r : RunNode) (p : Piece) (s : State),
    let b := r.bytes
    let s1 := { s with freeCtr := s.freeCtr + 1 }
    let r1 := { r with done := true, piece := none, op := none }
    (xDkind b = 0 → s.endXform lid crew r p = ((if r.changed then s1.freeDst lid crew b
      else s1.fillDst lid crew b (xformRows b p.out)).setRunning lid crew r1)) ∧
    (∀ op, xDkind b ≠ 0 → r.op = some op → s.endXform lid crew r p =
      (s1.fillXform lid crew b op (if r.changed then freeList s.freeCtr p.len else p.out)).setRunning lid crew r1)) ∧
  (∀ (lid crew n k : Nat) (r : RunNode) (s : State), s.atNode lid crew n 4 r →
    (r.piece = none → exec (.launchNode lid crew ⟨n, k⟩) s = .next (s.setRunning lid crew
      { r with piece := some ⟨128, partsOf (nSrc r.bytes) 128, [], [], []⟩ })) ∧
    (∀ (pc : Piece) (x : Nat × Nat × Nat) (part : Part) (j : Job), r.piece = some pc → pc.dst = [] → pc.src[k]? = some x →
      s.nodePart lid crew (srcView r.bytes) .load x.2.1 x.2.2 = .ok (some part) → s.poisoned part.place = false →
      let s1 := s.noteRead part.place
      let q := { pc with src := pc.src.eraseIdx k, got := pc.got.writeBytes x.1 (s.readPart part).1 }
      (q.src ≠ [] → exec (.launchNode lid crew ⟨n, k⟩) s = .next (s1.setRunning lid crew { r with piece := some q })) ∧
      (q.src = [] → s1.job? (s1.launchOf lid).job = some j →
        let rec_ := q.got.readBytes 0 q.len
        let s3 := s1.tablesSeen j rec_
        (∀ s2 m, s3.takeLaunch j rec_ 0 (some (nSrc r.bytes)) 0 true = .ok (s2, m) →
          exec (.launchNode lid crew ⟨n, k⟩) s = .next (s2.setRunning lid crew { r with done := true, piece := none })) ∧
        (∀ why, s3.takeLaunch j rec_ 0 (some (nSrc r.bytes)) 0 true = .error why →
          exec (.launchNode lid crew ⟨n, k⟩) s = .next (s3.setRunning lid crew
            { r with done := true, code := 3, detail := BitVec.ofNat 32 why, piece := none }))))) ∧
  (∀ (lid crew n k : Nat) (r : RunNode) (s : State), s.atNode lid crew n 5 r → exec (.signalNode lid crew ⟨n, k⟩) s = .next s) ∧
  (∀ (lid crew n : Nat) (r : RunNode) (s : State),
    ((s.crewOf lid crew).graph.running.find? fun r => r.node.id == n && s.finishFree lid crew r) = some r →
    let succs := nSuccs r.bytes r.node.addr
    let after := fun (st : State) =>
      let st1 := st.setRunning lid crew { r with fin := r.fin + 1 }
      if (if r.status.1 = 0 then 2 * succs.length + 1 else succs.length + 1) ≤ r.fin then st1.dropRunning lid crew n else st1
    (∀ t, s.finishBad lid crew r = some t → exec (.nodeFinish lid crew n) s = .next (s.failRunning lid crew r t)) ∧
    (s.finishBad lid crew r = none →
    (r.fin = 0 → exec (.nodeFinish lid crew n) s = .next (after (if dataKind (nKind r.bytes)
      then s.graphWrite lid crew (r.node.addr + 0x3C) (bytesLE 4 (nLen r.bytes)) else s))) ∧
    (∀ a, 1 ≤ r.fin → succs[r.fin - 1]? = some a → exec (.nodeFinish lid crew n) s = .next (after (s.passRun lid crew r a))) ∧
    (r.fin = succs.length + 1 → exec (.nodeFinish lid crew n) s = .next (after (if nDone r.bytes = 0 then s
      else s.graphSignal lid crew (BitVec.ofNat 64 (nDone r.bytes)) (statusWord r.status.1 0 (nKind r.bytes) r.status.2)))) ∧
    (∀ a, succs.length + 2 ≤ r.fin → succs[r.fin - succs.length - 2]? = some a →
      exec (.nodeFinish lid crew n) s = .next (after (s.countDown lid crew r.node a))))) ∧
  (∀ (lid crew : Nat) (f : Failure) (s : State), (s.crewOf lid crew).graph.failures.find? (·.waits == []) = some f →
    s.graphBound lid crew = true → s.graphHeld lid crew f.node.err 64 = false →
    exec (.errorAreaWrite lid crew) s = .next (((s.graphWrite lid crew (f.node.err + 0x10)
      (bytesLE 8 f.node.addr.toNat ++ bytesLE 8 f.addr.toNat ++ bytesLE 4 f.discarded.toNat ++ bytesLE 1 f.cause ++ bytesLE 1 f.kind
        ++ List.replicate 26 0)).graphSignal lid crew f.node.err (statusWord 1 f.cause f.kind 0)).modGraph lid crew fun g =>
          { g with failures := g.failures.erase f }))

/-! ### Events: translations, errors, write-back, background work -/

/-- R189, R193, R195, R196, R344, R369: a shootdown writes the new entry while the old one may still be used, and completes when the
accesses under the old one have landed; a page is split, or small ones joined, and the larger of the two sizes is shot down; a key is
loaded; write-back sets WB on the dirty file-backed pages, gives a drained page to the storage port, and clears WB when the flash write
ends, D too if it went well; calibration changes nothing, telemetry and wear management give the port and Driene what they must. A file-backed frame whose mapping
was taken away is saved to its file once its shootdown is complete (saveFrame; DEDUCED, log 22). No covered page is split or joined, and a page is joined into the
largest size that its neighbours allow (joinInto; DEDUCED, log 53). -/
def Obligations.DeviceEventsComplete : Prop :=
  (∀ (job pa : Nat) (va entry : Word) (j : Job) (l : Leaf) (s : State), s.job? job = some j → s.jobPlace j va.toNat = some (pa, l) →
    s.shooting job va.toNat 1 = false → l.bit 7 = false →
    let n := pageBytes l.size
    exec (.shootdown job va entry) s = .next { s with mem := { s.mem with
      dram := setLeaf s.mem.dram l entry.toNat, stale := s.mem.stale ++ [⟨job, va.toNat / n * n, n, BitVec.ofNat 64 l.raw, [], none⟩] } }) ∧
  (∀ (job : Nat) (va : Word) (st : Stale) (s : State), s.staleFor job va.toNat = some st → s.writesUnder st.job st.va st.size = false →
    exec (.shootdownComplete job va) s = .next (st.give.foldl (fun s g => s.giveFrame g.1 g.2)
      ({ s with mem := { s.mem with stale := s.mem.stale.erase st } }.saveFrame ⟨0, st.entry.toNat⟩ st.file))) ∧
  (∀ (job pa : Nat) (va : Word) (j : Job) (l : Leaf) (s t : State), s.job? job = some j → s.jobPlace j va.toNat = some (pa, l) →
    s.shooting job va.toNat 1 = false → l.bit 7 = false → (l.cls == 1) = false →
    (s.splitPage job l = some t → let n := pageBytes l.size
      exec (.pageSplit job va false) s = .next { t with mem := { t.mem with
        stale := t.mem.stale ++ [⟨job, va.toNat / n * n, n, BitVec.ofNat 64 l.raw, [], none⟩] } }) ∧
    ((joinSizes l.size).findSome? (s.joinInto j va.toNat) = some t → exec (.pageSplit job va true) s = .next t)) ∧
  (∀ (slot : BitVec 8) (s : State), ∃ t, exec (.keySlotLoad slot) s = .next t ∧ SMap.get 0 t.mem.keys slot.toNat = s.mem.nextKey ∧
    t.mem.nextKey = s.mem.nextKey + 1 ∧ ∀ n, n ≠ slot.toNat → SMap.get 0 t.mem.keys n = SMap.get 0 s.mem.keys n) ∧
  (∀ s : State, exec .writebackScan s = .next (s.filePages.foldl (fun st p => st.modLeaf p.1 p.2 fun l =>
    if l.bit 8 && !l.bit 7 && !st.shooting p.1 p.2 1 then l.raw + 128 else l.raw) s)) ∧
  (∀ (job : Nat) (va : Word) (l : Leaf) (s : State), s.drainedPage job va.toNat = some l → s.mem.latent = [] →
    exec (.writebackDrained job va) s = .next { s with io := { s.io with nvme := s.io.nvme ++
      [.page job va ((List.range (pageBytes l.size)).map fun i => s.byteAt (.dram (l.frame + i) (s.leafKey l)))] } }) ∧
  (∀ (job pa v : Nat) (va w : Word) (data : List Byte) (j : Job) (l : Leaf) (s : State),
    s.pageCommand job va.toNat = some (.page v w data) → s.job? job = some j →
    s.jobPlace j va.toNat = some (pa, l) → l.bit 7 = true → l.bit 8 = true →
    let s1 : State := { s with io := { s.io with nvme := s.io.nvme.erase (.page v w data) } }
    (∀ h f off, s.backing job va.toNat = some (h, f, off) →
      exec (.writebackComplete job va true) s = .next (({ s1 with mem := { s1.mem with dram := setLeaf s1.mem.dram l (l.raw - 128 - 256) } } :
        State).modFile f.path fun d => putFile d off data) ∧
      exec (.writebackComplete job va false) s = .next (
        ({ s1 with mem := { s1.mem with dram := setLeaf s1.mem.dram l (l.raw - 128 - 0) } } : State).storageError job h off))) ∧
  (∀ (n : Nat) (ok : Bool) (c : Nvme) (s t : State), s.io.nvme[n]? = some c →
    ({ s with io := { s.io with nvme := s.io.nvme.eraseIdx n } } : State).commandDone c ok = some t →
    exec (.nvmeCompletion n ok) s = .next t) ∧
  (∀ s : State, exec .calibrationWindow s = .next s ∧
    exec .telemetrySample s = .next { s with io := { s.io with sent := s.io.sent ++ [.telemetry s.cycle] } } ∧
    ∀ (port : Nat) (blocks : List Nat), port < 2 →
      exec (.wearManagement ⟨port, blocks⟩) s = .next { s with io := { s.io with nvme := s.io.nvme ++ [.deallocate port blocks] } })

/-- R179, R256, R288, R332, R333, R334, R339, R344: an error bank is cleared; a corrected error waits for its bank and does nothing else; an uncorrectable
one waits for the bank of the unit where it is found, and poisons the line, turns registers POISON, makes tiles or slots INVALID, or fails a
node; a patrol finds nothing, corrects, or poisons. With the end of the cycle the errors enter their banks, uncorrectable ones first. The lines of a stack slice are
counted from where the slice lies in its launch's pool (DESIGN CHOICE, log 72), and an error in the operand store turns what the lane holds there POISON (DESIGN CHOICE,
log 78). R188, R350: the slice of the die cache is that of the die on which the line lies. -/
def Obligations.ErrorEventsComplete : Prop :=
  (∀ (bank : Nat) (s : State), isBank bank = true → exec (.bankClear bank) s = .next (s.modBank bank fun _ => {})) ∧
  (∀ (a : Word) (info : BitVec 128) (s : State),
    let entered := fun (uc : Bool) (bank addr : Nat) =>
      ({ s with mem := { s.mem with errors := s.mem.errors ++ [⟨bank, uc, BitVec.ofNat 64 addr, info⟩] } } : State)
    let logged := entered true
    let found := fun (site : ErrorSite) (n bank addr : Nat) (spoiled : State → State) =>
      exec (.correctedError ⟨site, n⟩ a info) s = .next (entered false bank addr) ∧
      exec (.uncorrectableError site n a info) s = .next (spoiled (logged bank addr))
    (∀ n, 64 * n < Config.dramBytes →
      found .dramLine n (s.bankFor (.dram (64 * n) 0)) (64 * n) (·.mark (.dram (64 * n) 0)) ∧
      found .dieCacheLine n (bankOf 0x07 (s.dieOf (64 * n))) (64 * n) (·.mark (.dram (64 * n) 0))) ∧
    (∀ lid crew n, (s.crewOf lid crew).started = true → 64 * n < (s.launchOf lid).scratch →
      found (.scratchLine lid crew) n (s.bankFor (.scratch lid crew (64 * n))) (64 * n) (·.mark (.scratch lid crew (64 * n)))) ∧
    (∀ lid crew squad lane n q, s.recordFor ⟨lid, crew, squad⟩ = some q → (s.thread q lane).live = true → 64 * n < (s.launchOf lid).stack →
      let at_ := (s.launchOf lid).sliceAt (s.thread q lane).slice + 64 * n
      found (.stackLine lid crew squad lane) n (s.bankFor (.dram at_ 0)) at_ fun st => st.modThread q lane
        fun t => { t with stackPoison := SMap.set 0 t.stackPoison n (BitVec.allOnes 64) }) ∧
    (∀ q n sq, s.squad? q = some sq → n < 238 → n ∉ sq.missing →
      found (.registerLine q) n (bankOf 0x01 (coreOf q)) n (·.setSquad q (sq.poisonLine s.cycle n))) ∧
    (∀ q n sq, s.squad? q = some sq → (sq.thread n).live = true →
      found (.operandStore q) n (bankOf 0x02 (coreOf q)) n fun st => st.modThread q n fun t =>
        { [56, 57, 58, 59, 60, 61].foldl (fun (t : Thread) c => t.poisonReg s.cycle c) t with
          brk := (List.range 4).foldl (fun m c => SMap.set Reg.zero m c { SMap.get Reg.zero m c with tag := .poison }) t.brk }) ∧
    (∀ core n, core < Config.cores → n < 256 →
      found (.rindSlot core) n (bankOf 0x05 core) n fun st => st.modEngine core fun e => e.setSlot n { e.slot n with fmt := none }) ∧
    (∀ core, core < Config.cores → exec (.correctedError ⟨.matrixArray core, 0⟩ a info) s = .next (entered false (bankOf 0x04 core) 0)) ∧
    (∀ core, core < Config.cores → (s.coreAt core).engine.owner = none →
      ∃ t, exec (.uncorrectableError (.matrixArray core) 0 a info) s = .next t ∧
        (∀ n, ((t.coreAt core).engine.tile n).tag = none) ∧ ∀ n, ((t.coreAt core).engine.slot n).fmt = none) ∧
    (∀ core lid crew, core < Config.cores → (s.coreAt core).engine.owner = some (lid, crew) →
      ∃ s2 : State, (∀ n, ((s2.coreAt core).engine.tile n).tag = none) ∧ (∀ n, ((s2.coreAt core).engine.slot n).fmt = none) ∧
        exec (.uncorrectableError (.matrixArray core) 0 a info) s = .next (s2.killSet lid crew 0x11)) ∧
    (∀ lid crew node r, s.stagedNode lid crew node = some r →
      let s1 := logged (bankOf 0x06 ((s.crewOf lid crew).core.getD 0)) 0
      exec (.uncorrectableError (.staging lid crew) node a info) s = .next (if r.retried then s1.failRunning lid crew r ⟨0x11, 0⟩
        else (s1.recordProg lid crew r).setRunning lid crew { r with retried := true, piece := none, msg := none })) ∧
    (∀ p ∈ [(ErrorSite.fabricLink, 0x09), (.networkPort, 0x0A), (.storagePort, 0x0B)], ∀ n : Nat, isBank (bankOf p.2 n) = true →
      found p.1 n (bankOf p.2 n) a.toNat id) ∧
    (a.toNat < 16777216 → found .serviceSram 0 (bankOf 0x0C 0) a.toNat id)) ∧
  (∀ (line : Nat) (s : State), 64 * line < Config.dramBytes →
    let p : Place := .dram (64 * line) 0
    let s1 := s.noteRead p
    let found := fun (uc : Bool) =>
      ({ s1 with mem := { s1.mem with errors := s1.mem.errors ++ [⟨s.bankFor p, uc, BitVec.ofNat 64 (64 * line), 0⟩] } } : State)
    exec (.patrolScrub line false false) s = .next s1 ∧ exec (.patrolScrub line true false) s = .next (found false) ∧
    ∀ c : Bool, exec (.patrolScrub line c true) s = .next ((found true).mark p)) ∧
  (∀ s : State, s.settleErrors = (s.mem.errors.foldl (fun acc e => insertError e acc) []).foldl State.enterError
      { s with mem := { s.mem with errors := [] } } ∧
    ∀ (e : BankError) (n : Nat), (SMap.get {} (s.enterError e).mem.banks n : Bank) = (if n = e.bank then
      (if e.uc then (SMap.get {} s.mem.banks n : Bank).uncorrectable e.addr e.info else (SMap.get {} s.mem.banks n : Bank).corrected e.addr e.info)
      else SMap.get {} s.mem.banks n))

/-! ### Events: the network -/

/-- R216, R230, R359-R365, R367, R368: a packet made with its job's key is taken (another is dropped). A peer's write is checked and its parts wait to
land at its address, a failed check is answered with a NACK, a message that was acknowledged is acknowledged again; a peer's read is answered
with its data; the data of a GET waits to land; a trimmed packet is answered with a NACK; socket packets are delivered in order. A message is
acknowledged when all of it has landed; a NACK fails its node, or has a trimmed packet sent again; a link leaves the routing tables, and
what was in flight through it is sent again; an unreachable peer fails the nodes that name it, and is reported. Packets about a message of ours count under its job's key
alone, and what is sent goes under the key of its job by a port that is up (the choice among the ports: DESIGN CHOICE, log 73). Cause 0 is the NACK of a trimmed packet,
on which the packet is sent again, and cause 0x11 that of a poisoned source, on which the node is retried once (DEDUCED, log 61); a peer's read is answered in one step
(DESIGN CHOICE, log 39). -/
def Obligations.NetworkEventsComplete : Prop :=
  (∀ (p : Packet) (key : Nat) (s : State), s.authentic p key = false → exec (.packetArrival ⟨p, key⟩) s = .next s) ∧
  (∀ (job peer msg seq count : Nat) (addr : Word) (data : List Byte) (j : Job) (s : State), s.boot = .running → s.job? job = some j →
    let i : Instr := .packetArrival ⟨.write job peer msg seq count addr data, j.net⟩
    (s.io.acked.contains (job, peer, msg) = true → exec i s = .next (s.sendTo job peer (.ack msg))) ∧
    (∀ r, s.io.acked.contains (job, peer, msg) = false → s.refusedMsg job peer msg = some r →
      exec i s = .next (s.sendTo job peer (.nack msg r.cause r.addr))) ∧
    (s.io.acked.contains (job, peer, msg) = false → s.refusedMsg job peer msg = none →
      (∀ t, s.remoteParts j .store addr.toNat data.length = .error t → ∃ u, exec i s = .next u ∧
        u.io.sent = (s.sendTo job peer (.nack msg t.cause t.addr)).io.sent ∧ u.io.acked = s.io.acked ∧
        u.io.refused = s.io.refused ++ [⟨job, peer, msg, t.cause, t.addr⟩] ∧
        u.mem.dram = s.mem.dram ∧ u.mem.writes = s.mem.writes.filter (·.by_ != peerRef job peer msg)) ∧
      (∀ ps, s.remoteParts j .store addr.toNat data.length = .ok ps →
        let s1 := s.postParts (peerRef job peer msg) ps data
        (s1.incoming job peer msg = none → exec i s = .next (s1.setMessages (· ++ [.inbound msg job peer count [seq]]))) ∧
        (∀ c got, s1.incoming job peer msg = some (.inbound msg job peer c got) → exec i s = .next (s1.setMessages fun ms =>
          ms.map fun m => if m = .inbound msg job peer c got
            then .inbound msg job peer c (if got.contains seq then got else got ++ [seq]) else m))))) ∧
  (∀ (job peer : Nat) (p : OutPacket) (s : State), s.sendTo job peer p =
    s.note (.packet job peer (((s.job? job).map (·.net)).getD 0) (s.route peer p.entropyValue) p)) ∧
  (∀ (job peer msg seq entropy len : Nat) (addr : Word) (j : Job) (s : State), s.boot = .running → s.job? job = some j →
    let i : Instr := .packetArrival ⟨.readRequest job peer msg seq entropy addr len, j.net⟩
    (∀ t, s.remoteParts j .load addr.toNat len = .error t → exec i s = .next (s.sendTo job peer (.nack msg t.cause t.addr))) ∧
    (∀ ps, s.remoteParts j .load addr.toNat len = .ok ps → exec i s = .next (
      let r := s.readParts ps
      r.2.2.sendTo job peer (if r.2.1 then .nack msg 0x11 addr else .readData msg seq entropy r.1)))) ∧
  (∀ (msg seq count off job peer lid crew node len : Nat) (data : List Byte) (got : List (Nat × Nat × List Byte)) (r : RunNode) (j : Job)
    (a : Access) (ps : List Part) (s : State), s.boot = .running → s.job? job = some j →
    let i : Instr := .packetArrival ⟨.readData msg seq count off data, j.net⟩
    let m : Message := .get msg job peer lid crew node len got
    let dst : Access := { a with addr := a.addr + r.prog + off, len := data.length }
    s.outgoing msg = some m → s.nodeOf lid crew node msg = some r → nodeAccesses r.bytes = [a] → off + data.length ≤ len →
    (∀ t, s.accessesBad lid crew [dst] = some t →
      exec i s = .next (((s.dropMessage m).dropData (messageRef lid crew msg)).failRunning lid crew r t)) ∧
    (s.accessesBad lid crew [dst] = none →
      s.spanParts (engineCx lid crew) dst.view.isSome .store (span 16 (s.accessBase dst + dst.addr) dst.len) = some ps →
      exec i s = .next ((s.postParts (messageRef lid crew msg) ps data).setMessages fun ms => ms.map fun x => if x = m then
        .get msg job peer lid crew node len (if got.any (·.1 == seq) then got else got ++ [(seq, off, data)]) else x))) ∧
  (∀ (n seq job peer port msg key : Nat) (data : List Byte) (s : State), s.boot = .running →
    (s.authentic (.trimmed job peer msg) key = true →
      exec (.packetArrival ⟨.trimmed job peer msg, key⟩) s = .next (s.sendTo job peer (.nack msg 0 0))) ∧
    (s.authentic (.rod n seq data) key = true →
      exec (.packetArrival ⟨.rod n seq data, key⟩) s = .next (s.modSocket n fun k => k.receive seq data)) ∧
    (s.authentic (.reset n) key = true →
      exec (.packetArrival ⟨.reset n, key⟩) s = .next (s.modSocket n fun k => { k with broken := true })) ∧
    (s.authentic (.connect job peer port) key = true → ∃ t, exec (.packetArrival ⟨.connect job peer port, key⟩) s = .next t ∧
      t.io.sockets = s.io.sockets ++ [⟨s.nextSocket, 0, job, peer, port, false, [], 0, [], false, false, 0⟩])) ∧
  (∀ (id key : Nat) (sender : Option (Nat × Nat)) (m : Message) (s : State), s.messageNo sender id = some m →
    (∀ job peer lid crew node len r, m = .put id job peer lid crew node len → s.nodeOf lid crew node id = some r →
      exec (.messageAcknowledged ⟨sender, id, key⟩) s = .next (if (s.job? job).any (fun j => j.net == key)
        then (s.dropMessage m).setRunning lid crew (r.advance len r.out) else s)) ∧
    (∀ job peer lid crew node len got r bs, m = .get id job peer lid crew node len got → s.hasWrites (messageRef lid crew id) = false →
      s.nodeOf lid crew node id = some r → gotBytes len got = some bs →
      exec (.messageAcknowledged ⟨sender, id, key⟩) s =
        .next ((s.dropMessage m).setRunning lid crew (r.advance len (checksum (nAlg r.bytes) r.out bs)))) ∧
    (∀ job peer count got, m = .inbound id job peer count got → count ≤ got.length → s.hasWrites (peerRef job peer id) = false →
      exec (.messageAcknowledged ⟨sender, id, key⟩) s = .next (((s.dropMessage m).closeMessage job peer id).sendTo job peer (.ack id)))) ∧
  (∀ (id key lid crew node : Nat) (m : Message) (r : RunNode) (cause : BitVec 8) (addr : Word) (s : State),
    s.outgoing id = some m → ((∃ job peer len, m = .put id job peer lid crew node len) ∨
      ∃ job peer len got, m = .get id job peer lid crew node len got) →
    (s.keyFits m key = false → exec (.packetNack ⟨id, key⟩ cause addr) s = .next s) ∧
    (s.keyFits m key = true →
      (∀ job peer k port p, cause = 0 → s.packetOf id = some (.packet job peer k port p) →
        exec (.packetNack ⟨id, key⟩ cause addr) s = .next (s.sendTo job peer p)) ∧
      (cause ≠ 0 → s.nodeOf lid crew node id = some r →
        let s1 := (s.dropMessage m).dropData (messageRef lid crew id)
        exec (.packetNack ⟨id, key⟩ cause addr) s = .next (if cause = 0x11 then s1.stagingError s lid crew r ⟨0x11, addr⟩
          else s1.failRunning lid crew r ⟨cause.toNat, addr⟩)))) ∧
  (∀ (m : Message) (key : Nat) (s : State), s.keyFits m key = (s.job? m.job).any fun j => j.net == key) ∧
  (∀ (peer port : Nat) (s : State), port < 12 →
    (port ∉ s.io.linksDown → exec (.linkFailure ⟨none, port⟩) s =
      .next (({ s with io := { s.io with linksDown := s.io.linksDown ++ [port] } } : State).resendFrom none port)) ∧
    ((peer, port) ∉ s.io.peerLinksDown → exec (.linkFailure ⟨some peer, port⟩) s =
      .next (({ s with io := { s.io with peerLinksDown := s.io.peerLinksDown ++ [(peer, port)] } } : State).resendFrom (some peer) port))) ∧
  (∀ (job peer : Nat) (s : State), (s.job? job).isSome = true → (job, peer) ∉ s.io.peersDown →
    exec (.peerUnreachable job peer) s = .next ((((s.jobLaunches job).flatMap fun (l : Launch) => s.crewsOf l.lid).foldl
      (fun (st : State) c => st.failPeer peer c) { s with io := { s.io with peersDown := s.io.peersDown ++ [(job, peer)] } }).note
        (.report 0x83 job (bytesLE 2 peer))))

/-! ### Reset, boot, and the request channel -/

/-- R352-R355: module reset keeps what is fused, on flash or enrolled, and leaves the rest as after reset; the ROM starts the image
whose signature and version are in order, and goes on to the second copy and then to recovery where it cannot be read or is not in
order; Driene zeroes DRAM, loads its keys and opens the channel, after which every key slot holds a key of its own (DESIGN CHOICE,
log 14); the thermal trip stops everything and ends every launch with cause 0x11, an admitted one too (DEDUCED, log 51); a fuse is
blown. R191, R306, R345, R353, R358, R371: what else sets a launch going. An admitted launch becomes resident and is answered;
injection is enabled for a job; a key is enrolled, at most 16; a debugger is attached; in recovery the image is written to the boot
partition, as its copy A (DESIGN CHOICE, log 52), and the module resets, unless the module is retired. -/
def Obligations.BootAndOperatorEventsComplete : Prop :=
  (∀ s : State, ∃ t, exec .moduleReset s = .next t ∧ t.boot = .rom 0 ∧ t.cycle = 0 ∧ t.fuses = s.fuses ∧ t.keyids = s.keyids ∧
    t.io.bootA = s.io.bootA ∧ t.io.bootB = s.io.bootB ∧ t.io.files = s.io.files ∧ t.jobs = [] ∧ t.launches = [] ∧ t.crews = [] ∧
    t.squads = [] ∧ t.cores = []) ∧
  (∀ (c : Nat) (s : State), s.boot = .rom c →
    let b := if c = 0 then s.io.bootA else s.io.bootB
    let next := if c = 0 then Boot.rom 1 else .recovery
    let s1 := { s with freeCtr := s.freeCtr + 1 }
    exec .bootImageRead s = .next (if s.bootReadOk = false then { s1 with boot := next }
      else if s.imageOk b = true then { s1 with boot := .starting, digest := imageDigest b, secver := field b 4 2, service := ⟨8, b, true⟩ }
      else { s1 with boot := next, service := { s.service with sram := b } })) ∧
  (∀ s : State, s.boot = .starting → ∃ t, exec .drieneInit s = .next t ∧ t.boot = .running ∧ (∀ a, t.mem.dram.read a = 0) ∧
    (∀ k, k < 256 → SMap.get 0 t.mem.keys k ≠ 0) ∧ ∀ k m, k < 256 → m < 256 → k ≠ m → SMap.get 0 t.mem.keys k ≠ SMap.get 0 t.mem.keys m) ∧
  (∀ s : State, ∃ t, exec .thermalTrip s = .next t ∧ t.boot = .tripped ∧
    (s.boot = .running → (s.launches.map (·.1)).Nodup → ∀ lid l, (lid, some l) ∈ s.launches →
      l.status = .running ∨ l.status = .admitted → (t.launchOf lid).status = .ending 0x11)) ∧
  (∀ (v : Nat) (r : Word) (s : State), s.fuseStep = some (v, r) →
    exec .fuseBlow s = .next (({ s with fuses := v, fuseStep := none } : State).reply 0x07 0 r 0 [])) ∧
  (∀ (lid : Nat) (l : Launch) (s : State), s.launch? lid = some l → l.status = .admitted →
    let s1 := s.setLaunch lid { l with status := .running, replied := true, since := s.cycle }
    exec (.launchResident lid) s = .next (if l.replied then s1 else s1.reply 0x04 0 l.reqid l.job (bytesLE 4 lid))) ∧
  (∀ (job : Nat) (j : Job) (s : State), s.job? job = some j →
    exec (.injectionEnable job) s = .next (s.setJob job (some { j with inj := true }))) ∧
  (∀ (keyid : List Byte) (s : State), s.keyids.length < 16 → keyid ∉ s.keyids → keyid.length = 64 →
    exec (.codeSigningKeyEnrol keyid) s = .next { s with keyids := s.keyids ++ [keyid] }) ∧
  (∀ (lid : Nat) (s : State), s.lidInUse lid = true →
    ∃ t, exec (.debuggerAttach lid) s = .next t ∧ (t.launchOf lid).debugger = true) ∧
  (∀ (h : Header) (image : List Byte) (s : State), s.boot = .recovery → s.controller h = true → headerOk h 0x08 = true →
    (128 ≤ s.fuses → exec (.recovery h image) s = .next (s.reply 0x08 2 h.reqid h.job.toNat [])) ∧
    (s.fuses < 128 → ∃ t, exec (.recovery h image) s = .next t ∧ t.boot = .rom 0 ∧ t.io.bootA = image ∧ t.fuses = s.fuses ∧
      t.io.sent = s.io.sent ++ [.reply 0x48 0 h.reqid h.job.toNat []]))

/-- R355, R358, R366, R367: the requests of the channel. Each, of an authenticated controller in a channel that is open and free, answers with its status
and what it asks for; a header that is not in order is answered with STATUS 0xFFFF and nothing else happens. A request that comes while
another is unanswered waits its turn, one whose controller is not authenticated has no effect, and the answers to ATTEST of an unknown handle, to JOBCLOSE and LAUNCH
of no job, and to JOBOPEN without a free frame are STATUS 1 (all DESIGN CHOICE, log 23); LOAD numbers its objects by counting (DESIGN CHOICE, log 47). -/
def Obligations.RequestsComplete : Prop :=
  (∀ (h : Header) (type : Nat) (i : Request) (f : State → State) (s : State), s.boot = .running →
    (s.controller h = false → s.request i h type f = s) ∧
    (s.controller h = true → s.channelBusy = true ∨ s.io.requests ≠ [] →
      s.request i h type f = { s with io := { s.io with requests := s.io.requests ++ [i] } })) ∧
  ∀ (h : Header) (s : State), s.boot = .running → s.channelBusy = false → s.io.requests = [] → s.controller h = true →
  let jn := h.job.toNat
  (∀ number fabric peers key image record lid nonce handle value sign, ∀ p ∈ [(Instr.jobopen h number fabric peers key, 0x01),
      (.jobclose h, 0x02), (.loadObject h image, 0x03), (.launch h record lid, 0x04), (.cancel h lid, 0x05), (.attest h nonce handle, 0x06),
      (.fusestep h value sign, 0x07), (.recovery h image, 0x08)], headerOk h p.2 = false →
    exec p.1 s = .next (s.reply h.type.toNat 0xFFFF h.reqid jn [])) ∧
  (((decide (1 ≤ h.type.toNat) && decide (h.type.toNat ≤ 9)) && headerOk h h.type.toNat) = false →
    exec (.unlistedMessage h) s = .next (s.reply h.type.toNat 0xFFFF h.reqid jn [])) ∧
  (headerOk h 0x01 = true → ∀ number fabric peers key,
    (∀ s1 f, s.openBad jn number fabric peers = false → s.takeFrame 4 4096 = some (s1, f) →
      let s2 := s1.zeroDram f 4096
      exec (.jobopen h number fabric peers key) s = .next ((({ s2 with mem := { s2.mem with nextKey := s.mem.nextKey + 1 } } : State).setJob jn
        (some ⟨jn, number, fabric, peers, key, f, [], s.mem.nextKey, false, [], none⟩)).reply 0x01 0 h.reqid jn [])) ∧
    (s.openBad jn number fabric peers = true ∨ s.takeFrame 4 4096 = none →
      exec (.jobopen h number fabric peers key) s = .next (s.reply 0x01 1 h.reqid jn []))) ∧
  (headerOk h 0x02 = true → (∀ j, s.job? jn = some j →
      exec (.jobclose h) s = .next (s.setJob j.num (some { j with closing := some h.reqid }))) ∧
    (s.job? jn = none → exec (.jobclose h) s = .next (s.reply 0x02 1 h.reqid jn []))) ∧
  (headerOk h 0x03 = true → ∀ (image : List Byte) (j : Job), s.job? jn = some j →
    let ok := objectFormOk image && s.objectSigned image && decide (s.fuses ≤ field image 6 1) && s.sectionsOk j image
    (ok = false → exec (.loadObject h image) s = .next (s.reply 0x03 3 h.reqid jn [])) ∧
    (ok = true → ∀ s1 j1, [0, 1, 2].foldlM (fun st k => State.placeSection st jn image k) s = some s1 → s1.job? jn = some j1 →
      exec (.loadObject h image) s = .next (
        ({ s1.setJob jn (some { j1 with objects := j1.objects ++ [objectOf image s.nextHandle] }) with
          nextHandle := s.nextHandle + 1 } : State).reply 0x03 0 h.reqid jn (bytesLE 8 s.nextHandle)))) ∧
  (headerOk h 0x04 = true → ∀ (record : List Byte) (lid : BitVec 32), s.job? jn = none →
    exec (.launch h record lid) s = .next (s.reply 0x04 (if 128 ≤ s.fuses then 3 else 1) h.reqid jn [])) ∧
  (headerOk h 0x04 = true → ∀ (record : List Byte) (lid : BitVec 32) (j : Job), s.job? jn = some j →
    (∀ s1 n, s.takeLaunch j record lid.toNat none h.reqid false = .ok (s1, n) → exec (.launch h record lid) s = .next s1) ∧
    (∀ why, s.takeLaunch j record lid.toNat none h.reqid false = .error why →
      exec (.launch h record lid) s = .next (s.reply 0x04 why h.reqid jn []))) ∧
  (headerOk h 0x05 = true → ∀ lid : BitVec 32, (s.launch? lid.toNat = none →
      exec (.cancel h lid) s = .next (s.reply 0x05 1 h.reqid jn [])) ∧
    (∀ l, s.launch? lid.toNat = some l → l.status = .ended → exec (.cancel h lid) s = .next (s.reply 0x05 2 h.reqid jn [])) ∧
    (∀ l, s.launch? lid.toNat = some l → l.status ≠ .ended → exec (.cancel h lid) s =
      .next ((s.endLaunch lid.toNat 0).modLaunch lid.toNat fun l => { l with cancel := some h.reqid }))) ∧
  (headerOk h 0x06 = true → ∀ (nonce : List Byte) (handle : Nat),
    let found := (s.jobs.flatMap fun (_, o) => (o.map (·.objects)).getD []).find? (·.handle == handle)
    (handle = 0 → exec (.attest h nonce handle) s = .next (s.reply 0x06 0 h.reqid jn (s.attestReport nonce []))) ∧
    (∀ o, handle ≠ 0 → found = some o →
      exec (.attest h nonce handle) s = .next (s.reply 0x06 0 h.reqid jn (s.attestReport nonce o.digest))) ∧
    (handle ≠ 0 → found = none → exec (.attest h nonce handle) s = .next (s.reply 0x06 1 h.reqid jn []))) ∧
  (headerOk h 0x07 = true → ∀ (value : Nat) (sign : List Byte),
    (stepSigned value sign = false → exec (.fusestep h value sign) s = .next (s.reply 0x07 2 h.reqid jn [])) ∧
    (stepSigned value sign = true → value ≠ s.fuses + 1 ∨ 128 ≤ s.fuses →
      exec (.fusestep h value sign) s = .next (s.reply 0x07 1 h.reqid jn [])) ∧
    (stepSigned value sign = true → value = s.fuses + 1 → s.fuses < 128 →
      exec (.fusestep h value sign) s = .next { s with fuseStep := some (value, h.reqid) })) ∧
  (headerOk h 0x08 = true → ∀ image,
    exec (.recovery h image) s = .next (s.reply 0x08 (if 128 ≤ s.fuses then 2 else 1) h.reqid jn []))

/-- R312, R313, R315, R340: the debugger's operations on a stopped squad. Its state is read and written; its threads are moved past the trapping
instruction, the word of a BRK entering SIG; it is resumed, or issues one set, the bit of MTDONE of a thread that stands at another PC being
cleared (R271); a fetch block is rewritten whole, and the caches are emptied. -/
def Obligations.DebugOperationsComplete : Prop :=
  ∀ (h : Header) (s : State), s.boot = .running → s.channelBusy = false → s.io.requests = [] → s.controller h = true → headerOk h 0x09 = true →
  let jn := h.job.toNat
  let done := fun (t : State) (body : List Byte) => t.reply 0x09 0 h.reqid jn body
  (∀ (a : DebugAt) (q : Option Nat) (sq : Squad), s.stopped a = some (q, sq) →
    (∀ lane reg bytes, s.debugValue q sq lane reg = some bytes → exec (.debugReadState h a lane reg) s = .next (done s bytes)) ∧
    (∀ lane reg v map sq', reg ≠ 112 → debugSet sq lane reg v map = some sq' →
      exec (.debugWriteState h a lane reg ⟨v, map⟩) s = .next (done (s.putStopped a q sq') [])) ∧
    exec (.debugAdvance h a) s = .next (done (s.putStopped a q sq.advance) []) ∧
    (sq.tepc.getLsbD 0 = false → ∀ l ∈ lanesOf (sq.tlanes.truncate 32), (sq.advance.thread l).pc = sq.tepc + 4 ∧
      (∀ c, sq.brkCode = some c → (sq.thread l).pc = sq.tepc → (sq.advance.thread l).sig = sigHash (sq.thread l).sig (sigWord (.brk c)))) ∧
    exec (.debugResume h a) s = .next (done (s.putStopped a q { sq.resumed with status := .running }) []) ∧
    (∀ l, l < 32 → sq.resumed.mtdone.getLsbD l = (sq.mtdone.getLsbD l && (sq.thread l).mtAt == (sq.thread l).pc)) ∧
    (∀ n pc p, q = some n → s.stepPc n sq pc = some p → s.crewRuns sq = true →
      exec (.debugStep h a pc) s =
        .next (done (s.setSquad n { sq.resumed with status := .stepping p }) []))) ∧
  (∀ e ∈ [Instr.debugPlantBreakpoint, .debugRemoveBreakpoint], ∀ (va : Word) (block : List Byte) (j : Job), s.job? jn = some j →
    va.toNat % 16 = 0 → block.length = 16 → (s.jobPlace j va.toNat).isSome = true →
    exec (e h va block) s = .next (done (s.jobWrite j va.toNat block).emptyCode []))

/-! ### System calls -/

/-- R309, R310, R368, R369: a system call that Driene serves. A call whose outcome is known is answered in g0 as I64 with the state that it
leaves; a READ, WRITE or FLUSH that the storage port must end is given to it as a command; a call that must wait, waits. The outcomes of OPEN, CLOSE, SIZE and
FLUSH, and the commands of READ, WRITE and FLUSH, are said in full. A WRITE that begins past the end of its file has the blocks between filled with zeroes first; -1 for
a path length above 255 or a flag that R368 does not give, the order of the errors, that OPEN, READ, WRITE and FLUSH wait while Driene sets the ports up and end with -5
where no device can be used, and -2 for a handle whose file is gone, are the model's (DESIGN CHOICE, log 44). -/
def Obligations.SystemCallsComplete : Prop :=
  (∀ p ∈ [(Instr.fileClose, 0x02, closeCall), (.fileSize, 0x06, sizeCall), (.sockConnect, 0x10, connectCall), (.sockListen, 0x11, listenCall),
      (.sockSend, 0x12, sendCall), (.sockRecv, 0x13, recvCall), (.sockShutdown, 0x14, shutdownCall)],
    ∀ (q : Nat) (c : Call) (s : State), s.call? q = some c → c.num = some p.2.1 → s.mayServe c = true →
    (∀ s1 v, p.2.2 c s = some (s1, v) → exec (p.1 q) s = .next (s1.answerCall q c.lane v)) ∧
    (p.2.2 c s = none → exec (p.1 q) s = .next s)) ∧
  (∀ p ∈ [(Instr.fileOpen, 0x01, openCall), (.fileRead, 0x03, readCall), (.fileWrite, 0x04, writeCall), (.fileFlush, 0x05, flushCall)],
    ∀ (q : Nat) (c : Call) (s : State), s.call? q = some c → c.num = some p.2.1 → s.mayServe c = true →
    (∀ s1 v, s.storageUp = true → p.2.2 c s = some (s1, v) → exec (p.1 q) s = .next (s1.answerCall q c.lane v)) ∧
    (s.storageUp = false → exec (p.1 q) s = .next (if s.storageStarting then s else s.answerCall q c.lane (errno 5)))) ∧
  (∀ p ∈ [(Instr.fileRead, 0x03, readCall, readCommand), (.fileWrite, 0x04, writeCall, writeCommand), (.fileFlush, 0x05, flushCall, flushCommand)],
    ∀ (q : Nat) (c : Call) (s : State), s.call? q = some c → c.num = some p.2.1 → s.mayServe c = true → s.storageUp = true →
    p.2.2.1 c s = none →
    (∀ x, p.2.2.2 c s = some x → ∃ t, exec (p.1 q) s = .next t ∧ t.io = { s.io with nvme := s.io.nvme ++ [x] } ∧ t.squads = s.squads ∧
      t.mem.dram = s.mem.dram) ∧
    (p.2.2.2 c s = none → exec (p.1 q) s = .next s)) ∧
  (∀ (q lane : Nat) (v : Word) (ls : BitVec 32) (sq : Squad) (s : State), s.squad? q = some sq → sq.status = .serving ls →
    ls &&& ~~~(1#32 <<< lane) ≠ 0 →
    let t := s.answerCall q lane v
    (t.squad q).status = .serving (ls &&& ~~~(1#32 <<< lane)) ∧ SMap.get Reg.zero (t.thread q lane).regs 0 = ⟨v, .i64⟩ ∧
      (t.thread q lane).pc = (s.thread q lane).pc) ∧
  (∀ (q lane : Nat) (v : Word) (ls : BitVec 32) (sq : Squad) (s : State), s.squad? q = some sq → sq.status = .serving ls →
    ls &&& ~~~(1#32 <<< lane) = 0 → sq.tcause.getLsbD 9 = false →
    let t := s.answerCall q lane v
    (t.squad q).status = .running ∧ SMap.get Reg.zero (t.thread q lane).regs 0 = ⟨v, .i64⟩ ∧
      ∀ l ∈ lanesOf (sq.tlanes.truncate 32), (t.thread q l).pc = sq.tepc + 4) ∧
  (∀ (c : Call) (s : State),
    let n := c.arg 2
    let flags := c.arg 3
    let path := s.readBuffer c (c.arg 1) n
    let s1 := s.bufferSeen c (c.arg 1) n
    (255 < n ∨ 8 ≤ flags → openCall c s = some (s, errno 1)) ∧
    (n ≤ 255 → flags < 8 → s.bufferOk c .load (c.arg 1) n = false → openCall c s = some (s, errno 14)) ∧
    (n ≤ 255 → flags < 8 → s.bufferOk c .load (c.arg 1) n = true →
      (s1.file? path = none → flags.testBit 2 = false → openCall c s = some (s1, errno 2)) ∧
      (s1.file? path ≠ none ∨ flags.testBit 2 = true → flags.testBit 1 = true → s1.mapped path = true → openCall c s = some (s1, errno 16)) ∧
      (s1.file? path ≠ none ∨ flags.testBit 2 = true → flags.testBit 1 = false ∨ s1.mapped path = false →
        (s1.launch? c.sq.lid).isSome = true → ∃ t, openCall c s = some (t, BitVec.ofNat 64 s1.nextHandle) ∧ t.nextHandle = s1.nextHandle + 1 ∧
          t.handle? c s1.nextHandle = some (.file path (flags.testBit 0) (flags.testBit 1)) ∧
          t.io.files = (if s1.file? path = none then s.io.files ++ [⟨path, []⟩] else s.io.files)))) ∧
  (∀ (c : Call) (s : State) (path : List Byte) (rd wr : Bool), s.handle? c (c.arg 1) = some (.file path rd wr) →
    (∃ s1, closeCall c s = some (s1, 0) ∧ s1.io = s.io ∧ s1.mem = s.mem ∧ s1.handle? c (c.arg 1) = none ∧
      ∀ n, n ≠ c.arg 1 → s1.handle? c n = s.handle? c n) ∧
    sizeCall c s = some (s, match s.file? path with
      | some f => BitVec.ofNat 64 f.data.length
      | none => errno 2) ∧
    flushCall c s = none ∧
    flushCommand c s = (if s.writePending c.sq.lid (c.arg 1) then none else some (.flush c.sq.ref c.lane (c.arg 1))) ∧
    (∀ f, s.file? path = some f →
      readCommand c s = some (.read path (c.arg 4) (min (c.arg 3) (f.data.length - c.arg 4)) (BitVec.ofNat 64 (c.arg 2)) c.sq.ref c.lane (c.arg 1)) ∧
      writeCommand c s = some (if f.data.length < c.arg 4 then .zeroes path (c.arg 4) c.sq.ref c.lane (c.arg 1)
        else .write path (c.arg 4) (s.readBuffer c (c.arg 2) (c.arg 3)) c.sq.ref c.lane (c.arg 1)))) ∧
  (∀ (c : Call) (s : State), (∀ path rd wr, s.handle? c (c.arg 1) ≠ some (.file path rd wr)) →
    closeCall c s = some (s, errno 9) ∧ sizeCall c s = some (s, errno 9) ∧ flushCall c s = some (s, errno 9) ∧
    readCall c s = some (s, errno 9) ∧ writeCall c s = some (s, errno 9))
/-! ### Registers and traps -/

/-- R9, R10: z reads as 0 with tag RAW64 and a write to it leaves the thread as it was; a result in g0 to g55 or o0 to o3 goes to its
register and to e0, whose old value goes to e1; one in e0 goes there alone, and the old e0 to e1; one in e1 goes there alone. -/
def Obligations.RegisterWrites : Prop :=
  ∀ (t : Thread) (cx : Ctx) (v : Reg) (lat : Machine.Lat),
  t.read cx 62 = .ok ⟨0, .raw64⟩ ∧ t.write cx 62 v lat = t ∧
  (∀ d : RegCode, d ≠ 62 →
    let u := t.write cx d v lat
    let now := fun (x : Thread) (c : Nat) => SMap.get Reg.zero x.regs c
    now u d.toNat = v ∧ (d ≠ 61 → now u 61 = now t 60 ∧ now u 60 = v) ∧ (d = 61 → now u 60 = now t 60) ∧
    (∀ c, c ≠ d.toNat → c ≠ 60 → c ≠ 61 → now u c = now t c) ∧
    u = { t with regs := u.regs, pend := u.pend })

/-- R22, R23, R303, R305: the trap of an instruction that acts thread by thread undoes it whole, carries the cause of the lowest lane that
fails, and names the lanes that fail with that cause; in an ENUM region the lane is parked instead. A trap writes TCAUSE, TLANES,
TADDR and TEPC, changes no PC, wait, stamp or register, and nothing of the squad issues while it stands. -/
def Obligations.TrapsNameTheirLanes : Prop :=
  (∀ (i : Instr) (g : BitVec 2) (stall : Nat) (f : Ctx → Thread → Except Trap Thread) (s : State) (l : Nat) (t : Trap),
    (s.squad? s.cur.q).isSome = true → l ∈ s.lanes → s.laneResult i g stall f l = .error t → t.cause ≠ 0x0B →
    ((s.ctx 0).region ≠ 1 → (∀ m ∈ s.lanes, m < l → ∃ u, s.laneResult i g stall f m = .ok u) →
      s.execThread i g stall f = s.takeTrap s.cur.q t.cause (maskOf (s.lanes.filter (s.failsWith i g stall f t.cause))) t.addr s.cur.pc) ∧
    ((s.ctx 0).region = 1 → 1 ≤ t.cause → t.cause ≤ 9 → s.lanes = [l] →
      s.execThread i g stall f = s.park s.cur.q l (BitVec.ofNat 8 t.cause))) ∧
  (∀ (q cause : Nat) (lanes : BitVec 32) (addr epc : Word) (s : State) (sq : Squad), s.squad? q = some sq →
    let t := s.takeTrap q cause lanes addr epc
    (t.squad q).tcause = BitVec.ofNat 64 (cause + (if recordOf q = 16 then 256 else 0) + (if sq.status.isStep then 512 else 0)) ∧
    (t.squad q).tlanes = lanes.zeroExtend 64 ∧ (t.squad q).taddr = addr ∧ (t.squad q).tepc = epc ∧ (t.squad q).status = .trapped ∧
    (t.squad q).brkCode = (if cause = 0x21 then some (addr.truncate 6) else none) ∧ (t.squad q).invs = [] ∧
    t = { s with squads := t.squads } ∧ (∀ p, p ≠ q → t.squad p = s.squad p) ∧
    (∀ l, t.thread q l = { s.thread q l with pend := [] }) ∧
    (∀ pc, t.chosenIssue q pc = none) ∧ ∀ c, t.nextIssue = some c → c.q ≠ q)

/-- R13, R23, R44, R45, R73, R80, R128: the tag checks of two register sources a and b. Each lane meets the condition of a, then that of b, then that of the pair:
POISON is a machine check, and a tag outside the class, or a pair that does not match, a format mismatch; two RAW64 do not make a float pair, and bitwise operations take
any pair. The trap carries the cause of the lowest lane that fails and names the lanes that fail with it. Where lanes are combined, POISON in any of them is a machine
check of those that hold it; else a tag that the lowest lane's instruction does not accept names all of them, and tags unlike that lane's name the lanes that carry them. -/
def Obligations.SourceTagsAreChecked : Prop :=
  let check := fun (ok : Tag → Bool) (r : Reg) => if r.tag = .poison then 0x11 else if ok r.tag then 0 else 0x02
  let pairs := fun (x y : Tag) => x == y || x == .raw64 || y == .raw64
  let intOps : List (FR → Instr) :=
    [.add, .sub, .shl, .shr, .shrU, .rol, .mul, .mulh, .mulhU, .min, .minU, .max, .maxU, .adds, .addsU, .subs, .subsU]
  let bitOps : List (FR → Instr) := [.and, .or, .xor, .andn]
  let floatOps : List (FR → Instr) := [.fadd, .fsub, .fmul, .fmin, .fmax]
  (∀ p ∈ intOps.map (fun i => (i, isIntTag, pairs)) ++ bitOps.map (fun i => (i, isBitTag, fun _ _ => true)) ++
      floatOps.map (fun i => (i, fun t => isFloatTag t || t == .raw64, fun x y => pairs x y && !(x == .raw64 && y == .raw64))),
    ∀ (f : FR) (s : State) (l0 : Nat), s.ready (p.1 f) f.g = true → (s.ctx 0).region ≠ 1 →
    (∀ l ∈ s.active f.g, s.canRead f.a l = true ∧ s.canRead f.b l = true) →
    let why := fun (l : Nat) =>
      let x := s.operand f.a l
      let y := s.operand f.b l
      if check p.2.1 x ≠ 0 then check p.2.1 x else if check p.2.1 y ≠ 0 then check p.2.1 y else if p.2.2 x.tag y.tag then 0 else 0x02
    l0 ∈ s.active f.g → why l0 ≠ 0 → (∀ m ∈ s.active f.g, m < l0 → why m = 0) →
    exec (p.1 f) s = .next (s.takeTrap s.cur.q (why l0) (maskOf ((s.active f.g).filter fun l => why l == why l0)) 0 s.cur.pc)) ∧
  (∀ p ∈ [(Instr.matchLanes, fun (t : Tag) => isIntTag t || isFloatTag t || t == .map8), (.scanAdd, fun t => isIntTag t || isFloatTag t),
      (.scanMin, fun t => isIntTag t || isFloatTag t), (.scanMax, fun t => isIntTag t || isFloatTag t), (.scanMinU, isIntTag), (.scanMaxU, isIntTag),
      (.reduceAdd, fun t => isIntTag t || isFloatTag t), (.reduceMin, fun t => isIntTag t || isFloatTag t),
      (.reduceMax, fun t => isIntTag t || isFloatTag t), (.reduceMinU, isIntTag), (.reduceMaxU, isIntTag), (.reduceAnd, isBitTag),
      (.reduceOr, isBitTag), (.reduceXor, isBitTag)],
    ∀ (a d : RegCode) (s : State), s.ready (p.1 a d) 0 = true → (∀ l ∈ s.active 0, s.canRead a l = true) →
    let tag := fun (l : Nat) => (s.operand a l).tag
    let trap := fun (cause : Nat) (ls : List Nat) => s.takeTrap s.cur.q cause (maskOf ls) 0 s.cur.pc
    ((s.active 0).any (fun l => tag l == .poison) = true →
      exec (p.1 a d) s = .next (trap 0x11 ((s.active 0).filter fun l => tag l == .poison))) ∧
    (∀ l0, (s.active 0).head? = some l0 → (∀ l ∈ s.active 0, tag l ≠ .poison) →
      (p.2 (tag l0) = false → exec (p.1 a d) s = .next (trap 0x02 (s.active 0))) ∧
      (p.2 (tag l0) = true → (s.active 0).any (fun l => tag l != tag l0) = true →
        exec (p.1 a d) s = .next (trap 0x02 ((s.active 0).filter fun l => tag l != tag l0)))))

/-! ### The machine -/

/-- R22: with nothing named and nothing due, the step runs the instruction of the issue set whose turn it is, at the state in which that set has been
given its slot: the one that the bytes at its PC decode to, read as the core's fetch sees them (R315), or the INV in which its lanes are (R172). A named
set or a named event runs likewise; a cycle passes where nothing of it is left to be done (R116, R117, R321); and threads whose wait has ended become
ready after it. Bytes that cannot be read or decoded trap at their PC. -/
def Obligations.StepRunsTheDecodedInstruction : Prop :=
  (∀ (s : State) (la : Launch) (core : Nat) (pc : Word) (pick h0 : Nat), s.fetchHalf la core pc pick = .ok h0 →
    (h0 % 2 = 0 → ∀ i n, decodeHalves h0 none none = .ok i n → s.fetch la core pc pick = .ok i) ∧
    (h0 % 2 = 1 → ∀ h1 i n, s.fetchHalf la core (pc + 2) pick = .ok h1 →
      decodeHalves h0 (some h1) (s.fetchHalf la core (pc + 4) pick).toOption = .ok i n → s.fetch la core pc pick = .ok i)) ∧
  (∀ (s : State) (c : Cur),
    ((∀ l ∈ lanesOf c.lanes, (s.squad c.q).runOf l = none) →
      s.instrFor c = s.fetch (s.launchOf (s.squad c.q).lid) (coreOf c.q) c.pc s.freeCtr) ∧
    (∀ r, (∀ l ∈ lanesOf c.lanes, (s.squad c.q).runOf l = some r) → c.lanes ≠ 0 → s.instrFor c = .ok r.instr)) ∧
  (∀ (s : State) (c : Cur), s.agenda = [] → s.dueEvent = none → s.boot ≠ .tripped → s.nextIssue = some c →
    (∀ i, s.instrFor c = .ok i → step s = awaken (exec i (s.beginIssue c))) ∧
    (∀ t, s.instrFor c = .error t → (s.beginIssue c).region ((s.beginIssue c).squad c.q) ≠ 1 →
      step s = .next ((s.beginIssue c).takeTrap c.q t.cause c.lanes t.addr c.pc).wake)) ∧
  (∀ (s : State) (q : Nat) (pc : Word) (rest : List Choice) (c : Cur) (i : Instr), s.agenda = .issue q pc :: rest →
    let s1 := { s with agenda := rest }
    s1.chosenIssue q pc = some c → s1.instrFor c = .ok i → step s = awaken (exec i (s1.beginIssue c))) ∧
  (∀ (s : State) (i : Instr) (rest : List Choice), s.agenda = .event i :: rest → step s = awaken (exec i { s with agenda := rest })) ∧
  (∀ (s : State) (e : Due), s.agenda = [] → s.dueEvent = some e → step s = awaken (e.run s)) ∧
  (∀ s : State, s.agenda = [] → s.dueEvent = none → s.boot ≠ .tripped → s.nextIssue = none → s.dueTimeout = none →
    step s = .next s.tick.wake) ∧
  (∀ (s : State) (rest : List Choice), s.agenda = .tick :: rest →
    let s1 := { s with agenda := rest }
    step s = .next (if s1.mayTick then s1.tick else s1).wake)

/-- R46, R50, R51, R52, R53, R54, R168: the words that the spec writes out decode to the instructions they stand for, and the halfword
0x0000 to ADD g0, g0; a reserved func6 value, register code 63 and a non-zero reserved bit are refused. -/
def Obligations.WordsOfTheSpecDecode : Prop :=
  decode [0x60, 0x28] = .ok (.addC 5 3) 2 ∧ decode [0x6E, 0xF0] = .ok (.addiC 30 3) 2 ∧ decode [0x1E, 0x18] = .ok (.nop 3) 2 ∧
  decode [0x3E, 0x00] = .ok .invend 2 ∧ decode [0x5E, 0x00] = .ok .yield 2 ∧ decode [0x00, 0x00] = .ok (.addC 0 0) 2 ∧
  decode [0x01, 0x03, 0x51, 0x9C] = .ok (.add ⟨2, 3, 1, 5, 4, 3⟩) 4 ∧
  decode [0x45, 0x03, 0x81, 0x0A] = .ok (.cmplt ⟨0, 1, 0, 40, 4, 3⟩) 4 ∧
  decode [0x81, 0x87, 0xB0, 0xFF] = .ok (.addi 0xFFB 2 7) 4 ∧ decode [0xA1, 0xC9, 0x48, 0x00] = .ok (.ldhi 0x123 9) 4 ∧
  decode [0xB5, 0x84, 0x31, 0x40] = .ok (.ld64 1 3 6 4) 4 ∧ decode [0xB5, 0x44, 0x22, 0xC0] = .ok (.ld64 3 2 9 4) 4 ∧
  decode [0xC3, 0x82, 0xFE, 0xFF] = .ok (.bk 0x3FFFA 2) 4 ∧ decode [0xD1, 0x03, 0x51, 0x04] = .ok (.divU 5 4 3) 4 ∧
  decode [0xF1, 0x88, 0x90, 0x64] = .ok (.inv 3 1 9 2 8) 4 ∧ decode [0xF1, 0x88, 0x90, 0x74] = .ok (.invDec 3 1 9 2 8) 4 ∧
  decode [0xF1, 0x00, 0x01, 0x04, 0x3E, 0x00] = .ok (.bset 1 4) 6 ∧
  decode [0xE7, 0x00, 0x00, 0xFC] = .illegal ∧ decode [0x01, 0x3F, 0x51, 0x9C] = .illegal ∧ decode [0xE7, 0x01, 0x00, 0x00] = .illegal

/-- R46 to R54, R168: every well-formed instruction of the core, written as its bytes and followed by anything, decodes to itself with its
length; only an INV directly before an INVEND is read as a bracket move, so that it is left out. -/
def Obligations.EncodedInstructionsDecode : Prop :=
  ∀ (i : Instr) (rest : List Byte), i.len ≠ 0 → i.wf = true →
  (∀ t k g a o, (i = .inv t k g a o ∨ i = .invDec t k g a o) → halfAt rest ≠ some 0x3E) →
  decode (i.bytes ++ rest) = .ok i i.len

/-- R46 to R54, R48, R168: what decodes is well formed, and the bytes that were read are its own encoding, so that no bit of them is
dropped and no two encodings stand for one instruction. -/
def Obligations.DecodedBytesAreTheEncoding : Prop :=
  ∀ (bs : List Byte) (i : Instr) (n : Nat), decode bs = .ok i n → i.wf = true ∧ n = i.len ∧ bs.take n = i.bytes

/-- R355: whatever step the machine takes, from any state whose fuse counter is in order, the counter stays in order, never falls, and
rises by one at most. -/
def Obligations.FuseCounterNeverFalls : Prop :=
  ∀ s t : State, s.fusesInOrder → step s = .next t → t.fusesInOrder ∧ s.fuses ≤ t.fuses ∧ t.fuses ≤ s.fuses + 1

/-- R3 and log 4 (the form in which memory is held is the model's choice): every step keeps DRAM in its canonical form, so that equal contents are equal data. -/
def Obligations.MemoryStaysCanonical : Prop :=
  ∀ s t : State, s.mem.dram.wf = true → step s = .next t → t.mem.dram.wf = true

/-- R97, R109, R353, R355: after module reset the boot ROM runs, the cycle counter is 0, no job, launch, crew or squad stands, no fuse step
is under way; the invariants hold there. -/
def Obligations.ResetState : Prop :=
  State.reset.boot = .rom 0 ∧ State.reset.cycle = 0 ∧ State.reset.jobs = [] ∧ State.reset.launches = [] ∧ State.reset.crews = [] ∧
  State.reset.cores = [] ∧ State.reset.squads = [] ∧ State.reset.fuseStep = none ∧ State.reset.fusesInOrder ∧
  State.reset.mem.dram.wf = true ∧ State.reset.nextIssue = none

/-- R187, R189, R195, R215, R216, R345: what landing one part at DRAM changes in memory, where no injection is armed: first D is set, in every entry of
the leaf through which the page reaches the part, if it was clear there; then the stored bytes hold the data under the part's key, every other byte reads
under that key as before, and so does every byte of another line under any key; no scratchpad changes. -/
def Obligations.LandingChangesTheStoredBytes : Prop :=
  ∀ (s : State) (lid c pa key job va : Nat) (data : List Byte), (s.crewOf lid c).inj.arm = false →
  let m := if job = 0 then s else s.setDirty job va pa
  let t := s.landPart lid c (.dram pa key) job va data
  (∀ l, s.leafNow job va = some l → l.pa va = pa → l.bit 8 = false → job ≠ 0 →
    (∀ k, k < groupLen l.size → dramWord m.mem.dram (l.at_ + 8 * k) = l.raw + 256) ∧
    ∀ a, (a < l.at_ ∨ l.at_ + 8 * groupLen l.size ≤ a) → m.mem.dram.read a = s.mem.dram.read a) ∧
  ((∀ l, s.leafNow job va = some l → l.pa va = pa → l.bit 8 = true) → m.mem.dram = s.mem.dram) ∧
  (∀ i, i < data.length → t.byteAt (.dram (pa + i) key) = data.getD i 0) ∧
  (∀ a, (a < pa ∨ pa + data.length ≤ a) → t.byteAt (.dram a key) = m.byteAt (.dram a key)) ∧
  (∀ a k, a / 64 ∉ linesOf pa data.length → t.byteAt (.dram a k) = m.byteAt (.dram a k)) ∧
  ∀ l k o, t.byteAt (.scratch l k o) = s.byteAt (.scratch l k o)
end

