-- ==== Sys2Proof/Laws/Map.lean ====
section
/-!
SUPPORT. Laws/Map.lean: reading after writing in sparse storage, and that writing keeps the canonical form.
-/
namespace Sys2Proof.Machine

variable {α : Type}

@[simp] theorem SMap.get_nil (d : α) (k : Nat) : SMap.get d [] k = d := rfl

theorem SMap.get_cons (d : α) (j k : Nat) (v : α) (m : SMap α) :
    SMap.get d ((j, v) :: m) k = if j = k then v else SMap.get d m k := rfl

@[simp] theorem SMap.get_erase_same (d : α) (m : SMap α) (k : Nat) : SMap.get d (SMap.erase m k) k = d := by
  induction m with
  | nil => rfl
  | cons e m ih =>
    obtain ⟨j, v⟩ := e
    by_cases h : j = k
    · simpa [SMap.erase, h] using ih
    · simpa [SMap.erase, h, SMap.get_cons] using ih

theorem SMap.get_erase_other (d : α) (m : SMap α) {j k : Nat} (h : j ≠ k) :
    SMap.get d (SMap.erase m k) j = SMap.get d m j := by
  induction m with
  | nil => rfl
  | cons e m ih =>
    obtain ⟨i, v⟩ := e
    by_cases h1 : i = k
    · have h2 : i ≠ j := fun e => h (by rw [← e, h1])
      have : SMap.erase ((i, v) :: m) k = SMap.erase m k := by simp [SMap.erase, h1]
      rw [this, ih, SMap.get_cons, if_neg h2]
    · have : SMap.erase ((i, v) :: m) k = (i, v) :: SMap.erase m k := by simp [SMap.erase, h1]
      rw [this, SMap.get_cons, SMap.get_cons, ih]

theorem SMap.get_insert (d : α) (m : SMap α) (k j : Nat) (v : α) :
    SMap.get d (SMap.insert (SMap.erase m k) k v) j = if k = j then v else SMap.get d (SMap.erase m k) j := by
  have no : ∀ e ∈ SMap.erase m k, e.1 ≠ k := by
    intro e he
    simpa [SMap.erase] using (List.mem_filter.mp he).2
  generalize SMap.erase m k = n at no
  induction n with
  | nil => simp [SMap.insert, SMap.get_cons]
  | cons e n ih =>
    obtain ⟨i, w⟩ := e
    have hi : i ≠ k := no (i, w) (by simp)
    have ih' := ih fun e he => no e (by simp [he])
    by_cases h : k < i
    · simp [SMap.insert, h, SMap.get_cons]
    · simp only [SMap.insert, h, if_false, SMap.get_cons, ih']
      by_cases h1 : i = j
      · have : k ≠ j := fun e => hi (by rw [h1, e])
        simp [h1, this]
      · simp [h1]

@[simp] theorem SMap.get_set_same [DecidableEq α] (d : α) (m : SMap α) (k : Nat) (v : α) :
    SMap.get d (SMap.set d m k v) k = v := by
  unfold SMap.set
  split
  · next h => rw [SMap.get_erase_same, h]
  · rw [SMap.get_insert, if_pos rfl]

theorem SMap.get_set_other [DecidableEq α] (d : α) (m : SMap α) {j k : Nat} (v : α) (h : j ≠ k) :
    SMap.get d (SMap.set d m k v) j = SMap.get d m j := by
  unfold SMap.set
  split
  · exact SMap.get_erase_other d m h
  · rw [SMap.get_insert, if_neg (Ne.symm h), SMap.get_erase_other d m h]

theorem SMap.get_set [DecidableEq α] (d : α) (m : SMap α) (j k : Nat) (v : α) :
    SMap.get d (SMap.set d m k v) j = if j = k then v else SMap.get d m j := by
  by_cases h : j = k
  · subst h; simp
  · rw [if_neg h, SMap.get_set_other d m v h]

@[simp] theorem SMap.erase_erase (m : SMap α) (k : Nat) : SMap.erase (SMap.erase m k) k = SMap.erase m k := by
  simp [SMap.erase]

theorem SMap.erase_insert (m : SMap α) (k : Nat) (v : α) : SMap.erase (SMap.insert m k v) k = SMap.erase m k := by
  induction m with
  | nil => simp [SMap.insert, SMap.erase]
  | cons e m ih =>
    obtain ⟨i, w⟩ := e
    by_cases h : k < i
    · simp [SMap.insert, h, SMap.erase]
    · by_cases h1 : i = k
      · simpa [SMap.insert, h, SMap.erase, h1] using ih
      · simpa [SMap.insert, h, SMap.erase, h1] using ih

/-- The later of two writes to one key stands. -/
@[simp] theorem SMap.set_set [DecidableEq α] (d : α) (m : SMap α) (k : Nat) (v w : α) :
    SMap.set d (SMap.set d m k v) k w = SMap.set d m k w := by
  have h : SMap.erase (SMap.set d m k v) k = SMap.erase m k := by
    unfold SMap.set
    split
    · exact SMap.erase_erase m k
    · rw [SMap.erase_insert, SMap.erase_erase]
  have : ∀ n, SMap.erase n k = SMap.erase m k → SMap.set d n k w = SMap.set d m k w := by
    intro n hn
    simp [SMap.set, hn]
  exact this _ h

/-! ### The canonical form -/

theorem SMap.wf_cons [DecidableEq α] (d : α) (k : Nat) (v : α) (m : SMap α) :
    SMap.wf d ((k, v) :: m) = true ↔ v ≠ d ∧ (∀ e ∈ m, k < e.1) ∧ SMap.wf d m = true := by
  simp [SMap.wf, and_assoc]

theorem SMap.wf_erase [DecidableEq α] (d : α) (m : SMap α) (k : Nat) (h : SMap.wf d m = true) :
    SMap.wf d (SMap.erase m k) = true := by
  induction m with
  | nil => exact h
  | cons e m ih =>
    obtain ⟨i, v⟩ := e
    obtain ⟨hv, hlt, hm⟩ := (SMap.wf_cons d i v m).mp h
    by_cases h1 : i = k
    · have : SMap.erase ((i, v) :: m) k = SMap.erase m k := by simp [SMap.erase, h1]
      rw [this]; exact ih hm
    · have : SMap.erase ((i, v) :: m) k = (i, v) :: SMap.erase m k := by simp [SMap.erase, h1]
      rw [this, SMap.wf_cons]
      exact ⟨hv, fun e he => hlt e (List.mem_filter.mp he).1, ih hm⟩

theorem SMap.mem_insert (m : SMap α) (k : Nat) (v : α) (e : Nat × α) :
    e ∈ SMap.insert m k v ↔ e = (k, v) ∨ e ∈ m := by
  induction m with
  | nil => simp [SMap.insert]
  | cons x m ih =>
    obtain ⟨i, w⟩ := x
    by_cases h : k < i
    · simp [SMap.insert, h]
    · simp only [SMap.insert, h, if_false, List.mem_cons, ih]
      constructor
      · rintro (h | h | h) <;> simp [h]
      · rintro (h | h | h) <;> simp [h]

theorem SMap.wf_insert [DecidableEq α] (d : α) (m : SMap α) (k : Nat) (v : α) (hv : v ≠ d)
    (no : ∀ e ∈ m, e.1 ≠ k) (h : SMap.wf d m = true) : SMap.wf d (SMap.insert m k v) = true := by
  induction m with
  | nil => simp [SMap.insert, SMap.wf, hv]
  | cons e m ih =>
    obtain ⟨i, w⟩ := e
    obtain ⟨hw, hlt, hm⟩ := (SMap.wf_cons d i w m).mp h
    by_cases hk : k < i
    · simp only [SMap.insert, hk, if_true]
      rw [SMap.wf_cons]
      refine ⟨hv, ?_, h⟩
      intro e he
      rcases List.mem_cons.mp he with rfl | he
      · exact hk
      · exact Nat.lt_trans hk (hlt e he)
    · have hik : i < k := by
        have := no (i, w) (by simp)
        simp at this
        omega
      simp only [SMap.insert, hk, if_false]
      rw [SMap.wf_cons]
      refine ⟨hw, ?_, ih (fun e he => no e (by simp [he])) hm⟩
      intro e he
      rcases (SMap.mem_insert m k v e).mp he with rfl | he
      · exact hik
      · exact hlt e he

/-- A write keeps the canonical form. -/
theorem SMap.wf_set [DecidableEq α] (d : α) (m : SMap α) (k : Nat) (v : α) (h : SMap.wf d m = true) :
    SMap.wf d (SMap.set d m k v) = true := by
  unfold SMap.set
  split
  · exact SMap.wf_erase d m k h
  · next hv =>
    refine SMap.wf_insert d _ k v hv ?_ (SMap.wf_erase d m k h)
    intro e he
    simpa [SMap.erase] using (List.mem_filter.mp he).2

/-! ### Memory -/

@[simp] theorem Memory.read_write_same (m : Memory) (a : Nat) (b : Byte) : (m.write a b).read a = b :=
  SMap.get_set_same _ m a b

theorem Memory.read_write_other (m : Memory) {a c : Nat} (b : Byte) (h : c ≠ a) : (m.write a b).read c = m.read c :=
  SMap.get_set_other _ m b h

theorem Memory.wf_write (m : Memory) (a : Nat) (b : Byte) (h : m.wf = true) : (m.write a b).wf = true :=
  SMap.wf_set _ m a b h

theorem Memory.wf_writeBytes (m : Memory) (a : Nat) (bs : List Byte) (h : m.wf = true) : (m.writeBytes a bs).wf = true := by
  induction bs generalizing m a with
  | nil => exact h
  | cons b bs ih => exact ih (m.write a b) (a + 1) (Memory.wf_write m a b h)

/-- A byte outside the bytes written reads as before. -/
theorem Memory.read_writeBytes_outside (m : Memory) (a : Nat) (bs : List Byte) (c : Nat)
    (h : c < a ∨ a + bs.length ≤ c) : (m.writeBytes a bs).read c = m.read c := by
  induction bs generalizing m a with
  | nil => rfl
  | cons b bs ih =>
    simp only [List.length_cons] at h
    have h1 := ih (m.write a b) (a + 1) (by omega)
    rw [Memory.writeBytes, h1, Memory.read_write_other m b (by omega)]

/-- A byte that was written reads as written. -/
theorem Memory.read_writeBytes_inside (m : Memory) (a : Nat) (bs : List Byte) (i : Nat) (h : i < bs.length) :
    (m.writeBytes a bs).read (a + i) = bs[i] := by
  induction bs generalizing m a i with
  | nil => simp at h
  | cons b bs ih =>
    rw [Memory.writeBytes]
    cases i with
    | zero =>
      rw [Memory.read_writeBytes_outside _ _ _ _ (by left; omega)]
      simp
    | succ i =>
      have h1 := ih (m.write a b) (a + 1) i (by simpa using h)
      rw [show a + (i + 1) = a + 1 + i by omega, h1]
      simp

/-- Reading back what was written. -/
theorem Memory.readBytes_writeBytes (m : Memory) (a : Nat) (bs : List Byte) :
    (m.writeBytes a bs).readBytes a bs.length = bs := by
  induction bs generalizing m a with
  | nil => rfl
  | cons b bs ih =>
    simp only [Memory.writeBytes, List.length_cons, Memory.readBytes]
    rw [ih, Memory.read_writeBytes_outside _ _ _ _ (by left; omega), Memory.read_write_same]

end Sys2Proof.Machine
end

