-- ==== Sys2Proof/Laws/State.lean ====
section
/-!
SUPPORT. Laws/State.lean: what each update of State leaves as it was, one lemma for each field.
-/
namespace Sys2Proof.Machine

/-! ### setSquad: everything but squads -/

@[simp] theorem State.setSquad_boot (s : State) (q : Nat) (v : Squad) : (s.setSquad q v).boot = s.boot := rfl
@[simp] theorem State.setSquad_service (s : State) (q : Nat) (v : Squad) : (s.setSquad q v).service = s.service := rfl
@[simp] theorem State.setSquad_timeSlice (s : State) (q : Nat) (v : Squad) : (s.setSquad q v).timeSlice = s.timeSlice := rfl
@[simp] theorem State.setSquad_cycle (s : State) (q : Nat) (v : Squad) : (s.setSquad q v).cycle = s.cycle := rfl
@[simp] theorem State.setSquad_fuses (s : State) (q : Nat) (v : Squad) : (s.setSquad q v).fuses = s.fuses := rfl
@[simp] theorem State.setSquad_fuseStep (s : State) (q : Nat) (v : Squad) : (s.setSquad q v).fuseStep = s.fuseStep := rfl
@[simp] theorem State.setSquad_digest (s : State) (q : Nat) (v : Squad) : (s.setSquad q v).digest = s.digest := rfl
@[simp] theorem State.setSquad_secver (s : State) (q : Nat) (v : Squad) : (s.setSquad q v).secver = s.secver := rfl
@[simp] theorem State.setSquad_keyids (s : State) (q : Nat) (v : Squad) : (s.setSquad q v).keyids = s.keyids := rfl
@[simp] theorem State.setSquad_jobs (s : State) (q : Nat) (v : Squad) : (s.setSquad q v).jobs = s.jobs := rfl
@[simp] theorem State.setSquad_launches (s : State) (q : Nat) (v : Squad) : (s.setSquad q v).launches = s.launches := rfl
@[simp] theorem State.setSquad_crews (s : State) (q : Nat) (v : Squad) : (s.setSquad q v).crews = s.crews := rfl
@[simp] theorem State.setSquad_cores (s : State) (q : Nat) (v : Squad) : (s.setSquad q v).cores = s.cores := rfl
@[simp] theorem State.setSquad_mem (s : State) (q : Nat) (v : Squad) : (s.setSquad q v).mem = s.mem := rfl
@[simp] theorem State.setSquad_io (s : State) (q : Nat) (v : Squad) : (s.setSquad q v).io = s.io := rfl
@[simp] theorem State.setSquad_seq (s : State) (q : Nat) (v : Squad) : (s.setSquad q v).seq = s.seq := rfl
@[simp] theorem State.setSquad_nextHandle (s : State) (q : Nat) (v : Squad) : (s.setSquad q v).nextHandle = s.nextHandle := rfl
@[simp] theorem State.setSquad_nextSocket (s : State) (q : Nat) (v : Squad) : (s.setSquad q v).nextSocket = s.nextSocket := rfl
@[simp] theorem State.setSquad_nextMsg (s : State) (q : Nat) (v : Squad) : (s.setSquad q v).nextMsg = s.nextMsg := rfl
@[simp] theorem State.setSquad_freeCtr (s : State) (q : Nat) (v : Squad) : (s.setSquad q v).freeCtr = s.freeCtr := rfl
@[simp] theorem State.setSquad_cur (s : State) (q : Nat) (v : Squad) : (s.setSquad q v).cur = s.cur := rfl
@[simp] theorem State.setSquad_agenda (s : State) (q : Nat) (v : Squad) : (s.setSquad q v).agenda = s.agenda := rfl

/-! ### freeRecord: everything but squads -/

@[simp] theorem State.freeRecord_boot (s : State) (q : Nat) : (s.freeRecord q).boot = s.boot := rfl
@[simp] theorem State.freeRecord_service (s : State) (q : Nat) : (s.freeRecord q).service = s.service := rfl
@[simp] theorem State.freeRecord_timeSlice (s : State) (q : Nat) : (s.freeRecord q).timeSlice = s.timeSlice := rfl
@[simp] theorem State.freeRecord_cycle (s : State) (q : Nat) : (s.freeRecord q).cycle = s.cycle := rfl
@[simp] theorem State.freeRecord_fuses (s : State) (q : Nat) : (s.freeRecord q).fuses = s.fuses := rfl
@[simp] theorem State.freeRecord_fuseStep (s : State) (q : Nat) : (s.freeRecord q).fuseStep = s.fuseStep := rfl
@[simp] theorem State.freeRecord_digest (s : State) (q : Nat) : (s.freeRecord q).digest = s.digest := rfl
@[simp] theorem State.freeRecord_secver (s : State) (q : Nat) : (s.freeRecord q).secver = s.secver := rfl
@[simp] theorem State.freeRecord_keyids (s : State) (q : Nat) : (s.freeRecord q).keyids = s.keyids := rfl
@[simp] theorem State.freeRecord_jobs (s : State) (q : Nat) : (s.freeRecord q).jobs = s.jobs := rfl
@[simp] theorem State.freeRecord_launches (s : State) (q : Nat) : (s.freeRecord q).launches = s.launches := rfl
@[simp] theorem State.freeRecord_crews (s : State) (q : Nat) : (s.freeRecord q).crews = s.crews := rfl
@[simp] theorem State.freeRecord_cores (s : State) (q : Nat) : (s.freeRecord q).cores = s.cores := rfl
@[simp] theorem State.freeRecord_mem (s : State) (q : Nat) : (s.freeRecord q).mem = s.mem := rfl
@[simp] theorem State.freeRecord_io (s : State) (q : Nat) : (s.freeRecord q).io = s.io := rfl
@[simp] theorem State.freeRecord_seq (s : State) (q : Nat) : (s.freeRecord q).seq = s.seq := rfl
@[simp] theorem State.freeRecord_nextHandle (s : State) (q : Nat) : (s.freeRecord q).nextHandle = s.nextHandle := rfl
@[simp] theorem State.freeRecord_nextSocket (s : State) (q : Nat) : (s.freeRecord q).nextSocket = s.nextSocket := rfl
@[simp] theorem State.freeRecord_nextMsg (s : State) (q : Nat) : (s.freeRecord q).nextMsg = s.nextMsg := rfl
@[simp] theorem State.freeRecord_freeCtr (s : State) (q : Nat) : (s.freeRecord q).freeCtr = s.freeCtr := rfl
@[simp] theorem State.freeRecord_cur (s : State) (q : Nat) : (s.freeRecord q).cur = s.cur := rfl
@[simp] theorem State.freeRecord_agenda (s : State) (q : Nat) : (s.freeRecord q).agenda = s.agenda := rfl

/-! ### setLaunch: everything but launches -/

@[simp] theorem State.setLaunch_boot (s : State) (lid : Nat) (v : Launch) : (s.setLaunch lid v).boot = s.boot := rfl
@[simp] theorem State.setLaunch_service (s : State) (lid : Nat) (v : Launch) : (s.setLaunch lid v).service = s.service := rfl
@[simp] theorem State.setLaunch_timeSlice (s : State) (lid : Nat) (v : Launch) : (s.setLaunch lid v).timeSlice = s.timeSlice := rfl
@[simp] theorem State.setLaunch_cycle (s : State) (lid : Nat) (v : Launch) : (s.setLaunch lid v).cycle = s.cycle := rfl
@[simp] theorem State.setLaunch_fuses (s : State) (lid : Nat) (v : Launch) : (s.setLaunch lid v).fuses = s.fuses := rfl
@[simp] theorem State.setLaunch_fuseStep (s : State) (lid : Nat) (v : Launch) : (s.setLaunch lid v).fuseStep = s.fuseStep := rfl
@[simp] theorem State.setLaunch_digest (s : State) (lid : Nat) (v : Launch) : (s.setLaunch lid v).digest = s.digest := rfl
@[simp] theorem State.setLaunch_secver (s : State) (lid : Nat) (v : Launch) : (s.setLaunch lid v).secver = s.secver := rfl
@[simp] theorem State.setLaunch_keyids (s : State) (lid : Nat) (v : Launch) : (s.setLaunch lid v).keyids = s.keyids := rfl
@[simp] theorem State.setLaunch_jobs (s : State) (lid : Nat) (v : Launch) : (s.setLaunch lid v).jobs = s.jobs := rfl
@[simp] theorem State.setLaunch_crews (s : State) (lid : Nat) (v : Launch) : (s.setLaunch lid v).crews = s.crews := rfl
@[simp] theorem State.setLaunch_cores (s : State) (lid : Nat) (v : Launch) : (s.setLaunch lid v).cores = s.cores := rfl
@[simp] theorem State.setLaunch_squads (s : State) (lid : Nat) (v : Launch) : (s.setLaunch lid v).squads = s.squads := rfl
@[simp] theorem State.setLaunch_mem (s : State) (lid : Nat) (v : Launch) : (s.setLaunch lid v).mem = s.mem := rfl
@[simp] theorem State.setLaunch_io (s : State) (lid : Nat) (v : Launch) : (s.setLaunch lid v).io = s.io := rfl
@[simp] theorem State.setLaunch_seq (s : State) (lid : Nat) (v : Launch) : (s.setLaunch lid v).seq = s.seq := rfl
@[simp] theorem State.setLaunch_nextHandle (s : State) (lid : Nat) (v : Launch) : (s.setLaunch lid v).nextHandle = s.nextHandle := rfl
@[simp] theorem State.setLaunch_nextSocket (s : State) (lid : Nat) (v : Launch) : (s.setLaunch lid v).nextSocket = s.nextSocket := rfl
@[simp] theorem State.setLaunch_nextMsg (s : State) (lid : Nat) (v : Launch) : (s.setLaunch lid v).nextMsg = s.nextMsg := rfl
@[simp] theorem State.setLaunch_freeCtr (s : State) (lid : Nat) (v : Launch) : (s.setLaunch lid v).freeCtr = s.freeCtr := rfl
@[simp] theorem State.setLaunch_cur (s : State) (lid : Nat) (v : Launch) : (s.setLaunch lid v).cur = s.cur := rfl
@[simp] theorem State.setLaunch_agenda (s : State) (lid : Nat) (v : Launch) : (s.setLaunch lid v).agenda = s.agenda := rfl

/-! ### setJob: everything but jobs -/

@[simp] theorem State.setJob_boot (s : State) (j : Nat) (v : Option Job) : (s.setJob j v).boot = s.boot := rfl
@[simp] theorem State.setJob_service (s : State) (j : Nat) (v : Option Job) : (s.setJob j v).service = s.service := rfl
@[simp] theorem State.setJob_timeSlice (s : State) (j : Nat) (v : Option Job) : (s.setJob j v).timeSlice = s.timeSlice := rfl
@[simp] theorem State.setJob_cycle (s : State) (j : Nat) (v : Option Job) : (s.setJob j v).cycle = s.cycle := rfl
@[simp] theorem State.setJob_fuses (s : State) (j : Nat) (v : Option Job) : (s.setJob j v).fuses = s.fuses := rfl
@[simp] theorem State.setJob_fuseStep (s : State) (j : Nat) (v : Option Job) : (s.setJob j v).fuseStep = s.fuseStep := rfl
@[simp] theorem State.setJob_digest (s : State) (j : Nat) (v : Option Job) : (s.setJob j v).digest = s.digest := rfl
@[simp] theorem State.setJob_secver (s : State) (j : Nat) (v : Option Job) : (s.setJob j v).secver = s.secver := rfl
@[simp] theorem State.setJob_keyids (s : State) (j : Nat) (v : Option Job) : (s.setJob j v).keyids = s.keyids := rfl
@[simp] theorem State.setJob_launches (s : State) (j : Nat) (v : Option Job) : (s.setJob j v).launches = s.launches := rfl
@[simp] theorem State.setJob_crews (s : State) (j : Nat) (v : Option Job) : (s.setJob j v).crews = s.crews := rfl
@[simp] theorem State.setJob_cores (s : State) (j : Nat) (v : Option Job) : (s.setJob j v).cores = s.cores := rfl
@[simp] theorem State.setJob_squads (s : State) (j : Nat) (v : Option Job) : (s.setJob j v).squads = s.squads := rfl
@[simp] theorem State.setJob_mem (s : State) (j : Nat) (v : Option Job) : (s.setJob j v).mem = s.mem := rfl
@[simp] theorem State.setJob_io (s : State) (j : Nat) (v : Option Job) : (s.setJob j v).io = s.io := rfl
@[simp] theorem State.setJob_seq (s : State) (j : Nat) (v : Option Job) : (s.setJob j v).seq = s.seq := rfl
@[simp] theorem State.setJob_nextHandle (s : State) (j : Nat) (v : Option Job) : (s.setJob j v).nextHandle = s.nextHandle := rfl
@[simp] theorem State.setJob_nextSocket (s : State) (j : Nat) (v : Option Job) : (s.setJob j v).nextSocket = s.nextSocket := rfl
@[simp] theorem State.setJob_nextMsg (s : State) (j : Nat) (v : Option Job) : (s.setJob j v).nextMsg = s.nextMsg := rfl
@[simp] theorem State.setJob_freeCtr (s : State) (j : Nat) (v : Option Job) : (s.setJob j v).freeCtr = s.freeCtr := rfl
@[simp] theorem State.setJob_cur (s : State) (j : Nat) (v : Option Job) : (s.setJob j v).cur = s.cur := rfl
@[simp] theorem State.setJob_agenda (s : State) (j : Nat) (v : Option Job) : (s.setJob j v).agenda = s.agenda := rfl

/-! ### setCrew: everything but crews -/

@[simp] theorem State.setCrew_boot (s : State) (lid c : Nat) (v : Crew) : (s.setCrew lid c v).boot = s.boot := rfl
@[simp] theorem State.setCrew_service (s : State) (lid c : Nat) (v : Crew) : (s.setCrew lid c v).service = s.service := rfl
@[simp] theorem State.setCrew_timeSlice (s : State) (lid c : Nat) (v : Crew) : (s.setCrew lid c v).timeSlice = s.timeSlice := rfl
@[simp] theorem State.setCrew_cycle (s : State) (lid c : Nat) (v : Crew) : (s.setCrew lid c v).cycle = s.cycle := rfl
@[simp] theorem State.setCrew_fuses (s : State) (lid c : Nat) (v : Crew) : (s.setCrew lid c v).fuses = s.fuses := rfl
@[simp] theorem State.setCrew_fuseStep (s : State) (lid c : Nat) (v : Crew) : (s.setCrew lid c v).fuseStep = s.fuseStep := rfl
@[simp] theorem State.setCrew_digest (s : State) (lid c : Nat) (v : Crew) : (s.setCrew lid c v).digest = s.digest := rfl
@[simp] theorem State.setCrew_secver (s : State) (lid c : Nat) (v : Crew) : (s.setCrew lid c v).secver = s.secver := rfl
@[simp] theorem State.setCrew_keyids (s : State) (lid c : Nat) (v : Crew) : (s.setCrew lid c v).keyids = s.keyids := rfl
@[simp] theorem State.setCrew_jobs (s : State) (lid c : Nat) (v : Crew) : (s.setCrew lid c v).jobs = s.jobs := rfl
@[simp] theorem State.setCrew_launches (s : State) (lid c : Nat) (v : Crew) : (s.setCrew lid c v).launches = s.launches := rfl
@[simp] theorem State.setCrew_cores (s : State) (lid c : Nat) (v : Crew) : (s.setCrew lid c v).cores = s.cores := rfl
@[simp] theorem State.setCrew_squads (s : State) (lid c : Nat) (v : Crew) : (s.setCrew lid c v).squads = s.squads := rfl
@[simp] theorem State.setCrew_mem (s : State) (lid c : Nat) (v : Crew) : (s.setCrew lid c v).mem = s.mem := rfl
@[simp] theorem State.setCrew_io (s : State) (lid c : Nat) (v : Crew) : (s.setCrew lid c v).io = s.io := rfl
@[simp] theorem State.setCrew_seq (s : State) (lid c : Nat) (v : Crew) : (s.setCrew lid c v).seq = s.seq := rfl
@[simp] theorem State.setCrew_nextHandle (s : State) (lid c : Nat) (v : Crew) : (s.setCrew lid c v).nextHandle = s.nextHandle := rfl
@[simp] theorem State.setCrew_nextSocket (s : State) (lid c : Nat) (v : Crew) : (s.setCrew lid c v).nextSocket = s.nextSocket := rfl
@[simp] theorem State.setCrew_nextMsg (s : State) (lid c : Nat) (v : Crew) : (s.setCrew lid c v).nextMsg = s.nextMsg := rfl
@[simp] theorem State.setCrew_freeCtr (s : State) (lid c : Nat) (v : Crew) : (s.setCrew lid c v).freeCtr = s.freeCtr := rfl
@[simp] theorem State.setCrew_cur (s : State) (lid c : Nat) (v : Crew) : (s.setCrew lid c v).cur = s.cur := rfl
@[simp] theorem State.setCrew_agenda (s : State) (lid c : Nat) (v : Crew) : (s.setCrew lid c v).agenda = s.agenda := rfl

/-! ### modCrew: everything but crews -/

@[simp] theorem State.modCrew_boot (s : State) (lid c : Nat) (f : Crew → Crew) : (s.modCrew lid c f).boot = s.boot := rfl
@[simp] theorem State.modCrew_service (s : State) (lid c : Nat) (f : Crew → Crew) : (s.modCrew lid c f).service = s.service := rfl
@[simp] theorem State.modCrew_timeSlice (s : State) (lid c : Nat) (f : Crew → Crew) : (s.modCrew lid c f).timeSlice = s.timeSlice := rfl
@[simp] theorem State.modCrew_cycle (s : State) (lid c : Nat) (f : Crew → Crew) : (s.modCrew lid c f).cycle = s.cycle := rfl
@[simp] theorem State.modCrew_fuses (s : State) (lid c : Nat) (f : Crew → Crew) : (s.modCrew lid c f).fuses = s.fuses := rfl
@[simp] theorem State.modCrew_fuseStep (s : State) (lid c : Nat) (f : Crew → Crew) : (s.modCrew lid c f).fuseStep = s.fuseStep := rfl
@[simp] theorem State.modCrew_digest (s : State) (lid c : Nat) (f : Crew → Crew) : (s.modCrew lid c f).digest = s.digest := rfl
@[simp] theorem State.modCrew_secver (s : State) (lid c : Nat) (f : Crew → Crew) : (s.modCrew lid c f).secver = s.secver := rfl
@[simp] theorem State.modCrew_keyids (s : State) (lid c : Nat) (f : Crew → Crew) : (s.modCrew lid c f).keyids = s.keyids := rfl
@[simp] theorem State.modCrew_jobs (s : State) (lid c : Nat) (f : Crew → Crew) : (s.modCrew lid c f).jobs = s.jobs := rfl
@[simp] theorem State.modCrew_launches (s : State) (lid c : Nat) (f : Crew → Crew) : (s.modCrew lid c f).launches = s.launches := rfl
@[simp] theorem State.modCrew_cores (s : State) (lid c : Nat) (f : Crew → Crew) : (s.modCrew lid c f).cores = s.cores := rfl
@[simp] theorem State.modCrew_squads (s : State) (lid c : Nat) (f : Crew → Crew) : (s.modCrew lid c f).squads = s.squads := rfl
@[simp] theorem State.modCrew_mem (s : State) (lid c : Nat) (f : Crew → Crew) : (s.modCrew lid c f).mem = s.mem := rfl
@[simp] theorem State.modCrew_io (s : State) (lid c : Nat) (f : Crew → Crew) : (s.modCrew lid c f).io = s.io := rfl
@[simp] theorem State.modCrew_seq (s : State) (lid c : Nat) (f : Crew → Crew) : (s.modCrew lid c f).seq = s.seq := rfl
@[simp] theorem State.modCrew_nextHandle (s : State) (lid c : Nat) (f : Crew → Crew) : (s.modCrew lid c f).nextHandle = s.nextHandle := rfl
@[simp] theorem State.modCrew_nextSocket (s : State) (lid c : Nat) (f : Crew → Crew) : (s.modCrew lid c f).nextSocket = s.nextSocket := rfl
@[simp] theorem State.modCrew_nextMsg (s : State) (lid c : Nat) (f : Crew → Crew) : (s.modCrew lid c f).nextMsg = s.nextMsg := rfl
@[simp] theorem State.modCrew_freeCtr (s : State) (lid c : Nat) (f : Crew → Crew) : (s.modCrew lid c f).freeCtr = s.freeCtr := rfl
@[simp] theorem State.modCrew_cur (s : State) (lid c : Nat) (f : Crew → Crew) : (s.modCrew lid c f).cur = s.cur := rfl
@[simp] theorem State.modCrew_agenda (s : State) (lid c : Nat) (f : Crew → Crew) : (s.modCrew lid c f).agenda = s.agenda := rfl

/-! ### setCore: everything but cores -/

@[simp] theorem State.setCore_boot (s : State) (n : Nat) (v : Core) : (s.setCore n v).boot = s.boot := rfl
@[simp] theorem State.setCore_service (s : State) (n : Nat) (v : Core) : (s.setCore n v).service = s.service := rfl
@[simp] theorem State.setCore_timeSlice (s : State) (n : Nat) (v : Core) : (s.setCore n v).timeSlice = s.timeSlice := rfl
@[simp] theorem State.setCore_cycle (s : State) (n : Nat) (v : Core) : (s.setCore n v).cycle = s.cycle := rfl
@[simp] theorem State.setCore_fuses (s : State) (n : Nat) (v : Core) : (s.setCore n v).fuses = s.fuses := rfl
@[simp] theorem State.setCore_fuseStep (s : State) (n : Nat) (v : Core) : (s.setCore n v).fuseStep = s.fuseStep := rfl
@[simp] theorem State.setCore_digest (s : State) (n : Nat) (v : Core) : (s.setCore n v).digest = s.digest := rfl
@[simp] theorem State.setCore_secver (s : State) (n : Nat) (v : Core) : (s.setCore n v).secver = s.secver := rfl
@[simp] theorem State.setCore_keyids (s : State) (n : Nat) (v : Core) : (s.setCore n v).keyids = s.keyids := rfl
@[simp] theorem State.setCore_jobs (s : State) (n : Nat) (v : Core) : (s.setCore n v).jobs = s.jobs := rfl
@[simp] theorem State.setCore_launches (s : State) (n : Nat) (v : Core) : (s.setCore n v).launches = s.launches := rfl
@[simp] theorem State.setCore_crews (s : State) (n : Nat) (v : Core) : (s.setCore n v).crews = s.crews := rfl
@[simp] theorem State.setCore_squads (s : State) (n : Nat) (v : Core) : (s.setCore n v).squads = s.squads := rfl
@[simp] theorem State.setCore_mem (s : State) (n : Nat) (v : Core) : (s.setCore n v).mem = s.mem := rfl
@[simp] theorem State.setCore_io (s : State) (n : Nat) (v : Core) : (s.setCore n v).io = s.io := rfl
@[simp] theorem State.setCore_seq (s : State) (n : Nat) (v : Core) : (s.setCore n v).seq = s.seq := rfl
@[simp] theorem State.setCore_nextHandle (s : State) (n : Nat) (v : Core) : (s.setCore n v).nextHandle = s.nextHandle := rfl
@[simp] theorem State.setCore_nextSocket (s : State) (n : Nat) (v : Core) : (s.setCore n v).nextSocket = s.nextSocket := rfl
@[simp] theorem State.setCore_nextMsg (s : State) (n : Nat) (v : Core) : (s.setCore n v).nextMsg = s.nextMsg := rfl
@[simp] theorem State.setCore_freeCtr (s : State) (n : Nat) (v : Core) : (s.setCore n v).freeCtr = s.freeCtr := rfl
@[simp] theorem State.setCore_cur (s : State) (n : Nat) (v : Core) : (s.setCore n v).cur = s.cur := rfl
@[simp] theorem State.setCore_agenda (s : State) (n : Nat) (v : Core) : (s.setCore n v).agenda = s.agenda := rfl

/-! ### modCore: everything but cores -/

@[simp] theorem State.modCore_boot (s : State) (n : Nat) (f : Core → Core) : (s.modCore n f).boot = s.boot := rfl
@[simp] theorem State.modCore_service (s : State) (n : Nat) (f : Core → Core) : (s.modCore n f).service = s.service := rfl
@[simp] theorem State.modCore_timeSlice (s : State) (n : Nat) (f : Core → Core) : (s.modCore n f).timeSlice = s.timeSlice := rfl
@[simp] theorem State.modCore_cycle (s : State) (n : Nat) (f : Core → Core) : (s.modCore n f).cycle = s.cycle := rfl
@[simp] theorem State.modCore_fuses (s : State) (n : Nat) (f : Core → Core) : (s.modCore n f).fuses = s.fuses := rfl
@[simp] theorem State.modCore_fuseStep (s : State) (n : Nat) (f : Core → Core) : (s.modCore n f).fuseStep = s.fuseStep := rfl
@[simp] theorem State.modCore_digest (s : State) (n : Nat) (f : Core → Core) : (s.modCore n f).digest = s.digest := rfl
@[simp] theorem State.modCore_secver (s : State) (n : Nat) (f : Core → Core) : (s.modCore n f).secver = s.secver := rfl
@[simp] theorem State.modCore_keyids (s : State) (n : Nat) (f : Core → Core) : (s.modCore n f).keyids = s.keyids := rfl
@[simp] theorem State.modCore_jobs (s : State) (n : Nat) (f : Core → Core) : (s.modCore n f).jobs = s.jobs := rfl
@[simp] theorem State.modCore_launches (s : State) (n : Nat) (f : Core → Core) : (s.modCore n f).launches = s.launches := rfl
@[simp] theorem State.modCore_crews (s : State) (n : Nat) (f : Core → Core) : (s.modCore n f).crews = s.crews := rfl
@[simp] theorem State.modCore_squads (s : State) (n : Nat) (f : Core → Core) : (s.modCore n f).squads = s.squads := rfl
@[simp] theorem State.modCore_mem (s : State) (n : Nat) (f : Core → Core) : (s.modCore n f).mem = s.mem := rfl
@[simp] theorem State.modCore_io (s : State) (n : Nat) (f : Core → Core) : (s.modCore n f).io = s.io := rfl
@[simp] theorem State.modCore_seq (s : State) (n : Nat) (f : Core → Core) : (s.modCore n f).seq = s.seq := rfl
@[simp] theorem State.modCore_nextHandle (s : State) (n : Nat) (f : Core → Core) : (s.modCore n f).nextHandle = s.nextHandle := rfl
@[simp] theorem State.modCore_nextSocket (s : State) (n : Nat) (f : Core → Core) : (s.modCore n f).nextSocket = s.nextSocket := rfl
@[simp] theorem State.modCore_nextMsg (s : State) (n : Nat) (f : Core → Core) : (s.modCore n f).nextMsg = s.nextMsg := rfl
@[simp] theorem State.modCore_freeCtr (s : State) (n : Nat) (f : Core → Core) : (s.modCore n f).freeCtr = s.freeCtr := rfl
@[simp] theorem State.modCore_cur (s : State) (n : Nat) (f : Core → Core) : (s.modCore n f).cur = s.cur := rfl
@[simp] theorem State.modCore_agenda (s : State) (n : Nat) (f : Core → Core) : (s.modCore n f).agenda = s.agenda := rfl

/-! ### note: everything but io -/

@[simp] theorem State.note_boot (s : State) (r : Sent) : (s.note r).boot = s.boot := rfl
@[simp] theorem State.note_service (s : State) (r : Sent) : (s.note r).service = s.service := rfl
@[simp] theorem State.note_timeSlice (s : State) (r : Sent) : (s.note r).timeSlice = s.timeSlice := rfl
@[simp] theorem State.note_cycle (s : State) (r : Sent) : (s.note r).cycle = s.cycle := rfl
@[simp] theorem State.note_fuses (s : State) (r : Sent) : (s.note r).fuses = s.fuses := rfl
@[simp] theorem State.note_fuseStep (s : State) (r : Sent) : (s.note r).fuseStep = s.fuseStep := rfl
@[simp] theorem State.note_digest (s : State) (r : Sent) : (s.note r).digest = s.digest := rfl
@[simp] theorem State.note_secver (s : State) (r : Sent) : (s.note r).secver = s.secver := rfl
@[simp] theorem State.note_keyids (s : State) (r : Sent) : (s.note r).keyids = s.keyids := rfl
@[simp] theorem State.note_jobs (s : State) (r : Sent) : (s.note r).jobs = s.jobs := rfl
@[simp] theorem State.note_launches (s : State) (r : Sent) : (s.note r).launches = s.launches := rfl
@[simp] theorem State.note_crews (s : State) (r : Sent) : (s.note r).crews = s.crews := rfl
@[simp] theorem State.note_cores (s : State) (r : Sent) : (s.note r).cores = s.cores := rfl
@[simp] theorem State.note_squads (s : State) (r : Sent) : (s.note r).squads = s.squads := rfl
@[simp] theorem State.note_mem (s : State) (r : Sent) : (s.note r).mem = s.mem := rfl
@[simp] theorem State.note_seq (s : State) (r : Sent) : (s.note r).seq = s.seq := rfl
@[simp] theorem State.note_nextHandle (s : State) (r : Sent) : (s.note r).nextHandle = s.nextHandle := rfl
@[simp] theorem State.note_nextSocket (s : State) (r : Sent) : (s.note r).nextSocket = s.nextSocket := rfl
@[simp] theorem State.note_nextMsg (s : State) (r : Sent) : (s.note r).nextMsg = s.nextMsg := rfl
@[simp] theorem State.note_freeCtr (s : State) (r : Sent) : (s.note r).freeCtr = s.freeCtr := rfl
@[simp] theorem State.note_cur (s : State) (r : Sent) : (s.note r).cur = s.cur := rfl
@[simp] theorem State.note_agenda (s : State) (r : Sent) : (s.note r).agenda = s.agenda := rfl

/-! ### modSquad: everything but squads -/

@[simp] theorem State.modSquad_boot (s : State) (q : Nat) (f : Squad → Squad) : (s.modSquad q f).boot = s.boot := by unfold State.modSquad; split <;> rfl
@[simp] theorem State.modSquad_service (s : State) (q : Nat) (f : Squad → Squad) : (s.modSquad q f).service = s.service := by unfold State.modSquad; split <;> rfl
@[simp] theorem State.modSquad_timeSlice (s : State) (q : Nat) (f : Squad → Squad) : (s.modSquad q f).timeSlice = s.timeSlice := by unfold State.modSquad; split <;> rfl
@[simp] theorem State.modSquad_cycle (s : State) (q : Nat) (f : Squad → Squad) : (s.modSquad q f).cycle = s.cycle := by unfold State.modSquad; split <;> rfl
@[simp] theorem State.modSquad_fuses (s : State) (q : Nat) (f : Squad → Squad) : (s.modSquad q f).fuses = s.fuses := by unfold State.modSquad; split <;> rfl
@[simp] theorem State.modSquad_fuseStep (s : State) (q : Nat) (f : Squad → Squad) : (s.modSquad q f).fuseStep = s.fuseStep := by unfold State.modSquad; split <;> rfl
@[simp] theorem State.modSquad_digest (s : State) (q : Nat) (f : Squad → Squad) : (s.modSquad q f).digest = s.digest := by unfold State.modSquad; split <;> rfl
@[simp] theorem State.modSquad_secver (s : State) (q : Nat) (f : Squad → Squad) : (s.modSquad q f).secver = s.secver := by unfold State.modSquad; split <;> rfl
@[simp] theorem State.modSquad_keyids (s : State) (q : Nat) (f : Squad → Squad) : (s.modSquad q f).keyids = s.keyids := by unfold State.modSquad; split <;> rfl
@[simp] theorem State.modSquad_jobs (s : State) (q : Nat) (f : Squad → Squad) : (s.modSquad q f).jobs = s.jobs := by unfold State.modSquad; split <;> rfl
@[simp] theorem State.modSquad_launches (s : State) (q : Nat) (f : Squad → Squad) : (s.modSquad q f).launches = s.launches := by unfold State.modSquad; split <;> rfl
@[simp] theorem State.modSquad_crews (s : State) (q : Nat) (f : Squad → Squad) : (s.modSquad q f).crews = s.crews := by unfold State.modSquad; split <;> rfl
@[simp] theorem State.modSquad_cores (s : State) (q : Nat) (f : Squad → Squad) : (s.modSquad q f).cores = s.cores := by unfold State.modSquad; split <;> rfl
@[simp] theorem State.modSquad_mem (s : State) (q : Nat) (f : Squad → Squad) : (s.modSquad q f).mem = s.mem := by unfold State.modSquad; split <;> rfl
@[simp] theorem State.modSquad_io (s : State) (q : Nat) (f : Squad → Squad) : (s.modSquad q f).io = s.io := by unfold State.modSquad; split <;> rfl
@[simp] theorem State.modSquad_seq (s : State) (q : Nat) (f : Squad → Squad) : (s.modSquad q f).seq = s.seq := by unfold State.modSquad; split <;> rfl
@[simp] theorem State.modSquad_nextHandle (s : State) (q : Nat) (f : Squad → Squad) : (s.modSquad q f).nextHandle = s.nextHandle := by unfold State.modSquad; split <;> rfl
@[simp] theorem State.modSquad_nextSocket (s : State) (q : Nat) (f : Squad → Squad) : (s.modSquad q f).nextSocket = s.nextSocket := by unfold State.modSquad; split <;> rfl
@[simp] theorem State.modSquad_nextMsg (s : State) (q : Nat) (f : Squad → Squad) : (s.modSquad q f).nextMsg = s.nextMsg := by unfold State.modSquad; split <;> rfl
@[simp] theorem State.modSquad_freeCtr (s : State) (q : Nat) (f : Squad → Squad) : (s.modSquad q f).freeCtr = s.freeCtr := by unfold State.modSquad; split <;> rfl
@[simp] theorem State.modSquad_cur (s : State) (q : Nat) (f : Squad → Squad) : (s.modSquad q f).cur = s.cur := by unfold State.modSquad; split <;> rfl
@[simp] theorem State.modSquad_agenda (s : State) (q : Nat) (f : Squad → Squad) : (s.modSquad q f).agenda = s.agenda := by unfold State.modSquad; split <;> rfl

/-! ### modLaunch: everything but launches -/

@[simp] theorem State.modLaunch_boot (s : State) (lid : Nat) (f : Launch → Launch) : (s.modLaunch lid f).boot = s.boot := by unfold State.modLaunch; split <;> rfl
@[simp] theorem State.modLaunch_service (s : State) (lid : Nat) (f : Launch → Launch) : (s.modLaunch lid f).service = s.service := by unfold State.modLaunch; split <;> rfl
@[simp] theorem State.modLaunch_timeSlice (s : State) (lid : Nat) (f : Launch → Launch) : (s.modLaunch lid f).timeSlice = s.timeSlice := by unfold State.modLaunch; split <;> rfl
@[simp] theorem State.modLaunch_cycle (s : State) (lid : Nat) (f : Launch → Launch) : (s.modLaunch lid f).cycle = s.cycle := by unfold State.modLaunch; split <;> rfl
@[simp] theorem State.modLaunch_fuses (s : State) (lid : Nat) (f : Launch → Launch) : (s.modLaunch lid f).fuses = s.fuses := by unfold State.modLaunch; split <;> rfl
@[simp] theorem State.modLaunch_fuseStep (s : State) (lid : Nat) (f : Launch → Launch) : (s.modLaunch lid f).fuseStep = s.fuseStep := by unfold State.modLaunch; split <;> rfl
@[simp] theorem State.modLaunch_digest (s : State) (lid : Nat) (f : Launch → Launch) : (s.modLaunch lid f).digest = s.digest := by unfold State.modLaunch; split <;> rfl
@[simp] theorem State.modLaunch_secver (s : State) (lid : Nat) (f : Launch → Launch) : (s.modLaunch lid f).secver = s.secver := by unfold State.modLaunch; split <;> rfl
@[simp] theorem State.modLaunch_keyids (s : State) (lid : Nat) (f : Launch → Launch) : (s.modLaunch lid f).keyids = s.keyids := by unfold State.modLaunch; split <;> rfl
@[simp] theorem State.modLaunch_jobs (s : State) (lid : Nat) (f : Launch → Launch) : (s.modLaunch lid f).jobs = s.jobs := by unfold State.modLaunch; split <;> rfl
@[simp] theorem State.modLaunch_crews (s : State) (lid : Nat) (f : Launch → Launch) : (s.modLaunch lid f).crews = s.crews := by unfold State.modLaunch; split <;> rfl
@[simp] theorem State.modLaunch_cores (s : State) (lid : Nat) (f : Launch → Launch) : (s.modLaunch lid f).cores = s.cores := by unfold State.modLaunch; split <;> rfl
@[simp] theorem State.modLaunch_squads (s : State) (lid : Nat) (f : Launch → Launch) : (s.modLaunch lid f).squads = s.squads := by unfold State.modLaunch; split <;> rfl
@[simp] theorem State.modLaunch_mem (s : State) (lid : Nat) (f : Launch → Launch) : (s.modLaunch lid f).mem = s.mem := by unfold State.modLaunch; split <;> rfl
@[simp] theorem State.modLaunch_io (s : State) (lid : Nat) (f : Launch → Launch) : (s.modLaunch lid f).io = s.io := by unfold State.modLaunch; split <;> rfl
@[simp] theorem State.modLaunch_seq (s : State) (lid : Nat) (f : Launch → Launch) : (s.modLaunch lid f).seq = s.seq := by unfold State.modLaunch; split <;> rfl
@[simp] theorem State.modLaunch_nextHandle (s : State) (lid : Nat) (f : Launch → Launch) : (s.modLaunch lid f).nextHandle = s.nextHandle := by unfold State.modLaunch; split <;> rfl
@[simp] theorem State.modLaunch_nextSocket (s : State) (lid : Nat) (f : Launch → Launch) : (s.modLaunch lid f).nextSocket = s.nextSocket := by unfold State.modLaunch; split <;> rfl
@[simp] theorem State.modLaunch_nextMsg (s : State) (lid : Nat) (f : Launch → Launch) : (s.modLaunch lid f).nextMsg = s.nextMsg := by unfold State.modLaunch; split <;> rfl
@[simp] theorem State.modLaunch_freeCtr (s : State) (lid : Nat) (f : Launch → Launch) : (s.modLaunch lid f).freeCtr = s.freeCtr := by unfold State.modLaunch; split <;> rfl
@[simp] theorem State.modLaunch_cur (s : State) (lid : Nat) (f : Launch → Launch) : (s.modLaunch lid f).cur = s.cur := by unfold State.modLaunch; split <;> rfl
@[simp] theorem State.modLaunch_agenda (s : State) (lid : Nat) (f : Launch → Launch) : (s.modLaunch lid f).agenda = s.agenda := by unfold State.modLaunch; split <;> rfl

/-! ### setThread: everything but squads -/

@[simp] theorem State.setThread_boot (s : State) (q l : Nat) (t : Thread) : (s.setThread q l t).boot = s.boot := by simp [State.setThread]
@[simp] theorem State.setThread_service (s : State) (q l : Nat) (t : Thread) : (s.setThread q l t).service = s.service := by simp [State.setThread]
@[simp] theorem State.setThread_timeSlice (s : State) (q l : Nat) (t : Thread) : (s.setThread q l t).timeSlice = s.timeSlice := by simp [State.setThread]
@[simp] theorem State.setThread_cycle (s : State) (q l : Nat) (t : Thread) : (s.setThread q l t).cycle = s.cycle := by simp [State.setThread]
@[simp] theorem State.setThread_fuses (s : State) (q l : Nat) (t : Thread) : (s.setThread q l t).fuses = s.fuses := by simp [State.setThread]
@[simp] theorem State.setThread_fuseStep (s : State) (q l : Nat) (t : Thread) : (s.setThread q l t).fuseStep = s.fuseStep := by simp [State.setThread]
@[simp] theorem State.setThread_digest (s : State) (q l : Nat) (t : Thread) : (s.setThread q l t).digest = s.digest := by simp [State.setThread]
@[simp] theorem State.setThread_secver (s : State) (q l : Nat) (t : Thread) : (s.setThread q l t).secver = s.secver := by simp [State.setThread]
@[simp] theorem State.setThread_keyids (s : State) (q l : Nat) (t : Thread) : (s.setThread q l t).keyids = s.keyids := by simp [State.setThread]
@[simp] theorem State.setThread_jobs (s : State) (q l : Nat) (t : Thread) : (s.setThread q l t).jobs = s.jobs := by simp [State.setThread]
@[simp] theorem State.setThread_launches (s : State) (q l : Nat) (t : Thread) : (s.setThread q l t).launches = s.launches := by simp [State.setThread]
@[simp] theorem State.setThread_crews (s : State) (q l : Nat) (t : Thread) : (s.setThread q l t).crews = s.crews := by simp [State.setThread]
@[simp] theorem State.setThread_cores (s : State) (q l : Nat) (t : Thread) : (s.setThread q l t).cores = s.cores := by simp [State.setThread]
@[simp] theorem State.setThread_mem (s : State) (q l : Nat) (t : Thread) : (s.setThread q l t).mem = s.mem := by simp [State.setThread]
@[simp] theorem State.setThread_io (s : State) (q l : Nat) (t : Thread) : (s.setThread q l t).io = s.io := by simp [State.setThread]
@[simp] theorem State.setThread_seq (s : State) (q l : Nat) (t : Thread) : (s.setThread q l t).seq = s.seq := by simp [State.setThread]
@[simp] theorem State.setThread_nextHandle (s : State) (q l : Nat) (t : Thread) : (s.setThread q l t).nextHandle = s.nextHandle := by simp [State.setThread]
@[simp] theorem State.setThread_nextSocket (s : State) (q l : Nat) (t : Thread) : (s.setThread q l t).nextSocket = s.nextSocket := by simp [State.setThread]
@[simp] theorem State.setThread_nextMsg (s : State) (q l : Nat) (t : Thread) : (s.setThread q l t).nextMsg = s.nextMsg := by simp [State.setThread]
@[simp] theorem State.setThread_freeCtr (s : State) (q l : Nat) (t : Thread) : (s.setThread q l t).freeCtr = s.freeCtr := by simp [State.setThread]
@[simp] theorem State.setThread_cur (s : State) (q l : Nat) (t : Thread) : (s.setThread q l t).cur = s.cur := by simp [State.setThread]
@[simp] theorem State.setThread_agenda (s : State) (q l : Nat) (t : Thread) : (s.setThread q l t).agenda = s.agenda := by simp [State.setThread]

/-! ### modThread: everything but squads -/

@[simp] theorem State.modThread_boot (s : State) (q l : Nat) (f : Thread → Thread) : (s.modThread q l f).boot = s.boot := by simp [State.modThread]
@[simp] theorem State.modThread_service (s : State) (q l : Nat) (f : Thread → Thread) : (s.modThread q l f).service = s.service := by simp [State.modThread]
@[simp] theorem State.modThread_timeSlice (s : State) (q l : Nat) (f : Thread → Thread) : (s.modThread q l f).timeSlice = s.timeSlice := by simp [State.modThread]
@[simp] theorem State.modThread_cycle (s : State) (q l : Nat) (f : Thread → Thread) : (s.modThread q l f).cycle = s.cycle := by simp [State.modThread]
@[simp] theorem State.modThread_fuses (s : State) (q l : Nat) (f : Thread → Thread) : (s.modThread q l f).fuses = s.fuses := by simp [State.modThread]
@[simp] theorem State.modThread_fuseStep (s : State) (q l : Nat) (f : Thread → Thread) : (s.modThread q l f).fuseStep = s.fuseStep := by simp [State.modThread]
@[simp] theorem State.modThread_digest (s : State) (q l : Nat) (f : Thread → Thread) : (s.modThread q l f).digest = s.digest := by simp [State.modThread]
@[simp] theorem State.modThread_secver (s : State) (q l : Nat) (f : Thread → Thread) : (s.modThread q l f).secver = s.secver := by simp [State.modThread]
@[simp] theorem State.modThread_keyids (s : State) (q l : Nat) (f : Thread → Thread) : (s.modThread q l f).keyids = s.keyids := by simp [State.modThread]
@[simp] theorem State.modThread_jobs (s : State) (q l : Nat) (f : Thread → Thread) : (s.modThread q l f).jobs = s.jobs := by simp [State.modThread]
@[simp] theorem State.modThread_launches (s : State) (q l : Nat) (f : Thread → Thread) : (s.modThread q l f).launches = s.launches := by simp [State.modThread]
@[simp] theorem State.modThread_crews (s : State) (q l : Nat) (f : Thread → Thread) : (s.modThread q l f).crews = s.crews := by simp [State.modThread]
@[simp] theorem State.modThread_cores (s : State) (q l : Nat) (f : Thread → Thread) : (s.modThread q l f).cores = s.cores := by simp [State.modThread]
@[simp] theorem State.modThread_mem (s : State) (q l : Nat) (f : Thread → Thread) : (s.modThread q l f).mem = s.mem := by simp [State.modThread]
@[simp] theorem State.modThread_io (s : State) (q l : Nat) (f : Thread → Thread) : (s.modThread q l f).io = s.io := by simp [State.modThread]
@[simp] theorem State.modThread_seq (s : State) (q l : Nat) (f : Thread → Thread) : (s.modThread q l f).seq = s.seq := by simp [State.modThread]
@[simp] theorem State.modThread_nextHandle (s : State) (q l : Nat) (f : Thread → Thread) : (s.modThread q l f).nextHandle = s.nextHandle := by simp [State.modThread]
@[simp] theorem State.modThread_nextSocket (s : State) (q l : Nat) (f : Thread → Thread) : (s.modThread q l f).nextSocket = s.nextSocket := by simp [State.modThread]
@[simp] theorem State.modThread_nextMsg (s : State) (q l : Nat) (f : Thread → Thread) : (s.modThread q l f).nextMsg = s.nextMsg := by simp [State.modThread]
@[simp] theorem State.modThread_freeCtr (s : State) (q l : Nat) (f : Thread → Thread) : (s.modThread q l f).freeCtr = s.freeCtr := by simp [State.modThread]
@[simp] theorem State.modThread_cur (s : State) (q l : Nat) (f : Thread → Thread) : (s.modThread q l f).cur = s.cur := by simp [State.modThread]
@[simp] theorem State.modThread_agenda (s : State) (q l : Nat) (f : Thread → Thread) : (s.modThread q l f).agenda = s.agenda := by simp [State.modThread]

/-! ### takeTrap: everything but squads -/

@[simp] theorem State.takeTrap_boot (s : State) (q cause : Nat) (m : BitVec 32) (a e : Word) : (s.takeTrap q cause m a e).boot = s.boot := by simp [State.takeTrap]
@[simp] theorem State.takeTrap_service (s : State) (q cause : Nat) (m : BitVec 32) (a e : Word) : (s.takeTrap q cause m a e).service = s.service := by simp [State.takeTrap]
@[simp] theorem State.takeTrap_timeSlice (s : State) (q cause : Nat) (m : BitVec 32) (a e : Word) : (s.takeTrap q cause m a e).timeSlice = s.timeSlice := by simp [State.takeTrap]
@[simp] theorem State.takeTrap_cycle (s : State) (q cause : Nat) (m : BitVec 32) (a e : Word) : (s.takeTrap q cause m a e).cycle = s.cycle := by simp [State.takeTrap]
@[simp] theorem State.takeTrap_fuses (s : State) (q cause : Nat) (m : BitVec 32) (a e : Word) : (s.takeTrap q cause m a e).fuses = s.fuses := by simp [State.takeTrap]
@[simp] theorem State.takeTrap_fuseStep (s : State) (q cause : Nat) (m : BitVec 32) (a e : Word) : (s.takeTrap q cause m a e).fuseStep = s.fuseStep := by simp [State.takeTrap]
@[simp] theorem State.takeTrap_digest (s : State) (q cause : Nat) (m : BitVec 32) (a e : Word) : (s.takeTrap q cause m a e).digest = s.digest := by simp [State.takeTrap]
@[simp] theorem State.takeTrap_secver (s : State) (q cause : Nat) (m : BitVec 32) (a e : Word) : (s.takeTrap q cause m a e).secver = s.secver := by simp [State.takeTrap]
@[simp] theorem State.takeTrap_keyids (s : State) (q cause : Nat) (m : BitVec 32) (a e : Word) : (s.takeTrap q cause m a e).keyids = s.keyids := by simp [State.takeTrap]
@[simp] theorem State.takeTrap_jobs (s : State) (q cause : Nat) (m : BitVec 32) (a e : Word) : (s.takeTrap q cause m a e).jobs = s.jobs := by simp [State.takeTrap]
@[simp] theorem State.takeTrap_launches (s : State) (q cause : Nat) (m : BitVec 32) (a e : Word) : (s.takeTrap q cause m a e).launches = s.launches := by simp [State.takeTrap]
@[simp] theorem State.takeTrap_crews (s : State) (q cause : Nat) (m : BitVec 32) (a e : Word) : (s.takeTrap q cause m a e).crews = s.crews := by simp [State.takeTrap]
@[simp] theorem State.takeTrap_cores (s : State) (q cause : Nat) (m : BitVec 32) (a e : Word) : (s.takeTrap q cause m a e).cores = s.cores := by simp [State.takeTrap]
@[simp] theorem State.takeTrap_mem (s : State) (q cause : Nat) (m : BitVec 32) (a e : Word) : (s.takeTrap q cause m a e).mem = s.mem := by simp [State.takeTrap]
@[simp] theorem State.takeTrap_io (s : State) (q cause : Nat) (m : BitVec 32) (a e : Word) : (s.takeTrap q cause m a e).io = s.io := by simp [State.takeTrap]
@[simp] theorem State.takeTrap_seq (s : State) (q cause : Nat) (m : BitVec 32) (a e : Word) : (s.takeTrap q cause m a e).seq = s.seq := by simp [State.takeTrap]
@[simp] theorem State.takeTrap_nextHandle (s : State) (q cause : Nat) (m : BitVec 32) (a e : Word) : (s.takeTrap q cause m a e).nextHandle = s.nextHandle := by simp [State.takeTrap]
@[simp] theorem State.takeTrap_nextSocket (s : State) (q cause : Nat) (m : BitVec 32) (a e : Word) : (s.takeTrap q cause m a e).nextSocket = s.nextSocket := by simp [State.takeTrap]
@[simp] theorem State.takeTrap_nextMsg (s : State) (q cause : Nat) (m : BitVec 32) (a e : Word) : (s.takeTrap q cause m a e).nextMsg = s.nextMsg := by simp [State.takeTrap]
@[simp] theorem State.takeTrap_freeCtr (s : State) (q cause : Nat) (m : BitVec 32) (a e : Word) : (s.takeTrap q cause m a e).freeCtr = s.freeCtr := by simp [State.takeTrap]
@[simp] theorem State.takeTrap_cur (s : State) (q cause : Nat) (m : BitVec 32) (a e : Word) : (s.takeTrap q cause m a e).cur = s.cur := by simp [State.takeTrap]
@[simp] theorem State.takeTrap_agenda (s : State) (q cause : Nat) (m : BitVec 32) (a e : Word) : (s.takeTrap q cause m a e).agenda = s.agenda := by simp [State.takeTrap]

/-! ### resume: everything but squads -/

@[simp] theorem State.resume_boot (s : State) (q : Nat) : (s.resume q).boot = s.boot := by simp [State.resume]
@[simp] theorem State.resume_service (s : State) (q : Nat) : (s.resume q).service = s.service := by simp [State.resume]
@[simp] theorem State.resume_timeSlice (s : State) (q : Nat) : (s.resume q).timeSlice = s.timeSlice := by simp [State.resume]
@[simp] theorem State.resume_cycle (s : State) (q : Nat) : (s.resume q).cycle = s.cycle := by simp [State.resume]
@[simp] theorem State.resume_fuses (s : State) (q : Nat) : (s.resume q).fuses = s.fuses := by simp [State.resume]
@[simp] theorem State.resume_fuseStep (s : State) (q : Nat) : (s.resume q).fuseStep = s.fuseStep := by simp [State.resume]
@[simp] theorem State.resume_digest (s : State) (q : Nat) : (s.resume q).digest = s.digest := by simp [State.resume]
@[simp] theorem State.resume_secver (s : State) (q : Nat) : (s.resume q).secver = s.secver := by simp [State.resume]
@[simp] theorem State.resume_keyids (s : State) (q : Nat) : (s.resume q).keyids = s.keyids := by simp [State.resume]
@[simp] theorem State.resume_jobs (s : State) (q : Nat) : (s.resume q).jobs = s.jobs := by simp [State.resume]
@[simp] theorem State.resume_launches (s : State) (q : Nat) : (s.resume q).launches = s.launches := by simp [State.resume]
@[simp] theorem State.resume_crews (s : State) (q : Nat) : (s.resume q).crews = s.crews := by simp [State.resume]
@[simp] theorem State.resume_cores (s : State) (q : Nat) : (s.resume q).cores = s.cores := by simp [State.resume]
@[simp] theorem State.resume_mem (s : State) (q : Nat) : (s.resume q).mem = s.mem := by simp [State.resume]
@[simp] theorem State.resume_io (s : State) (q : Nat) : (s.resume q).io = s.io := by simp [State.resume]
@[simp] theorem State.resume_seq (s : State) (q : Nat) : (s.resume q).seq = s.seq := by simp [State.resume]
@[simp] theorem State.resume_nextHandle (s : State) (q : Nat) : (s.resume q).nextHandle = s.nextHandle := by simp [State.resume]
@[simp] theorem State.resume_nextSocket (s : State) (q : Nat) : (s.resume q).nextSocket = s.nextSocket := by simp [State.resume]
@[simp] theorem State.resume_nextMsg (s : State) (q : Nat) : (s.resume q).nextMsg = s.nextMsg := by simp [State.resume]
@[simp] theorem State.resume_freeCtr (s : State) (q : Nat) : (s.resume q).freeCtr = s.freeCtr := by simp [State.resume]
@[simp] theorem State.resume_cur (s : State) (q : Nat) : (s.resume q).cur = s.cur := by simp [State.resume]
@[simp] theorem State.resume_agenda (s : State) (q : Nat) : (s.resume q).agenda = s.agenda := by simp [State.resume]

/-! ### park: everything but squads -/

@[simp] theorem State.park_boot (s : State) (q l : Nat) (c : BitVec 8) : (s.park q l c).boot = s.boot := by simp [State.park]
@[simp] theorem State.park_service (s : State) (q l : Nat) (c : BitVec 8) : (s.park q l c).service = s.service := by simp [State.park]
@[simp] theorem State.park_timeSlice (s : State) (q l : Nat) (c : BitVec 8) : (s.park q l c).timeSlice = s.timeSlice := by simp [State.park]
@[simp] theorem State.park_cycle (s : State) (q l : Nat) (c : BitVec 8) : (s.park q l c).cycle = s.cycle := by simp [State.park]
@[simp] theorem State.park_fuses (s : State) (q l : Nat) (c : BitVec 8) : (s.park q l c).fuses = s.fuses := by simp [State.park]
@[simp] theorem State.park_fuseStep (s : State) (q l : Nat) (c : BitVec 8) : (s.park q l c).fuseStep = s.fuseStep := by simp [State.park]
@[simp] theorem State.park_digest (s : State) (q l : Nat) (c : BitVec 8) : (s.park q l c).digest = s.digest := by simp [State.park]
@[simp] theorem State.park_secver (s : State) (q l : Nat) (c : BitVec 8) : (s.park q l c).secver = s.secver := by simp [State.park]
@[simp] theorem State.park_keyids (s : State) (q l : Nat) (c : BitVec 8) : (s.park q l c).keyids = s.keyids := by simp [State.park]
@[simp] theorem State.park_jobs (s : State) (q l : Nat) (c : BitVec 8) : (s.park q l c).jobs = s.jobs := by simp [State.park]
@[simp] theorem State.park_launches (s : State) (q l : Nat) (c : BitVec 8) : (s.park q l c).launches = s.launches := by simp [State.park]
@[simp] theorem State.park_crews (s : State) (q l : Nat) (c : BitVec 8) : (s.park q l c).crews = s.crews := by simp [State.park]
@[simp] theorem State.park_cores (s : State) (q l : Nat) (c : BitVec 8) : (s.park q l c).cores = s.cores := by simp [State.park]
@[simp] theorem State.park_mem (s : State) (q l : Nat) (c : BitVec 8) : (s.park q l c).mem = s.mem := by simp [State.park]
@[simp] theorem State.park_io (s : State) (q l : Nat) (c : BitVec 8) : (s.park q l c).io = s.io := by simp [State.park]
@[simp] theorem State.park_seq (s : State) (q l : Nat) (c : BitVec 8) : (s.park q l c).seq = s.seq := by simp [State.park]
@[simp] theorem State.park_nextHandle (s : State) (q l : Nat) (c : BitVec 8) : (s.park q l c).nextHandle = s.nextHandle := by simp [State.park]
@[simp] theorem State.park_nextSocket (s : State) (q l : Nat) (c : BitVec 8) : (s.park q l c).nextSocket = s.nextSocket := by simp [State.park]
@[simp] theorem State.park_nextMsg (s : State) (q l : Nat) (c : BitVec 8) : (s.park q l c).nextMsg = s.nextMsg := by simp [State.park]
@[simp] theorem State.park_freeCtr (s : State) (q l : Nat) (c : BitVec 8) : (s.park q l c).freeCtr = s.freeCtr := by simp [State.park]
@[simp] theorem State.park_cur (s : State) (q l : Nat) (c : BitVec 8) : (s.park q l c).cur = s.cur := by simp [State.park]
@[simp] theorem State.park_agenda (s : State) (q l : Nat) (c : BitVec 8) : (s.park q l c).agenda = s.agenda := by simp [State.park]

end Sys2Proof.Machine
end

