-- ==== Sys2Proof/Laws/Lanes.lean ====
section
/-!
SUPPORT. Laws/Lanes.lean: what the skeletons execThread, execLanes and execSet do when no lane traps, said once.
-/
namespace Sys2Proof.Machine

/-! ### Squads and threads read after they are written -/

@[simp] theorem State.squad?_setSquad_same (s : State) (q : Nat) (v : Squad) : (s.setSquad q v).squad? q = some v := by
  simp [State.setSquad, State.squad?]

theorem State.squad?_setSquad_other (s : State) {q p : Nat} (v : Squad) (h : p ≠ q) :
    (s.setSquad q v).squad? p = s.squad? p := by
  simp [State.setSquad, State.squad?, SMap.get_set_other _ _ _ h]

theorem State.modSquad_some (s : State) (q : Nat) (f : Squad → Squad) {sq : Squad} (h : s.squad? q = some sq) :
    s.modSquad q f = s.setSquad q (f sq) := by
  simp [State.modSquad, h]

theorem State.modSquad_none (s : State) (q : Nat) (f : Squad → Squad) (h : s.squad? q = none) : s.modSquad q f = s := by
  simp [State.modSquad, h]

theorem State.squad_some (s : State) {q : Nat} {sq : Squad} (h : s.squad? q = some sq) : s.squad q = sq := by
  simp [State.squad, h]

theorem State.squad?_modSquad (s : State) (q p : Nat) (f : Squad → Squad) :
    (s.modSquad q f).squad? p = if p = q then (s.squad? q).map f else s.squad? p := by
  cases h : s.squad? q with
  | none =>
    rw [State.modSquad_none s q f h]
    split
    · next e => simp [e, h]
    · rfl
  | some sq =>
    rw [State.modSquad_some s q f h]
    split
    · next e => simp [e]
    · next e => exact State.squad?_setSquad_other s _ e

theorem State.setSquad_setSquad (s : State) (q : Nat) (v w : Squad) : (s.setSquad q v).setSquad q w = s.setSquad q w := by
  simp [State.setSquad]

@[simp] theorem State.setThread_isSome (s : State) (q p l : Nat) (t : Thread) :
    ((s.setThread q l t).squad? p).isSome = (s.squad? p).isSome := by
  rw [State.setThread, State.squad?_modSquad]
  split
  · next e => simp [e]
  · rfl

theorem State.thread_setThread_same (s : State) (q l : Nat) (t : Thread) (h : (s.squad? q).isSome = true) :
    (s.setThread q l t).thread q l = t := by
  obtain ⟨sq, hs⟩ := Option.isSome_iff_exists.mp h
  rw [State.setThread, State.modSquad_some s q _ hs]
  simp [State.thread, State.squad, Squad.thread, Squad.setThread]

theorem State.thread_setThread_lane (s : State) (q p : Nat) {l m : Nat} (t : Thread) (h : m ≠ l) :
    (s.setThread q l t).thread p m = s.thread p m := by
  simp only [State.thread, State.squad, State.setThread, State.squad?_modSquad]
  split
  · next e =>
    subst e
    cases hq : s.squad? p with
    | none => simp
    | some sq => simp [Squad.thread, Squad.setThread, SMap.get_set_other _ _ _ h]
  · rfl

theorem State.thread_setThread_record (s : State) {q p : Nat} (l m : Nat) (t : Thread) (h : p ≠ q) :
    (s.setThread q l t).thread p m = s.thread p m := by
  simp [State.thread, State.squad, State.setThread, State.squad?_modSquad, h]

/-- The later of two threads put in one lane stands. -/
@[simp] theorem State.setThread_setThread (s : State) (q l : Nat) (t u : Thread) :
    (s.setThread q l t).setThread q l u = s.setThread q l u := by
  cases h : s.squad? q with
  | none => simp [State.setThread, State.modSquad_none _ _ _ h]
  | some sq =>
    simp only [State.setThread, State.modSquad_some s q _ h]
    rw [State.modSquad_some _ q _ (State.squad?_setSquad_same s q _), State.setSquad_setSquad]
    simp [Squad.setThread]

/-- What the context of a lane is made of, apart from the lane's own thread. -/
theorem State.squad_setThread_lid (s : State) (q p l : Nat) (t : Thread) :
    ((s.setThread q l t).squad p).lid = (s.squad p).lid ∧ ((s.setThread q l t).squad p).crew = (s.squad p).crew
      ∧ ((s.setThread q l t).squad p).num = (s.squad p).num := by
  simp only [State.squad, State.setThread, State.squad?_modSquad]
  split
  · next e =>
    subst e
    cases h : s.squad? p <;> simp [Squad.setThread]
  · simp

/-- Another lane's thread does not enter a lane's context. -/
theorem State.ctx_setThread (s : State) (q : Nat) {l m : Nat} (t : Thread) (h : m ≠ l) :
    (s.setThread q l t).ctx m = s.ctx m := by
  obtain ⟨h1, h2, h3⟩ := State.squad_setThread_lid s q s.cur.q l t
  have h4 : ((s.setThread q l t).squad s.cur.q).thread m = (s.squad s.cur.q).thread m :=
    State.thread_setThread_lane s q s.cur.q t h
  simp only [State.ctx, State.setThread_cur, State.launchOf, State.launch?, State.setThread_launches,
    State.region, State.crewOf, State.setThread_crews, h1, h2, h3, h4]

theorem State.region_setThread (s : State) (q l m : Nat) (t : Thread) :
    ((s.setThread q l t).ctx m).region = (s.ctx m).region := by
  obtain ⟨h1, h2, h3⟩ := State.squad_setThread_lid s q s.cur.q l t
  simp only [State.ctx, State.setThread_cur, State.region, State.crewOf, State.setThread_crews, h1, h2, h3]

theorem admitted_lane (s : State) (i : Instr) (l m : Nat) : admitted (s.ctx l) i = admitted (s.ctx m) i := rfl

/-! ### Moving past an instruction changes no register -/

theorem List.find?_filter_of_imp {α : Type} (p q : α → Bool) (h : ∀ a, p a = true → q a = true) (xs : List α) :
    (xs.filter q).find? p = xs.find? p := by
  induction xs with
  | nil => rfl
  | cons x xs ih =>
    by_cases hq : q x = true
    · by_cases hp : p x = true <;> simp [List.filter, hq, List.find?, hp, ih]
    · have hp : p x = false := by
        cases hx : p x
        · rfl
        · exact absurd (h x hx) hq
      simp [List.filter, hq, List.find?, hp, ih]

theorem Thread.early_advance (t : Thread) (cx : Ctx) (i : Instr) (stall d : Nat) :
    (t.advance cx i stall).early cx d = t.early cx d := by
  simp only [Thread.early, Thread.advance, Thread.settle]
  split
  · rfl
  · exact List.find?_filter_of_imp _ _ (by simp +contextual) _

@[simp] theorem Thread.read_advance (t : Thread) (cx : Ctx) (i : Instr) (stall : Nat) (c : RegCode) :
    (t.advance cx i stall).read cx c = t.read cx c := by
  simp only [Thread.read, Thread.early_advance]
  rfl

@[simp] theorem Thread.readK_advance (t : Thread) (cx : Ctx) (i : Instr) (stall k : Nat) :
    (t.advance cx i stall).readK cx k = t.readK cx k := by
  simp only [Thread.readK, Thread.early_advance]
  rfl

@[simp] theorem Thread.regs_advance (t : Thread) (cx : Ctx) (i : Instr) (stall : Nat) :
    (t.advance cx i stall).regs = t.regs := rfl

theorem State.read_operand (s : State) {c : RegCode} {l : Nat} (h : s.canRead c l = true) :
    (s.th l).read (s.ctx l) c = .ok (s.operand c l) := by
  unfold State.canRead at h
  unfold State.operand
  split at h
  · next r e => rw [e]
  · cases h

theorem State.readK_maskBit (s : State) {k l : Nat} (h : s.canReadK k l = true) :
    (s.th l).readK (s.ctx l) k = .ok (s.maskBit k l) := by
  unfold State.canReadK at h
  unfold State.maskBit
  split at h
  · next r e => rw [e]
  · cases h

/-- A source that a lane holds with an accepted tag is read, past the instruction too. -/
theorem State.src_holds (s : State) {ok : Tag → Bool} {c : RegCode} {l : Nat} (i : Instr) (stall : Nat)
    (h : s.holds ok c l = true) : (s.past i stall l).src (s.ctx l) ok c = .ok (s.operand c l) := by
  simp only [State.holds, Bool.and_eq_true, bne_iff_ne, ne_eq] at h
  obtain ⟨⟨h1, h2⟩, h3⟩ := h
  simp only [Thread.src, State.past, Thread.read_advance, s.read_operand h1, need, if_neg h2, h3, if_true]

/-! ### A set of threads replaced -/

@[simp] theorem State.setThreads_nil (s : State) (q : Nat) (f : Nat → Thread) : s.setThreads q [] f = s := rfl

@[simp] theorem State.setThreads_cons (s : State) (q l : Nat) (ls : List Nat) (f : Nat → Thread) :
    s.setThreads q (l :: ls) f = (s.setThread q l (f l)).setThreads q ls f := rfl

theorem State.setThreads_congr (s : State) (q : Nat) (ls : List Nat) (f g : Nat → Thread) (h : ∀ l ∈ ls, f l = g l) :
    s.setThreads q ls f = s.setThreads q ls g := by
  induction ls generalizing s with
  | nil => rfl
  | cons l ls ih =>
    simp only [State.setThreads_cons, h l (by simp)]
    exact ih _ fun m hm => h m (by simp [hm])

@[simp] theorem State.setThreads_isSome (s : State) (q p : Nat) (ls : List Nat) (f : Nat → Thread) :
    ((s.setThreads q ls f).squad? p).isSome = (s.squad? p).isSome := by
  induction ls generalizing s with
  | nil => rfl
  | cons l ls ih => rw [State.setThreads_cons, ih, State.setThread_isSome]

theorem State.thread_setThreads_out (s : State) (q : Nat) (ls : List Nat) (f : Nat → Thread) {p m : Nat}
    (h : p ≠ q ∨ m ∉ ls) : (s.setThreads q ls f).thread p m = s.thread p m := by
  induction ls generalizing s with
  | nil => rfl
  | cons l ls ih =>
    rw [State.setThreads_cons, ih _ (h.imp id fun h => by simp at h; exact h.2)]
    rcases h with h | h
    · exact State.thread_setThread_record s l m _ h
    · simp at h
      exact State.thread_setThread_lane s q p _ h.1

theorem State.thread_setThreads_in (s : State) (q : Nat) (ls : List Nat) (f : Nat → Thread) {m : Nat}
    (nd : ls.Nodup) (hs : (s.squad? q).isSome = true) (h : m ∈ ls) : (s.setThreads q ls f).thread q m = f m := by
  induction ls generalizing s with
  | nil => simp at h
  | cons l ls ih =>
    obtain ⟨hl, nd⟩ := List.nodup_cons.mp nd
    rw [State.setThreads_cons]
    rcases List.mem_cons.mp h with rfl | h
    · rw [State.thread_setThreads_out _ _ _ _ (.inr hl), State.thread_setThread_same _ _ _ _ hs]
    · exact ih _ nd (by simpa using hs) h

/-- Nothing but threads: a field of State that is not the squads. -/
theorem State.setThreads_frame (s : State) (q : Nat) (ls : List Nat) (f : Nat → Thread) :
    s.setThreads q ls f = { s with squads := (s.setThreads q ls f).squads } := by
  induction ls generalizing s with
  | nil => rfl
  | cons l ls ih =>
    rw [State.setThreads_cons]
    have h1 := ih (s.setThread q l (f l))
    have h2 : s.setThread q l (f l) = { s with squads := (s.setThread q l (f l)).squads } := by
      unfold State.setThread State.modSquad
      split <;> rfl
    rw [h1, h2]

theorem lanesOf_nodup (m : BitVec 32) : (lanesOf m).Nodup := List.nodup_range.sublist List.filter_sublist

/-! ### Lane by lane -/

/-- The lanes of a set run one after another, each without a trap: `F l st` is what lane l makes of the state before it. -/
theorem State.runLanes_fold (i : Instr) (g : BitVec 2) (stall : Nat) (f : Ctx → State → Except Trap State)
    (F : Nat → State → State) (I : List Nat → State → Prop) (ls : List Nat) (s : State) (hs : I ls s)
    (step : ∀ l rest st, I (l :: rest) st → st.laneStep i g stall f l = .ok (F l st) ∧ I rest (F l st)) :
    State.runLanes i g stall f ls s [] = (ls.foldl (fun st l => F l st) s, []) := by
  induction ls generalizing s with
  | nil => rfl
  | cons l ls ih =>
    obtain ⟨h1, h2⟩ := step l ls s hs
    simp only [State.runLanes, h1, List.foldl_cons]
    exact ih _ h2

theorem State.execLanes_fold (s : State) (i : Instr) (g : BitVec 2) (stall : Nat) (f : Ctx → State → Except Trap State)
    (F : Nat → State → State) (I : List Nat → State → Prop) (hs : I s.lanes s)
    (step : ∀ l rest st, I (l :: rest) st → st.laneStep i g stall f l = .ok (F l st) ∧ I rest (F l st)) :
    s.execLanes i g stall f = s.lanes.foldl (fun st l => F l st) s := by
  unfold State.execLanes
  rw [show lanesOf s.cur.lanes = s.lanes from rfl, State.runLanes_fold i g stall f F I s.lanes s hs step]

/-- The lanes agree with a state on the threads still to run. -/
structure SameLanes (s : State) (ls : List Nat) (st : State) : Prop where
  nodup : ls.Nodup
  squads : ∃ m, st = { s with squads := m }
  bound : (st.squad? s.cur.q).isSome = true
  thread : ∀ l ∈ ls, st.thread s.cur.q l = s.thread s.cur.q l
  ctx : ∀ l ∈ ls, st.ctx l = s.ctx l
  region : ∀ l, (st.ctx l).region = (s.ctx l).region

theorem SameLanes.refl (s : State) (h : (s.squad? s.cur.q).isSome = true) : SameLanes s s.lanes s :=
  ⟨lanesOf_nodup _, ⟨s.squads, rfl⟩, h, fun _ _ => rfl, fun _ _ => rfl, fun _ => rfl⟩

theorem SameLanes.next {s st : State} {l : Nat} {rest : List Nat} (h : SameLanes s (l :: rest) st) (t : Thread) :
    SameLanes s rest (st.setThread s.cur.q l t) := by
  obtain ⟨nd, ⟨m, hm⟩, b, th, cx, rg⟩ := h
  obtain ⟨hl, nd⟩ := List.nodup_cons.mp nd
  have ne : ∀ k ∈ rest, k ≠ l := fun k hk e => hl (e ▸ hk)
  refine ⟨nd, ?_, by simpa using b, ?_, ?_, ?_⟩
  · refine ⟨(st.setThread s.cur.q l t).squads, ?_⟩
    have h2 : st.setThread s.cur.q l t = { st with squads := (st.setThread s.cur.q l t).squads } := by
      unfold State.setThread State.modSquad
      split <;> rfl
    rw [h2, hm]
  · intro k hk
    rw [State.thread_setThread_lane _ _ _ _ (ne k hk), th k (by simp [hk])]
  · intro k hk
    rw [State.ctx_setThread _ _ _ (ne k hk), cx k (by simp [hk])]
  · intro k
    rw [State.region_setThread, rg k]

theorem SameLanes.cur {s st : State} {ls : List Nat} (h : SameLanes s ls st) : st.cur = s.cur := by
  obtain ⟨m, rfl⟩ := h.squads
  rfl

theorem ctx_q (s : State) (l : Nat) : (s.ctx l).q = s.cur.q := rfl
theorem ctx_lane (s : State) (l : Nat) : (s.ctx l).lane = l := rfl

theorem State.ready_iff (s : State) (i : Instr) (g : BitVec 2) : s.ready i g = true ↔
    (s.squad? s.cur.q).isSome = true ∧ admitted (s.ctx 0) i = true ∧ ∀ l ∈ s.lanes, s.canReadK g.toNat l = true := by
  simp [State.ready, and_assoc]

/-- An instruction whose effect on each lane changes that lane's thread alone: `res l` is the thread of an active lane. -/
theorem State.execLanes_threads (s : State) (i : Instr) (g : BitVec 2) (stall : Nat) (f : Ctx → State → Except Trap State)
    (res : Nat → Thread) (hr : s.ready i g = true)
    (hf : ∀ l ∈ s.lanes, s.maskBit g.toNat l = true → ∀ st, SameLanes s [l] st →
      f (s.ctx l) (st.setThread s.cur.q l (s.past i stall l)) = .ok (st.setThread s.cur.q l (res l))) :
    s.execLanes i g stall f = s.ran i g stall res := by
  obtain ⟨hb, ha, hg⟩ := (s.ready_iff i g).mp hr
  let F : Nat → State → State := fun l st =>
    st.setThread s.cur.q l (if s.maskBit g.toNat l then res l else s.past i stall l)
  have key := s.execLanes_fold i g stall f F (fun ls st => SameLanes s ls st ∧ ∀ l ∈ ls, l ∈ s.lanes)
    ⟨SameLanes.refl s hb, fun l h => h⟩ (by
      rintro l rest st ⟨hsame, hin⟩
      refine ⟨?_, hsame.next _, fun m hm => hin m (by simp [hm])⟩
      have hc := hsame.ctx l (by simp)
      have ht := hsame.thread l (by simp)
      have hl := hin l (by simp)
      have hsame1 : SameLanes s [l] st := by
        obtain ⟨nd, sq, b, th, cx, rg⟩ := hsame
        exact ⟨by simp, sq, b, fun k hk => by simp at hk; subst hk; exact ht, fun k hk => by simp at hk; subst hk; exact hc, rg⟩
      have hk := s.readK_maskBit (hg l hl)
      rw [State.th] at hk
      simp only [State.laneStep, hc, ctx_q, ht, admitted_lane s i l 0, ha, if_true, Thread.guardOn, hk]
      have hp : (s.thread s.cur.q l).advance (s.ctx l) i stall = s.past i stall l := rfl
      rw [hp]
      by_cases hm : s.maskBit g.toNat l = true
      · simp only [hm, if_true, F]
        exact hf l hl hm st hsame1
      · simp only [hm, F]
        rfl)
  rw [key]
  rfl

/-- The same for an effect given on the thread (execThread). -/
theorem State.execThread_ran (s : State) (i : Instr) (g : BitVec 2) (stall : Nat) (f : Ctx → Thread → Except Trap Thread)
    (res : Nat → Thread) (hr : s.ready i g = true)
    (hf : ∀ l ∈ s.lanes, s.maskBit g.toNat l = true → f (s.ctx l) (s.past i stall l) = .ok (res l)) :
    s.execThread i g stall f = s.ran i g stall res := by
  refine s.execLanes_threads i g stall _ res hr ?_
  intro l hl hm st hsame
  simp only [onThread, ctx_q, ctx_lane]
  rw [State.thread_setThread_same _ _ _ _ hsame.bound, hf l hl hm]
  simp

/-! ### Together -/

theorem State.filterM_readable (s : State) (g : BitVec 2) (ls : List Nat) (h : ∀ l ∈ ls, s.canReadK g.toNat l = true) :
    ls.filterM (fun l => (s.thread s.cur.q l).guardOn (s.ctx l) g) = (.ok (ls.filter (s.maskBit g.toNat)) : Except Trap (List Nat)) := by
  have aux : ∀ ls acc, (∀ l ∈ ls, s.canReadK g.toNat l = true) →
      List.filterAuxM (fun l => (s.thread s.cur.q l).guardOn (s.ctx l) g) ls acc
        = (.ok ((ls.filter (s.maskBit g.toNat)).reverse ++ acc) : Except Trap (List Nat)) := by
    intro ls
    induction ls with
    | nil => intro acc _; rfl
    | cons l ls ih =>
      intro acc h
      have hk := s.readK_maskBit (h l (by simp))
      rw [State.th] at hk
      simp only [List.filterAuxM, Thread.guardOn, hk]
      show List.filterAuxM _ ls _ = _
      have := ih (cond (s.maskBit g.toNat l) (l :: acc) acc) fun m hm => h m (by simp [hm])
      simp only [Thread.guardOn] at this
      rw [this]
      cases hb : s.maskBit g.toNat l <;> simp [List.filter, hb]
  rw [List.filterM, aux ls [] h]
  simp [bind, Except.bind, pure, Except.pure]

theorem State.activeLanes_ok (s : State) (i : Instr) (g : BitVec 2) (h : s.ready i g = true) :
    s.activeLanes g = .ok (s.active g) :=
  s.filterM_readable g _ ((s.ready_iff i g).mp h).2.2

/-- An instruction of the whole set whose checks pass. -/
theorem State.execSet_ok (s : State) (i : Instr) (g : BitVec 2) (stall : Nat)
    (f : State → State → List Nat → Except SetTrap State) {t : State} (hr : s.ready i g = true)
    (hf : f (s.advanceAll i stall) s (s.active g) = .ok t) : s.execSet i g stall f = t := by
  simp only [State.execSet, ((s.ready_iff i g).mp hr).2.1, if_true, s.activeLanes_ok i g hr, hf]

theorem State.advanceAll_eq (s : State) (i : Instr) (stall : Nat) :
    s.advanceAll i stall = s.setThreads s.cur.q s.lanes (s.past i stall) := rfl

theorem State.active_nodup (s : State) (g : BitVec 2) : (s.active g).Nodup :=
  (lanesOf_nodup _).sublist List.filter_sublist

theorem State.thread_advanceAll (s : State) (i : Instr) (stall : Nat) {l : Nat} (hs : (s.squad? s.cur.q).isSome = true)
    (h : l ∈ s.lanes) : (s.advanceAll i stall).thread s.cur.q l = s.past i stall l := by
  rw [State.advanceAll_eq, State.thread_setThreads_in s s.cur.q s.lanes _ (lanesOf_nodup s.cur.lanes) hs h]

/-- Each of several lanes' threads changed in turn. -/
theorem State.foldl_modThread (s : State) (q : Nat) (ls : List Nat) (f : Nat → Thread → Thread) (g : Nat → Thread)
    (nd : ls.Nodup) (h : ∀ l ∈ ls, f l (s.thread q l) = g l) :
    ls.foldl (fun st l => st.modThread q l (f l)) s = s.setThreads q ls g := by
  induction ls generalizing s with
  | nil => rfl
  | cons l ls ih =>
    obtain ⟨hl, nd⟩ := List.nodup_cons.mp nd
    simp only [List.foldl_cons, State.setThreads_cons]
    have : s.modThread q l (f l) = s.setThread q l (g l) := by rw [State.modThread, h l (by simp)]
    rw [this]
    refine ih _ nd fun m hm => ?_
    have ne : m ≠ l := fun e => hl (by rw [← e]; exact hm)
    rw [State.thread_setThread_lane _ _ _ _ ne, h m (by simp [hm])]

/-- The active lanes' threads changed after the set has moved past its instruction. -/
theorem State.advanceAll_modThreads (s : State) (i : Instr) (g : BitVec 2) (stall : Nat) (f : Nat → Thread → Thread)
    (res : Nat → Thread) (hs : (s.squad? s.cur.q).isSome = true) (h : ∀ l ∈ s.active g, f l (s.past i stall l) = res l) :
    (s.active g).foldl (fun st l => st.modThread s.cur.q l (f l)) (s.advanceAll i stall) = s.ranTogether i g stall res := by
  refine State.foldl_modThread _ _ _ _ _ (s.active_nodup g) fun l hl => ?_
  rw [s.thread_advanceAll i stall hs (List.mem_filter.mp hl).1, h l hl]

/-- A lane that may run an instruction without a guard, and whose effect does not trap. -/
theorem State.laneStep_ok (s : State) (i : Instr) (stall : Nat) (f : Ctx → State → Except Trap State) {l : Nat} {t : State}
    (hr : s.ready i 0 = true) (hf : f (s.ctx l) (s.setThread s.cur.q l (s.past i stall l)) = .ok t) :
    s.laneStep i 0 stall f l = .ok t := by
  have hk : (s.thread s.cur.q l).readK (s.ctx l) (BitVec.toNat (0 : BitVec 2)) = .ok true := rfl
  have hp : (s.thread s.cur.q l).advance (s.ctx l) i stall = s.past i stall l := rfl
  simp only [State.laneStep, ctx_q, admitted_lane s i l 0, ((s.ready_iff i 0).mp hr).2.1, if_true, Thread.guardOn, hk, hp, hf]

/-- The thread of a lane of a set that may run an instruction, once it has been replaced. -/
theorem State.thread_ready (s : State) (i : Instr) (g : BitVec 2) (l : Nat) (t : Thread) (hr : s.ready i g = true) :
    (s.setThread s.cur.q l t).thread s.cur.q l = t :=
  State.thread_setThread_same _ _ _ _ ((s.ready_iff i g).mp hr).1

/-- The lanes below one, where the set is cut at it. -/
theorem takeWhile_ne {pre post : List Nat} {l : Nat} (nd : (pre ++ l :: post).Nodup) :
    (pre ++ l :: post).takeWhile (· != l) = pre := by
  have h : ∀ m ∈ pre, (m != l) = true := fun m hm => by
    have := (List.nodup_append.mp nd).2.2 m hm l (by simp)
    simpa using this
  rw [List.takeWhile_append_of_pos h]
  simp

/-- Lanes that run one after another, each without a trap where the lanes below it have run. -/
theorem State.execLanes_oneByOne (s : State) (i : Instr) (g : BitVec 2) (stall : Nat) (f : Ctx → State → Except Trap State)
    (F : Nat → State → State)
    (h : ∀ l ∈ s.lanes, (s.before F l).laneStep i g stall f l = .ok (F l (s.before F l))) :
    s.execLanes i g stall f = s.oneByOne F := by
  refine s.execLanes_fold i g stall f F
    (fun rest st => ∃ pre, s.lanes = pre ++ rest ∧ st = pre.foldl (fun st m => F m st) s) ⟨[], rfl, rfl⟩ ?_
  rintro l rest st ⟨pre, hp, rfl⟩
  have hb : s.before F l = pre.foldl (fun st m => F m st) s := by
    have nd : s.lanes.Nodup := lanesOf_nodup _
    rw [State.before, hp, takeWhile_ne (hp ▸ nd)]
  refine ⟨hb ▸ h l (by simp [hp]), pre ++ [l], by simp [hp], by simp⟩

end Sys2Proof.Machine
end

