-- ==== Sys2Proof/Laws/Access.lean ====
section
/-!
SUPPORT. Laws/Access.lean: what an access to memory looks at: the threads of the executing squad are no part of it but for a stack
slice; and what a lane's own effect does when the set is one lane.
-/
namespace Sys2Proof.Machine

theorem State.setThread_squads (s : State) (q l : Nat) (t : Thread) :
    s.setThread q l t = { s with squads := (s.setThread q l t).squads } := by
  unfold State.setThread State.modSquad
  split <;> rfl

/-! ### Bringing writes to a scope -/

/-- Where every outstanding write has been performed as far as is needed, nothing is brought anywhere. -/
theorem State.bring_ready (s : State) (need : Write → Nat) (h : s.mem.writes.all (fun w => decide (need w ≤ w.stage)) = true) :
    s.bring need = (s, true) := by
  have hn : (s.mem.writes.filter fun w => decide (w.stage < need w)) = [] := by
    rw [List.filter_eq_nil_iff]
    intro w hw
    have := of_decide_eq_true (List.all_eq_true.mp h w hw)
    simpa using this
  unfold State.bring
  rw [hn]
  exact Prod.ext rfl h

/-! ### Squads do not enter the checks of an access -/

theorem State.resolve_squads (s : State) (m : SMap (Option Squad)) (cx : Ctx) (v : Bool) (nd : Need) (a : Word) (n : Nat) :
    ({ s with squads := m } : State).resolve cx v nd a n = s.resolve cx v nd a n := rfl

theorem State.locate_squads (s : State) (m : SMap (Option Squad)) (cx : Ctx) (a : AddrOp) (nd : Need) (n : Nat) :
    ({ s with squads := m } : State).locate cx a nd n = s.locate cx a nd n := rfl

theorem State.bytesFor_squads (s : State) (m : SMap (Option Squad)) (r : SquadRef) (l : Nat) (p : Place) (n : Nat) :
    ({ s with squads := m } : State).bytesFor r l p n = s.bytesFor r l p n := rfl

theorem State.atomicLoc_squads (s : State) (m : SMap (Option Squad)) (cx : Ctx) (b o : Reg) (nd : Need) (n : Nat) (r : DetRule) :
    ({ s with squads := m } : State).atomicLoc cx b o nd n r = s.atomicLoc cx b o nd n r := rfl

@[simp] theorem State.resolve_setThread (s : State) (q l : Nat) (t : Thread) (cx : Ctx) (v : Bool) (nd : Need) (a : Word) (n : Nat) :
    (s.setThread q l t).resolve cx v nd a n = s.resolve cx v nd a n := by
  rw [State.setThread_squads]; rfl

@[simp] theorem State.locate_setThread (s : State) (q l : Nat) (t : Thread) (cx : Ctx) (a : AddrOp) (nd : Need) (n : Nat) :
    (s.setThread q l t).locate cx a nd n = s.locate cx a nd n := by
  rw [State.setThread_squads]; rfl

@[simp] theorem State.atomicLoc_setThread (s : State) (q l : Nat) (t : Thread) (cx : Ctx) (b o : Reg) (nd : Need) (n : Nat)
    (r : DetRule) : (s.setThread q l t).atomicLoc cx b o nd n r = s.atomicLoc cx b o nd n r := by
  rw [State.setThread_squads]; rfl

@[simp] theorem State.loadFree_setThread (s : State) (q l : Nat) (t : Thread) (cx : Ctx) (loc : Loc) (k : LoadKind) (n : Nat) :
    (s.setThread q l t).loadFree cx loc k n = s.loadFree cx loc k n := by
  rw [State.setThread_squads]; rfl

/-- A load that nothing holds up brings no write anywhere. -/
theorem State.bring_loadFree (s : State) (cx : Ctx) (loc : Loc) (k : LoadKind) (n : Nat) (h : s.loadFree cx loc k n = true) :
    s.bring (s.loadNeeds cx loc k n) = (s, true) :=
  s.bring_ready _ h

/-- What a thread reads at a location depends on the state's squads through its own stack slice alone. -/
theorem State.readLoc_agree (s : State) (m : SMap (Option Squad)) (cx : Ctx) (loc : Loc) (n : Nat)
    (h : (({ s with squads := m } : State).thread cx.q cx.lane).stack = (s.thread cx.q cx.lane).stack)
    (hp : (({ s with squads := m } : State).thread cx.q cx.lane).stackPoison = (s.thread cx.q cx.lane).stackPoison) :
    ({ s with squads := m } : State).readLoc cx loc n = s.readLoc cx loc n := by
  unfold State.readLoc
  cases loc with
  | dram pa k j v lf => rfl
  | scratch l c o => rfl
  | stack off => simp only [Loc.place, h, hp]

theorem State.landedBytes_agree (s : State) (m : SMap (Option Squad)) (cx : Ctx) (loc : Loc) (n : Nat)
    (h : (({ s with squads := m } : State).thread cx.q cx.lane).stack = (s.thread cx.q cx.lane).stack)
    (hp : (({ s with squads := m } : State).thread cx.q cx.lane).stackPoison = (s.thread cx.q cx.lane).stackPoison) :
    ({ s with squads := m } : State).landedBytes cx loc n = s.landedBytes cx loc n := by
  unfold State.landedBytes
  rw [s.readLoc_agree m cx loc n h hp]
  cases loc <;> rfl

/-- A lane past its instruction reads what it read before. -/
theorem SameLanes.readLoc {s st : State} {l : Nat} (h : SameLanes s [l] st) (i : Instr) (stall : Nat) (loc : Loc) (n : Nat) :
    (st.setThread s.cur.q l (s.past i stall l)).readLoc (s.ctx l) loc n = s.readLoc (s.ctx l) loc n := by
  have h0 : (st.setThread s.cur.q l (s.past i stall l)).thread (s.ctx l).q (s.ctx l).lane = s.past i stall l := by
    rw [ctx_q, ctx_lane, State.thread_setThread_same _ _ _ _ h.bound]
  have h1 : ((st.setThread s.cur.q l (s.past i stall l)).thread (s.ctx l).q (s.ctx l).lane).stack
      = (s.thread (s.ctx l).q (s.ctx l).lane).stack := by rw [h0]; rfl
  have h2 : ((st.setThread s.cur.q l (s.past i stall l)).thread (s.ctx l).q (s.ctx l).lane).stackPoison
      = (s.thread (s.ctx l).q (s.ctx l).lane).stackPoison := by rw [h0]; rfl
  obtain ⟨m, hm⟩ := h.squads
  rw [State.setThread_squads, hm] at h1 h2 ⊢
  exact State.readLoc_agree s _ (s.ctx l) loc n h1 h2

theorem SameLanes.landedBytes {s st : State} {l : Nat} (h : SameLanes s [l] st) (i : Instr) (stall : Nat) (loc : Loc) (n : Nat) :
    (st.setThread s.cur.q l (s.past i stall l)).landedBytes (s.ctx l) loc n = s.landedBytes (s.ctx l) loc n := by
  have h0 : (st.setThread s.cur.q l (s.past i stall l)).thread (s.ctx l).q (s.ctx l).lane = s.past i stall l := by
    rw [ctx_q, ctx_lane, State.thread_setThread_same _ _ _ _ h.bound]
  have h1 : ((st.setThread s.cur.q l (s.past i stall l)).thread (s.ctx l).q (s.ctx l).lane).stack
      = (s.thread (s.ctx l).q (s.ctx l).lane).stack := by rw [h0]; rfl
  have h2 : ((st.setThread s.cur.q l (s.past i stall l)).thread (s.ctx l).q (s.ctx l).lane).stackPoison
      = (s.thread (s.ctx l).q (s.ctx l).lane).stackPoison := by rw [h0]; rfl
  obtain ⟨m, hm⟩ := h.squads
  rw [State.setThread_squads, hm] at h1 h2 ⊢
  exact State.landedBytes_agree s _ (s.ctx l) loc n h1 h2

/-- Everything an agreeing state has but its squads. -/
theorem SameLanes.set_squads {s st : State} {ls : List Nat} (h : SameLanes s ls st) (l : Nat) (t : Thread) :
    ∃ m, st.setThread s.cur.q l t = { s with squads := m } := by
  obtain ⟨m, hm⟩ := h.squads
  exact ⟨_, by rw [State.setThread_squads, hm]⟩

/-! ### One lane -/

/-- An instruction in a set of one active lane whose effect does not trap. -/
theorem State.execLanes_one (s : State) (i : Instr) (g : BitVec 2) (stall : Nat) (f : Ctx → State → Except Trap State) (l : Nat)
    (t : State) (hr : s.ready i g = true) (hl : s.lanes = [l]) (hm : s.maskBit g.toNat l = true)
    (hf : f (s.ctx l) (s.setThread s.cur.q l (s.past i stall l)) = .ok t) : s.execLanes i g stall f = t := by
  obtain ⟨hb, ha, hg⟩ := (s.ready_iff i g).mp hr
  have hk := s.readK_maskBit (hg l (by simp [hl]))
  rw [State.th] at hk
  have hp : (s.thread s.cur.q l).advance (s.ctx l) i stall = s.past i stall l := rfl
  have h1 : s.laneStep i g stall f l = .ok t := by
    simp only [State.laneStep, ctx_q, admitted_lane s i l 0, ha, if_true, Thread.guardOn, hk, hm, hp, hf]
  unfold State.execLanes
  rw [show lanesOf s.cur.lanes = [l] from hl]
  simp [State.runLanes, h1]

/-- A lane past its instruction reads what it read before, where its set may run it. -/
theorem State.readLoc_past (s : State) (i : Instr) (stall l : Nat) (loc : Loc) (n : Nat) (h : (s.squad? s.cur.q).isSome = true) :
    (s.setThread s.cur.q l (s.past i stall l)).readLoc (s.ctx l) loc n = s.readLoc (s.ctx l) loc n := by
  have h0 : (s.setThread s.cur.q l (s.past i stall l)).thread (s.ctx l).q (s.ctx l).lane = s.past i stall l :=
    State.thread_setThread_same _ _ _ _ h
  have h1 := congrArg Thread.stack h0
  have h2 := congrArg Thread.stackPoison h0
  rw [State.setThread_squads] at h1 h2 ⊢
  exact State.readLoc_agree s _ (s.ctx l) loc n h1 h2

theorem State.landedBytes_past (s : State) (i : Instr) (stall l : Nat) (loc : Loc) (n : Nat) (h : (s.squad? s.cur.q).isSome = true) :
    (s.setThread s.cur.q l (s.past i stall l)).landedBytes (s.ctx l) loc n = s.landedBytes (s.ctx l) loc n := by
  unfold State.landedBytes
  rw [s.readLoc_past i stall l loc n h, State.setThread_squads]
  cases loc <;> rfl

/-- The lane's own thread is no lower lane. -/
theorem State.lowerWaits_setThread (s : State) (q l : Nat) (t : Thread) (cx : Ctx) (h : cx.lane = l) :
    (s.setThread q l t).lowerWaits cx = s.lowerWaits cx := by
  unfold State.lowerWaits
  congr 1
  funext m
  by_cases hm : m < cx.lane
  · have : (s.setThread q l t).thread cx.q m = s.thread cx.q m := State.thread_setThread_lane _ _ _ _ (by omega)
    rw [this]
  · simp [hm]

theorem State.atomicNeeds_setThread (s : State) (q l : Nat) (t : Thread) (cx : Ctx) (loc : Loc) (p : AtomicPlan) :
    (s.setThread q l t).atomicNeeds cx loc p = s.atomicNeeds cx loc p := by
  rw [State.setThread_squads]; rfl

theorem State.atomicHeld_setThread (s : State) (q l : Nat) (t : Thread) (loc : Loc) (p : AtomicPlan) :
    (s.setThread q l t).atomicHeld loc p = s.atomicHeld loc p := by
  have h : ∀ j v pa, (s.setThread q l t).pageHeld j v pa = s.pageHeld j v pa := by
    intro j v pa
    simp only [State.pageHeld, State.leafNow, State.staleMap, State.staleFor, State.job?, State.setThread_jobs, State.setThread_mem]
  cases loc <;> simp only [State.atomicHeld, h]

/-- What an atomic waits for depends on its width, on whether it is ordered, and on whether it writes. -/
theorem State.atomicNeeds_congr (s : State) (cx : Ctx) (loc : Loc) (p r : AtomicPlan) (h1 : p.size = r.size) (h2 : p.ar = r.ar)
    (h3 : p.writes = r.writes) : s.atomicNeeds cx loc p = s.atomicNeeds cx loc r := by
  funext w
  simp only [State.atomicNeeds, h1, h2, h3]

/-- An atomic of one lane that nothing holds up: its old value is read and its new one written at one point (R218), and the thread takes its result. -/
theorem State.atomicStep_ok (s : State) (i : Instr) (plan : Ctx → Thread → Except Trap AtomicPlan) {l : Nat} {p : AtomicPlan} {addr : Word} {loc : Loc}
    (hr : s.ready i 0 = true) (hp : plan (s.ctx l) (s.past i 0 l) = .ok p)
    (hl : s.atomicLoc (s.ctx l) p.base p.off p.nd p.size p.det = .ok (addr, loc)) (hb : p.bad = false)
    (hf : s.atomicFree (s.ctx l) loc p.size p.ar p.writes = true) :
    atomicStep i plan (s.ctx l) (s.setThread s.cur.q l (s.past i 0 l)) = .ok (
      (if p.writes then ((s.setThread s.cur.q l (s.past i 0 l)).fixAtomic (s.ctx l) loc p.size p.ar p.writes).putAtomic (s.ctx l) loc
          (bytesLE p.size (p.new (natLE (s.landedBytes (s.ctx l) loc p.size))))
        else (s.setThread s.cur.q l (s.past i 0 l)).fixAtomic (s.ctx l) loc p.size p.ar p.writes).modThread s.cur.q l (p.res (natLE (s.landedBytes (s.ctx l) loc p.size)))) := by
  have hb1 := ((s.ready_iff i 0).mp hr).1
  have hth := s.thread_ready i 0 l (s.past i 0 l) hr
  have hread := fun n => s.landedBytes_past i 0 l loc n hb1
  have hpo : (s.setThread s.cur.q l (s.past i 0 l)).locPoisoned (s.ctx l) loc = s.locPoisoned (s.ctx l) loc := by
    unfold State.locPoisoned
    rw [s.readLoc_past i 0 l loc 1 hb1, State.setThread_squads]
    cases loc <;> rfl
  have hlow := s.lowerWaits_setThread s.cur.q l (s.past i 0 l) (s.ctx l) rfl
  simp only [State.atomicFree, Bool.and_eq_true, Bool.not_eq_true'] at hf
  obtain ⟨⟨⟨⟨h1, h2⟩, h3⟩, h4⟩, h5⟩ := hf
  have hheld : (s.setThread s.cur.q l (s.past i 0 l)).atomicHeld loc p = false := by
    rw [State.atomicHeld_setThread]
    simpa only [State.atomicHeld] using h1
  have hbr : (s.setThread s.cur.q l (s.past i 0 l)).bring ((s.setThread s.cur.q l (s.past i 0 l)).atomicNeeds (s.ctx l) loc p)
      = (s.setThread s.cur.q l (s.past i 0 l), true) := by
    refine State.bring_ready _ _ ?_
    rw [State.atomicNeeds_setThread, State.setThread_mem, s.atomicNeeds_congr (s.ctx l) loc p
      { base := Reg.zero, off := Reg.zero, nd := .atomic, size := p.size, det := .free, bad := false, ar := p.ar,
        writes := p.writes, new := id, res := fun _ t => t } rfl rfl rfl]
    exact h3
  simp only [atomicStep, ctx_q, ctx_lane, hth, hp, State.atomicLoc_setThread, hl, hb, bind, Except.bind, Bool.false_eq_true, if_false,
    State.atAtomicPoint, hheld, Bool.and_self, hlow, h2, Bool.or_self, hbr, if_true, State.atomicAt, hpo, h4, hread]
  have hlat : ∀ (u : State) (f : Read → Nat), (u.fixReads f).mem.latent = u.mem.latent := by
    intro u f
    unfold State.fixReads
    split <;> rfl
  have hn : ∀ pl : Place, loc.place = some pl → ∀ u : State, u.mem.latent = s.mem.latent → u.noteRead pl = u := by
    intro pl e u hu
    rw [e] at h5
    have h5 : s.mem.latent.contains pl.line = false := by simpa using h5
    simp only [State.noteRead, hu, h5, Bool.false_eq_true, if_false]
  cases loc with
  | stack off => simp only [State.putAtomic]
  | dram pa k j v lf => simp only [hn (.dram pa k) rfl _ ((hlat _ _).trans (congrArg Mem.latent (State.setThread_mem _ _ _ _))), State.fixAtomic, State.putAtomic]
  | scratch a c o => simp only [hn (.scratch a c o) rfl _ ((hlat _ _).trans (congrArg Mem.latent (State.setThread_mem _ _ _ _))), State.fixAtomic, State.putAtomic]

/-- Landing a part leaves the squads as they were. -/
theorem State.landPart_squads (s : State) (lid c : Nat) (p : Place) (job va : Nat) (data : List Byte) :
    (s.landPart lid c p job va data).squads = s.squads := by
  have hk : ∀ (ls : List Nat) (key : Nat) (s : State), (ls.foldl (fun st l => st.rekeyLine key l) s).squads = s.squads := by
    intro ls key
    induction ls with
    | nil => intro s; rfl
    | cons l ls ih =>
      intro s
      rw [List.foldl_cons, ih]
      unfold State.rekeyLine
      dsimp only
      split <;> rfl
  have hput : ∀ (s : State) (p : Place) (bs : List Byte), (s.putBytes p bs).squads = s.squads := by
    intro s p bs
    cases p with
    | dram pa key => exact hk _ _ _
    | scratch l c o => rfl
  have hheal : ∀ (s : State) (p : Place) (n : Nat), (s.heal p n).squads = s.squads := by
    intro s p n
    cases p <;> rfl
  have hinj : ∀ (s : State) (lid c t : Nat) (p : Place), (s.injectWrite lid c t p).squads = s.squads := by
    intro s lid c t p
    unfold State.injectWrite
    dsimp only
    split
    · rfl
    · split
      · rfl
      · split
        · exact hput _ _ _
        · rfl
  have hd : ∀ (s : State) (job va pa : Nat), (s.setDirty job va pa).squads = s.squads := by
    intro s job va pa
    unfold State.setDirty
    split
    · split <;> rfl
    · split <;> rfl
  have hn : ∀ (s : State) (p : Place) (data : List Byte), (s.noteSource p data).squads = s.squads := by
    intro s p data
    unfold State.noteSource
    split <;> rfl
  cases p with
  | dram pa key =>
    unfold State.landPart
    dsimp only
    rw [hinj, hheal, hput]
    split
    · exact hn _ _ _
    · rw [hd]; exact hn _ _ _
  | scratch l c o =>
    unfold State.landPart
    dsimp only
    rw [hinj, hheal, hput]
    exact hn _ _ _

/-- A thread that has just been written, written again. -/
theorem State.setThread_again (s u : State) (q l : Nat) (t : Thread) (h : u.squads = (s.setThread q l t).squads) : u.setThread q l t = u := by
  cases hq : s.squad? q with
  | none =>
    have : u.squad? q = none := by
      rw [State.squad?, h, State.setThread, State.modSquad_none s q _ hq]; exact hq
    rw [State.setThread, State.modSquad_none u q _ this]
  | some sq =>
    rw [State.setThread, State.modSquad_some s q _ hq] at h
    have hu : u.squad? q = some (sq.setThread l t) := by
      rw [State.squad?, h]; simp [State.setSquad]
    have hs : (sq.setThread l t).setThread l t = sq.setThread l t := by simp [Squad.setThread]
    rw [State.setThread, State.modSquad_some u q _ hu, hs]
    have he : SMap.set none u.squads q (some (sq.setThread l t)) = u.squads := by rw [h]; simp [State.setSquad]
    unfold State.setSquad
    rw [he]

theorem State.fixReads_squads (s : State) (f : Read → Nat) : (s.fixReads f).squads = s.squads := by
  unfold State.fixReads
  split <;> rfl

/-- What an atomic writes leaves the thread that performs it as it has been written, but for its stack slice. -/
theorem State.putAtomic_again (s u : State) (q l : Nat) (t : Thread) (cx : Ctx) (loc : Loc) (bs : List Byte) (hq : cx.q = q) (hl : cx.lane = l)
    (hs : (s.squad? q).isSome = true) (hu : u.squads = (s.setThread q l t).squads) :
    (u.putAtomic cx loc bs).modThread q l id = u.putAtomic cx loc bs := by
  have key : ∀ v : State, v.squads = (s.setThread q l t).squads → v.modThread q l id = v := by
    intro v h
    have ht : v.thread q l = t := by
      have := State.thread_setThread_same s q l t hs
      simpa only [State.thread, State.squad, State.squad?, h] using this
    rw [State.modThread, ht]
    exact State.setThread_again s v q l t h
  cases loc with
  | stack off =>
    subst hq hl
    simp only [State.putAtomic, State.storeLoc, State.fixOwn]
    generalize hv : u.fixReads _ = v
    have h1 : v.squads = (s.setThread cx.q cx.lane t).squads := hv ▸ (State.fixReads_squads _ _).trans hu
    have hb : (v.squad? cx.q).isSome = true := by
      have : ((s.setThread cx.q cx.lane t).squad? cx.q).isSome = true := by rw [State.setThread_isSome]; exact hs
      simpa only [State.squad?, h1] using this
    simp only [State.modThread, State.setThread_setThread, State.thread_setThread_same v cx.q cx.lane _ hb, id]
  | dram pa k j v lf => exact key _ ((State.landPart_squads _ _ _ _ _ _ _).trans hu)
  | scratch a c o => exact key _ ((State.landPart_squads _ _ _ _ _ _ _).trans hu)

/-- Where some lanes trap and no region suppresses it, the squad takes the trap of the lowest of them, and everything else is
undone (R23). -/
theorem State.execLanes_trap (s : State) (i : Instr) (g : BitVec 2) (stall : Nat) (f : Ctx → State → Except Trap State)
    (err : Nat → Option Trap) (hr : s.ready i g = true) (hreg : (s.ctx 0).region ≠ 1)
    (hf : ∀ l ∈ s.lanes, ∀ st, SameLanes s [l] st →
      match err l with
      | none => s.maskBit g.toNat l = true → ∃ t, f (s.ctx l) (st.setThread s.cur.q l (s.past i stall l)) = .ok (st.setThread s.cur.q l t)
      | some e => s.maskBit g.toNat l = true ∧ f (s.ctx l) (st.setThread s.cur.q l (s.past i stall l)) = .error e)
    (l0 : Nat) (e0 : Trap) (rest : List (Nat × Trap))
    (hfail : s.lanes.filterMap (fun l => (err l).map fun e => (l, e)) = (l0, e0) :: rest) :
    s.execLanes i g stall f = s.takeTrap s.cur.q e0.cause (trapLanes s e0 ((l0, e0) :: rest)) e0.addr s.cur.pc := by
  obtain ⟨hb, ha, hg⟩ := (s.ready_iff i g).mp hr
  have key : ∀ ls st ts, SameLanes s ls st → (∀ l ∈ ls, l ∈ s.lanes) →
      ∃ st', State.runLanes i g stall f ls st ts = (st', ts ++ ls.filterMap fun l => (err l).map fun e => (l, e)) := by
    intro ls
    induction ls with
    | nil => intro st ts _ _; exact ⟨st, by simp [State.runLanes]⟩
    | cons l ls ih =>
      intro st ts hsame hin
      have hc := hsame.ctx l (by simp)
      have ht := hsame.thread l (by simp)
      have hl := hin l (by simp)
      have hsame1 : SameLanes s [l] st := by
        obtain ⟨nd, sq, b, th, cx, rg⟩ := hsame
        exact ⟨by simp, sq, b, fun k hk => by simp at hk; subst hk; exact ht, fun k hk => by simp at hk; subst hk; exact hc, rg⟩
      have hk := s.readK_maskBit (hg l hl)
      rw [State.th] at hk
      have hp : (s.thread s.cur.q l).advance (s.ctx l) i stall = s.past i stall l := rfl
      have hstep : st.laneStep i g stall f l =
          if s.maskBit g.toNat l then f (s.ctx l) (st.setThread s.cur.q l (s.past i stall l))
          else .ok (st.setThread s.cur.q l (s.past i stall l)) := by
        simp only [State.laneStep, hc, ctx_q, ht, admitted_lane s i l 0, ha, if_true, Thread.guardOn, hk, hp]
      have hstay : SameLanes s ls st := by
        obtain ⟨nd, sq, b, th, cx, rg⟩ := hsame
        exact ⟨(List.nodup_cons.mp nd).2, sq, b, fun k hk => th k (by simp [hk]), fun k hk => cx k (by simp [hk]), rg⟩
      have hf1 := hf l hl st hsame1
      cases he : err l with
      | none =>
        rw [he] at hf1
        have : ∃ t, st.laneStep i g stall f l = .ok (st.setThread s.cur.q l t) := by
          rw [hstep]
          by_cases hm : s.maskBit g.toNat l = true
          · obtain ⟨t, h2⟩ := hf1 hm
            exact ⟨t, by simp [hm, h2]⟩
          · exact ⟨_, if_neg hm⟩
        obtain ⟨t, h2⟩ := this
        obtain ⟨st', h3⟩ := ih (st.setThread s.cur.q l t) ts (hsame.next t) fun m hm => hin m (by simp [hm])
        exact ⟨st', by simp only [State.runLanes, h2, h3, List.filterMap_cons, he, Option.map_none]⟩
      | some e =>
        rw [he] at hf1
        have h2 : st.laneStep i g stall f l = .error e := by rw [hstep, if_pos hf1.1, hf1.2]
        have hns : suppressed (st.ctx l) e = false := by
          have : (st.ctx l).region = (s.ctx 0).region := by rw [hc]; rfl
          simp [suppressed, this, hreg]
        obtain ⟨st', h3⟩ := ih st (ts ++ [(l, e)]) hstay fun m hm => hin m (by simp [hm])
        exact ⟨st', by
          simp only [State.runLanes, h2, hns, h3, List.filterMap_cons, he, Option.map_some]
          simp⟩
  obtain ⟨st', h1⟩ := key s.lanes s [] (SameLanes.refl s hb) fun l h => h
  unfold State.execLanes
  rw [show lanesOf s.cur.lanes = s.lanes from rfl, h1, hfail]
  rfl

end Sys2Proof.Machine
end

