-- ==== Sys2Proof/Laws/Keep.lean ====
section
/-!
SUPPORT. Laws/Keep.lean: a property of the state that writing a thread and taking a trap keep is kept by every instruction whose
own effect on a lane, or on an issue set, keeps it.
-/
namespace Sys2Proof.Machine

/-- Writing a thread and taking a trap keep the property. -/
structure KeptByThreads (P : State → Prop) : Prop where
  thread : ∀ s q l t, P s → P (s.setThread q l t)
  trap : ∀ s q c m a e, P s → P (s.takeTrap q c m a e)

/-- A property of DRAM and all that stands beside it is kept. -/
theorem KeptByThreads.ofMem (P : Mem → Prop) : KeptByThreads fun s => P s.mem where
  thread s q l t h := by rw [State.setThread_mem]; exact h
  trap s q c m a e h := by rw [State.takeTrap_mem]; exact h

/-- A property of the fuse counter and the step under way is kept. -/
theorem KeptByThreads.ofFuses (P : Nat → Option (Nat × Word) → Prop) : KeptByThreads fun s => P s.fuses s.fuseStep where
  thread s q l t h := by rw [State.setThread_fuses, State.setThread_fuseStep]; exact h
  trap s q c m a e h := by rw [State.takeTrap_fuses, State.takeTrap_fuseStep]; exact h

variable {P : State → Prop}

theorem KeptByThreads.modThread (k : KeptByThreads P) {s : State} (q l : Nat) (f : Thread → Thread) (h : P s) : P (s.modThread q l f) :=
  k.thread _ _ _ _ h

theorem KeptByThreads.threads (k : KeptByThreads P) (ls : List Nat) (q : Nat) (f : State → Nat → Thread) {s : State} (h : P s) :
    P (ls.foldl (fun st l => st.setThread q l (f st l)) s) := by
  induction ls generalizing s with
  | nil => exact h
  | cons l ls ih => exact ih (k.thread _ _ _ _ h)

theorem KeptByThreads.laneStep (k : KeptByThreads P) {s t : State} {i : Instr} {g : BitVec 2} {stall l : Nat}
    {f : Ctx → State → Except Trap State} (hf : ∀ cx s t, P s → f cx s = .ok t → P t) (h : P s)
    (e : s.laneStep i g stall f l = .ok t) : P t := by
  unfold State.laneStep at e
  dsimp only at e
  split at e
  · split at e
    · cases e
    · split at e
      · exact hf _ _ _ (k.thread _ _ _ _ h) e
      · injection e with e
        exact e ▸ k.thread _ _ _ _ h
  · cases e

theorem KeptByThreads.runLanes (k : KeptByThreads P) {i : Instr} {g : BitVec 2} {stall : Nat} {f : Ctx → State → Except Trap State}
    (hf : ∀ cx s t, P s → f cx s = .ok t → P t) (ls : List Nat) (ts : List (Nat × Trap)) {s : State} (h : P s) :
    P (State.runLanes i g stall f ls s ts).1 := by
  induction ls generalizing s ts with
  | nil => exact h
  | cons l ls ih =>
    unfold State.runLanes
    split
    · next e => exact ih _ (k.laneStep hf h e)
    · split
      · exact ih _ (k.modThread _ _ _ h)
      · exact ih _ h

/-- An instruction whose threads act one by one. -/
theorem KeptByThreads.execLanes (k : KeptByThreads P) {i : Instr} {g : BitVec 2} {stall : Nat} {f : Ctx → State → Except Trap State}
    (hf : ∀ cx s t, P s → f cx s = .ok t → P t) {s : State} (h : P s) : P (s.execLanes i g stall f) := by
  unfold State.execLanes
  have := k.runLanes (i := i) (g := g) (stall := stall) hf (lanesOf s.cur.lanes) [] h
  split
  · next e => rw [e] at this; exact this
  · exact k.trap _ _ _ _ _ _ h

/-- An instruction that changes nothing but the threads of its issue set. -/
theorem KeptByThreads.execThread (k : KeptByThreads P) {i : Instr} {g : BitVec 2} {stall : Nat} {f : Ctx → Thread → Except Trap Thread}
    {s : State} (h : P s) : P (s.execThread i g stall f) :=
  k.execLanes (fun cx s t hs e => by
    unfold onThread at e
    split at e
    · cases e
    · injection e with e
      exact e ▸ k.thread _ _ _ _ hs) h

/-- An instruction that its issue set performs together. -/
theorem KeptByThreads.execSet (k : KeptByThreads P) {i : Instr} {g : BitVec 2} {stall : Nat}
    {f : State → State → List Nat → Except SetTrap State} {s : State} (h : P s)
    (hf : ∀ s' act t, P s' → f s' s act = .ok t → P t) : P (s.execSet i g stall f) := by
  unfold State.execSet
  split
  · split
    · exact k.trap _ _ _ _ _ _ h
    · split
      · next e =>
        refine hf _ _ _ ?_ e
        exact k.threads _ _ (fun _ l => (s.thread s.cur.q l).advance (s.ctx l) i stall) h
      · exact k.trap _ _ _ _ _ _ h
  · split
    · exact k.threads _ _ (fun st l => { st.thread s.cur.q l with wait := .parked, lstop := 1 }) h
    · exact k.trap _ _ _ _ _ _ h

end Sys2Proof.Machine
end

