-- ==== Sys2Proof/Laws/Memory.lean ====
section
/-!
SUPPORT. Laws/Memory.lean: the operations of the module that write DRAM keep its canonical form: the landing of a write and of a
squad's writes, what engines and Driene write, the zeroing of a frame, and every change of a page table.
-/
namespace Sys2Proof.Machine

/-- DRAM is in its canonical form. -/
abbrev State.canonical (s : State) : Prop := s.mem.dram.wf = true

theorem wf_foldl_writes {α : Type} (xs : List α) (f : Memory → α → Memory) (hf : ∀ m x, m.wf = true → (f m x).wf = true)
    (m : Memory) (h : m.wf = true) : (xs.foldl f m).wf = true := by
  induction xs generalizing m with
  | nil => exact h
  | cons x xs ih => exact ih _ (hf m x h)

theorem canonical_foldl {α : Type} (xs : List α) (f : State → α → State) (hf : ∀ s x, s.canonical → (f s x).canonical)
    (s : State) (h : s.canonical) : (xs.foldl f s).canonical := by
  induction xs generalizing s with
  | nil => exact h
  | cons x xs ih => exact ih _ (hf s x h)

/-- An entry of a page table written, with its group. -/
theorem wf_setLeaf (m : Memory) (l : Leaf) (raw : Nat) (h : m.wf = true) : (setLeaf m l raw).wf = true :=
  wf_foldl_writes _ _ (fun m _ hm => Memory.wf_writeBytes m _ _ hm) m h

theorem State.canonical_rekeyLine (s : State) (key line : Nat) (h : s.canonical) : (s.rekeyLine key line).canonical := by
  unfold State.rekeyLine
  dsimp only
  split
  · exact h
  · exact Memory.wf_writeBytes _ _ _ h

theorem State.canonical_putBytes (s : State) (p : Place) (data : List Byte) (h : s.canonical) : (s.putBytes p data).canonical := by
  cases p with
  | dram pa key => exact Memory.wf_writeBytes _ _ _ (canonical_foldl _ _ (fun st l hs => State.canonical_rekeyLine st key l hs) s h)
  | scratch l c o => exact h

theorem State.canonical_setDirty (s : State) (job va pa : Nat) (h : s.canonical) : (s.setDirty job va pa).canonical := by
  unfold State.setDirty
  split
  · split
    · exact h
    · exact wf_setLeaf _ _ _ h
  · split <;> exact h

theorem State.canonical_heal (s : State) (p : Place) (n : Nat) (h : s.canonical) : (s.heal p n).canonical := by
  cases p <;> exact h

theorem State.canonical_injectWrite (s : State) (lid c target : Nat) (p : Place) (h : s.canonical) :
    (s.injectWrite lid c target p).canonical := by
  unfold State.injectWrite
  dsimp only
  split
  · exact h
  · split
    · exact h
    · split
      · exact State.canonical_putBytes _ _ _ h
      · exact h

@[simp] theorem State.noteSource_mem (s : State) (p : Place) (data : List Byte) : (s.noteSource p data).mem = s.mem := by
  unfold State.noteSource
  split <;> rfl

@[simp] theorem State.fixReads_dram (s : State) (f : Read → Nat) : (s.fixReads f).mem.dram = s.mem.dram := by
  unfold State.fixReads
  split <;> rfl

@[simp] theorem State.fixReads_writes (s : State) (f : Read → Nat) : (s.fixReads f).mem.writes = s.mem.writes := by
  unfold State.fixReads
  split <;> rfl

/-- One part that lands (R215, R216, R223). -/
theorem State.canonical_landPart (s : State) (lid c : Nat) (p : Place) (job va : Nat) (data : List Byte) (h0 : s.canonical) :
    (s.landPart lid c p job va data).canonical := by
  have h : (s.noteSource p data).canonical := by rw [State.canonical, State.noteSource_mem]; exact h0
  unfold State.landPart
  cases p with
  | dram pa key =>
    refine State.canonical_injectWrite _ _ _ _ _ (State.canonical_heal _ _ _ (State.canonical_putBytes _ _ _ ?_))
    split
    · exact h
    · exact State.canonical_setDirty _ _ _ _ h
  | scratch l c' o => exact State.canonical_injectWrite _ _ _ _ _ (State.canonical_heal _ _ _ (State.canonical_putBytes _ _ _ h))

/-- A write that takes its next step, or lands (R223). -/
theorem State.canonical_landNth (s : State) (n : Nat) (h : s.canonical) : (s.landNth n).canonical := by
  unfold State.landNth
  split
  · exact h
  · next w _ =>
    have hf : (s.fixReads (s.fixedBy w w.next)).canonical := by rw [State.canonical, State.fixReads_dram]; exact h
    dsimp only
    split
    · exact State.canonical_landPart _ _ _ _ _ _ _ hf
    · exact hf

/-- A write brought to a scope, with all that must go before it. -/
theorem State.canonical_push (fuel t seq : Nat) (s : State) (h : s.canonical) : (s.push t seq fuel).canonical := by
  induction fuel generalizing t seq s with
  | zero => exact h
  | succ fuel ih =>
    unfold State.push
    split
    · exact h
    · next w _ =>
      split
      · exact h
      · have h1 := canonical_foldl (s.mem.writes.filter fun e => s.holdsBack w.next e w)
          (fun st e => st.push w.next e.seq fuel) (fun st e hs => ih _ _ st hs) s h
        dsimp only
        split
        · exact ih _ _ _ (State.canonical_landNth _ _ h1)
        · exact h1

/-- Outstanding writes brought to a scope, as far as they can be. -/
theorem State.canonical_pushAll (s : State) (t : Nat) (p : Write → Bool) (h : s.canonical) : (s.pushAll t p).canonical := by
  unfold State.pushAll
  split
  · exact h
  · exact canonical_foldl _ _ (fun st _ hs => State.canonical_push _ _ _ st hs) s h

theorem State.canonical_bring (s : State) (need : Write → Nat) (h : s.canonical) : (s.bring need).1.canonical :=
  canonical_foldl _ _ (fun st _ hs => State.canonical_push _ _ _ st hs) s h

/-- A store that is posted lands later. -/
theorem State.canonical_storeLoc (s : State) (cx : Ctx) (loc : Loc) (data : List Byte) (rel : Bool) (h : s.canonical) :
    (s.storeLoc cx loc data rel).canonical := by
  have hf (r : SquadRef) (lane : Nat) (f : Read → Nat) : (s.fixOwn r lane f).mem.dram.wf = true := (State.fixReads_dram _ _).symm ▸ h
  cases loc with
  | stack off => unfold State.canonical State.storeLoc; dsimp only; rw [State.modThread_mem]; exact hf ..
  | dram pa key job va l => exact hf ..
  | scratch l c o => exact hf ..

/-- A part of an engine's or of a message's write is posted, and lands later. -/
theorem State.canonical_postPart (s : State) (r : SquadRef) (p : Place) (job va : Nat) (data : List Byte) (h : s.canonical) :
    (s.postPart r p job va data).canonical := h

theorem SMap.wf_filter {α : Type} [DecidableEq α] (d : α) (p : Nat × α → Bool) (m : SMap α) (h : SMap.wf d m = true) :
    SMap.wf d (m.filter p) = true := by
  induction m with
  | nil => exact h
  | cons e m ih =>
    obtain ⟨i, v⟩ := e
    obtain ⟨hv, hlt, hm⟩ := (SMap.wf_cons d i v m).mp h
    rw [List.filter_cons]
    split
    · exact (SMap.wf_cons _ _ _ _).mpr ⟨hv, fun e he => hlt e (List.mem_filter.mp he).1, ih hm⟩
    · exact ih hm

theorem Memory.wf_clear (m : Memory) (a n : Nat) (h : m.wf = true) : (m.clear a n).wf = true := by
  unfold Memory.clear
  exact SMap.wf_filter _ _ _ h

/-- A frame zeroed (R202, R207). -/
theorem State.canonical_zeroDram (s : State) (a n : Nat) (h : s.canonical) : (s.zeroDram a n).canonical :=
  Memory.wf_clear _ _ _ h

/-! ### What engines and Driene write -/

theorem State.canonical_noteRead (s : State) (p : Place) (h : s.canonical) : (s.noteRead p).canonical := by
  unfold State.noteRead
  split <;> exact h

theorem State.canonical_noteFrame (s : State) (a n : Nat) (h : s.canonical) : (s.noteFrame a n).canonical := by
  unfold State.noteFrame
  split
  · exact h
  · exact canonical_foldl _ _ (fun st l hs => State.canonical_noteRead st _ hs) s h

theorem State.canonical_jobSeen (s : State) (j : Job) (a n : Nat) (h : s.canonical) : (s.jobSeen j a n).canonical := by
  unfold State.jobSeen
  split
  · exact h
  · refine canonical_foldl _ _ (fun st p hs => ?_) s h
    split
    · exact State.canonical_noteRead _ _ hs
    · exact hs

theorem State.canonical_readParts (ps : List Part) (s : State) (h : s.canonical) : (s.readParts ps).2.2.canonical := by
  induction ps generalizing s with
  | nil => exact h
  | cons p ps ih => exact ih _ (State.canonical_noteRead _ _ h)

theorem State.canonical_writeParts (lid crew : Nat) (ps : List Part) (bs : List Byte) (s : State) (h : s.canonical) :
    (s.writeParts lid crew ps bs).canonical := by
  induction ps generalizing s bs with
  | nil => exact h
  | cons p ps ih => exact ih _ _ (State.canonical_landPart s _ _ _ _ _ _ h)

theorem State.canonical_jobWrite (s : State) (j : Job) (a : Nat) (bs : List Byte) (h : s.canonical) : (s.jobWrite j a bs).canonical := by
  refine canonical_foldl _ _ (fun st p hs => ?_) s h
  split
  · exact hs
  · dsimp only
    split
    · exact hs
    · exact State.canonical_landPart st _ _ _ _ _ _ hs

/-- A completion object signalled by Driene (R285). -/
theorem State.canonical_signalAt (s : State) (j : Job) (a word : Nat) (h : s.canonical) : (s.signalAt j a word).canonical := by
  unfold State.signalAt
  split
  · exact h
  · exact State.canonical_jobWrite _ _ _ _ (State.canonical_jobSeen _ _ _ _ h)

theorem State.canonical_graphWrite (s : State) (lid crew : Nat) (a : Word) (bs : List Byte) (h : s.canonical) :
    (s.graphWrite lid crew a bs).canonical := by
  unfold State.graphWrite
  split
  · exact State.canonical_writeParts _ _ _ _ _ h
  · exact h

theorem State.canonical_graphSignal (s : State) (lid crew : Nat) (a : Word) (word : Nat) (h : s.canonical) :
    (s.graphSignal lid crew a word).canonical := by
  unfold State.graphSignal
  split
  · exact h
  · unfold State.canonical
    rw [State.modLaunch_mem]
    refine State.canonical_graphWrite _ _ _ _ _ ?_
    unfold State.graphSeen
    split
    · exact State.canonical_readParts _ _ h
    · exact h

/-! ### Page tables and frames -/

theorem State.canonical_takeFrame {s t : State} {home n f : Nat} (h : s.canonical) (e : s.takeFrame home n = some (t, f)) : t.canonical := by
  unfold State.takeFrame at e
  obtain ⟨r, _, hr⟩ := Option.map_eq_some_iff.mp e
  injection hr with h1 h2
  exact h1 ▸ h

theorem State.canonical_ensureTable {va target : Nat} (lvl : Nat) {tbl : Nat} {s t : State} {x : Nat × List Nat} (h : s.canonical)
    (e : State.ensureTable va target lvl tbl s = some (t, x)) : t.canonical := by
  induction lvl generalizing tbl s t x with
  | zero =>
    simp only [State.ensureTable, Option.some.injEq, Prod.mk.injEq] at e
    exact e.1 ▸ h
  | succ lvl ih =>
    unfold State.ensureTable at e
    split at e
    · simp only [Option.some.injEq, Prod.mk.injEq] at e
      exact e.1 ▸ h
    · split at e
      · exact ih h e
      · split at e
        · cases e
        · next s1 f hf =>
          have hz := State.canonical_zeroDram s1 f 4096 (State.canonical_takeFrame h hf)
          generalize hs : s1.zeroDram f 4096 = s2 at e hz
          dsimp only at e
          have hw := Memory.wf_writeBytes s2.mem.dram (tbl + 8 * bitsOf va (12 + 9 * (lvl + 1)) (if lvl + 1 = 4 then 8 else 9))
            (bytesLE 8 (f + 1)) hz
          obtain ⟨r, hr, hx⟩ := Option.map_eq_some_iff.mp e
          obtain ⟨t', y⟩ := r
          rw [Prod.mk.injEq] at hx
          rw [← hx.1]
          exact ih hw hr
      · cases e

theorem State.canonical_ensureEntry {s t : State} {jn va size a : Nat} (h : s.canonical) (e : s.ensureEntry jn va size = some (t, a)) :
    t.canonical := by
  unfold State.ensureEntry at e
  split at e
  · cases e
  · split at e
    · cases e
    · next hx =>
      simp only [Option.some.injEq, Prod.mk.injEq] at e
      have := State.canonical_ensureTable 4 h hx
      rw [← e.1]
      exact this

/-- A page mapped (R185). -/
theorem State.canonical_mapPage {s t : State} {jn va size word : Nat} (h : s.canonical) (e : s.mapPage jn va size word = some t) :
    t.canonical := by
  unfold State.mapPage at e
  obtain ⟨r, hr, ht⟩ := Option.map_eq_some_iff.mp e
  rw [← ht]
  exact wf_setLeaf _ _ _ (State.canonical_ensureEntry h hr)

theorem State.canonical_fillFrame (s : State) (r : Range) (va f : Nat) (h : s.canonical) : (s.fillFrame r va f).canonical := by
  unfold State.fillFrame
  split
  · exact Memory.wf_writeBytes _ _ _ (State.canonical_zeroDram _ _ _ h)
  · exact h

theorem State.canonical_modFile (s : State) (path : List Byte) (f : List Byte → List Byte) (h : s.canonical) :
    (s.modFile path f).canonical := h

theorem State.canonical_saveFrame (s : State) (l : Leaf) (file : Option (List Byte × Nat)) (h : s.canonical) :
    (s.saveFrame l file).canonical := by
  unfold State.saveFrame
  split
  · split
    · exact State.canonical_noteFrame _ _ _ h
    · exact h
  · exact h

/-- A frame given back. -/
theorem State.canonical_giveFrame (s : State) (a n : Nat) (h : s.canonical) : (s.giveFrame a n).canonical := State.canonical_zeroDram s a n h

/-- A shootdown that ends (R195). -/
theorem State.canonical_endStale (s : State) (st : Stale) (h : s.canonical) : (s.endStale st).canonical :=
  canonical_foldl st.give (fun s g => s.giveFrame g.1 g.2) (fun s _ hs => State.canonical_giveFrame s _ _ hs) _
    (State.canonical_saveFrame { s with mem := { s.mem with stale := s.mem.stale.erase st } } _ _ h)

/-- A live leaf changed (R195). -/
theorem State.canonical_changeLeaf (s : State) (job va : Nat) (l : Leaf) (raw : Nat) (give : List (Nat × Nat))
    (file : Option (List Byte × Nat)) (h : s.canonical) : (s.changeLeaf job va l raw give file).canonical := wf_setLeaf _ _ _ h

theorem State.canonical_clearStale {s t : State} {jn va : Nat} (h : s.canonical) (e : s.clearStale jn va = some t) : t.canonical := by
  unfold State.clearStale at e
  split at e
  · injection e with e; exact e ▸ h
  · split at e
    · injection e with e; exact e ▸ State.canonical_endStale _ _ h
    · cases e

/-- A page made resident (R191). -/
theorem State.canonical_residePage {s t : State} {jn va : Nat} {r : Range} (h : s.canonical) (e : s.residePage jn r va = some t) :
    t.canonical := by
  unfold State.residePage at e
  split at e
  · obtain ⟨x, hx, ht⟩ := Option.map_eq_some_iff.mp e
    exact ht ▸ State.canonical_ensureEntry h hx
  · split at e
    · injection e with e; exact e ▸ h
    · obtain ⟨s0, h0, e0⟩ := Option.bind_eq_some_iff.mp e
      obtain ⟨x, hx, ht⟩ := Option.bind_eq_some_iff.mp e0
      have hk := State.canonical_fillFrame x.1 r va x.2 (State.canonical_takeFrame (State.canonical_clearStale h h0) hx)
      exact State.canonical_mapPage (s := (x.1.fillFrame r va x.2).keyFrame x.2 (pageBytes r.psize) r.key) hk ht

theorem State.canonical_foldlM {α : Type} (xs : List α) (f : State → α → Option State)
    (hf : ∀ s t x, s.canonical → f s x = some t → t.canonical) {s t : State} (h : s.canonical) (e : xs.foldlM f s = some t) :
    t.canonical := by
  induction xs generalizing s with
  | nil => injection e with e; exact e ▸ h
  | cons x xs ih =>
    rw [List.foldlM_cons] at e
    obtain ⟨u, hu, ht⟩ := Option.bind_eq_some_iff.mp e
    exact ih (hf _ _ _ h hu) ht

theorem State.canonical_resideRange {s t : State} {jn : Nat} {r : Range} (h : s.canonical) (e : s.resideRange jn r = some t) :
    t.canonical :=
  State.canonical_foldlM _ _ (fun _ _ _ hs hx => State.canonical_residePage hs hx) h e

/-- A page unmapped (R190). -/
theorem State.canonical_evictPage (s : State) (jn : Nat) (r : Range) (va : Nat) (h : s.canonical) : (s.evictPage jn r va).canonical := by
  unfold State.evictPage
  split
  · exact h
  · exact State.canonical_changeLeaf _ _ _ _ _ _ _ h

theorem State.canonical_releaseRanges (s : State) (l : Launch) (h : s.canonical) : (s.releaseRanges l).canonical := by
  refine canonical_foldl _ _ (fun st r hs => canonical_foldl _ _ (fun u va hu => ?_) st hs) s h
  split
  · exact hu
  · exact State.canonical_evictPage _ _ _ _ hu

/-! A page split, or pages joined (R196) -/

theorem State.canonical_setTables (s : State) (jn : Nat) (f : List Nat → List Nat) (h : s.canonical) : (s.setTables jn f).canonical := by
  unfold State.setTables
  split <;> exact h

theorem State.canonical_splitEntry {s t : State} {jn at_ raw step : Nat} (h : s.canonical) (e : s.splitEntry jn at_ raw step = some t) :
    t.canonical := by
  unfold State.splitEntry at e
  obtain ⟨x, hx, ht⟩ := Option.map_eq_some_iff.mp e
  rw [← ht]
  refine State.canonical_setTables _ _ _ (Memory.wf_writeBytes _ _ _ ?_)
  exact wf_foldl_writes _ _ (fun m _ hm => Memory.wf_writeBytes m _ _ hm) _ (State.canonical_zeroDram _ _ _ (State.canonical_takeFrame h hx))

theorem State.canonical_splitPage {s t : State} {jn : Nat} {l : Leaf} (h : s.canonical) (e : s.splitPage jn l = some t) : t.canonical := by
  unfold State.splitPage at e
  split at e
  · injection e with e
    exact e ▸ wf_foldl_writes _ _ (fun m _ hm => Memory.wf_writeBytes m _ _ hm) _ h
  · injection e with e
    exact e ▸ wf_foldl_writes _ _ (fun m _ hm => Memory.wf_writeBytes m _ _ hm) _ h
  · exact State.canonical_splitEntry h e
  · obtain ⟨x, hx, ht⟩ := Option.bind_eq_some_iff.mp e
    exact State.canonical_splitEntry (State.canonical_splitEntry h hx) ht
  · cases e

theorem State.canonical_joinInto {s t : State} {j : Job} {va size : Nat} (h : s.canonical) (e : s.joinInto j va size = some t) :
    t.canonical := by
  unfold State.joinInto at e
  dsimp only at e
  split at e
  · split at e
    · cases e
    · split at e
      · injection e with e
        exact e ▸ wf_setLeaf _ _ _ h
      · obtain ⟨p, _, ht⟩ := Option.map_eq_some_iff.mp e
        rw [← ht]
        exact State.canonical_setTables _ _ _ (wf_setLeaf _ _ _ h)
  · cases e

/-- A leaf changed by the write-back scanner (R193). -/
theorem State.canonical_modLeaf (s : State) (jn va : Nat) (f : Leaf → Nat) (h : s.canonical) : (s.modLeaf jn va f).canonical := by
  unfold State.modLeaf
  split
  · exact wf_setLeaf _ _ _ h
  · exact h

/-- A granule given its frame (R202). -/
theorem State.canonical_fillGranule (s : State) (j : Job) (r : Range) (va : Nat) (h : s.canonical) : (s.fillGranule j r va).canonical := by
  unfold State.fillGranule
  split
  · exact h
  · next f hf =>
    have hz := State.canonical_zeroDram _ f granuleBytes (State.canonical_takeFrame h hf)
    dsimp only
    split
    · exact wf_setLeaf _ _ _ hz
    · exact hz

end Sys2Proof.Machine
end

