-- ==== Sys2Proof/Laws/Sets.lean ====
section
/-!
SUPPORT. Laws/Sets.lean: what the shared operations of an issue set answer: its operands gathered, their common tag, and results
written to its active lanes.
-/
namespace Sys2Proof.Machine

/-- Per-lane checks that all pass give every lane its value. -/
theorem gatherLanes_ok {α : Type} (act : List Nat) (f : Nat → Except Trap α) (v : Nat → α) (h : ∀ l ∈ act, f l = .ok (v l)) :
    gatherLanes act f = .ok (act.map fun l => (l, v l)) := by
  have hb : (act.map fun l => (l, f l)) = act.map fun l => (l, (.ok (v l) : Except Trap α)) :=
    List.map_congr_left fun l hl => by rw [h l hl]
  have hn : act.filterMap (fun _ => (none : Option (Nat × Trap))) = [] := by
    induction act with
    | nil => rfl
    | cons l ls ih => exact ih (fun m hm => h m (by simp [hm])) (by simpa using (List.map_congr_left fun l hl => by rw [h l (by simp [hl])]))
  unfold gatherLanes
  rw [hb]
  simp [List.filterMap_map, hn]

theorem State.gather_ok (s : State) (act : List Nat) (c : RegCode) (h : ∀ l ∈ act, s.canRead c l = true) :
    s.gather act c = .ok (act.map fun l => (l, s.operand c l)) :=
  gatherLanes_ok act _ _ fun l hl => s.read_operand (h l hl)

theorem State.gatherK_ok (s : State) (act : List Nat) (k : BitVec 3) (h : ∀ l ∈ act, s.canReadK k.toNat l = true) :
    s.gatherK act k = .ok (act.map fun l => (l, s.maskBit k.toNat l)) :=
  gatherLanes_ok act _ _ fun l hl => s.readK_maskBit (h l hl)

/-- A source that every lane holds with an accepted tag. -/
theorem State.src_ok (s : State) {ok : Tag → Bool} {c : RegCode} {l : Nat} (h : s.holds ok c l = true) :
    (s.thread s.cur.q l).src (s.ctx l) ok c = .ok (s.operand c l) := by
  simp only [State.holds, Bool.and_eq_true, bne_iff_ne, ne_eq] at h
  obtain ⟨⟨h1, h2⟩, h3⟩ := h
  have := s.read_operand h1
  simp only [State.th] at this
  simp only [Thread.src, this, need, if_neg h2, h3, if_true]

theorem State.gatherSrc_ok (s : State) (act : List Nat) (ok : Tag → Bool) (c : RegCode)
    (h : ∀ l ∈ act, s.holds ok c l = true) :
    gatherLanes act (fun l => (s.thread s.cur.q l).src (s.ctx l) ok c) = .ok (act.map fun l => (l, s.operand c l)) :=
  gatherLanes_ok act _ _ fun l hl => s.src_ok (h l hl)

/-- Registers that all carry one accepted tag have it in common. -/
theorem commonTag_ok (ok : Tag → Bool) (vs : List (Nat × Reg)) (g : Tag) (hg : ok g = true) (hp : g ≠ .poison)
    (h : ∀ v ∈ vs, v.2.tag = g) (hne : vs ≠ []) : commonTag ok vs = .ok g := by
  have h1 : (vs.filter fun v => v.2.tag == .poison) = [] := by
    rw [List.filter_eq_nil_iff]
    intro v hv
    simp [h v hv, hp]
  have h2 : (vs.filter fun v => v.2.tag != g) = [] := by
    rw [List.filter_eq_nil_iff]
    intro v hv
    simp [h v hv]
  cases vs with
  | nil => exact absurd rfl hne
  | cons v vs =>
    have ht := h v (by simp)
    simp only [commonTag, h1, List.map_nil, ne_eq, not_true_eq_false, if_false, ht, hg, if_true, h2]

theorem commonTag_nil (ok : Tag → Bool) : commonTag ok [] = .ok .raw64 := rfl

/-- Results of the active lanes, written once every lane has moved past the instruction. -/
theorem State.scatter_ok (s : State) (i : Instr) (g : BitVec 2) (stall : Nat) (d : RegCode) (lat : Lat) (v : Nat → Reg)
    (hs : (s.squad? s.cur.q).isSome = true) :
    (s.advanceAll i stall).scatter s d lat ((s.active g).map fun l => (l, v l)) =
      s.ranTogether i g stall fun l => (s.past i stall l).write (s.ctx l) d (v l) lat := by
  unfold State.scatter
  rw [List.foldl_map]
  exact s.advanceAll_modThreads i g stall (fun l t => t.write (s.ctx l) d (v l) lat) _ hs fun _ _ => rfl

theorem State.scatterK_ok (s : State) (i : Instr) (g : BitVec 2) (stall : Nat) (k : Nat) (lat : Lat) (v : Nat → Bool)
    (hs : (s.squad? s.cur.q).isSome = true) :
    (s.advanceAll i stall).scatterK s k lat ((s.active g).map fun l => (l, v l)) =
      s.ranTogether i g stall fun l => (s.past i stall l).writeK (s.ctx l) k (v l) lat := by
  unfold State.scatterK
  rw [List.foldl_map]
  exact s.advanceAll_modThreads i g stall (fun l t => t.writeK (s.ctx l) k (v l) lat) _ hs fun _ _ => rfl

/-- Every lane is active where there is no guard. -/
@[simp] theorem State.active_zero (s : State) : s.active 0 = s.lanes := by
  simp [State.active, State.maskBit, Thread.readK]

/-- The same, as the simplifier writes the guard. -/
@[simp] theorem State.active_literal (s : State) : s.active 0#2 = s.lanes := s.active_zero

end Sys2Proof.Machine
end

