-- ==== Sys2Proof/Tests/Slice0.lean ====
section
/-!
SUPPORT. Tests/Slice0.lean: the checks that refuse ill-formed terms, words of the spec's encodings, witnesses that the hypotheses of
the statements can be met, and single steps whose results the spec writes out.
-/
open Sys2Proof Sys2Proof.Machine

namespace Sys2Proof.Tests

/-! ### States to test on -/

/-- Registers of the lane that runs: integers, floats, small floats, a view, a scale. -/
def regs0 : SMap Reg := [(1, ⟨5, .i64⟩), (2, ⟨7, .i64⟩), (3, ⟨0x0000000100000002, .i32x2⟩), (4, ⟨0x3FF0000000000000, .f64⟩),
  (5, ⟨0x4000000000000000, .f64⟩), (6, ⟨0x10000, .i64⟩), (7, ⟨0x7F800103FE090081, .i8x8⟩), (8, ⟨0x0102030405060708, .i8x8⟩),
  (9, ⟨0, .poison⟩), (10, ⟨0x10000, .raw64⟩), (11, ⟨0x3C00, .f16x4⟩), (12, ⟨1, .i64⟩), (13, ⟨8, .i64⟩),
  (14, ⟨0x0706050403020100, .map8⟩), (20, ⟨handleWord 3 1 5 0x7F, .view⟩), (21, ⟨0x1020000, .i64⟩), (22, ⟨0x10000, .i64⟩),
  (23, ⟨0x2, .i64⟩), (24, ⟨0x2100000000, .i64⟩), (25, ⟨0x0100000000000000, .i64⟩), (26, ⟨0x0000040000000000, .i64⟩), (27, ⟨0xFF, .i64⟩)]

/-- One lane of one squad at 0x10000, a page mapped with every right, under an interlocked launch. -/
def w : State :=
  let s := State.reset.placeWord 32 0
  { s with
    squads := [(0, some { lid := 1, threads := [(0, { pc := 0x10000, live := true, regs := regs0 })], slot := 5 })]
    cur := { q := 0, pc := 0x10000, lanes := 1, slot := 5 } }

/-- A condition holds in some lanes, which are not none. -/
def inLanes (ls : List Nat) (p : Nat → Bool) : Bool := ls != [] && ls.all p

/-- A check that gives a value, of which more holds. -/
def okAnd (e : Except ε α) (p : α → Bool) : Bool :=
  match e with
  | .ok x => p x
  | .error _ => false

/-- The crew of `w` changed. -/
def wCrew (f : Crew → Crew) : State := w.modCrew 1 0 f

/-- The squad of `w` changed. -/
def wSquad (f : Squad → Squad) : State := w.modSquad 0 f

/-- The thread of `w` changed. -/
def wThread (f : Thread → Thread) : State := w.modThread 0 0 f

/-- The launch of `w` changed. -/
def wLaunch (f : Launch → Launch) : State := w.modLaunch 1 f

/-- The squad of `w` in a region: an open chunk of ENUM or of ENUM.ONE, with a candidate for lane 0. -/
def wRegion (one : Bool) : State := wCrew fun c => { c with chunks := [⟨0, 0, 16, 0, one, false, 0, 0, [0], 0, 0⟩] }

/-- The thread of `w` as the crew's stream. -/
def wStream : State := { w with
  squads := [(16, some { lid := 1, num := 16, threads := [(0, { pc := 0x10000, live := true, regs := regs0 })] })]
  cur := { q := 16, pc := 0x10000, lanes := 1 } }

/-- `w` with a covered range of its launch, and a view of part of it. -/
def wView : State :=
  let s := wLaunch fun l => { l with ranges := l.ranges ++ [⟨0x1000000, 0x200000, 15, 1, 1, 0, 4, 1, 5⟩] }
  { s with mem := { s.mem with
    views := [(3, { cbase := 0x1000000, clen := 0x20000, lo := 0, hi := 0x20000, gen := 1, live := true, region := 5, rights := 0x7F,
                    job := 1 })] } }

/-- `w` with a chunk that awaits CHOOSE. -/
def wPending : State := wCrew fun c => { c with chunks := [⟨0, 0, 33, 0, false, true, 0, 0, [0], 0, 0⟩] }

/-- `w` with a whole scratchpad, a float tile of version 0, and a slot that holds an E4M3 image. -/
def wEngine : State := ((wLaunch fun l => { l with scratch := 1048576 }).modEngine 0 fun e =>
  (e.modTile 0 fun t => { t with tag := some false }).setSlot 0 { fmt := some 0 })

/-- `w` with a queue of one element in use. -/
def wQueue (elems : List (Word × Word)) : State := wCrew fun c => c.setQueue 0 { depth := 2, elems := elems }

/-- `w` at an INV whose routine moves its argument to its result. -/
def wInvert : State :=
  let s := wThread fun t => { t with brk := [(0, ⟨0x0000000800000000, .i32x2⟩)] }
  let code := (Instr.inv 0 0 3 30 31).bytes ++ (Instr.movC 30 31).bytes ++ [0x3E, 0x00]
  { s with mem := { s.mem with dram := s.mem.dram.writeBytes 0x10000 code } }

/-! ### Witnesses: what the statements suppose can hold -/

theorem test_witness_integer : (w.ready (.add ⟨0, 0, 0, 2, 1, 3⟩) 0 && w.ready (.addC 2 1) 0 && w.ready (.div 2 1 3) 0 &&
    inLanes (w.active 0) (fun l => w.canRead 1 l && w.canRead 2 l && pairInt (w.operand 1 l).tag (w.operand 2 l).tag)) = true := by
  decide

theorem test_witness_bitwise : (w.ready (.and ⟨0, 0, 0, 2, 1, 3⟩) 0 && w.ready (.andC 2 1) 0 && w.ready (.andi 0xFFF 1 3) 0 &&
    inLanes (w.active 0) (fun l => w.holds isBitTag 1 l && w.holds isBitTag 2 l)) = true := by decide

theorem test_witness_immediates : (w.ready (.addi 0x800 1 3) 0 && w.ready (.shli 63 1 3) 0 && w.ready (.addiC 16 1) 0 &&
    w.ready (.popc 1 3) 0 && inLanes w.lanes (fun l => w.holds isIntTag 1 l)) = true := by decide

theorem test_witness_moves : (w.ready (.mov ⟨0, 0, 0, 4, 3⟩) 0 && w.ready (.movC 4 3) 0 && w.ready (.retag 0 4 3) 0 &&
    w.ready (.movi 0x800 3) 0 && w.ready (.lea 0x200 6 3) 0 && w.ready (.ldhi 0x20000 3) 0 && w.ready (.pcrel 1 3) 0 &&
    inLanes w.lanes (fun l => w.holds (fun _ => true) 4 l && w.holds isAddrTag 6 l)) = true := by decide

theorem test_witness_fields : (w.ready (.ext 2 1 3) 0 && w.ready (.ins 2 1 6) 0 && w.ready (.pack 8 7 3) 0 &&
    inLanes w.lanes (fun l => w.holds isAddrTag 1 l && w.holds isAddrTag 2 l && w.holds isAddrTag 6 l && w.holds isBitTag 7 l &&
      w.holds isBitTag 8 l && pairAny (w.operand 7 l).tag (w.operand 8 l).tag)) = true := by decide

theorem test_witness_compares : (w.ready (.cmpeq ⟨0, 0, 0, 2, 1, 7⟩) 0 && w.ready (.cmpeqi 5 1 1) 0 && w.ready (.cmpltC 2 1) 0 &&
    w.ready (.kand ⟨0, 0, 0, 7, 0, 1⟩) 0 && inLanes (w.active 0) (fun l => w.canRead 1 l && w.canRead 2 l && w.canReadK 7 l &&
      w.canReadK 0 l && pairInt (w.operand 1 l).tag (w.operand 2 l).tag && w.holds isIntTag 1 l)) = true := by decide

theorem test_witness_float : (w.ready (.fadd ⟨0, 0, 0, 5, 4, 3⟩) 0 && w.ready (.faddC 5 4) 0 && w.ready (.fdiv 5 4 3) 0 &&
    w.ready (.fma ⟨0, 0, 0, 5, 4, 5⟩) 0 && w.ready (.fmao 5 4) 0 && inLanes (w.active 0) (fun l => w.canRead 4 l && w.canRead 5 l &&
      pairFloat [(w.operand 4 l).tag, (w.operand 5 l).tag] && w.canRead 56 l &&
      pairFloat [(w.operand 4 l).tag, (w.operand 5 l).tag, (w.operand 5 l).tag] &&
      pairFloat [(w.operand 56 l).tag, (w.operand 5 l).tag, (w.operand 4 l).tag])) = true := by decide

theorem test_witness_float_unary : (w.ready (.fsqrt 0 4 3) 0 && w.ready (.fabs 4 3) 0 && w.ready (.fclass 4 3) 0 &&
    w.ready (.fcmpeq ⟨0, 0, 0, 5, 4, 1⟩) 0 && w.ready (.cvtF32 0 0 4 3) 0 && inLanes (w.active 0) (fun l => w.holds isFloatTag 4 l &&
      w.holds (cvtAccepts .f32x2) 4 l && auxFits (w.operand 4 l).tag .f32x2 0 && (w.operand 4 l).tag != .e2m1x16 &&
      decide (tagCount (w.operand 4 l).tag < tagCount .f32x2) && w.holds (fun _ => true) 3 l)) = true := by decide

theorem test_witness_branches : (w.ready (.bra 0x20000) 0 && w.ready (.bk 0x1FFFF 7) 0 && w.ready (.bz 1 1) 0 && w.ready (.call 1 1) 0 &&
    w.ready (.jalr 0x800 6 1) 0 && inLanes w.lanes (fun l => w.canReadK 7 l && w.holds (fun _ => true) 1 l && w.holds isAddrTag 6 l))
    = true := by decide

theorem test_witness_thread_operations : (w.ready (.nop 31) 0 && w.ready (.rand 1) 0 && w.ready (.clk 1) 0 && w.ready (.bset 3 3) 0 &&
    w.ready (.bget 3 1) 0 && w.ready (.sigchk 0) 0 && inLanes w.lanes (fun l => w.holds bracketTag 3 l &&
      ((w.th l).readB (w.ctx l) 3).isOk && ((w.th l).sig ^^^ ((w.th l).sig >>> 14)).truncate 18 == 0) &&
    wStream.ready (.sloop 0xFFF 1) 0 && recordOf wStream.cur.q == 16 && inLanes wStream.lanes (wStream.holds isAddrTag 1)) = true := by
  decide

theorem test_witness_loads : (w.ready (.ld64 1 0 6 3) 0 && w.ready (.ld64C 6 3) 0 && w.ready (.ldt 0 0 1 6 3) 0 && w.mem.latent == [] &&
    inLanes w.lanes (fun l => w.holdsFM 1 6 l && (w.ctx l).region == 0 && w.holds isAddrTag 6 l && w.holds isAddrTag 13 l &&
      okAnd (w.locate (w.ctx l) (w.accessFM 1 0 6 8 l) .load 8) (fun x => w.loadFree (w.ctx l) x.2 (loadKind (w.ctx l) 1) 8) &&
      okAnd (w.locate (w.ctx l) (.plain (w.operand 6 l).data) .load 8) (fun x =>
        w.loadFree (w.ctx l) x.2 (loadKind (w.ctx l) 0) 8) &&
      okAnd (w.locate (w.ctx l) (.plain ((w.operand 6 l).data + (w.operand 13 l).data)) .load 8) (fun x =>
        w.loadFree (w.ctx l) x.2 (loadKind (w.ctx l) 0) 8))) = true := by decide

theorem test_witness_stores : (w.ready (.st64 1 0x1FF 6 3) 0 && w.ready (.st64C 6 3) 0 && inLanes w.lanes (fun l => w.holdsFM 1 6 l &&
    w.holds (fun _ => true) 3 l && (w.ctx l).region == 0 && okAnd (w.locate (w.ctx l) (w.accessFM 1 0x1FF 6 8 l) .store 8) (fun _ => true) &&
      okAnd (w.locate (w.ctx l) (.plain (w.operand 6 l).data) .store 8) (fun _ => true))) = true := by decide

theorem test_witness_regions :
    (let a := wRegion false
     let b := wRegion true
     a.ready (.ld64 0 0 6 3) 0 && (a.ctx 0).region == 1 && a.holdsFM 0 6 0 &&
      okAnd (a.locate (a.ctx 0) (a.accessFM 0 0 6 8 0) .load 8) (fun x => a.loadFree (a.ctx 0) x.2 (loadKind (a.ctx 0) 0) 8) &&
      a.ready (.st64 0 0 6 3) 0 && a.holds (fun _ => true) 3 0 && okAnd (a.locate (a.ctx 0) (a.accessFM 0 0 6 8 0) .store 8) (fun _ => true) &&
      b.ready (.st64 0 0 6 3) 0 && (b.ctx 0).region == 2 && b.lanes == [0] &&
      okAnd (b.locate (b.ctx 0) (b.accessFM 0 0 6 8 0) .store 8) (fun _ => true)) = true := by decide

/-- `w` under a job for which injection is enabled. -/
def wInj : State := match w.job? 1 with | some j => w.setJob 1 (some { j with inj := true }) | none => w

theorem test_witness_system_registers : (w.ready (.srd 0x13 1) 0 && w.ready (.swrFrm 12) 0 && w.ready (.swrFflags 2) 0 &&
    w.ready (.swrDraw 1) 0 && w.ready (.swr 0x13 1) 0 && inLanes w.lanes (fun l => w.holds isAddrTag 1 l && w.holds isAddrTag 2 l &&
      w.holds isAddrTag 12 l && decide ((w.operand 12 l).data.toNat < 5) && decide ((w.operand 2 l).data.toNat < 32)) &&
    wInj.ready (.swrInj 1) 0 && (wInj.job? (wInj.launchOf (wInj.ctx 0).lid).job).map (·.inj) == some true &&
    decide ((wInj.operand 1 0).data.toNat < 2 ^ 33) && (wInj.operand 1 0).data.toNat / 2 ^ 3 % 2 == 0 &&
    (wInj.operand 1 0).data.toNat / 2 % 4 == 2) = true := by decide

theorem test_witness_reserved_flags : (w.ready (.swrFrm 1) 0 && w.ready (.swrFflags 6) 0 && (w.ctx 0).region == 0 &&
    inLanes w.lanes (fun l => w.holds isAddrTag 1 l && decide (5 ≤ (w.operand 1 l).data.toNat) && w.holds isAddrTag 6 l &&
      decide (32 ≤ (w.operand 6 l).data.toNat))) = true := by decide

theorem test_witness_atomics : (w.ready (.aadd 1 2 6 3) 0 && w.ready (.acas 0 2 6 1) 0 && w.lanes == [0] && w.holds atomicBase 6 0 &&
    w.holds atomicTag 2 0 && (w.operand 6 0).tag != .view && okAnd (w.atomicLoc (w.ctx 0) (w.operand 6 0) Reg.zero .atomic 8 .atomic)
      (fun x => w.atomicFree (w.ctx 0) x.2 8 true true && w.atomicFree (w.ctx 0) x.2 8 false true) &&
    w.holds atomicTag 1 0 && pairInt (w.operand 1 0).tag (w.operand 2 0).tag) = true := by decide

theorem test_witness_fixed_point : (w.ready (.afx 0 4 6) 0 && w.ready (.afxrd 0 6 3) 0 && w.lanes == [0] && w.holds atomicBase 6 0 &&
    w.holds afxTag 4 0 && (w.operand 6 0).tag != .view && !(afxAddends (w.operand 4 0)).any FVal.special &&
    okAnd (w.atomicLoc (w.ctx 0) (w.operand 6 0) Reg.zero .atomic 16 .free) (fun x => w.atomicFree (w.ctx 0) x.2 16 false true) &&
    okAnd (w.atomicLoc (w.ctx 0) (w.operand 6 0) Reg.zero .atomicRead 16 .read) (fun x => w.atomicFree (w.ctx 0) x.2 16 false false))
    = true := by decide

/-- `w` in a launch of two crews, the second of which has completed. -/
def wTwo : State := (wLaunch fun l => { l with crews := 2 }).setCrew 1 1 { lid := 1, idx := 1, started := true, completed := true }

theorem test_witness_waits : (w.ready (.waitobj 62 6 3) 0 && w.ready (.pollobj 1 6 3) 0 && inLanes w.lanes (fun l => w.holds isAddrTag 6 l &&
    w.holds isAddrTag 62 l && w.holds isAddrTag 1 l && okAnd (w.resolve (w.ctx l) false .load (w.operand 6 l).data 16) (fun x =>
      w.loadFree (w.ctx l) x ⟨true, true⟩ 16 && w.mem.latent == [] && decide ((w.operand 62 l).data.toNat ≤ field (w.readLoc (w.ctx l) x 16).1 0 8))) &&
    wTwo.ready (.waitcrew 12) 0 && wTwo.lanes == [0] && wTwo.holds isAddrTag 12 0 && (wTwo.operand 12 0).data.toNat == 1 &&
    (wTwo.ctx 0).crew == 0 && decide (1 < (wTwo.launchOf 1).crews) && (wTwo.crewOf 1 1).completed) = true := by decide

theorem test_witness_cross_lane : (w.ready (.voteAll 0 1) 0 && w.ready (.ballot 7 1) 0 && w.ready (.matchLanes 1 3) 0 && matchTag .i64 &&
    w.ready (.scanAdd 4 3) 0 && w.ready (.reduceXor 1 3) 0 && FoldOp.add.accepts .f64 && FoldOp.xor.accepts .i64 && inLanes w.lanes (fun l =>
      w.canReadK 7 l && w.canReadK 0 l && w.canRead 1 l && (w.operand 1 l).tag == .i64 && w.canRead 4 l && (w.operand 4 l).tag == .f64))
    = true := by decide

/-- The permutation that lane 0's register names with the other lanes' bytes left where they are: the identity. -/
theorem test_witness_setnet : (w.ready (.setnet 14 3) 0 && inLanes w.lanes (fun l => w.canRead 14 l && (w.operand 14 l).tag == .map8) &&
    (List.range 256).all fun p => (if w.lanes.contains (p / 8) then elem (w.operand 14 (p / 8)).data 8 (p % 8) else p) == p) = true := by
  decide +kernel

theorem test_witness_maps : (w.ready (.netmv ⟨0, 0, 0, 0, 1, 3⟩) 0 && w.ready (.gatherb ⟨0, 0, 0, 14, 1, 3⟩) 0 &&
    w.ready (.compose ⟨0, 0, 0, 14, 14, 3⟩) 0 && moveTag .i64 && inLanes (w.active 0) (fun l => w.canRead 1 l && (w.operand 1 l).tag == .i64 &&
      w.holds indexTag 14 l && w.canRead 14 l && (w.operand 14 l).tag == .map8)) = true := by decide

theorem test_witness_split : (w.ready (.split 3) 0 && w.ready (.rejoin 3) 0 && inLanes (w.squad 0).liveLanes (fun l =>
    !(w.th l).atRejoin 3)) = true := by decide

/-- `w` with a second live thread in lane 1, which waits somewhere. -/
def wPair (wait : Wait) : State := wSquad fun sq => { sq with threads := sq.threads ++ [(1, { pc := 0x20000, live := true, wait := wait })] }

theorem test_witness_split_traps : ((wPair (.rejoin 2)).ready (.split 2) 0 &&
    (((wPair (.rejoin 2)).squad 0).liveLanes.filter fun l => ((wPair (.rejoin 2)).th l).atRejoin 2) != []) = true := by decide

theorem test_witness_ends : (w.ready .exit 0 && w.ready .tail 0 &&
    ((w.ranTogether .tail 0 0 fun l => { (w.past .tail 0 l).landAll with live := false }).squad 0).liveLanes == [] &&
    decide ((w.coreAt 0).tracker.length < Config.trackerEntries) &&
    decide (Config.trackerEntries ≤ ((w.modCore 0 fun c => { c with
      tracker := List.replicate Config.trackerEntries ⟨1, 0, 1⟩ }).coreAt 0).tracker.length) &&
    (((wPair .run).ranTogether .tail 0 0 fun l => { ((wPair .run).past .tail 0 l).landAll with live := false }).squad 0).liveLanes != [])
    = true := by decide

/-- `w` in a launch of two squads. -/
def wSquads : State := wLaunch fun l => { l with squads := 2, groups := [[(0, 0)]] }

theorem test_witness_fuse : (wSquads.ready (.fuse 62) 0 && wSquads.ready (.fuse 12) 0 && inLanes wSquads.lanes (fun l =>
    wSquads.holds isAddrTag 62 l && wSquads.holds isAddrTag 12 l && (wSquads.operand 12 l).data == 1) &&
    maskOf wSquads.lanes == (wSquads.squad 0).liveMask && (wSquads.squad 0).num == 0 && (wSquads.launchOf 1).squads == 2) = true := by decide

theorem test_witness_barriers : (w.ready .barC 0 && wSquads.ready (.barG 62) 0 && wSquads.ready (.arriveG 62) 0 && wSquads.ready (.waitG 62) 0
    && inLanes wSquads.lanes (fun l => wSquads.holds isAddrTag 62 l && (wSquads.operand 62 l).data.toNat == 0) &&
    (wSquads.launchOf 1).groups.length == 1 && inRanges ((wSquads.launchOf 1).group 0) 0) = true := by decide

theorem test_witness_fences : (w.ready .fenceSquad 0 && w.ready .fenceFull 0 && w.ready .fenceGang 0 && w.ready .icinv 0 && w.ready .yield 0 &&
    inLanes w.lanes (fun l => w.fenced (w.squad 0).ref l 1 false w.seq && w.fenced (w.squad 0).ref l 3 false w.seq &&
      w.fenced (w.squad 0).ref l 4 true w.seq)) = true := by decide

theorem test_witness_views : (wView.ready (.vbound 3 20 1) 0 && wView.ready (.vquery 12 20 1) 0 && wView.lanes == [0] &&
    (wView.th 0).wait == .run && wView.holds handleTag 20 0 && wView.holds isAddrTag 12 0 &&
    okAnd (wView.resolveView (wView.launchOf 1) (wView.operand 20 0).data) (fun e => decide ((wView.operand 12 0).data.toNat < e.clen)) &&
    !wView.hasDecrements ⟨1, 0, 0⟩ 0) = true := by decide

theorem test_witness_valloc : (wView.ready (.valloc 22 21 1) 0 && wView.lanes == [0] && wView.holds isAddrTag 21 0 && wView.holds isAddrTag 22 0 &&
    (wView.operand 21 0).data.toNat % 65536 == 0 && (wView.operand 22 0).data.toNat == 65536 && (wView.job? 1).isSome &&
    ((wView.coveredRanges 1).find? (fun q => decide (q.base ≤ 0x1020000) && decide (0x1020000 + 65536 ≤ q.base + q.length))).any (fun r =>
      (wView.launchOf 1).ranges.any fun q => q.cls == 1 && q.base == r.base) &&
    (granulesOf 0x1020000 (0x1020000 + 65536)).all (fun g => (wView.granule 1 g).count == 0 && !(wView.granule 1 g).present)) = true := by
  decide

theorem test_witness_reshaping : (wView.ready (.vdup 22 20 1) 0 && wView.ready (.vsplit 22 20 1) 0 && wView.ready (.vnarrow 22 20 1) 0 &&
    wView.lanes == [0] && (wView.th 0).wait == .run && wView.holds handleTag 20 0 && wView.holds isAddrTag 22 0 &&
    wView.holds isAddrTag 57 0 && wView.holds isAddrTag 58 0 && !wView.wheyFull &&
    okAnd (wView.resolveView (wView.launchOf 1) (wView.operand 20 0).data) (fun e =>
      hRights (wView.operand 20 0).data &&& e.rights &&& vDS != 0 && hRights (wView.operand 20 0).data &&& e.rights &&& vNA != 0 &&
      decide (e.lo ≤ (wView.operand 22 0).data.toNat) &&
      decide ((wView.operand 22 0).data.toNat + (wView.operand 57 0).data.toNat ≤ e.hi))) = true := by decide

theorem test_witness_vdrop :
    (let v := wView
     let n := { v with mem := { v.mem with views := v.mem.views.map fun x => (x.1, { x.2 with rights := 0 }) } }
     let dr := fun (s : State) => okAnd (s.resolveView (s.launchOf 1) (s.operand 20 0).data) fun e =>
       hRights (s.operand 20 0).data &&& e.rights &&& vDR != 0
     v.ready (.vdrop 20) 0 && !v.wheyFull && !n.wheyFull && v.lanes == [0] && v.holds handleTag 20 0 && (v.th 0).wait == .run && dr v &&
     (n.resolveView (n.launchOf 1) (n.operand 20 0).data).isOk && !dr n) = true := by decide

theorem test_witness_enumeration : (w.ready .runnew 0 && w.ready (.enum 24 14 3) 0 && w.ready (.enumOne 24 1) 0 && w.lanes == [0] &&
    w.canRead 14 0 && (w.operand 14 0).tag == .map8 && w.holds isAddrTag 24 0 && (descOf (w.operand 24 0).data).ok &&
    (descOf (w.operand 24 0).data).gsize == 0 && (descOf (w.operand 24 0).data).gbase == 0 && (w.launchOf 1).squads == 1 &&
    decide ((descOf (w.operand 24 0).data).offset + 32 * (descOf (w.operand 24 0).data).entries ≤ (w.launchOf 1).scratch) &&
    maskOf w.lanes == (w.squad 0).liveMask && ((w.crewOf 1 0).chunkOf 0).isNone && w.holds isAddrTag 1 0 &&
    (w.crewRecords 1 0).all (fun x => x.1 == 0)) = true := by decide

theorem test_witness_merge :
    (let a := wRegion false
     let b := wRegion true
     a.ready (.merge 1 1 2) 0 && (a.ctx 0).region == 1 && b.ready (.merge 1 1 2) 0 && (b.ctx 0).region == 2 && a.holds isAddrTag 1 0 &&
      (mergeRegs 1 2).all (fun c => a.holds (fun _ => true) c 0) && a.ready (.endch 1 3) 0 && a.holds (fun _ => true) 1 0 &&
      b.ready (.endch 1 59) 0 && b.lanes == [0] && b.holds isAddrTag 1 0 &&
      ((b.crewOf 1 0).chunkOf 0).any (fun ch => ch.one && !ch.pending)) = true := by decide

theorem test_witness_choose : (wPending.ready (.choose 24 62 3) 0 && wPending.ready (.choose 24 27 3) 0 && wPending.lanes == [0] &&
    wPending.holds isAddrTag 62 0 && wPending.holds isAddrTag 27 0 && wPending.holds isAddrTag 24 0 &&
    (descOf (wPending.operand 24 0).data).ok && wPending.mem.latent == [] &&
    (let e := descOf (wPending.operand 24 0).data
     decide (e.gbase + e.gsize < (wPending.launchOf 1).squads) && decide (e.offset + 32 * e.entries ≤ (wPending.launchOf 1).scratch) &&
     ((wPending.crewOf 1 0).pendingAt e).any (fun ch =>
      !(wPending.advanceAll (.choose 24 62 3) 0).areaPoisoned 1 0 ch &&
      okAnd ((wPending.advanceAll (.choose 24 62 3) 0).chooseOutcome (wPending.ctx 0) ch 0) (fun _ => true) &&
      !okAnd ((wPending.advanceAll (.choose 24 27 3) 0).chooseOutcome (wPending.ctx 0) ch 0xFF) (fun _ => true))))
    = true := by decide +kernel

theorem test_witness_engine :
    (let s := wEngine
     (s.launchOf 1).marked && s.lanes == [0] && s.holds isAddrTag 62 0 && s.holds isAddrTag 25 0 &&
     s.ready (.mmaQE4m3 0 62 0 0) 0 && (s.engineOf.tile 0).ver == 0 && !(s.engineOf.tile 0).writer && (s.squad 0).intake.isNone &&
     rowVer (s.operand 62 0).data == 0 && rowOff (s.operand 62 0).data == 0 && decide (recordBytes 0 ≤ (s.launchOf 1).scratch) &&
     (s.engineOf.tile 0).tag == some false && (s.engineOf.slot 0).fmt == some 0 &&
     s.ready (.bld 0 25 0 2) 0 && okAnd (s.checkSpan (engineCx 1 0) false .load (2 ^ 56) (imageBytes 2)) (fun _ => true) &&
     s.ready (.tzero 62 0) 0 && s.ready (.tld 62 25 0) 0 && s.ready (.tst 62 25 0) 0 &&
     okAnd (s.checkSpan (engineCx 1 0) false .load (2 ^ 56) tileBytes) (fun _ => true) &&
     okAnd (s.checkSpan (engineCx 1 0) false .store (2 ^ 56) tileBytes) (fun _ => true)) = true := by decide +kernel

theorem test_witness_engine_reads :
    (let s := wEngine
     s.ready (.trd 0 62 3) 0 && s.lanes == [0] && s.holds isAddrTag 62 0 && !trdReserved (s.operand 62 0).data && s.ready (.tver 7 3) 0 &&
     s.ready (.mfence 3) 0 && decide (s.engineOf.liveBatches (s.squad 0) < 8) && s.ready (.mwait 62) 0 &&
     (s.operand 62 0).data.truncate 16 == (s.squad 0).closed && (s.squad 0).batchDone 0) = true := by decide

theorem test_witness_submissions : (w.ready (.gsub 6 6 3) 0 && w.lanes == [0] && w.holds isAddrTag 6 0 &&
    okAnd (w.nodeAddr (w.ctx 0) (w.operand 6 0).data) (fun _ => true) && !(w.crewOf 1 0).graph.halted &&
    decide ((w.crewOf 1 0).graph.queued.length < Config.graphEntries) && w.ready (.qcfg 26 7) 0 && w.holds isAddrTag 26 0 &&
    !queueWordBad (w.operand 26 0).data && decide ((queueOf (w.operand 26 0).data).bytes ≤ (w.launchOf 1).scratch) &&
    !w.queueAwaited 1 0 7 && (wQueue []).ready (.qpush 1 10 0) 0 && ((wQueue []).crewOf 1 0).queue 0 != {} &&
    (wQueue []).holds (fun g => g == .raw64) 10 0 && (((wQueue []).advanceAll (.qpush 1 10 0) 0).publish ⟨1, 0, 0⟩ [0] 2).isSome &&
    (wQueue [(5, 0)]).ready (.qpop 0 3) 0 && (((wQueue [(5, 0)]).crewOf 1 0).queue 0).elems.length == 1) = true := by decide

theorem test_witness_streams : (w.ready (.feed 1 6 3) 0 && w.lanes == [0] && w.holds isAddrTag 6 0 && w.holds isAddrTag 1 0 &&
    decide ((w.launchOf 1).streamLo ≤ 0x10000) && decide (0x10000 < (w.launchOf 1).streamLo + (w.launchOf 1).streamLen) &&
    (w.squad? 16).isNone && ((w.setSquad 16 {}).squad? 16).isSome && w.ready (.dqpush 9) 0 == true && w.ready (.dqpush 1) 0 &&
    w.holds (fun _ => true) 1 0 && (w.coreAt 0).dqOwner == some 1 && ((w.advanceAll (.dqpush 1) 0).publish ⟨1, 0, 0⟩ [0] 4).isSome &&
    w.ready (.dqpop 3) 0 && w.ready (.dqsteal 62 3) 0 && !(w.launchOf 1).det && w.holds isAddrTag 62 0 && (w.operand 62 0).data == 0) = true := by decide

/-- `wInvert` between two slots of its INV: the step, the routine instructions of it that have issued, and the lanes at work. -/
def wRun (step idx : Nat) (work : List InvLane) : State := wInvert.modSquad 0 fun sq => { sq with
  invs := [⟨0x10000, .inv 0 0 3 30 31, 1, [(0, ⟨0x0000000800000000, .i32x2⟩, ⟨0x0000000100000002, .i32x2⟩)], [(0x10004, .movC 30 31)], 0x10008,
    step, idx, [], work⟩] }

theorem test_witness_inversion_starts : (wInvert.ready (.inv 0 0 3 30 31) 0 && wInvert.lanes == [0] && (wInvert.squad 0).invs == [] &&
    (wInvert.readRoutine (wInvert.launchOf 1) 0 31 17 (wInvert.cur.pc + 4)).toOption == some ([(0x10004, .movC 30 31)], 0x10008) &&
    ((wInvert.th 0).readB (wInvert.ctx 0) 0).isOk && wInvert.canRead 3 0) = true := by decide +kernel

theorem test_witness_inversion_goes_on :
    (let p : InvArgs := ⟨false, 0, 0, 3, 30, 31, [(0x10004, .movC 30 31)], 0x10008⟩
     let at_ := fun (s : State) => (s.squad 0).invs.find? fun r => r.lanes == s.cur.lanes
     let x : InvLane := ⟨0, .i32x2, 2, 3, .i32x2, 2, 3, 2⟩
     let whole := fun (e : StepEnd) => e.on != [] && e.off == [] && e.fail.isNone
     (at_ (wRun 0 0 [])).any (fun r => decide (r.idx + 1 < r.length)) &&
     (at_ (wRun 0 1 [])).any (fun r => decide (r.length ≤ r.idx + 1) && r.step == 0 && whole (p.start ((wRun 0 1 []).slotAll r.stall) 0 r.args)) &&
     (at_ (wRun 1 0 [x])).any (fun r => decide (r.length ≤ r.idx + 1) && whole (p.round ((wRun 1 0 [x]).slotAll r.stall) 0 r.work)) &&
     (at_ (wRun 2 0 [x])).any (fun r => decide (r.length ≤ r.idx + 1) && r.work.map (·.lane) == (wRun 2 0 [x]).lanes &&
       (p.eval (((wRun 2 0 [x]).slotAll r.stall).ctx 0) (((wRun 2 0 [x]).slotAll r.stall).th 0) x.f32 x.hi).isOk)) = true := by decide +kernel

theorem test_witness_bisection :
    (let p : InvArgs := ⟨false, 0, 0, 3, 30, 31, [(0x10004, .movC 30 31)], 0x10008⟩
     let x : InvLane := ⟨0, .i32x2, 0, 8, .i32x2, 0, 8, 2⟩
     decide (keyOf x.f32 x.lo < keyOf x.f32 x.hi) && !beyond p.dec false x.goal x.flo && beyond p.dec false x.goal x.fhi &&
     okAnd (p.bisect {} {} x) (fun y => y.hi == 4 && y.lo == 0)) = true := by decide +kernel

theorem test_witness_traps : (w.ready .syscall 0 && w.ready (.brk 63) 0 && w.ready .invend 0 && (w.ctx 0).region == 0 &&
    inLanes w.lanes (fun l => !(w.th l).callPoisoned)) = true := by decide

/-! ### Witnesses: events of time, gatherings, the engine, the ends of squads and launches -/

/-- `w` with its thread stalled and a scoreboarded write under way. -/
def wStall : State := wThread fun t => { t with readyAt := 5, pend := [⟨1, Reg.zero, 0, true, 0, none⟩] }

/-- `w` with a network configuration under way, yielding. -/
def wTimes : State := wSquad fun q => { q with nPend := [⟨0, [], 0, 0⟩], yielded := 1 }

/-- `w` with a write that has been performed for as many scopes as `times` says, a release or not. -/
def wWrite (rel : Bool) (times : List Nat) : State := { w with mem := { w.mem with
  writes := [⟨0, ⟨1, 0, 0⟩, 0, .dram 0x10000 0, [1], 1, rel, 1, 0x10000, true, times⟩] } }

/-- `w` with its thread waiting at something. -/
def wWaits (x : Wait) : State := wThread fun t => { t with wait := x }

/-- `w` with its thread at an atomic whose checks have been made. -/
def wAtomic : State :=
  match w.atomicLoc (w.ctx 0) (w.operand 6 0) Reg.zero .atomic 8 .atomic with
  | .ok x => wWaits (.atomic x.1 x.2 false (.aadd 1 2 6 3))
  | .error _ => w

theorem test_witness_time : ((wStall.thread 0 0).live && decide (wStall.cycle < (wStall.thread 0 0).readyAt) &&
    (List.range 5).all (fun k => (Nat.iterate State.tick k wStall).mayTick) &&
    (wStall.squad 0).mayLand 0 wStall.cycle && (wStall.squad 0).liveLanes == [0] && (w.squad? 0).any (fun q => !w.poisoned (.dram q.ctx 0)) &&
    (wTimes.squad? 0).any (fun q => q.yielded == 1 && q.nPend != [] && q.nPend.all fun x => decide (x.due ≤ wTimes.cycle)) &&
    [wWrite false [], wWrite true [], wWrite false [0, 0, 0]].all (fun s => s.mem.writes[0]?.any fun x =>
      !(x.held && s.placeHeld x.job x.va x.place) && s.mem.writes.all fun e => !s.holdsBack x.next e x) &&
    ((wWrite false []).mem.writes.all fun x => decide (x.next < 4)) && ((wWrite true []).mem.writes.all fun x => decide (4 ≤ x.next)) &&
    (wWaits (.icinv 0)).icinvDone 0 != []) = true := by decide

/-- A load whose value is not fixed can be performed anew, before and after the store of another squad that it may return. -/
theorem test_witness_reload : (match exec (.ld64 1 0 6 3) w with
    | .next t => (t.readsOf 0 0)[0]?.any fun r => t.mayReload 0 r && t.mem.latent == [] &&
        ({ t with mem := { t.mem with writes := [⟨9, ⟨1, 0, 1⟩, 0, .dram 0x10000 0, [1], 1, false, 1, 0x10000, false, []⟩] } } : State).mayReload 0 r
    | _ => false) = true := by decide +kernel

theorem test_witness_atomic : ((wAtomic.squad 0).atomicLanes == [(0, .aadd 1 2 6 3)] && (atomicOf (.aadd 1 2 6 3)).isSome &&
    (let u : State := { wAtomic.unwait 0 [0] with cur := { q := 0, pc := 0x10000, lanes := 1, slot := 0, at_ := 0 } }
     u.lanes == [0] && u.ready (.aadd 1 2 6 3) 0 && okAnd (u.atomicLoc (u.ctx 0) (u.operand 6 0) Reg.zero .atomic 8 .atomic) fun x =>
      (wAtomic.thread 0 0).wait == .atomic x.1 x.2 false (.aadd 1 2 6 3) &&
      okAnd (atomicPlan 1 newAdd 2 6 3 (u.ctx 0) (u.past (.aadd 1 2 6 3) 0 0)) fun p => u.atomicFree (u.ctx 0) x.2 p.size p.ar p.writes)) = true := by
  decide +kernel

/-- `w` with its thread at a REJOIN of all that jn holds; at a crew barrier; at a group barrier. -/
def wJoin : State := (wWaits (.rejoin 0)).modSquad 0 fun q => { q with j := [(0, 1)] }
def wBar : State := wThread fun t => { t with wait := .barC 0, arrC := some (0, 0) }
def wGrp : State := (wThread fun t => { t with wait := .barG 0 0, arrG := [(0, some (0, 0))] }).modLaunch 1 fun l =>
  { l with groups := [[(0, 0)]] }

/-- `w` with its thread at ENUM; at MERGE and at ENDCH of an open chunk. -/
def wEnum : State := wWaits (.enum 3 ⟨0x0706050403020100, .map8⟩ 0x2100000000)
def wMerge : State := (wRegion false).modThread 0 0 fun t => { t with wait := .merge ⟨1, .i64⟩ [⟨2, .i64⟩] }
def wEndch : State := (wRegion false).modThread 0 0 fun t => { t with wait := .endch 1 ⟨3, .i64⟩ }

theorem test_witness_gatherings : ((wJoin.squad? 0).any (fun q => q.joinFull 0 && q.joinOne 0 && !q.rejoinsLater wJoin.cycle) && wBar.crewPhaseDone 1 0 &&
    (wGrp.launch? 1).isSome && wGrp.groupPhaseDone 1 0 && wEnum.enumReady 1 0 0 == some 0x2100000000 &&
    wEnum.groupLanes 1 0 0 0 == [(0, 0, 0)] &&
    (candidates [(0, elem (wEnum.thread 0 0).gatherArgs.2.data 8 0)] 256 []).any (· != 0xFF) &&
    (wMerge.gathered 1 0 0).any (fun ch => wMerge.atMerge (wMerge.liveGroup 1 0 ch) != []) &&
    (wEndch.gathered 1 0 0).any (fun ch => wEndch.liveGroup 1 0 ch == [(0, 0, 0)] &&
      wEndch.groupLanes 1 0 ch.gbase ch.gsize == [(0, 0, 0)] && (wEndch.squad 0).linesIn 1)) = true := by decide +kernel

/-- The same at an ENDCH whose chunk names a candidate for every lane of a group. -/
theorem test_witness_endch_header :
    (let s := wEndch.modCrew 1 0 fun c => { c with chunks := c.chunks.map fun ch => { ch with cand := 0 :: List.replicate 255 0xFF } }
     (s.gathered 1 0 0).any fun ch => ch.cand.length == 256 && s.liveGroup 1 0 ch == [(0, 0, 0)] && !(s.crewOf 1 0).inj.arm) = true := by decide +kernel

/-- `wEngine` with one accepted operation, all of whose parts are still to be accessed, or the last. -/
def engOp (e : EngWork) (last : Bool) : State := wEngine.modEngine 0 fun x => { x with
  ops := [{ by_ := ⟨1, 0, 0⟩, lanes := [0], batch := 0, seq := 0, work := e, left := if last then e.parts.take 1 else e.parts }] }

/-- The one operation may be performed, and its first part can be found. -/
def opOk (e : EngWork) : Bool := [false, true].all fun last =>
  let s := engOp e last
  (s.opAt 0 0).any fun o => o.work == e && ((s.opPart o 0).any fun x => !s.poisoned x.2.place) &&
    ((o.left.eraseIdx 0 == []) == last)

/-- `wEngine` with an MMA.Q in intake, whose first row has only one part to read. -/
def wIntake (left : List (Nat × Word)) : State := wEngine.modSquad 0 fun q => { q with
  intake := some { instr := .mmaQE4m3 0 62 0 0, left := left, got := ((partsOf 0 (recordBytes 0)).drop 1).map fun p => (p.1, []), lanes := 1, id := 0 } }

theorem test_witness_engine_events :
    (let tile := wEngine.modThread 0 0 fun t => { t with wait := .tile 0 0 (.tzero 62 0) }
     let row := EngWork.row 0 0 0 0 0 0 0 []
     (tile.tileReady 0).any (fun x => (tileEffect x.2).isSome && !(tile.squad 0).lineWaits x.2 0) && (tile.squad 0).canTrap &&
     ((engOp row false).firstOp 0 fun e => match e with | .row .. => true | _ => false).isSome &&
     ((wIntake []).intakeEnds 0).isSome && opOk (.bld 0 0 0x0100000000000000) && (engOp (.tzero 0 false) false).opAt 0 0 != none &&
     opOk (.tld 0 false 0x0100000000000000) && opOk (.tst 0 0x0100000000000000)) = true := by decide +kernel

theorem test_witness_intake :
    (let s := wIntake [(0, 0)]
     ((s.firstOp 0 fun e => match e with | .row .. => true | _ => false).isNone) &&
     (s.nextTake 0).any fun (q, it) => (it.left.head?.any fun x => (it.parts x).length == 1 && !s.rowBad (s.squad q) it x))
    = true := by decide +kernel

/-- Lane 0 of `w` has ended. -/
def wEnded : State := wThread fun t => { t with live := false }

/-- `w` with its one squad retired. -/
def wRetired : State := { wCrew fun c => { c with retired := [0] } with squads := [] }

/-- `w` with a second lane, and lane 0 long at a crew barrier. -/
def wTimeout : State :=
  let s := wSquad fun q => { q with
    threads := [(0, { pc := 0x10000, live := true, wait := .barC 0, arrC := some (0, 0) }), (1, { pc := 0x10000, live := true })] }
  s.modLaunch 1 fun l => { l with watches := [(.barC 0 0, 65536 * 4096)] }

/-- The squad of `w` stopped by a trap. -/
def wTrap (c : Word) (dbg : Bool) : State :=
  (wSquad fun q => { q with status := .trapped, tcause := c, tlanes := 1 }).modLaunch 1 fun l => { l with debugger := dbg }

/-- `w` with its crew not bound. -/
def wUnbound : State := { w with squads := [], crews := [], cores := [] }

/-- A second launch, of a priority, that fits on no core. -/
def wWaiting (p : Nat) : State := w.setLaunch 2 { placeLaunch with lid := 2, prio := p, scratch := 0x200000 }

theorem test_witness_squad_ends :
    (let whey := { w with mem := { w.mem with whey := [⟨1, 0x1000000, ⟨1, 0, 0⟩, 0, 0⟩] } }
     let gran := { w with mem := { w.mem with granules := [(281474976710912, ⟨0, true, 0x20000⟩)] } }
     let track := w.modCore 0 fun c => { c with tracker := [⟨1, 0, 1⟩] }
     whey.nextDecrement.isSome && gran.granuleDue 1 0x1000000 &&
     (wEnded.squad? 0).any (fun sq => recordOf 0 != 16 && sq.liveLanes == [] && sq.intake.isNone && !wEnded.squadBusy sq.ref) &&
     (track.coreAt 0).tracker[0]?.any (fun r => !track.squadBusy r) && wRetired.crewDone 1 0) = true := by decide

theorem test_witness_launch_ends :
    (let killed := wLaunch fun l => { l with killing := [(0, 0)] }
     let stepped := wSquad fun q => { q with status := .stepped 0x10000 1 }
     (wTimeout.timedOut 1 0).isSome && (wTrap 0x20 false).trapDue 0 && (wTrap 0x10 false).trapDue 0 && (wTrap 0x01 true).trapDue 0 &&
     (wTrap 0x01 false).trapDue 0 && (wLaunch fun l => { l with status := .ending 5 }).endDue 1 == some 5 &&
     (killed.launchOf 1).status == .running && inRanges (killed.launchOf 1).killing 0 &&
     killed.quiet 1 (inRanges ((killed.launchOf 1).joined 0)) &&
     (stepped.squad? 0).any (fun sq => sq.status == .stepped 0x10000 1 && !stepped.hasWrites sq.ref)) = true := by decide

theorem test_witness_binding : (wUnbound.wholeSet (wUnbound.launchOf 1) [(0, 0)] &&
    wUnbound.mayBind (wUnbound.launchOf 1) ((wUnbound.launchOf 1).joined 0) && wUnbound.placesOk (wUnbound.launchOf 1) [] [(0, 0)] &&
    (wCrew fun c => { c with stopReq := true }).mayPreempt 1 0) = true := by decide

theorem test_witness_victims : ((wWaiting 1).isVictim 1 0 false && ({ wWaiting 0 with cycle := 2 ^ 30 } : State).isVictim 1 0 true) = true := by decide +kernel

/-! ### Witnesses: the dependence graph -/

/-- Bytes that hold fields, given by offset, length and value, and 0 elsewhere. -/
def fieldBytes (n : Nat) (fs : List (Nat × Nat × Nat)) : List Byte :=
  (fs.foldl (fun (m : Memory) f => m.writeBytes f.1 (bytesLE f.2.1 f.2.2)) []).readBytes 0 n

/-- A node of each kind, which moves 64 bytes in the scratchpad where it moves any, with CRC-32C; kind 4 names the record at
0x10900, kind 5 has a successor. -/
def nodeOf1 (kind : Nat) : List Byte := fieldBytes 64 (match kind with
  | 1 => [(0, 1, 1), (0x18, 8, 0x0100000000000800), (0x20, 8, 0x0100000000000840), (0x28, 4, 64), (0x34, 4, 1)]
  | 2 => [(0, 1, 2), (0x18, 8, 0x0100000000000800), (0x20, 8, 0x0100000000000840), (0x28, 2, 1), (0x2A, 2, 1), (0x35, 1, 6), (0x36, 1, 6)]
  | 3 => [(0, 1, 3), (0x18, 8, 0x0100000000000800), (0x28, 4, 64), (0x34, 4, 1)]
  | 4 => [(0, 1, 4), (0x18, 8, 0x10900)]
  | 6 | 7 => [(0, 1, kind), (0x18, 8, 0x0100000000000800), (0x20, 8, 0x0100000000000840), (0x28, 4, 64), (0x34, 4, 1), (0x38, 2, 2)]
  | k => [(0, 1, k), (4, 4, 1)])

/-- A root in the page of `w` with its error area, and the parts of it that have been read. -/
def nodeN (got : List (Nat × List Byte)) : Node := ⟨7, 0x10400, 0x10600, true, ⟨1, 0, 0⟩, 0, 0, got, false⟩

/-- All of a node's bytes, as its parts. -/
def nodeParts (b : List Byte) : List (Nat × List Byte) := [0, 16, 32, 48].map fun o => (o, (b.drop o).take 16)

/-- The node, running. -/
def runN (b : List Byte) : RunNode :=
  { node := nodeN (nodeParts b), bytes := b, prog := 0, out := 0, retried := false, done := false, code := 0, detail := 0, msg := none, piece := none,
    op := none, fin := 0 }

/-- `wEngine` with a node in its page and a graph that holds it; a launch record of the page's own range, with its range table; and a
peer. -/
def wGraph (b : List Byte) (g : Graph) : State :=
  let s := wEngine.modGraph 1 0 fun _ => g
  let object : Object := ⟨1, Config.stepping, 0, false, false, (0x20000, 4096), (0, 0), (0, 0), []⟩
  let launch := fieldBytes 128 [(0, 8, 0x20000), (0x1C, 1, 1), (0x1D, 1, 1), (0x38, 8, 0x10A00), (0x40, 4, 1), (0x50, 8, 1)]
  let range := fieldBytes 32 [(0, 8, 0x10000), (8, 8, 4096), (0x10, 1, 15), (0x11, 1, 1), (0x14, 1, 4)]
  let s : State := { s with jobs := [(1, some { placeJob with peers := [(2, 7)], objects := [object] })] }
  { s with mem := { s.mem with
    dram := ((s.mem.dram.writeBytes 0x10400 b).writeBytes 0x10900 launch).writeBytes 0x10A00 range } }

/-- The node queued, with what has been read of it; and running. -/
def wQueued (b : List Byte) (got : List (Nat × List Byte)) : State := wGraph b { queued := [nodeN got] }
def wNode (r : RunNode) : State := wGraph r.bytes { running := [r] }

/-- A part of a span is found and is sound, and no write-back holds it. -/
def partOk (s : State) (v : Option Word) (nd : Need) (x : Nat × Nat × Nat) : Bool :=
  okAnd (s.nodePart 1 0 v nd x.2.1 x.2.2) fun p => p.any fun p => !s.poisoned p.place && !s.partHeld p

/-- The queued node may start; its bytes can be read; and once they are read nothing is wrong in it, but something where its RESERVED byte is 1. -/
def startOk (k : Nat) : Bool :=
  let s := wQueued (nodeOf1 k) []
  let n := nodeN (nodeParts (nodeOf1 k))
  let u := wQueued (nodeOf1 k) n.got
  (s.crewOf 1 0).graph.running == [] && (s.crewOf 1 0).graph.queued == [nodeN []] && s.mayStart 1 0 (nodeN []) && (nodeN []).left[0]? == some 0 &&
  (s.nodeAccess 1 0 0x10400).isNone && (s.enginePart (engineCx 1 0) false .load 0x10400 16).any (fun p => !s.poisoned p.place) &&
  u.mayStart 1 0 n && n.left == [] && n.bytes == nodeOf1 k && startKind n.bytes == k && (u.nodeBad 1 0 n n.bytes).isNone &&
  (u.nodeBad 1 0 n (n.bytes.set 1 1)).isSome

theorem test_witness_nodes_start : [1, 2, 3, 4, 5, 6, 7].all startOk = true := by decide +kernel

/-- The same where its source carries an uncorrectable error. -/
theorem test_witness_poisoned_source :
    (let n := nodeN (nodeParts (nodeOf1 1))
     let s := (wQueued (nodeOf1 1) n.got).modCrew 1 0 fun c => { c with poison := [(0x800 / 64, BitVec.allOnes 64)] }
     (s.nodeBad 1 0 n n.bytes).any fun t => t.cause == 0x11) = true := by decide +kernel

/-- A node runs. -/
def runs (r : RunNode) : Bool :=
  ((wNode r).crewOf 1 0).graph.running.find? (fun x => x.node.id == 7 && nKind x.bytes == nKind r.bytes) == some r && (wNode r).bodyRuns 1 0 r

/-- The first part of a piece's source can be read, and is staged. -/
def readOk (r : RunNode) (pc : Piece) : Bool :=
  let s := wNode { r with piece := some pc }
  pc.src[0]?.any fun x => partOk s (srcView r.bytes) .load x && okAnd (s.nodePart 1 0 (srcView r.bytes) .load x.2.1 x.2.2) fun p => p.any fun p =>
    !(State.stageUnits 1 0 (pc.len / 64 + 1) { pc with src := pc.src.eraseIdx 0, got := pc.got.writeBytes x.1 (s.readPart p).1 }
      (s.noteRead p.place)).2.1

/-- A running COPY, CHECK or PUT begins a piece, reads a part, writes a part. -/
def pieceOk (k : Nat) : Bool :=
  let r := runN (nodeOf1 k)
  let pc := (wNode r).dataPiece r
  runs r && r.span != 0 && runs { r with piece := some pc } && readOk r pc &&
    (k != 1 || pc.dst[0]?.any fun x => partOk (wNode { r with piece := some { pc with src := [], out := List.replicate 64 1 } }) none .store x)

theorem test_witness_pieces : [1, 3, 6].all pieceOk = true := by decide +kernel

theorem test_witness_get : (runs (runN (nodeOf1 7)) && (runN (nodeOf1 7)).span == 64) = true := by decide +kernel

/-- An XFORM begins, reads its source, and writes its destination. -/
theorem test_witness_xforms :
    (let r := runN (nodeOf1 2)
     let pc : Piece := ⟨rowBytes (xSrcRows r.bytes), (wNode r).xformSrc r.bytes, rowParts (nDst r.bytes) (xDstRows r.bytes), [], []⟩
     let full := { pc with src := [], out := [0, 0, 0, 0], got := Memory.writeBytes [] 0 [0, 0, 0, 0] }
     let s := wNode { r with piece := some full }
     runs r && xDkind r.bytes == 0 && (wNode r).xformTurn 1 0 r && readOk r pc && full.out.length == full.len &&
     full.dst[0]?.any fun x => x.1 + x.2.2 == (xformRows r.bytes full.out).length && partOk s none .store x && { full with dst := full.dst.erase x }.dst == [] &&
       !s.dstHeld 1 0 r.bytes) = true := by decide +kernel

/-- An XFORM that fills slot 0 from an image in the scratchpad, and one that fills tile 0. -/
def slotNode : List Byte := fieldBytes 64 [(0, 1, 2), (0x18, 8, 0x0100000000000000), (0x34, 1, 4)]
def tileNode : List Byte := fieldBytes 64 [(0, 1, 2), (0x18, 8, 0x0100000000000000), (0x28, 2, 128), (0x2A, 2, 128), (0x2C, 4, 512), (0x34, 1, 2),
  (0x35, 1, 6), (0x36, 1, 6)]

theorem test_witness_accepted_xforms :
    (let r := { runN slotNode with op := some 0 }
     let s := (wNode r).modEngine 0 fun e => { e with ops := [{ by_ := partyRef 1 0 0, lanes := [], batch := 0, seq := 0, work := .xslot 0 0 }] }
     runs (runN slotNode) && xDkind slotNode == 2 && runs (runN tileNode) && xDkind tileNode == 1 &&
     ((wNode (runN tileNode)).engineFor 1 0).any (fun e => (e.tile (nDst tileNode)).due (xTver tileNode % 16)) &&
     ((wNode (runN slotNode)).engineFor 1 0).isSome && s.xformTurn 1 0 r) = true := by decide +kernel

/-- What R105 says of a record that a running LAUNCH node hands over. -/
def taken (b : List Byte) : Option Nat :=
  let s := wNode (runN (nodeOf1 4))
  match s.takeLaunch ((s.job? 1).getD placeJob) b 0 (some 0x10900) 0 true with
  | .ok _ => none
  | .error e => some e

theorem test_witness_launch_nodes :
    (let r := runN (nodeOf1 4)
     let s := wNode { r with piece := some ⟨128, [(0, 0x10900, 16)], [], [], []⟩ }
     runs r && partOk s none .load (0, 0x10900, 16) && srcView r.bytes == none &&
     ((wNode r).graphRead 1 0 0x10900 128).any (fun b => (taken b).isNone && taken (b.set 0x2E 1) == some 1)) = true := by decide +kernel

theorem test_witness_signal : runs { runN (nodeOf1 5) with done := false } = true := by decide +kernel

/-- A node that is done, at an action of its finish; and the record of a failure. -/
theorem test_witness_nodes_end :
    (let done := fun (k n : Nat) => { runN (nodeOf1 k) with done := true, fin := n }
     let ok := fun (r : RunNode) => (wNode r).finishFree 1 0 r && ((wNode r).finishBad 1 0 r).isNone
     let far := { done 5 3 with bytes := (nodeOf1 5).set 5 8 }
     let f : Failure := ⟨nodeN [], 1, 0, 5, 0, []⟩
     let s := wGraph (nodeOf1 5) { failures := [f] }
     ok (done 1 0) && ok (done 5 1) && ok (done 5 2) && ok (done 5 3) && (wNode far).finishFree 1 0 far && ((wNode far).finishBad 1 0 far).isSome && nSuccs (nodeOf1 5) 0x10400 == [0x10440] &&
     (s.crewOf 1 0).graph.failures.find? (·.waits == []) == some f && s.graphBound 1 0 && !s.graphHeld 1 0 f.node.err 64) = true := by
  decide +kernel

/-! ### Witnesses: devices and the network -/

/-- `w` with the leaf word of its page. -/
def wLeaf (word : Nat) : State := { w with mem := { w.mem with dram := w.mem.dram.writeBytes 0x5080 (bytesLE 8 word) } }

/-- `w` with its page backed by file 1, dirty and under write-back. -/
def wBacked : State :=
  let s := (wLeaf 0x480000000101BF).modLaunch 1 fun l => { l with ranges := [⟨0x10000, 4096, 15, 1, 2, 0, 4, 0, 1⟩] }
  { s with io := { s.io with files := [⟨[97], [1, 2]⟩] } }

/-- The same, its page given to the storage port. -/
def wPaged : State := { wBacked with io := { wBacked.io with nvme := [.page 1 0x10000 []] } }

theorem test_witness_translations :
    (let stale := { w with mem := { w.mem with stale := [⟨1, 0x10000, 4096, 0x48000000010001, [], none⟩] } }
     let group := { w with mem := { w.mem with dram := (List.range 16).foldl (fun m k =>
       m.writeBytes (0x5080 + 8 * k) (bytesLE 8 (0x4800000001003F + 4096 * k))) w.mem.dram } }
     (w.job? 1).any (fun j => (w.jobPlace j 0x10000).any fun p => !p.2.bit 7) && !w.shooting 1 0x10000 1 && (stale.staleFor 1 0x10000).isSome &&
     !stale.writesUnder 1 0x10000 4096 && ((wLeaf 0x4800000001023F).splitPage 1 ⟨0x5080, 0x4800000001023F⟩).isSome &&
     (Leaf.mk 0x5080 0x4800000001023F).cls != 1 &&
     (group.job? 1).any (fun j => (group.jobPlace j 0x10000).any fun p => !p.2.bit 7 &&
       ((joinSizes p.2.size).findSome? (group.joinInto j 0x10000)).isSome)) = true := by decide +kernel

theorem test_witness_writeback : ((wBacked.drainedPage 1 0x10000).isSome && wBacked.mem.latent == [] &&
    wPaged.pageCommand 1 0x10000 == some (.page 1 0x10000 []) && wPaged.io.nvme[0]? == some (.page 1 0x10000 []) &&
    (wPaged.job? 1).any (fun j => (wPaged.jobPlace j 0x10000).any fun p => p.2.bit 7 && p.2.bit 8) && (wPaged.backing 1 0x10000).isSome &&
    (({ wPaged with io := { wPaged.io with nvme := [] } } : State).commandDone (.page 1 0x10000 []) false).isSome) = true := by decide +kernel

theorem test_witness_errors : ((w.crewOf 1 0).started && decide (64 * 0 < (w.launchOf 1).scratch) && w.recordFor ⟨1, 0, 0⟩ == some 0 && (w.thread 0 0).live &&
    decide (64 * 0 < (w.launchOf 1).stack) && (w.squad 0).missing == [] && (w.coreAt 0).engine.owner == some (1, 0) &&
    (w.coreAt 1).engine.owner.isNone && isBank 0x10000 && isBank (bankOf 0x0B 1) && decide ((0 : Nat) < 238) && decide ((5 : Word).toNat < 16777216) &&
    (let r := runN (nodeOf1 1)
     let pc := { r with piece := some ((wNode r).dataPiece r) }
     (wNode pc).stagedNode 1 0 7 == some pc)) = true := by decide +kernel

/-- A PUT and a GET under way, and a peer's message. -/
def wMessages (k : Nat) : State :=
  let s := wNode { runN (nodeOf1 k) with msg := some 3 }
  let m : Message := if k = 6 then .put 3 1 2 1 0 7 64 else .get 3 1 2 1 0 7 2 [(0, 0, [1, 2])]
  { s with io := { s.io with messages := [m, .inbound 9 1 2 1 [0]], sent := [.packet 1 2 0 none (.putData 3 0 5 0 [1])] } }

theorem test_witness_remote : (w.boot == .running && !w.authentic (.reset 1) 0 && w.authentic (.trimmed 1 2 9) 0 && !w.io.acked.contains (1, 2, 9) && (w.refusedMsg 1 2 9).isNone &&
    (({ w with io := { w.io with refused := [⟨1, 2, 9, 3, 0⟩] } } : State).refusedMsg 1 2 9).isSome &&
    (w.job? 1).any (fun j => (w.remoteParts j .store 0x10000 16).isOk && !(w.remoteParts j .store 0x20000 16).isOk &&
      (w.remoteParts j .load 0x10000 16).isOk && !(w.remoteParts j .load 0x20000 16).isOk) &&
    (w.incoming 1 2 9).isNone && (wMessages 6).incoming 1 2 9 == some (.inbound 9 1 2 1 [0])) = true := by decide +kernel

theorem test_witness_messages :
    (let put := wMessages 6
     let get := wMessages 7
     put.messageNo none 3 == some (.put 3 1 2 1 0 7 64) && (put.nodeOf 1 0 7 3).isSome && put.outgoing 3 == put.messageNo none 3 &&
     get.messageNo none 3 == some (.get 3 1 2 1 0 7 2 [(0, 0, [1, 2])]) && gotBytes 2 [(0, 0, [1, 2])] == some [1, 2] &&
     get.outgoing 3 == get.messageNo none 3 && put.messageNo (some (1, 2)) 9 == some (.inbound 9 1 2 1 [0]) && !get.hasWrites (messageRef 1 0 3) &&
     !put.hasWrites (peerRef 1 2 9) && put.packetOf 3 == some (.packet 1 2 0 none (.putData 3 0 5 0 [1])) &&
     put.keyFits (.put 3 1 2 1 0 7 64) 0 && !put.keyFits (.put 3 1 2 1 0 7 64) 9 &&
     (get.nodeOf 1 0 7 3).any fun r => (nodeAccesses r.bytes).length == 1 && (nodeAccesses r.bytes).all fun a =>
       let dst : Access := { a with addr := a.addr + r.prog, len := 2 }
       (get.accessesBad 1 0 [dst]).isNone && (get.spanParts (engineCx 1 0) false .store (span 16 (get.accessBase dst + dst.addr) dst.len)).isSome)
    = true := by decide +kernel

/-- A GET whose destination is not mapped. -/
theorem test_witness_bad_data : (wMessages 7).accessesBad 1 0 [⟨none, 0x20000, 2, .store⟩] ≠ none := by decide +kernel

theorem test_witness_links : (!w.io.linksDown.contains 3 && !w.io.peerLinksDown.contains (2, 3) && (w.job? 1).isSome &&
    !w.io.peersDown.contains (1, 2)) = true := by decide

/-! ### Witnesses: boot, requests, debugging, system calls -/

/-- A header in order for a request. -/
def head (type : BitVec 8) (job : BitVec 32) : Header := ⟨0x51524E44, type, 1, 0, 5, 0, job, 0, []⟩

/-- An image that is in order but for what its signature says. -/
def bootImage : List Byte := fieldBytes 1344 [(0, 4, 0x4E445249), (4, 2, 3)]

theorem test_witness_boot_image (h : Config.falconVerify Config.vendorKeyDigest (imageDigest bootImage) ((bootImage.drop 0x40).take 0x500) = true) :
    State.reset.imageOk bootImage = true := by
  have e : (field bootImage 0 4 == 0x4E445249 && decide (field bootImage 4 2 ≤ 127) && zeroAt bootImage 6 2 &&
      decide (field bootImage 8 8 ≤ 14680064) && bootImage.length == 0x540 + field bootImage 8 8 && zeroAt bootImage 0x10 0x30) = true := by
    decide +kernel
  have f : decide (State.reset.fuses ≤ field bootImage 4 2) = true := by decide +kernel
  simp only [State.imageOk, e, h, f, Bool.and_self]

theorem test_witness_boot : (State.reset.boot == .rom 0 && !State.reset.imageOk [] && w.boot == .running &&
    decide (w.launches.map (·.1)).Nodup && w.launches.all (fun x => x.2.any fun l => l.status == .running) &&
    ((wLaunch fun l => { l with status := .admitted }).launch? 1).any (fun l => l.status == .admitted) && decide (w.keyids.length < 16) &&
    w.lidInUse 1 && headerOk (head 8 0) 8 && decide (w.fuses < 128) && !w.channelBusy && w.io.requests == [] &&
    w.controller (head 8 0) && ({ w with boot := .recovery } : State).controller (head 8 0)) = true := by decide

/-- A controller whose key was never enrolled. -/
theorem test_witness_stranger : w.controller { head 8 0 with key := Config.installKey ++ [1] } = false := by
  have e : w.jobs = [(1, some placeJob)] := by decide
  simp [State.controller, e, placeJob]

theorem test_witness_requests : ((List.range 10).all (fun n => n == 0 || headerOk (head (BitVec.ofNat 8 n) 1) n) && !headerOk (head 9 1) 1 &&
    headerOk (head 1 2) 1 && !w.openBad 2 3 0 [] && (w.takeFrame 4 4096).isSome && w.openBad 1 3 0 [] && (w.job? 1).isSome && (w.job? 2).isNone &&
    (w.launch? 1).any (fun l => l.status != .ended) && (w.launch? 9).isNone &&
    ((wLaunch fun l => { l with status := .ended }).launch? 1).any (fun l => l.status == .ended)) = true := by decide +kernel

/-- A record that R105 admits, and one that it refuses, from a controller. -/
theorem test_witness_launch_requests :
    (let s := wNode (runN (nodeOf1 4))
     let take := fun (b : List Byte) => (s.takeLaunch ((s.job? 1).getD placeJob) b 0 none 5 false).toOption.isSome
     take (((s.graphRead 1 0 0x10900 128).getD [])) && !take []) = true := by decide +kernel

/-- An object image with no section. -/
def objectImage : List Byte := fieldBytes 1408 [(0, 4, 0x534B4F31)]

theorem test_witness_objects (key : List Byte) (hk : key = (objectImage.drop 0x40).take 0x40)
    (h : Config.falconVerify key (Config.shake256 (objectImage.take 0x80 ++ sectionBytes objectImage 0 ++ sectionBytes objectImage 1 ++
      sectionBytes objectImage 2) 64) ((objectImage.drop 0x80).take 0x500) = true) :
    (objectFormOk objectImage && ({ w with keyids := [key] } : State).objectSigned objectImage && decide (w.fuses ≤ field objectImage 6 1) &&
      w.sectionsOk placeJob objectImage) = true := by
  subst hk
  have a : objectFormOk objectImage = true := by decide +kernel
  have b : w.sectionsOk placeJob objectImage = true := by decide +kernel
  have c : decide (w.fuses ≤ field objectImage 6 1) = true := by decide +kernel
  have d : [(objectImage.drop 0x40).take 0x40].contains ((objectImage.drop 0x40).take 0x40) = true := by decide +kernel
  simp only [State.objectSigned, a, b, c, d, h, Bool.and_self]

theorem test_witness_sections : ([0, 1, 2].foldlM (fun st k => State.placeSection st 1 objectImage k) w).any (fun s => (s.job? 1).isSome) = true := by
  decide +kernel

theorem test_witness_debug :
    (let s := wSquad fun q => { q with status := .debug }
     (s.stopped ⟨1, 0, 0⟩).any (fun x => x.1 == some 0 && (s.debugValue (some 0) x.2 0 1).isSome && (debugSet x.2 0 1 ⟨7, .i64⟩ []).isSome && s.crewRuns x.2 &&
       (s.stepPc 0 x.2 (some 0x10000)).isSome && !x.2.tepc.getLsbD 0) && s.controller (head 9 1) && s.io.requests == [] && s.boot == .running && !s.channelBusy && headerOk (head 9 1) 9 &&
     (s.job? 1).any fun j => (s.jobPlace j 0x10000).isSome) = true := by decide +kernel

/-- The thread of `w` in a system call, with its arguments in g0 to g4, file 1 open as handle 1 and socket 1 as handle 2, and a storage port that can be used, or not. -/
def wCallOf (up : Bool) (args : List Nat) : State :=
  let regs : SMap Reg := (List.range args.length).map fun n => (n, ⟨BitVec.ofNat 64 (args.getD n 0), .i64⟩)
  let s := (wSquad fun q => { q with status := .serving 1, tcause := 0x20, tepc := 0x10000, tlanes := 1 }).modThread 0 0 fun t => { t with regs := regs }
  let s := s.modLaunch 1 fun l => { l with handles := [(1, some (.file [97] true true)), (2, some (.sock 1))] }
  let socks : List Socket := [⟨1, 1, 1, 2, 80, true, [5], 0, [], false, false, 0⟩, ⟨2, 0, 1, 2, 81, false, [], 0, [], false, false, 0⟩]
  let io := { s.io with files := [⟨[97], [1, 2]⟩], sockets := socks, ports := if up then [(0, ⟨true, true, true⟩)] else [] }
  { s with io := io, jobs := [(1, some { placeJob with peers := [(2, 7)] })] }

def wCall (args : List Nat) : State := wCallOf true args

/-- The call is the one numbered, Driene may serve it, and its outcome is known, or not. -/
def callOk (f : Call → State → CallOutcome) (args : List Nat) (known : Bool) : Bool :=
  ((wCall args).call? 0).any fun c => c.num == args.head? && (wCall args).mayServe c && (wCall args).storageUp && (f c (wCall args)).isSome == known

theorem test_witness_calls : (callOk openCall [1, 0x10000, 1, 7] true && callOk closeCall [2, 1] true && callOk readCall [3, 1, 0x10000, 0, 0] true &&
    callOk writeCall [4, 1, 0x10000, 0, 0] true && callOk flushCall [5, 3] true && callOk sizeCall [6, 1] true && callOk connectCall [16, 2, 80] true &&
    callOk listenCall [17, 81] true && callOk listenCall [17, 82] false && callOk sendCall [18, 2, 0x10000, 1] true &&
    callOk recvCall [19, 2, 0x10000, 1] true && callOk shutdownCall [20, 2] true && !(wCallOf false [1, 0x10000, 1, 7]).storageUp) = true := by
  decide +kernel

/-- OPEN of a path of one byte 0 from a page that the caller may read, with the flags of its argument; the file exists or not. -/
theorem test_witness_open :
    (let n := fun (args : List Nat) (up : Bool) => match (wCall args).call? 0 with
       | some c => let s := if up then { wCall args with io := { (wCall args).io with files := [⟨[0], []⟩] } } else wCall args
           (openCall c s).map fun x => x.2.toInt
       | none => none
     n [1, 0x10000, 256, 1] true == some (-1) && n [1, 0x10000, 1, 8] true == some (-1) && n [1, 0x20000, 1, 1] true == some (-14) &&
     n [1, 0x10000, 1, 1] false == some (-2) && (n [1, 0x10000, 1, 1] true).any (decide <| 0 ≤ ·) && (n [1, 0x10000, 1, 4] false).any (decide <| 0 ≤ ·)) = true := by
  decide +kernel

/-- A call that gives the port its command. -/
def commandOk (f : Call → State → CallOutcome) (cmd : Call → State → Option Nvme) (args : List Nat) : Bool :=
  ((wCall args).call? 0).any fun c => c.num == args.head? && (wCall args).mayServe c && (f c (wCall args)).isNone && (cmd c (wCall args)).isSome

theorem test_witness_commands : (commandOk readCall readCommand [3, 1, 0x10000, 2, 0] && commandOk flushCall flushCommand [5, 1]) = true := by decide +kernel

/-- A WRITE of two bytes, on flash with room for a block. -/
theorem test_witness_write_command (c : Call) (hc : (wCall [4, 1, 0x10000, 2, 0]).call? 0 = some c) (h : 1 ≤ Config.flashBlocks) :
    writeCall c (wCall [4, 1, 0x10000, 2, 0]) = none ∧ (writeCommand c (wCall [4, 1, 0x10000, 2, 0])).isSome = true := by
  have hd : ∀ d, (wCall [4, 1, 0x10000, 2, 0]).call? 0 = some d → (wCall [4, 1, 0x10000, 2, 0]).handle? d (d.arg 1) = some (.file [97] true true) ∧
      (wCall [4, 1, 0x10000, 2, 0]).bufferOk d .load (d.arg 2) (d.arg 3) = true ∧ d.arg 3 = 2 ∧ d.arg 4 = 0 := by
    intro d e
    injection e with e
    subst e
    exact ⟨by decide, by decide +kernel, by decide, by decide⟩
  obtain ⟨h1, h2, h3, h4⟩ := hd c hc
  rw [h3] at h2
  have hf : (wCall [4, 1, 0x10000, 2, 0]).file? [97] = some ⟨[97], [1, 2]⟩ := by decide
  have hb : (wCall [4, 1, 0x10000, 2, 0]).blocksWith [97] 2 = 1 := by decide
  simp only [writeCall, writeCommand, h1, h2, h3, h4, hf, hb]
  simp [Nat.not_lt.2 h]

theorem test_witness_answers : (((wCall [6, 1]).squad? 0).any (fun sq => sq.status == .serving 1 && !sq.tcause.getLsbD 9) &&
    ((wSquad fun q => { q with status := .serving 3 }).squad? 0).any fun sq => sq.status == .serving 3 && 3#32 &&& ~~~(1#32 <<< 0) != 0)
    = true := by decide

theorem test_witness_handles : (((wCall [6, 1]).call? 0).any fun c => (wCall [6, 1]).handle? c (c.arg 1) == some (.file [97] true true) &&
    ((wCall [6, 1]).file? [97]).isSome && (wCall [6, 9]).handle? c 9 == none) = true := by decide

/-! ### Witnesses: traps, steps, decoding, invariants -/

theorem test_witness_starts : (decide (31 < 32) && ((60 : RegCode) != 62) && (30 : RegCode) != 62) = true := by decide

theorem test_witness_lane_traps : ((w.squad? w.cur.q).isSome && w.lanes == [0] && (w.ctx 0).region == 0 && ((wRegion false).ctx 0).region == 1 &&
    (match w.laneResult (.brk 1) 0 0 (fun _ _ => .error ⟨2, 0⟩) 0 with | .error t => t.cause == 2 | .ok _ => false)) = true := by decide

theorem test_witness_source_tags : (w.ready (.add ⟨0, 0, 0, 2, 9, 3⟩) 0 && w.active 0 == [0] && w.canRead 9 0 && w.canRead 4 0 &&
    (w.operand 9 0).tag == .poison && (w.operand 4 0).tag != .poison && !isIntTag (w.operand 4 0).tag &&
    w.ready (.reduceAdd 9 3) 0 && w.ready (.scanAdd 4 3) 0) = true := by decide

/-- `w` with ADD g2, g1 -> g3 at its PC. -/
def wAdd : State := { w with mem := { w.mem with dram := w.mem.dram.writeBytes 0x10000 (Instr.add ⟨0, 0, 0, 2, 1, 3⟩).bytes } }

theorem test_witness_steps : (wAdd.agenda == [] && wAdd.dueEvent.isNone && wAdd.boot != .tripped &&
    wAdd.nextIssue.any (fun c => okAnd (wAdd.instrFor c) (· == .add ⟨0, 0, 0, 2, 1, 3⟩)) && (wAdd.chosenIssue 0 0x10000).isSome &&
    okAnd (wAdd.fetchHalf (wAdd.launchOf 1) 0 0x10000 0) (· % 2 == 1) && w.nextIssue.isSome &&
    okAnd (w.fetchHalf (w.launchOf 1) 0 0x10000 0) (· % 2 == 0)) = true := by decide +kernel

/-- A lane at an INV whose set is in the middle of it. -/
theorem test_witness_steps_of_inversion : ((wRun 0 0 []).nextIssue.any fun c => c.lanes != 0 &&
    (lanesOf c.lanes).all fun l => (((wRun 0 0 []).squad 0).runOf l).isSome) = true := by decide +kernel

theorem test_witness_bad_fetch : (let s := wThread fun t => { t with pc := 0x20000 }
    s.nextIssue.any fun c => !(s.instrFor c).isOk && (s.beginIssue c).region ((s.beginIssue c).squad c.q) == 0) = true := by decide +kernel

theorem test_witness_idle :
    (let s : State := { State.reset with boot := .running }
     s.agenda == [] && s.dueEvent.isNone && s.boot != .tripped && s.nextIssue.isNone && s.dueTimeout.isNone && wEnded.dueEvent.isSome &&
     ({ w with agenda := [.issue 0 0x10000] } : State).agenda == [.issue 0 0x10000] && s.mayTick && !w.mayTick) = true := by decide +kernel

theorem test_witness_round_trip : ((Instr.inv 3 1 9 2 8).len == 4 && (Instr.inv 3 1 9 2 8).wf && halfAt [0] != some 0x3E &&
    (match decode [0x60, 0x28] with | .ok _ _ => true | _ => false)) = true := by decide

theorem test_witness_invariants : State.reset.fusesInOrder ∧ w.mem.dram.wf = true ∧ (w.crewOf 1 0).inj.arm = false :=
  ⟨⟨by decide, fun _ _ h => nomatch h⟩, by decide, by decide⟩

/-- A page that is clean, and one that is dirty. -/
theorem test_witness_landing : ((w.leafNow 1 0x10000).any (fun l => l.pa 0x10000 == 0x10000 && !l.bit 8) &&
    ((wLeaf 0x4800000001013F).leafNow 1 0x10000).any fun l => l.pa 0x10000 == 0x10000 && l.bit 8) = true := by decide +kernel

/-- A step of a state in which the fuse of a step is due raises the counter. -/
theorem test_witness_fuse_step : ({ State.reset with fuseStep := some (1, 0) } : State).fusesInOrder :=
  ⟨by decide, fun _ _ h => by injection h with h; injection h with h1 h2; exact ⟨h1.symm, by decide⟩⟩

/-! ### Words written out from the encoding table, one or more of each family -/

theorem test_decode_short :
    decode [0x80, 0x18] = .ok (.addC 3 4) 2 ∧ decode [0x96, 0x18] = .ok (.fmao 3 4) 2 ∧
    decode [0x1E, 0x18] = .ok (.nop 3) 2 ∧ decode [0x3E, 0x00] = .ok .invend 2 ∧ decode [0x5E, 0x00] = .ok .yield 2 := by
  decide

theorem test_decode_scalar :
    decode [0x01, 0xC8, 0x61, 0xE4] = .ok (.add ⟨3, 4, 1, 6, 7, 8⟩) 4 ∧
    decode [0x2D, 0x87, 0x01, 0xE4] = .ok (.mov ⟨3, 4, 1, 6, 7⟩) 4 ∧
    decode [0x31, 0xC8, 0x61, 0xE4] = .ok (.fadd ⟨3, 4, 1, 6, 7, 8⟩) 4 ∧
    decode [0x3B, 0xC8, 0x61, 0xE4] = .ok (.fmin ⟨3, 4, 1, 6, 7, 8⟩) 4 ∧
    decode [0x41, 0xC5, 0x61, 0xE4] = .ok (.cmpeq ⟨3, 4, 1, 6, 7, 5⟩) 4 ∧
    decode [0x4D, 0xC5, 0x61, 0xE4] = .ok (.fcmpeq ⟨3, 4, 1, 6, 7, 5⟩) 4 ∧
    decode [0x55, 0x05, 0x61, 0xE4] = .ok (.kand ⟨3, 4, 1, 6, 4, 5⟩) 4 ∧
    decode [0x61, 0xC8, 0x21, 0xE4] = .ok (.netmv ⟨3, 4, 1, 2, 7, 8⟩) 4 ∧
    decode [0x63, 0xC8, 0x61, 0xE4] = .ok (.gatherb ⟨3, 4, 1, 6, 7, 8⟩) 4 ∧
    decode [0x65, 0xC8, 0x61, 0xE4] = .ok (.compose ⟨3, 4, 1, 6, 7, 8⟩) 4 := by
  decide

theorem test_decode_immediate :
    decode [0x81, 0x05, 0x31, 0x00] = .ok (.addi 3 4 5) 4 ∧ decode [0x99, 0x05, 0x31, 0x00] = .ok (.retag 3 4 5) 4 ∧
    decode [0x9B, 0x04, 0x30, 0x00] = .ok (.srd 3 4) 4 ∧ decode [0x9D, 0xC0, 0xF0, 0x00] = .ok (.swrFrm 3) 4 ∧
    decode [0x9D, 0xC0, 0x00, 0x01] = .ok (.swrFflags 3) 4 ∧ decode [0x9D, 0xC0, 0xC0, 0x00] = .ok (.swrDraw 3) 4 ∧
    decode [0x9D, 0xC0, 0x20, 0x01] = .ok (.swrInj 3) 4 ∧ decode [0x9F, 0x05, 0x31, 0x00] = .ok (.jalr 3 4 5) 4 ∧
    decode [0xA1, 0xC4, 0x00, 0x00] = .ok (.ldhi 3 4) 4 ∧ decode [0xA5, 0xC0, 0x00, 0x00] = .ok (.sigchk 3) 4 := by
  decide

theorem test_decode_memory :
    decode [0xA9, 0x46, 0x41, 0xC0] = .ok (.ld8 3 4 5 6) 4 ∧ decode [0xBF, 0x05, 0x31, 0x00] = .ok (.lea 3 4 5) 4 ∧
    decode [0xC1, 0xC0, 0x00, 0x00] = .ok (.bra 3) 4 := by
  decide

theorem test_decode_extended :
    decode [0xD1, 0x05, 0x31, 0x00] = .ok (.div 3 4 5) 4 ∧ decode [0xD1, 0x05, 0x31, 0x2C] = .ok (.ext 3 4 5) 4 ∧
    decode [0xD3, 0x05, 0x31, 0x00] = .ok (.fdiv 3 4 5) 4 ∧ decode [0xD3, 0xC4, 0x00, 0x14] = .ok (.fclass 3 4) 4 ∧
    decode [0xD5, 0x46, 0xC1, 0x01] = .ok (.cvtF64 3 4 5 6) 4 ∧ decode [0xD5, 0x05, 0x31, 0x40] = .ok (.pack 3 4 5) 4 := by
  decide

theorem test_decode_divergence :
    decode [0xD7, 0x03, 0x00, 0x00] = .ok (.split 3) 4 ∧ decode [0xD7, 0x03, 0x00, 0x04] = .ok (.rejoin 3) 4 ∧
    decode [0xD7, 0x00, 0x00, 0x08] = .ok .exit 4 ∧ decode [0xD7, 0x00, 0x00, 0x0C] = .ok .tail 4 := by
  decide

theorem test_decode_crosslane :
    decode [0xD9, 0x05, 0x01, 0x00] = .ok (.voteAll 4 5) 4 ∧ decode [0xD9, 0xC4, 0x00, 0x0C] = .ok (.matchLanes 3 4) 4 ∧
    decode [0xD9, 0xC4, 0x00, 0x10] = .ok (.scanAdd 3 4) 4 ∧ decode [0xD9, 0xC0, 0x00, 0x28] = .ok (.setnet 3 0) 4 ∧
    decode [0xD9, 0xC0, 0x00, 0x2C] = .ok (.fuse 3) 4 ∧ decode [0xD9, 0x00, 0x00, 0x30] = .ok .barC 4 ∧
    decode [0xD9, 0xC0, 0x00, 0x34] = .ok (.barG 3) 4 ∧ decode [0xD9, 0xC0, 0x00, 0x38] = .ok (.arriveG 3) 4 := by
  decide

theorem test_decode_atomic :
    decode [0xDB, 0x87, 0x51, 0xD0] = .ok (.ldt 3 4 5 6 7) 4 ∧ decode [0xDD, 0x46, 0x41, 0x80] = .ok (.aadd 1 4 5 6) 4 ∧
    decode [0xDD, 0x40, 0x41, 0xA8] = .ok (.afx 1 4 5) 4 ∧ decode [0xDD, 0x05, 0x01, 0xAC] = .ok (.afxrd 1 4 5) 4 ∧
    decode [0xDD, 0x00, 0x00, 0x40] = .ok .fenceSquad 4 ∧ decode [0xDD, 0xC0, 0x00, 0x58] = .ok (.waitcrew 3) 4 := by
  decide

theorem test_decode_view :
    decode [0xDF, 0x05, 0x31, 0x00] = .ok (.valloc 3 4 5) 4 ∧ decode [0xDF, 0x05, 0x31, 0x04] = .ok (.vdup 3 4 5) 4 ∧
    decode [0xDF, 0xC0, 0x00, 0x10] = .ok (.vdrop 3) 4 ∧ decode [0xDF, 0x05, 0x31, 0x14] = .ok (.vquery 3 4 5) 4 := by
  decide

theorem test_decode_enumeration :
    decode [0xE1, 0x00, 0x00, 0x00] = .ok .runnew 4 ∧ decode [0xE1, 0x05, 0x31, 0x04] = .ok (.enum 3 4 5) 4 ∧
    decode [0xE1, 0x04, 0x30, 0x08] = .ok (.enumOne 3 4) 4 ∧ decode [0xE1, 0x05, 0x41, 0x0C] = .ok (.merge 4 4 5) 4 ∧
    decode [0xE1, 0xC4, 0x00, 0x10] = .ok (.endch 3 4) 4 ∧ decode [0xE1, 0x05, 0x31, 0x14] = .ok (.choose 3 4 5) 4 := by
  decide

theorem test_decode_engine :
    decode [0xE3, 0x0E, 0x31, 0x00] = .ok (.mmaQE4m3 3 4 1 6) 4 ∧ decode [0xE3, 0x0A, 0x31, 0x20] = .ok (.bld 3 4 1 2) 4 ∧
    decode [0xE3, 0xC4, 0x00, 0x24] = .ok (.tzero 3 4) 4 ∧ decode [0xE3, 0x05, 0x31, 0x30] = .ok (.trd 3 4 5) 4 ∧
    decode [0xE3, 0x04, 0x30, 0x34] = .ok (.tver 3 4) 4 ∧ decode [0xE3, 0x03, 0x00, 0x38] = .ok (.mfence 3) 4 ∧
    decode [0xE3, 0xC0, 0x00, 0x3C] = .ok (.mwait 3) 4 := by
  decide

theorem test_decode_queue :
    decode [0xE5, 0x05, 0x31, 0x00] = .ok (.gsub 3 4 5) 4 ∧ decode [0xE5, 0x05, 0x31, 0x04] = .ok (.waitobj 3 4 5) 4 ∧
    decode [0xE5, 0xC4, 0x00, 0x0C] = .ok (.qcfg 3 4) 4 ∧ decode [0xE5, 0x05, 0x31, 0x10] = .ok (.qpush 3 4 5) 4 ∧
    decode [0xE5, 0x05, 0x31, 0x18] = .ok (.feed 3 4 5) 4 ∧ decode [0xE5, 0xC4, 0x00, 0x1C] = .ok (.sloop 3 4) 4 ∧
    decode [0xE5, 0xC0, 0x00, 0x20] = .ok (.dqpush 3) 4 := by
  decide

theorem test_decode_system :
    decode [0xE7, 0x00, 0x00, 0x00] = .ok .syscall 4 ∧ decode [0xE7, 0x00, 0x30, 0x04] = .ok (.brk 3) 4 ∧
    decode [0xE7, 0x00, 0x00, 0x08] = .ok .icinv 4 ∧ decode [0xE7, 0x03, 0x00, 0x0C] = .ok (.clk 3) 4 ∧
    decode [0xE7, 0x03, 0x00, 0x10] = .ok (.rand 3) 4 := by
  decide

theorem test_decode_inversion :
    decode [0xF1, 0x87, 0x51, 0x60] = .ok (.inv 3 0 5 6 7) 4 := by
  decide

/-! ### Ill-formed terms are refused: one for each check -/

theorem test_wf_registers : (Instr.add ⟨0, 0, 0, 63, 4, 3⟩).wf = false ∧ (Instr.add ⟨0, 0, 0, 5, 63, 3⟩).wf = false ∧
    (Instr.add ⟨0, 0, 0, 5, 4, 63⟩).wf = false ∧ (Instr.mov ⟨0, 0, 0, 63, 3⟩).wf = false ∧ (Instr.addC 0 63).wf = false ∧
    (Instr.addi 0 63 3).wf = false ∧ (Instr.ld64 0 0 63 3).wf = false ∧ (Instr.bz 0 63).wf = false ∧ (Instr.clk 63).wf = false ∧
    (Instr.add ⟨0, 0, 0, 62, 61, 60⟩).wf = true := by decide

theorem test_wf_masks : (Instr.cmpeq ⟨0, 0, 0, 5, 4, 0⟩).wf = false ∧ (Instr.kand ⟨0, 0, 0, 1, 2, 0⟩).wf = false ∧
    (Instr.cmpeqi 0 4 0).wf = false ∧ (Instr.voteAll 1 0).wf = false ∧ (Instr.kand ⟨0, 0, 0, 0, 0, 7⟩).wf = true := by decide

theorem test_wf_codes : (Instr.retag 0xD 4 3).wf = false ∧ (Instr.retag 0xF 4 3).wf = false ∧ (Instr.ldt 0 0xD 1 2 3).wf = false ∧
    (Instr.fsqrt 5 4 3).wf = false ∧ (Instr.cvtF32 0 6 4 3).wf = false ∧ (Instr.cvtE2m1 1 0 4 3).wf = false ∧ (Instr.fsqrt 7 4 3).wf = true := by
  decide

theorem test_wf_system : (Instr.srd 0x14 3).wf = false ∧ (Instr.swr 0x14 3).wf = false ∧ (Instr.swr 0x0F 3).wf = false ∧
    (Instr.srd 0x13 3).wf = true := by decide

theorem test_wf_places : (Instr.valloc 5 4 56).wf = false ∧ (Instr.enum 5 4 60).wf = false ∧ (Instr.endch 56 3).wf = false ∧
    (Instr.merge 0 4 1).wf = false ∧ (Instr.merge 4 4 54).wf = false ∧ (Instr.merge 4 4 53).wf = true ∧ (Instr.bld 0 4 0 5).wf = false ∧
    (Instr.sloop 0 3).wf = false ∧ (Instr.inv 0 0 3 30 30).wf = false ∧ (Instr.bset 0 56).wf = false := by decide

theorem test_wf_requests : (Instr.launch (head 4 1) [] 0).wf = false ∧ (Instr.attest (head 6 1) [] 0).wf = false ∧
    (Instr.codeSigningKeyEnrol []).wf = false ∧ (Instr.jobopen (head 1 1) 32768 0 [] []).wf = false := by decide

/-! ### Words that decoding refuses -/

/-- Register code 63, a destination of k0, a reserved func6, a non-zero reserved bit (R48); a word cut short. -/
theorem test_decode_refused : decode [0x01, 0x3F, 0x51, 0x9C] = .illegal ∧ decode [0x41, 0xC0, 0x61, 0x04] = .illegal ∧
    decode [0xE7, 0x00, 0x00, 0xFC] = .illegal ∧ decode [0xE7, 0x01, 0x00, 0x00] = .illegal := by decide

theorem test_decodeTableWord : decodeTableWord 16 0x2860 = some (.addC 5 3) ∧ decodeTableWord 32 0x9C510301 = some (.add ⟨2, 3, 1, 5, 4, 3⟩) := by
  decide

/-! ### Single steps, with results that the spec writes out -/

/-- What register c of the lane of `w` holds after an instruction that answers a next state. -/
def after (s : State) (i : Instr) (c : Nat) : Option Reg :=
  match exec i s with
  | .next t => some (SMap.get Reg.zero (t.thread 0 0).regs c)
  | _ => none

/-- R73, the worked examples: g7 = 7F 80 01 03 FE 09 00 81 and g8 = 01 02 03 04 05 06 07 08, as I8x8. -/
theorem test_adds : after w (.adds ⟨0, 0, 0, 8, 7, 30⟩) 30 = some ⟨0x7F820407030F0789, .i8x8⟩ := by decide
theorem test_add : after w (.add ⟨0, 0, 0, 8, 7, 30⟩) 30 = some ⟨0x80820407030F0789, .i8x8⟩ := by decide
theorem test_shl : after w (.shl ⟨0, 0, 0, 8, 7, 30⟩) 30 = some ⟨0xFE000830C0400000, .i8x8⟩ := by decide

/-- R10: a result in g30 is also in e0, and the old e0 (0) in e1. -/
theorem test_echo : after w (.add ⟨0, 0, 0, 2, 1, 30⟩) 60 = some ⟨12, .i64⟩ ∧ after w (.add ⟨0, 0, 0, 2, 1, 30⟩) 61 = some ⟨0, .raw64⟩ := by decide

/-- The cause of the trap that an instruction takes. R13: a POISON source raises cause 0x11; R44: a float source of ADD raises 0x02. -/
def cause (i : Instr) : Option Word :=
  match exec i w with
  | .next t => some (t.squad 0).tcause
  | _ => none
theorem test_poison : cause (.add ⟨0, 0, 0, 9, 1, 30⟩) = some 0x11 ∧ cause (.add ⟨0, 0, 0, 4, 1, 30⟩) = some 0x02 := by decide

/-- R80: 1.0 + 2.0 is 3.0. -/
theorem test_fadd : after w (.fadd ⟨0, 0, 0, 5, 4, 30⟩) 30 = some ⟨0x4008000000000000, .f64⟩ := by decide +kernel
/-- R77: 7 / 5 is 1. -/
theorem test_div : after w (.divU 1 2 30) 30 = some ⟨1, .i64⟩ := by decide

/-- R109, R353: the machine right after reset runs the boot ROM, with nothing else there. -/
theorem reset_inv : State.reset.boot = .rom 0 ∧ State.reset.mem.dram.wf = true := by decide

/-- The program word placed next runs as the first instruction: 0x2860 is ADD g3, g5 (R65). -/
theorem test_first_step : ((match step (State.reset.withFetchWord 16 0x2860) with
    | .next t => (t.thread 0 0).pc == 0x10002
    | _ => false)) = true := by decide +kernel

end Sys2Proof.Tests
end

section
/-!
SUPPORT for O58. Which operations leave DRAM as it was: a lemma for each operation of the module that does not write it. The operations that
do write it are those of Laws/Memory.lean, which keep its canonical form.
-/
namespace Sys2Proof.Machine

theorem State.canonical_of_dram {s t : State} (e : t.mem.dram = s.mem.dram) (h : s.canonical) : t.canonical := by
  rw [State.canonical, e]; exact h

@[simp] theorem foldl_dram {α : Type} (xs : List α) (f : State → α → State) (hf : ∀ s x, (f s x).mem.dram = s.mem.dram)
    (s : State) : (xs.foldl f s).mem.dram = s.mem.dram := by
  induction xs generalizing s with
  | nil => rfl
  | cons x xs ih => exact (ih _).trans (hf s x)

/-! ### Threads, traps and the issue -/

@[simp] theorem State.drawFree_mem (s : State) : s.drawFree.1.mem = s.mem := rfl

@[simp] theorem State.releaseLanes_dram (s : State) (q : Nat) (ls : List Nat) : (s.releaseLanes q ls).mem.dram = s.mem.dram := by
  simp [State.releaseLanes]

@[simp] theorem State.fetchTrap_dram (s : State) (c : Cur) (t : Trap) : (s.fetchTrap c t).mem.dram = s.mem.dram := by
  unfold State.fetchTrap
  dsimp only
  split <;> simp

@[simp] theorem State.unwait_dram (s : State) (q : Nat) (ls : List Nat) : (s.unwait q ls).mem.dram = s.mem.dram := by
  simp [State.unwait]

@[simp] theorem State.block_dram (s : State) (cx : Ctx) (i : Instr) : (s.block cx i).mem.dram = s.mem.dram := by
  simp [State.block]

@[simp] theorem State.blockAll_dram (s s0 : State) (act : List Nat) (i : Instr) : (s.blockAll s0 act i).mem.dram = s.mem.dram := by
  simp [State.blockAll]

@[simp] theorem State.scatter_dram (s s0 : State) (d : RegCode) (lat : Lat) (vs : List (Nat × Reg)) :
    (s.scatter s0 d lat vs).mem.dram = s.mem.dram := by
  simp [State.scatter]

@[simp] theorem State.scatterK_dram (s s0 : State) (k : Nat) (lat : Lat) (vs : List (Nat × Bool)) :
    (s.scatterK s0 k lat vs).mem.dram = s.mem.dram := by
  simp [State.scatterK]

@[simp] theorem State.placeSquad_dram (s : State) (q : Nat) (sq : Squad) : (s.placeSquad q sq).mem.dram = s.mem.dram := rfl

/-! ### Error records, reads and writes that have not landed -/

@[simp] theorem State.modBank_dram (s : State) (n : Nat) (f : Bank → Bank) : (s.modBank n f).mem.dram = s.mem.dram := rfl

@[simp] theorem State.logError_dram (s : State) (bank : Nat) (uc : Bool) (addr : Word) (info : BitVec 128) :
    (s.logError bank uc addr info).mem.dram = s.mem.dram := rfl

@[simp] theorem State.enterError_dram (s : State) (e : BankError) : (s.enterError e).mem.dram = s.mem.dram := rfl

@[simp] theorem State.settleErrors_dram (s : State) : s.settleErrors.mem.dram = s.mem.dram := by
  refine foldl_dram _ _ (fun _ _ => ?_) _
  rfl

@[simp] theorem State.noteRead_dram (s : State) (p : Place) : (s.noteRead p).mem.dram = s.mem.dram := by
  unfold State.noteRead
  split <;> rfl

@[simp] theorem State.noteFrame_dram (s : State) (a n : Nat) : (s.noteFrame a n).mem.dram = s.mem.dram := by
  unfold State.noteFrame
  split <;> simp

@[simp] theorem State.jobSeen_dram (s : State) (j : Job) (a n : Nat) : (s.jobSeen j a n).mem.dram = s.mem.dram := by
  unfold State.jobSeen
  split
  · rfl
  · refine foldl_dram _ _ (fun st p => ?_) s
    split <;> simp

@[simp] theorem State.fixOwn_dram (s : State) (r : SquadRef) (lane : Nat) (f : Read → Nat) : (s.fixOwn r lane f).mem.dram = s.mem.dram := by
  simp [State.fixOwn]

@[simp] theorem State.fixFence_dram (s : State) (r : SquadRef) (lane scope : Nat) (full : Bool) :
    (s.fixFence r lane scope full).mem.dram = s.mem.dram := by
  simp [State.fixFence]

@[simp] theorem State.endFence_dram (s : State) (q l : Nat) : (s.endFence q l).mem.dram = s.mem.dram := by
  unfold State.endFence
  split <;> simp

@[simp] theorem State.fixAtomic_dram (s : State) (cx : Ctx) (loc : Loc) (size : Nat) (ar writes : Bool) :
    (s.fixAtomic cx loc size ar writes).mem.dram = s.mem.dram := by
  simp [State.fixAtomic]

/-- A store is posted, and lands later (R223). -/
@[simp] theorem State.storeLoc_dram (s : State) (cx : Ctx) (loc : Loc) (data : List Byte) (rel : Bool) :
    (s.storeLoc cx loc data rel).mem.dram = s.mem.dram := by
  cases loc <;> simp [State.storeLoc]

@[simp] theorem State.postPart_dram (s : State) (r : SquadRef) (p : Place) (job va : Nat) (data : List Byte) :
    (s.postPart r p job va data).mem.dram = s.mem.dram := rfl

@[simp] theorem State.postParts_dram (s : State) (r : SquadRef) (ps : List Part) (bs : List Byte) :
    (s.postParts r ps bs).mem.dram = s.mem.dram := by
  induction ps generalizing s bs with
  | nil => rfl
  | cons p ps ih => exact ih _ _

@[simp] theorem State.noteLoad_dram (s : State) (cx : Ctx) (loc : Loc) (k : LoadKind) (size : Nat) (sgn : Bool) (g : Tag) :
    (s.noteLoad cx loc k size sgn g).mem.dram = s.mem.dram := by
  simp [State.noteLoad]

@[simp] theorem State.noteWritten_dram (s : State) (lid crew : Nat) (addr : Word) : (s.noteWritten lid crew addr).mem.dram = s.mem.dram := rfl

@[simp] theorem State.loadBytes_dram (s : State) (cx : Ctx) (addr : Word) (loc : Loc) (size : Nat) :
    (s.loadBytes cx addr loc size).2.2.mem.dram = s.mem.dram := by
  have hp : (match loc.place with | some p => s.noteRead p | none => s).mem.dram = s.mem.dram := by split <;> simp
  unfold State.loadBytes
  dsimp only
  split
  · split <;> exact hp
  · exact hp

@[simp] theorem State.readPart_dram (s : State) (p : Part) : (s.readPart p).2.2.mem.dram = s.mem.dram :=
  State.noteRead_dram _ _

@[simp] theorem State.readParts_dram (s : State) (ps : List Part) : (s.readParts ps).2.2.mem.dram = s.mem.dram := by
  induction ps generalizing s with
  | nil => rfl
  | cons p ps ih => exact (ih _).trans (State.readPart_dram s p)

/-! ### Instruction caches and the clock -/

@[simp] theorem State.cacheBlock_dram (s : State) (la : Launch) (core : Nat) (addr : Word) (pick : Nat) :
    (s.cacheBlock la core addr pick).mem.dram = s.mem.dram := by
  unfold State.cacheBlock
  split
  · dsimp only
    split <;> simp
  · rfl

@[simp] theorem State.cacheCode_dram (s : State) (la : Launch) (core : Nat) (pc : Word) (len pick : Nat) :
    (s.cacheCode la core pc len pick).mem.dram = s.mem.dram := by
  simp [State.cacheCode]

@[simp] theorem State.emptyCode_dram (s : State) : s.emptyCode.mem.dram = s.mem.dram := rfl

@[simp] theorem State.cacheIssue_dram (s : State) (c : Cur) : (s.cacheIssue c).mem.dram = s.mem.dram := by
  unfold State.cacheIssue
  dsimp only
  split
  · rfl
  · split <;> simp

@[simp] theorem State.beginIssue_dram (s : State) (c : Cur) : (s.beginIssue c).mem.dram = s.mem.dram := by
  simp [State.beginIssue]

@[simp] theorem State.tick_dram (s : State) : s.tick.mem.dram = s.mem.dram := by
  simp [State.tick]

@[simp] theorem State.ticks_dram (s : State) (n : Nat) : (s.ticks n).mem.dram = s.mem.dram := by
  induction n generalizing s with
  | zero => rfl
  | succ n ih =>
    unfold State.ticks
    split
    · exact (ih _).trans s.tick_dram
    · rfl

@[simp] theorem State.reload_dram (s : State) (q : Nat) (r : Read) : (s.reload q r).mem.dram = s.mem.dram := by
  unfold State.reload
  dsimp only
  rw [State.modThread_mem]
  split <;> simp

/-! ### Squads that rejoin, end and merge -/

@[simp] theorem State.rejoinTrap_dram (s : State) (q : Nat) (sq : Squad) (ls : List Nat) : (s.rejoinTrap q sq ls).mem.dram = s.mem.dram := by
  unfold State.rejoinTrap
  split <;> simp

@[simp] theorem State.settleRejoin_dram (s : State) (q n : Nat) : (s.settleRejoin q n).mem.dram = s.mem.dram := by
  unfold State.settleRejoin
  split
  · rfl
  · repeat' split
    all_goals simp

@[simp] theorem State.endStream_dram (s : State) (lid c : Nat) : (s.endStream lid c).mem.dram = s.mem.dram := by
  unfold State.endStream
  repeat' split
  all_goals simp

@[simp] theorem State.noteRetired_dram (s : State) (sq : Squad) : (s.noteRetired sq).mem.dram = s.mem.dram := by
  simp [State.noteRetired]

@[simp] theorem State.retireExited_dram (s : State) (q : Nat) : (s.retireExited q).mem.dram = s.mem.dram := by
  unfold State.retireExited
  repeat' split
  all_goals simp

@[simp] theorem State.retire_dram (s : State) (q : Nat) : (s.retire q).mem.dram = s.mem.dram := by
  unfold State.retire
  repeat' split
  all_goals simp

@[simp] theorem State.refuseFuse_dram (s : State) (q : Nat) : (s.refuseFuse q).mem.dram = s.mem.dram := by
  simp [State.refuseFuse]

@[simp] theorem State.fuse_dram (s : State) (qv qw mask : Nat) : (s.fuse qv qw mask).mem.dram = s.mem.dram := by
  simp [State.fuse]

@[simp] theorem State.settleFuse_dram (s : State) (q : Nat) : (s.settleFuse q).mem.dram = s.mem.dram := by
  unfold State.settleFuse
  repeat (split; · rfl)
  split
  · simp
  · dsimp only
    repeat' split
    all_goals simp

@[simp] theorem State.settleFuses_dram (s : State) (lid c : Nat) : (s.settleFuses lid c).mem.dram = s.mem.dram := by
  simp [State.settleFuses]

@[simp] theorem State.refusePartners_dram (s : State) (lid c p : Nat) (same : Nat → Nat → Word → Bool) :
    (s.refusePartners lid c p same).mem.dram = s.mem.dram := by
  refine foldl_dram _ _ (fun st x => ?_) s
  repeat' split
  all_goals simp

@[simp] theorem State.endThreads_dram (s : State) (q : Nat) (ls : List Nat) : (s.endThreads q ls).mem.dram = s.mem.dram := by
  simp [State.endThreads]

@[simp] theorem State.phaseOver_dram (s : State) (w : Wait) (rs : List (Nat × Squad)) : (s.phaseOver w rs).mem.dram = s.mem.dram := by
  simp [State.phaseOver]

@[simp] theorem State.wakeFuses_dram (s : State) : s.wakeFuses.mem.dram = s.mem.dram := by
  simp [State.wakeFuses]

/-! ### Poison, engines and tiles -/

@[simp] theorem State.modSlice_dram (s : State) (lid i : Nat) (f : Thread → Thread) : (s.modSlice lid i f).mem.dram = s.mem.dram := rfl

@[simp] theorem State.markSlice_dram (s : State) (pa : Nat) : (s.markSlice pa).mem.dram = s.mem.dram := by
  refine foldl_dram _ _ (fun st x => ?_) s
  repeat' split
  all_goals rfl

@[simp] theorem State.mark_dram (s : State) (p : Place) : (s.mark p).mem.dram = s.mem.dram := by
  cases p with
  | dram pa key => exact foldl_dram _ _ (fun st k => st.markSlice_dram _) _
  | scratch l c o => rfl

@[simp] theorem State.modEngine_dram (s : State) (core : Nat) (f : Engine → Engine) : (s.modEngine core f).mem.dram = s.mem.dram := rfl

@[simp] theorem State.settleBatches_dram (s : State) (q : Nat) : (s.settleBatches q).mem.dram = s.mem.dram := by
  simp [State.settleBatches]

@[simp] theorem State.settleFor_dram (s : State) (r : SquadRef) : (s.settleFor r).mem.dram = s.mem.dram := by
  unfold State.settleFor
  split <;> simp

@[simp] theorem State.setOp_dram (s : State) (core n : Nat) (o : EngOp) : (s.setOp core n o).mem.dram = s.mem.dram := rfl

@[simp] theorem State.dropOp_dram (s : State) (core n : Nat) : (s.dropOp core n).mem.dram = s.mem.dram := rfl

@[simp] theorem State.awaitTile_dram (s s0 : State) (act : List Nat) (i : Instr) (t v : Nat) :
    (s.awaitTile s0 act i t v).mem.dram = s.mem.dram := by
  simp [State.awaitTile]

@[simp] theorem State.acceptOp_dram (s s0 : State) (act : List Nat) (w : EngWork) : (s.acceptOp s0 act w).mem.dram = s.mem.dram := rfl

@[simp] theorem State.rowNote_dram (s : State) (sq : Squad) (fmt : Nat) (x : Nat × Word) : (s.rowNote sq fmt x).mem.dram = s.mem.dram := by
  simp [State.rowNote]

@[simp] theorem State.stopIntake_dram (s : State) (q : Nat) (f : Thread → Thread) : (s.stopIntake q f).mem.dram = s.mem.dram := by
  unfold State.stopIntake
  dsimp only
  split <;> simp

@[simp] theorem State.takeAndLand_dram (s : State) (q : Nat) (it : Intake) : (s.takeAndLand q it).mem.dram = s.mem.dram := by
  unfold State.takeAndLand
  dsimp only
  repeat' split
  all_goals simp

@[simp] theorem State.takePart_dram (s : State) (q k : Nat) (it : Intake) : (s.takePart q k it).mem.dram = s.mem.dram := by
  unfold State.takePart
  dsimp only
  repeat' split
  all_goals simp

theorem State.opRead_dram {s t : State} {o o' : EngOp} {k : Nat} {bad : Bool} (e : s.opRead o k bad = some (o', t)) :
    t.mem.dram = s.mem.dram := by
  unfold State.opRead at e
  obtain ⟨x, _, hx⟩ := Option.map_eq_some_iff.mp e
  rw [Prod.mk.injEq] at hx
  exact hx.2 ▸ s.readPart_dram _

/-! ### Views and granules -/

@[simp] theorem State.keyFrame_dram (s : State) (a n slot : Nat) : (s.keyFrame a n slot).mem.dram = s.mem.dram := rfl

@[simp] theorem State.modGranule_dram (s : State) (job va : Nat) (f : Granule → Granule) : (s.modGranule job va f).mem.dram = s.mem.dram := rfl

@[simp] theorem State.raiseCount_dram (s : State) (job va : Nat) : (s.raiseCount job va).mem.dram = s.mem.dram := rfl

@[simp] theorem State.setView_dram (s : State) (i : Nat) (v : View) : (s.setView i v).mem.dram = s.mem.dram := rfl

@[simp] theorem State.takeView_dram (s : State) (i : Nat) (v : View) : (s.takeView i v).mem.dram = s.mem.dram := by
  unfold State.takeView
  dsimp only
  split <;> rfl

@[simp] theorem State.freeView_dram (s : State) (i : Nat) : (s.freeView i).mem.dram = s.mem.dram := rfl

@[simp] theorem State.postDecrements_dram (s : State) (job : Nat) (r : SquadRef) (lane : Nat) (vas : List Nat) :
    (s.postDecrements job r lane vas).mem.dram = s.mem.dram := by
  simp [State.postDecrements]

@[simp] theorem State.dropView_dram (s : State) (i : Nat) : (s.dropView i).mem.dram = s.mem.dram := by
  unfold State.dropView
  dsimp only
  split <;> simp

@[simp] theorem State.viewResult_dram (s : State) (cx : Ctx) (d : RegCode) (h : Option Word) : (s.viewResult cx d h).mem.dram = s.mem.dram := by
  simp [State.viewResult]

@[simp] theorem State.recordView_dram (s : State) (cx : Ctx) (i gen : Nat) : (s.recordView cx i gen).mem.dram = s.mem.dram := by
  simp [State.recordView]

@[simp] theorem State.recordNarrow_dram (s : State) (cx : Ctx) : (s.recordNarrow cx).mem.dram = s.mem.dram := by
  simp [State.recordNarrow]

@[simp] theorem State.reshape_dram (s : State) (cx : Ctx) (i : Nat) (v : View) : (s.reshape cx i v).mem.dram = s.mem.dram := by
  simp [State.reshape]

theorem State.raiseCounts_dram (s : State) (job : Nat) (gs : List Nat) :
    (gs.foldl (fun st g => st.raiseCount job g) s).mem.dram = s.mem.dram := by
  refine foldl_dram _ _ (fun _ _ => ?_) _
  rfl

theorem State.newView_dram {s t : State} {cx : Ctx} {v : View} {l h : Nat} {r : BitVec 7} {w : Word}
    (e : s.newView cx v l h r = some (t, w)) : t.mem.dram = s.mem.dram := by
  unfold State.newView at e
  split at e
  · cases e
  · simp only [Option.some.injEq, Prod.mk.injEq] at e
    simp [← e.1, State.raiseCounts_dram]

/-! ### Enumerated regions -/

@[simp] theorem State.scrambleHeader_dram (s : State) (lid crew off : Nat) : (s.scrambleHeader lid crew off).mem.dram = s.mem.dram := rfl

@[simp] theorem State.openChunk_dram (s : State) (lid crew : Nat) (ch : Chunk) : (s.openChunk lid crew ch).mem.dram = s.mem.dram := rfl

@[simp] theorem State.parkLane_dram (s : State) (q l : Nat) (code : BitVec 8) : (s.parkLane q l code).mem.dram = s.mem.dram := by
  simp [State.parkLane]

@[simp] theorem State.groupMismatch_dram (s : State) (lid crew gbase gsize : Nat) :
    (s.groupMismatch lid crew gbase gsize).mem.dram = s.mem.dram := by
  refine foldl_dram _ _ (fun st i => ?_) s
  split <;> simp

@[simp] theorem State.closeChunk_dram (s : State) (lid crew : Nat) (ch : Chunk) : (s.closeChunk lid crew ch).mem.dram = s.mem.dram := by
  simp [State.closeChunk]

/-! ### What the module sends, and its records of jobs and messages -/

@[simp] theorem State.reply_dram (s : State) (type status : Nat) (reqid : Word) (job : Nat) (body : List Byte) :
    (s.reply type status reqid job body).mem.dram = s.mem.dram := rfl

@[simp] theorem State.sendTo_dram (s : State) (job peer : Nat) (p : OutPacket) : (s.sendTo job peer p).mem.dram = s.mem.dram := rfl

@[simp] theorem State.tablesSeen_dram (s : State) (j : Job) (b : List Byte) : (s.tablesSeen j b).mem.dram = s.mem.dram := by
  unfold State.tablesSeen
  split <;> simp

@[simp] theorem State.setMessages_dram (s : State) (f : List Message → List Message) : (s.setMessages f).mem.dram = s.mem.dram := rfl

@[simp] theorem State.dropMessage_dram (s : State) (m : Message) : (s.dropMessage m).mem.dram = s.mem.dram := rfl

@[simp] theorem State.dropData_dram (s : State) (r : SquadRef) : (s.dropData r).mem.dram = s.mem.dram := rfl

@[simp] theorem State.closeMessage_dram (s : State) (job peer msg : Nat) : (s.closeMessage job peer msg).mem.dram = s.mem.dram := rfl

@[simp] theorem State.modSocket_dram (s : State) (n : Nat) (f : Socket → Socket) : (s.modSocket n f).mem.dram = s.mem.dram := rfl

@[simp] theorem State.modFile_dram (s : State) (path : List Byte) (f : List Byte → List Byte) : (s.modFile path f).mem.dram = s.mem.dram := rfl

@[simp] theorem State.command_dram (s : State) (c : Nvme) : (s.command c).mem.dram = s.mem.dram := rfl

@[simp] theorem State.modPort_dram (s : State) (p : Nat) (f : StoragePort → StoragePort) : (s.modPort p f).mem.dram = s.mem.dram := rfl

@[simp] theorem State.storageError_dram (s : State) (job handle off : Nat) : (s.storageError job handle off).mem.dram = s.mem.dram := rfl

@[simp] theorem State.adminDone_dram (s : State) (p : Nat) (op : AdminOp) (ok : Bool) : (s.adminDone p op ok).mem.dram = s.mem.dram := by
  cases op <;> cases ok <;> rfl

@[simp] theorem State.shootLarge_dram (s : State) (job va size raw : Nat) (give : List (Nat × Nat)) :
    (s.shootLarge job va size raw give).mem.dram = s.mem.dram := rfl

@[simp] theorem State.nextImage_dram (s : State) (copy : Nat) : (s.nextImage copy).mem.dram = s.mem.dram := rfl

@[simp] theorem State.putStopped_dram (s : State) (a : DebugAt) (q : Option Nat) (sq : Squad) : (s.putStopped a q sq).mem.dram = s.mem.dram := by
  cases q <;> rfl

/-! ### Graphs -/

@[simp] theorem State.modEngineFor_dram (s : State) (lid crew : Nat) (f : Engine → Engine) : (s.modEngineFor lid crew f).mem.dram = s.mem.dram := by
  unfold State.modEngineFor
  split <;> rfl

@[simp] theorem State.graphSeen_dram (s : State) (lid crew : Nat) (a : Word) (n : Nat) : (s.graphSeen lid crew a n).mem.dram = s.mem.dram := by
  unfold State.graphSeen
  split <;> simp

@[simp] theorem State.modGraph_dram (s : State) (lid crew : Nat) (f : Graph → Graph) : (s.modGraph lid crew f).mem.dram = s.mem.dram := rfl

@[simp] theorem State.doom_dram (s : State) (lid crew : Nat) (b : List Byte) (r : Option RunNode) : (s.doom lid crew b r).mem.dram = s.mem.dram := by
  unfold State.doom
  cases r <;> dsimp only <;> repeat' split
  all_goals simp

@[simp] theorem State.discard_dram (s : State) (lid crew : Nat) (n : Node) (id : Nat) : (s.discard lid crew n id).mem.dram = s.mem.dram := by
  unfold State.discard
  dsimp only
  split <;> simp

@[simp] theorem State.failNode_dram (s : State) (lid crew : Nat) (n : Node) (b : List Byte) (r : Option RunNode) (t : Trap) :
    (s.failNode lid crew n b r t).mem.dram = s.mem.dram := by
  unfold State.failNode
  dsimp only
  split <;> simp

@[simp] theorem State.dropRunning_dram (s : State) (lid crew id : Nat) : (s.dropRunning lid crew id).mem.dram = s.mem.dram := rfl

@[simp] theorem State.setRunning_dram (s : State) (lid crew : Nat) (r : RunNode) : (s.setRunning lid crew r).mem.dram = s.mem.dram := rfl

@[simp] theorem State.failRunning_dram (s : State) (lid crew : Nat) (r : RunNode) (t : Trap) : (s.failRunning lid crew r t).mem.dram = s.mem.dram := by
  simp [State.failRunning]

@[simp] theorem State.stage_dram (s : State) (lid crew : Nat) (bs : List Byte) : (s.stage lid crew bs).2.2.mem.dram = s.mem.dram := by
  unfold State.stage
  dsimp only
  repeat' split
  all_goals rfl

@[simp] theorem State.stageUnits_dram (lid crew n : Nat) (p : Piece) (s : State) :
    (State.stageUnits lid crew n p s).2.2.mem.dram = s.mem.dram := by
  induction n generalizing p s with
  | zero => rfl
  | succ n ih =>
    unfold State.stageUnits
    split
    · rfl
    · dsimp only
      split
      · simp
      · exact (ih _ _).trans (s.stage_dram _ _ _)

@[simp] theorem State.xformPiece_dram (s : State) (lid crew : Nat) (r : RunNode) : (s.xformPiece lid crew r).mem.dram = s.mem.dram := rfl

@[simp] theorem State.fillXform_dram (s : State) (lid crew : Nat) (b : List Byte) (seq : Nat) (src : List Byte) :
    (s.fillXform lid crew b seq src).mem.dram = s.mem.dram := by
  simp [State.fillXform]

@[simp] theorem State.sendPut_dram (s : State) (lid crew : Nat) (r : RunNode) (p : Piece) : (s.sendPut lid crew r p).mem.dram = s.mem.dram := rfl

@[simp] theorem State.getBody_dram (s : State) (lid crew : Nat) (r : RunNode) (k : Nat) : (s.getBody lid crew r k).mem.dram = s.mem.dram := by
  unfold State.getBody
  repeat' split
  all_goals rfl

@[simp] theorem State.acceptXform_dram (s : State) (lid crew : Nat) (r : RunNode) (w : EngWork) :
    (s.acceptXform lid crew r w).mem.dram = s.mem.dram := by
  simp [State.acceptXform]

@[simp] theorem State.failQueued_dram (s : State) (lid crew : Nat) (n : Node) (b : List Byte) (t : Trap) :
    (s.failQueued lid crew n b t).mem.dram = s.mem.dram := by
  simp [State.failQueued]

@[simp] theorem State.queuedError_dram (s : State) (lid crew : Nat) (n : Node) (b : List Byte) (t : Trap) :
    (s.queuedError lid crew n b t).mem.dram = s.mem.dram := by
  unfold State.queuedError
  split <;> simp

@[simp] theorem State.readNode_dram (s : State) (lid crew : Nat) (n : Node) (k : Nat) : (s.readNode lid crew n k).mem.dram = s.mem.dram := by
  unfold State.readNode State.readPart
  dsimp only
  repeat' split
  all_goals simp

@[simp] theorem State.reportStranger_dram (s : State) (lid : Nat) (n : Node) (b : List Byte) (t : Trap) :
    (s.reportStranger lid n b t).mem.dram = s.mem.dram := by
  unfold State.reportStranger
  dsimp only
  split <;> rfl

@[simp] theorem State.settleStuck_dram (s : State) (lid crew : Nat) : (s.settleStuck lid crew).mem.dram = s.mem.dram := by
  unfold State.settleStuck
  dsimp only
  split
  · refine foldl_dram _ _ (fun _ _ => ?_) _
    rfl
  · rfl

@[simp] theorem State.settleDoomed_dram (s : State) (core : Nat) : (s.settleDoomed core).mem.dram = s.mem.dram := by
  refine foldl_dram _ _ (fun st d => ?_) s
  split <;> rfl

/-! ### Crews and launches -/

@[simp] theorem State.leaveCore_dram (s : State) (lid c : Nat) : (s.leaveCore lid c).mem.dram = s.mem.dram := by
  have hf : ((s.crewRecords lid c).foldl (fun st x => st.freeRecord x.1) s).mem.dram = s.mem.dram := by
    refine foldl_dram _ _ (fun _ _ => ?_) _
    rfl
  unfold State.leaveCore
  dsimp only
  repeat' split
  all_goals simpa using hf

@[simp] theorem State.dropViewsOf_dram (s : State) (l : Launch) : (s.dropViewsOf l).mem.dram = s.mem.dram := by
  simp [State.dropViewsOf]

@[simp] theorem State.freeDeques_dram (s : State) (lid : Nat) : (s.freeDeques lid).mem.dram = s.mem.dram := rfl

@[simp] theorem State.closeSockets_dram (s : State) (lid : Nat) : (s.closeSockets lid).mem.dram = s.mem.dram := by
  refine foldl_dram _ _ (fun _ _ => ?_) _
  rfl

@[simp] theorem State.stopCrew_dram (s : State) (c : Crew) : (s.stopCrew c).mem.dram = s.mem.dram := by
  simp [State.stopCrew]

@[simp] theorem State.endLaunch_dram (s : State) (lid cause : Nat) : (s.endLaunch lid cause).mem.dram = s.mem.dram := by
  unfold State.endLaunch
  repeat' split
  all_goals simp

@[simp] theorem State.addRecords_dram (s : State) (lid : Nat) (rs : List (List Byte)) : (s.addRecords lid rs).mem.dram = s.mem.dram := by
  simp [State.addRecords]

@[simp] theorem State.dropAttempt_dram (s : State) (l : Launch) (set : List (Nat × Nat)) : (s.dropAttempt l set).mem.dram = s.mem.dram := by
  unfold State.dropAttempt
  dsimp only
  rw [State.modLaunch_mem]
  refine foldl_dram _ _ (fun st v => ?_) s
  split <;> simp

@[simp] theorem State.killSet_dram (s : State) (lid c cause : Nat) : (s.killSet lid c cause).mem.dram = s.mem.dram := by
  unfold State.killSet
  dsimp only
  split <;> simp

@[simp] theorem State.toDebugger_dram (s : State) (q : Nat) : (s.toDebugger q).mem.dram = s.mem.dram := by
  simp [State.toDebugger]

@[simp] theorem State.actOnTrap_dram (s : State) (q : Nat) : (s.actOnTrap q).mem.dram = s.mem.dram := by
  unfold State.actOnTrap
  dsimp only
  repeat' split
  all_goals simp

@[simp] theorem State.answerCall_dram (s : State) (q lane : Nat) (v : Word) : (s.answerCall q lane v).mem.dram = s.mem.dram := by
  unfold State.answerCall
  split
  · rfl
  · split
    · dsimp only
      repeat' split
      all_goals simp
    · rfl

@[simp] theorem State.answerUnknown_dram (s : State) (q : Nat) : (s.answerUnknown q).mem.dram = s.mem.dram := by
  unfold State.answerUnknown
  repeat' split
  all_goals simp

@[simp] theorem State.answerRef_dram (s : State) (r : SquadRef) (lane : Nat) (v : Word) : (s.answerRef r lane v).mem.dram = s.mem.dram := by
  unfold State.answerRef
  split <;> simp

@[simp] theorem State.newHandle_dram (s : State) (c : Call) (h : Handle) : (s.newHandle c h).1.mem.dram = s.mem.dram := by
  simp [State.newHandle]

@[simp] theorem State.dropHandle_dram (s : State) (c : Call) (n : Nat) : (s.dropHandle c n).mem.dram = s.mem.dram := by
  simp [State.dropHandle]

@[simp] theorem State.bufferSeen_dram (s : State) (c : Call) (a n : Nat) : (s.bufferSeen c a n).mem.dram = s.mem.dram :=
  State.graphSeen_dram ..

@[simp] theorem State.commandSeen_dram (s : State) (c : Call) (x : Nvme) : (s.commandSeen c x).mem.dram = s.mem.dram := by
  cases x <;> simp [State.commandSeen]

/-! ### Binding and pre-emption -/

@[simp] theorem State.takeEngine_dram (s : State) (l : Launch) (x : Spot) (saved : Option Engine) :
    (s.takeEngine l x saved).mem.dram = s.mem.dram := by
  unfold State.takeEngine
  split <;> rfl

@[simp] theorem State.takeDeque_dram (s : State) (l : Launch) (core : Nat) : (s.takeDeque l core).mem.dram = s.mem.dram := by
  unfold State.takeDeque
  split <;> simp

@[simp] theorem State.bindCrew_dram (s : State) (l : Launch) (x : Spot) : (s.bindCrew l x).mem.dram = s.mem.dram := by
  have hf (ps : List (Nat × Squad)) : (ps.foldl (fun st p => st.placeSquad p.1 p.2) s).mem.dram = s.mem.dram := by
    refine foldl_dram _ _ (fun _ _ => ?_) _
    rfl
  unfold State.bindCrew
  dsimp only
  split <;> simp [hf]

@[simp] theorem State.faultRecords_dram (s : State) (lid : Nat) (cs : List Nat) (state : Nat) :
    (s.faultRecords lid cs state).mem.dram = s.mem.dram := by
  simp [State.faultRecords]

@[simp] theorem State.requestStop_dram (s : State) (lid crew : Nat) : (s.requestStop lid crew).mem.dram = s.mem.dram := by
  refine foldl_dram _ _ (fun _ _ => ?_) _
  rfl

@[simp] theorem State.saveDeque_dram (s : State) (lid core : Nat) : (s.saveDeque lid core).mem.dram = s.mem.dram := by
  unfold State.saveDeque
  split <;> simp

/-! ### Messages -/

@[simp] theorem State.refuseRemote_dram (s : State) (job peer msg : Nat) (t : Trap) : (s.refuseRemote job peer msg t).mem.dram = s.mem.dram := rfl

@[simp] theorem State.remoteWrite_dram (s : State) (job peer msg seq count : Nat) (addr : Word) (data : List Byte) :
    (s.remoteWrite job peer msg seq count addr data).mem.dram = s.mem.dram := by
  unfold State.remoteWrite
  repeat' split
  all_goals simp

@[simp] theorem State.remoteRead_dram (s : State) (job peer msg seq entropy : Nat) (addr : Word) (len : Nat) :
    (s.remoteRead job peer msg seq entropy addr len).mem.dram = s.mem.dram := by
  unfold State.remoteRead
  split
  · rfl
  · split
    · rfl
    · exact s.readParts_dram _

@[simp] theorem State.getData_dram (s : State) (msg seq off : Nat) (data : List Byte) : (s.getData msg seq off data).mem.dram = s.mem.dram := by
  unfold State.getData
  repeat (split; rotate_right; · rfl)
  dsimp only
  repeat' split
  all_goals simp

@[simp] theorem State.acknowledge_dram (s : State) (m : Message) : (s.acknowledge m).mem.dram = s.mem.dram := by
  cases m <;> unfold State.acknowledge <;> repeat' split
  all_goals simp

@[simp] theorem State.resend_dram (s : State) (x : Sent) : (s.resend x).mem.dram = s.mem.dram := by
  unfold State.resend
  split <;> simp

@[simp] theorem State.resendFrom_dram (s : State) (peer : Option Nat) (port : Nat) : (s.resendFrom peer port).mem.dram = s.mem.dram := by
  simp [State.resendFrom]

@[simp] theorem State.failPeer_dram (s : State) (peer : Nat) (c : Crew) : (s.failPeer peer c).mem.dram = s.mem.dram := by
  have hf (rs : List RunNode) : (rs.foldl (fun st r => (match r.msg.bind fun id => st.outgoing id with
      | some m => (st.dropMessage m).dropData (messageRef c.lid c.idx m.id)
      | none => st).failRunning c.lid c.idx r ⟨0x0F, 0⟩) s).mem.dram = s.mem.dram := by
    refine foldl_dram _ _ (fun st r => ?_) s
    rw [State.failRunning_dram]
    split <;> rfl
  unfold State.failPeer
  dsimp only
  split
  · exact hf _
  · rw [State.failQueued_dram]
    exact hf _

/-! ### Inversions, queues and deques -/

@[simp] theorem InvArgs.keep_dram (p : InvArgs) (s : State) (before xs : List InvLane) : (p.keep s before xs).mem.dram = s.mem.dram := by
  simp [InvArgs.keep]

@[simp] theorem State.slotAll_dram (s : State) (stall : Nat) : (s.slotAll stall).mem.dram = s.mem.dram := by
  simp [State.slotAll]

@[simp] theorem State.oldStamps_dram (s : State) (q : Nat) (ls : List Nat) : (s.oldStamps q ls).mem.dram = s.mem.dram := by
  simp [State.oldStamps]

@[simp] theorem State.setRun_dram (s : State) (q : Nat) (lanes : BitVec 32) (r : Option InvRun) : (s.setRun q lanes r).mem.dram = s.mem.dram := by
  simp [State.setRun]

@[simp] theorem InvArgs.endStep_dram (p : InvArgs) (s : State) (r : InvRun) : (p.endStep s r).mem.dram = s.mem.dram := by
  unfold InvArgs.endStep
  dsimp only
  split
  · simp
  · simp only [State.setRun_dram]
    split <;> simp

@[simp] theorem InvArgs.complete_dram (p : InvArgs) (s : State) (i : Instr) (r : InvRun) : (p.complete s i r).mem.dram = s.mem.dram := by
  simp [InvArgs.complete]

@[simp] theorem InvArgs.slot_dram (p : InvArgs) (s : State) (i : Instr) (r : InvRun) : (p.slot s i r).mem.dram = s.mem.dram := by
  unfold InvArgs.slot
  dsimp only
  repeat' split
  all_goals simp

@[simp] theorem State.beginInv_dram (s s0 : State) (ls : List Nat) : (s.beginInv s0 ls).mem.dram = s.mem.dram := by
  simp [State.beginInv]

@[simp] theorem State.dqPut_dram (s0 s : State) (x : Nat × Reg) : (State.dqPut s0 s x).mem.dram = s.mem.dram := by
  unfold State.dqPut
  dsimp only
  rw [State.modThread_mem]
  split <;> rfl

@[simp] theorem State.dqTake_dram (s0 s : State) (core : Option Nat) (bottom : Bool) (d : RegCode) (l : Nat) :
    (State.dqTake s0 s core bottom d l).mem.dram = s.mem.dram := by
  unfold State.dqTake
  dsimp only
  rw [State.modThread_mem]
  split <;> rfl

end Sys2Proof.Machine
end

section
/-!
SUPPORT for O58. The rules by which an instruction or an event keeps DRAM canonical, and the operations that write DRAM, in the order of the
modules that define them.
-/
namespace Sys2Proof.Machine

/-- Whatever value a computation with checks answers, it has the property. -/
def OkAll {ε α : Type} (P : α → Prop) (x : Except ε α) : Prop := ∀ t, x = .ok t → P t

section OkAll

variable {ε α β : Type} {P : α → Prop}

@[simp] theorem okAll_ok {t : α} : OkAll P (.ok t : Except ε α) ↔ P t := by simp [OkAll]

@[simp] theorem okAll_error {e : ε} : OkAll P (.error e : Except ε α) := by simp [OkAll]

@[simp] theorem okAll_bind {x : Except ε β} {f : β → Except ε α} : OkAll P (x >>= f) ↔ ∀ a, x = .ok a → OkAll P (f a) := by
  cases x <;> simp [OkAll, bind, Except.bind]

@[simp] theorem okAll_ite {c : Prop} [Decidable c] {x y : Except ε α} :
    OkAll P (if c then x else y) ↔ (c → OkAll P x) ∧ (¬c → OkAll P y) := by
  split <;> simp_all

theorem OkAll.of_toOption {x : Except ε α} {t : α} (h : OkAll P x) (e : x.toOption = some t) : P t := by
  cases x with
  | error => cases e
  | ok a =>
    injection e with e
    exact e ▸ h a rfl

end OkAll

/-- Whatever state an outcome goes on to, its DRAM is canonical. -/
def NextCanonical (o : Host.Outcome State Fault Refusal) : Prop := ∀ t, o = .next t → t.canonical

theorem NextCanonical.next {t : State} (h : t.canonical) : NextCanonical (.next t) := fun _ e => by
  injection e with e
  exact e ▸ h

theorem KeptByThreads.canonical : KeptByThreads State.canonical := KeptByThreads.ofMem fun m => m.dram.wf = true

/-- What an instruction does in one lane keeps DRAM canonical. -/
def LaneKeeps (f : Ctx → State → Except Trap State) : Prop := ∀ cx s, s.canonical → OkAll State.canonical (f cx s)

/-- What an instruction does in a whole issue set keeps DRAM canonical: `s` has every thread advanced, `s0` is the state before. -/
def SetKeeps (f : State → State → List Nat → Except SetTrap State) : Prop :=
  ∀ s s0 act, s0.canonical → s.canonical → OkAll State.canonical (f s s0 act)

variable {s : State}

theorem State.canonical_execLanes {i : Instr} {g : BitVec 2} {stall : Nat} {f : Ctx → State → Except Trap State} (hf : LaneKeeps f)
    (h : s.canonical) : (s.execLanes i g stall f).canonical :=
  KeptByThreads.canonical.execLanes (fun cx s t hs e => hf cx s hs t e) h

theorem State.canonical_execThread {i : Instr} {g : BitVec 2} {stall : Nat} {f : Ctx → Thread → Except Trap Thread} (h : s.canonical) :
    (s.execThread i g stall f).canonical :=
  KeptByThreads.canonical.execThread h

theorem State.canonical_execSet {i : Instr} {g : BitVec 2} {stall : Nat} {f : State → State → List Nat → Except SetTrap State}
    (hf : SetKeeps f) (h : s.canonical) : (s.execSet i g stall f).canonical :=
  KeptByThreads.canonical.execSet h fun s' act t hs e => hf s' s act h hs t e

/-! ### Loads and stores -/

theorem State.canonical_putParts (lid crew n off : Nat) (bs : List Byte) (h : s.canonical) : (s.putParts lid crew n off bs).canonical := by
  induction n generalizing s off bs with
  | zero => exact h
  | succ n ih =>
    unfold State.putParts
    split
    · exact h
    · exact ih _ _ (State.canonical_landPart _ _ _ _ _ _ _ h)

theorem State.canonical_putScratch (lid crew off : Nat) (bs : List Byte) (h : s.canonical) : (s.putScratch lid crew off bs).canonical :=
  State.canonical_putParts _ _ _ _ _ h

theorem State.canonical_appendEntry (lid crew : Nat) (ch : Chunk) (e : HoldEntry) (h : s.canonical) :
    (s.appendEntry lid crew ch e).canonical :=
  State.canonical_putScratch lid crew (ch.offset + 32 * (32 + ch.used)) e.bytes h

theorem canonical_finishLoad (i : Instr) (f : LoadForm) (addr : Word) (loc : Loc) (cx : Ctx) (h : s.canonical) :
    (finishLoad i f addr loc cx s).canonical := by
  have hb := State.canonical_bring s (s.loadNeeds cx loc (loadKind cx f.q) f.size) h
  unfold finishLoad
  dsimp only
  split
  · exact State.canonical_of_dram (by simp) hb
  · exact State.canonical_of_dram (by simp) hb

theorem loadLane_keeps (i : Instr) (opnd : Ctx → Thread → Except Trap AddrOp) (f : LoadForm) : LaneKeeps (loadLane i opnd f) := by
  intro cx s h
  simp only [loadLane, okAll_bind, okAll_ok]
  intro a _ x _
  exact canonical_finishLoad i f x.1 x.2 cx h

theorem State.canonical_hold (cx : Ctx) (a : AddrOp) (addr : Word) (size : Nat) (data : Word) (h : s.canonical) :
    (s.hold cx a addr size data).canonical := by
  unfold State.hold
  dsimp only
  split
  · exact h
  · split
    · exact State.canonical_of_dram (by simp) h
    · exact KeptByThreads.canonical.modThread _ _ _ (State.canonical_appendEntry _ _ _ _ h)

theorem storeLane_keeps (opnd : Ctx → Thread → Except Trap AddrOp) (size : Nat) (rel : Bool) (d : RegCode) :
    LaneKeeps (storeLane opnd size rel d) := by
  intro cx s h
  simp only [storeLane, okAll_bind, okAll_ite, okAll_ok]
  intro a _ v _ x _
  refine ⟨fun _ => State.canonical_hold _ _ _ _ _ h, fun _ => ?_⟩
  split <;> exact State.canonical_of_dram (by simp) h

theorem State.canonical_retryLoad (q l : Nat) (h : s.canonical) : (s.retryLoad q l).canonical := by
  have hu : (s.modThread q l Thread.unwait).canonical := State.canonical_of_dram (by simp) h
  unfold State.retryLoad
  dsimp only
  split
  · split
    · exact h
    · split
      · exact h
      · split
        · exact h
        · exact State.canonical_execLanes (fun cx st hs => okAll_ok.mpr (canonical_finishLoad _ _ _ _ cx hs)) hu
  · exact h

/-! ### Atomics -/

theorem State.atomicAt_keeps (cx : Ctx) (addr : Word) (loc : Loc) (p : AtomicPlan) (h : s.canonical) :
    OkAll State.canonical (s.atomicAt cx addr loc p) := by
  have hn (place : Place) : ((s.fixAtomic cx loc p.size p.ar p.writes).noteRead place).canonical := State.canonical_of_dram (by simp) h
  simp only [State.atomicAt, okAll_ite, okAll_error, implies_true, okAll_ok, true_and]
  intro _
  unfold State.canonical
  rw [State.modThread_mem]
  split
  · split <;> exact State.canonical_of_dram (by simp) h
  · split
    · exact State.canonical_landPart _ _ _ _ _ _ _ (hn _)
    · exact hn _
  · split
    · exact State.canonical_landPart _ _ _ _ _ _ _ (hn _)
    · exact hn _

theorem State.atAtomicPoint_keeps (cx : Ctx) (i : Instr) (addr : Word) (loc : Loc) (held : Bool) (p : AtomicPlan) (h : s.canonical) :
    OkAll State.canonical (s.atAtomicPoint cx i addr loc held p) := by
  have hb : (if (held && s.atomicHeld loc p) || s.lowerWaits cx then (s, false) else s.bring (s.atomicNeeds cx loc p)).1.canonical := by
    split
    · exact h
    · exact State.canonical_bring _ _ h
  unfold State.atAtomicPoint
  dsimp only
  rw [okAll_ite, okAll_ok]
  exact ⟨fun _ => State.atomicAt_keeps cx addr loc p hb, fun _ => State.canonical_of_dram (by simp) hb⟩

theorem atomicStep_keeps (i : Instr) (plan : Ctx → Thread → Except Trap AtomicPlan) : LaneKeeps (atomicStep i plan) := by
  intro cx s h
  simp only [atomicStep, okAll_bind, okAll_ite, okAll_error, implies_true, true_and]
  intro p _ x _ _
  exact State.atAtomicPoint_keeps _ _ _ _ _ _ h

theorem retryAtomic_keeps (i : Instr) (addr : Word) (loc : Loc) (held : Bool) (plan : Ctx → Thread → Except Trap AtomicPlan) :
    LaneKeeps (retryAtomic i addr loc held plan) := by
  intro cx s h
  simp only [retryAtomic, okAll_bind]
  intro p _
  exact State.atAtomicPoint_keeps _ _ _ _ _ _ h

theorem State.canonical_retryAtomics (q : Nat) (i : Instr) (ls : List Nat) (plan : Ctx → Thread → Except Trap AtomicPlan)
    (h : s.canonical) : (s.retryAtomics q i ls plan).canonical := by
  have hu : (s.unwait q ls).canonical := State.canonical_of_dram (by simp) h
  refine State.canonical_execLanes (fun cx st hs => ?_) hu
  split
  · exact retryAtomic_keeps _ _ _ _ _ cx st hs
  · exact okAll_ok.mpr hs

/-- Writes brought out for the parties of a barrier (R143). -/
theorem State.canonical_bringParties (scope : Nat) (ps : List Party) (h : s.canonical) : (s.bringParties scope ps).1.canonical :=
  State.canonical_bring _ _ (State.canonical_of_dram (State.fixReads_dram _ _) h)

theorem State.canonical_publish {t : State} {r : SquadRef} {act : List Nat} {scope : Nat} (h : s.canonical)
    (e : s.publish r act scope = some t) : t.canonical := by
  unfold State.publish at e
  dsimp only at e
  split at e
  · injection e with e
    exact e ▸ State.canonical_bring _ _ h
  · cases e

theorem State.canonical_pushElem (lid crew : Nat) (n : BitVec 3) (e : Word × Word) (h : s.canonical) :
    (s.pushElem lid crew n e).canonical :=
  State.canonical_putScratch (s := { s with freeCtr := s.freeCtr + 1 }) lid crew _ _ h

/-- A completion object read at acquire, for WAITOBJ and POLLOBJ (R292). -/
theorem State.readObject_keeps (b a : RegCode) (cx : Ctx) (h : s.canonical) :
    OkAll (fun r => ∀ x, r = some x → x.2.2.canonical) (s.readObject b a cx) := by
  simp only [State.readObject, okAll_bind, okAll_ok]
  intro obj _ count _ loc _ x hx
  have hb := State.canonical_bring s (s.loadNeeds cx loc ⟨false, true⟩ 16) h
  have hk (t : State) (ht : t.canonical) :
      ((match loc.place with | some p => t.noteRead p | none => t).fixOwn cx.ref cx.lane fun r => r.keeps loc 16 0).canonical := by
    refine State.canonical_of_dram (State.fixOwn_dram ..) ?_
    split
    · exact State.canonical_of_dram (State.noteRead_dram ..) ht
    · exact ht
  generalize s.bring (s.loadNeeds cx loc ⟨false, true⟩ 16) = b1 at hx hb
  split at hx
  · split at hx
    · injection hx with hx
      exact hx ▸ hk _ (State.canonical_bring _ _ hb)
    · cases hx
  · split at hx
    · injection hx with hx
      exact hx ▸ hk _ hb
    · cases hx

/-! ### Views -/

theorem vallocLane_keeps (i : Instr) (b a d : RegCode) : LaneKeeps (vallocLane i b a d) := by
  intro cx s h
  simp only [vallocLane, okAll_bind]
  intro x _ y _
  split
  · simp
  · split
    · next j r _ _ =>
      simp only [okAll_ite, okAll_error, implies_true, true_and]
      intro _
      have hg (gs : List Nat) : (gs.foldl (fun st g => st.fillGranule j r g) s).canonical :=
        canonical_foldl _ _ (fun st g hs => State.canonical_fillGranule st _ _ g hs) s h
      split
      · simp
      · simp only [okAll_ite, okAll_ok]
        refine ⟨fun _ => State.canonical_of_dram (by simp) h, fun _ => ?_⟩
        split
        · exact okAll_ok.mpr (State.canonical_of_dram (by simp) h)
        · simp only [okAll_ite, okAll_ok]
          refine ⟨fun _ => State.canonical_of_dram (by simp) h, fun _ => ?_⟩
          exact State.canonical_of_dram (by simp) (hg (granulesOf x.data.toNat (x.data.toNat + y.data.toNat)))
    · simp

/-! ### Engine transfers and graph nodes -/

theorem State.canonical_writePart (lid crew : Nat) (p : Part) (bs : List Byte) (h : s.canonical) : (s.writePart lid crew p bs).canonical :=
  State.canonical_landPart _ _ _ _ _ _ _ h

theorem State.canonical_opWrite {t : State} {core tile k : Nat} {o o' : EngOp} {bad : Bool} (h : s.canonical)
    (e : s.opWrite core o tile k bad = some (o', t)) : t.canonical := by
  unfold State.opWrite at e
  obtain ⟨x, _, hx⟩ := Option.map_eq_some_iff.mp e
  rw [Prod.mk.injEq] at hx
  rw [← hx.2]
  split
  · exact State.canonical_of_dram (State.mark_dram _ _) (State.canonical_writePart _ _ _ _ h)
  · exact State.canonical_writePart _ _ _ _ h

theorem State.canonical_recordProg (lid crew : Nat) (r : RunNode) (h : s.canonical) : (s.recordProg lid crew r).canonical := by
  unfold State.recordProg
  split
  · exact State.canonical_graphWrite _ _ _ _ _ (State.canonical_graphWrite _ _ _ _ _ h)
  · exact h

theorem State.canonical_stagingError {s0 : State} (lid crew : Nat) (r : RunNode) (t : Trap) (h : s.canonical) (h0 : s0.canonical) :
    (s.stagingError s0 lid crew r t).canonical := by
  unfold State.stagingError
  split
  · exact State.canonical_of_dram (by simp) h
  · split
    · exact h0
    · exact State.canonical_recordProg _ _ _ h

theorem State.canonical_freePart (p : Part) (h : s.canonical) : (s.freePart p).canonical := by
  refine State.canonical_putBytes _ _ _ ?_
  split
  · split
    · exact h
    · exact State.canonical_setDirty _ _ _ _ h
  · exact h

theorem State.canonical_freeDst (lid crew : Nat) (b : List Byte) (h : s.canonical) : (s.freeDst lid crew b).canonical := by
  refine canonical_foldl _ _ (fun st x hs => ?_) s h
  split
  · exact hs
  · exact State.canonical_freePart _ hs

theorem State.canonical_fillDst (lid crew : Nat) (b bs : List Byte) (h : s.canonical) : (s.fillDst lid crew b bs).canonical :=
  canonical_foldl _ _ (fun _ _ hs => State.canonical_writePart _ _ _ _ hs) s h

theorem State.canonical_endXform (lid crew : Nat) (r : RunNode) (p : Piece) (h : s.canonical) : (s.endXform lid crew r p).canonical := by
  have h1 : { s with freeCtr := s.freeCtr + 1 }.canonical := h
  unfold State.endXform
  refine State.canonical_of_dram (State.setRunning_dram ..) ?_
  split
  · split
    · exact State.canonical_freeDst _ _ _ h1
    · exact State.canonical_fillDst _ _ _ _ h1
  · exact State.canonical_of_dram (by simp) h1
  · exact h1

/-- A launch record taken in (R104, R105, R191). -/
theorem State.takeLaunch_keeps (j : Job) (b : List Byte) (lid : Nat) (at_ : Option Nat) (reqid : Word) (replied : Bool) (h : s.canonical) :
    OkAll (fun r => r.1.canonical) (s.takeLaunch j b lid at_ reqid replied) := by
  unfold State.takeLaunch
  dsimp only
  split
  · simp
  · split
    · simp
    · next s0 hr =>
      have h0 : s0.canonical := State.canonical_foldlM _ _ (fun _ _ _ hs e => State.canonical_resideRange hs e) h hr
      split
      · simp
      · exact okAll_ok.mpr h0

theorem State.canonical_admitNode (lid crew : Nat) (r : RunNode) (b : List Byte) (h : s.canonical) : (s.admitNode lid crew r b).canonical := by
  unfold State.admitNode
  split
  · exact h
  · next j _ =>
    have hs : (s.tablesSeen j b).canonical := State.canonical_of_dram (by simp) h
    dsimp only
    split
    · next t _ e => exact State.takeLaunch_keeps _ _ _ _ _ _ hs _ e
    · exact hs

theorem State.canonical_pieceNext (lid crew : Nat) (r : RunNode) (p : Piece) (h : s.canonical) : (s.pieceNext lid crew r p).canonical := by
  unfold State.pieceNext
  dsimp only
  split
  · exact h
  · split
    · exact h
    · exact State.canonical_endXform _ _ _ _ h
    · exact h
    · exact State.canonical_admitNode _ _ _ _ h
    · exact h

theorem State.canonical_readAct (lid crew : Nat) (r : RunNode) (p : Piece) (k : Nat) (x : Nat × Nat × Nat) (h : s.canonical) :
    (s.readAct lid crew r p k x).canonical := by
  unfold State.readAct
  split
  · exact State.canonical_of_dram (by simp) h
  · exact h
  · next part _ =>
    have h1 : (s.readPart part).2.2.canonical := State.canonical_of_dram (by simp) h
    have h2 (n : Nat) (q : Piece) : (State.stageUnits lid crew n q (s.readPart part).2.2).2.2.canonical := State.canonical_of_dram (by simp) h
    dsimp only
    split
    · exact State.canonical_stagingError _ _ _ _ h1 h
    · split
      · exact State.canonical_pieceNext _ _ _ _ h1
      · split
        · exact State.canonical_stagingError _ _ _ _ (h2 _ _) h
        · exact State.canonical_pieceNext _ _ _ _ (h2 _ _)

theorem State.canonical_writeAct (lid crew : Nat) (r : RunNode) (p : Piece) (x : Nat × Nat × Nat) (h : s.canonical) :
    (s.writeAct lid crew r p x).canonical := by
  unfold State.writeAct
  split
  · exact State.canonical_of_dram (by simp) h
  · exact h
  · split
    · exact h
    · split
      · split
        · exact h
        · exact State.canonical_pieceNext _ _ _ _ (State.canonical_freePart _ h)
      · exact State.canonical_pieceNext _ _ _ _ (State.canonical_writePart _ _ _ _ h)

theorem State.canonical_pieceAct (lid crew : Nat) (r : RunNode) (p : Piece) (k : Nat) (h : s.canonical) :
    (s.pieceAct lid crew r p k).canonical := by
  unfold State.pieceAct
  split
  · exact State.canonical_readAct _ _ _ _ _ _ h
  · dsimp only
    split
    · exact State.canonical_writeAct _ _ _ _ _ h
    · exact h

/-- A node's body keeps DRAM canonical. -/
def BodyKeeps (body : State → Nat → Nat → RunNode → Nat → State) : Prop :=
  ∀ s lid crew r k, s.canonical → (body s lid crew r k).canonical

theorem dataBody_keeps : BodyKeeps State.dataBody := by
  intro s lid crew r k h
  unfold State.dataBody
  split
  · exact State.canonical_pieceAct _ _ _ _ _ h
  · split
    · exact h
    · split <;> exact h

theorem launchBody_keeps : BodyKeeps State.launchBody := by
  intro s lid crew r k h
  unfold State.launchBody
  split
  · exact State.canonical_pieceAct _ _ _ _ _ h
  · exact h

theorem getBody_keeps : BodyKeeps State.getBody := fun _ _ _ _ _ h => State.canonical_of_dram (State.getBody_dram ..) h

theorem xformBody_keeps : BodyKeeps State.xformBody := by
  intro s lid crew r k h
  unfold State.xformBody
  dsimp only
  split
  · split
    · exact State.canonical_of_dram (by simp) h
    · exact h
  · exact State.canonical_of_dram (by simp) h
  · split
    · exact h
    · split
      · exact State.canonical_pieceAct _ _ _ _ _ h
      · exact h

theorem State.canonical_startNode (lid crew : Nat) (n : Node) (h : s.canonical) : (s.startNode lid crew n).canonical := by
  unfold State.startNode
  dsimp only
  split
  · split <;> exact State.canonical_of_dram (by simp) h
  · refine State.canonical_of_dram (State.modGraph_dram ..) ?_
    split
    · exact State.canonical_freeDst _ _ _ h
    · exact h

/-- A node's next action, whatever its kind (R286). -/
theorem State.canonical_nodeStep {body : State → Nat → Nat → RunNode → Nat → State} (hb : BodyKeeps body) (lid crew id kind k : Nat)
    (h : s.canonical) : (s.nodeStep lid crew id kind k body).canonical := by
  unfold State.nodeStep
  dsimp only
  split
  · split
    · exact hb _ _ _ _ _ h
    · exact h
  · split
    · exact h
    · split
      · exact h
      · split
        · exact State.canonical_of_dram (by simp) h
        · split
          · exact State.canonical_startNode _ _ _ h
          · exact h

theorem State.canonical_passRun (lid crew : Nat) (r : RunNode) (succ : Word) (h : s.canonical) : (s.passRun lid crew r succ).canonical := by
  unfold State.passRun
  split
  · exact h
  · split
    · exact State.canonical_graphWrite _ _ _ _ _ (State.canonical_of_dram (by simp) h)
    · exact h

theorem State.canonical_countDown (lid crew : Nat) (n : Node) (succ : Word) (h : s.canonical) : (s.countDown lid crew n succ).canonical := by
  have hs : ({ s with seq := s.seq + 1 }.graphSeen lid crew (succ + 2) 2).canonical := State.canonical_of_dram (by simp) h
  have hw (bs : List Byte) := State.canonical_graphWrite _ lid crew (succ + 2) bs hs
  unfold State.countDown
  split
  · next c _ _ _ =>
    dsimp only
    split
    · exact State.canonical_of_dram (by simp) hs
    · split
      · exact hw _
      · split
        · exact State.canonical_of_dram (by simp) (hw (bytesLE 2 (natLE c - 1)))
        · exact hw _
  · exact h

theorem State.canonical_finishAct (lid crew : Nat) (r : RunNode) (h : s.canonical) : (s.finishAct lid crew r).canonical := by
  have hs (o : Option Word) (f : Word → State) (hf : ∀ a, (f a).canonical) : ((o.map f).getD s).canonical := by
    cases o with
    | none => exact h
    | some a => exact hf a
  unfold State.finishAct
  dsimp only
  split
  · split
    · exact State.canonical_graphWrite _ _ _ _ _ h
    · exact h
  · split
    · exact hs _ _ fun _ => State.canonical_passRun _ _ _ _ h
    · split
      · split
        · exact h
        · exact State.canonical_graphSignal _ _ _ _ _ h
      · exact hs _ _ fun _ => State.canonical_countDown _ _ _ _ h

/-! ### The ends of crews and launches -/

theorem State.canonical_freeImage (lid c : Nat) (h : s.canonical) : (s.freeImage lid c).canonical := by
  unfold State.freeImage
  split
  · exact State.canonical_giveFrame _ _ _ h
  · exact h

theorem State.canonical_leaveAndFree (lid c : Nat) (h : s.canonical) : ((s.leaveCore lid c).freeImage lid c).canonical :=
  State.canonical_freeImage _ _ (State.canonical_of_dram (State.leaveCore_dram ..) h)

theorem State.canonical_freeLaunch (lid : Nat) (h : s.canonical) : (s.freeLaunch lid).canonical := by
  have h1 := canonical_foldl (s.crewsOf lid) (fun st c => (st.leaveCore lid c.idx).freeImage lid c.idx)
    (fun st c hs => State.canonical_leaveAndFree lid c.idx hs) s h
  unfold State.freeLaunch
  dsimp only
  generalize (s.crewsOf lid).foldl _ s = s1 at h1
  have h2 : ({ (s1.freeDeques lid).closeSockets lid with crews := s1.crews.filter fun c => c.2.lid != lid }.dropViewsOf (s.launchOf lid)).canonical :=
    State.canonical_of_dram (by simp) h1
  have h3 := canonical_foldl (s.launchOf lid).pool (fun st p => st.giveFrame p.1 p.2) (fun st p hs => State.canonical_giveFrame st _ _ hs) _
    (State.canonical_releaseRanges _ (s.launchOf lid) h2)
  split <;> exact h3

theorem State.canonical_signalDone (l : Launch) (word : Nat) (h : s.canonical) : (s.signalDone l word).canonical := by
  unfold State.signalDone
  split
  · exact State.canonical_signalAt _ _ _ _ h
  · exact h

theorem State.canonical_relaunch (l : Launch) (set : List (Nat × Nat)) (h : s.canonical) : (s.relaunch l set).canonical := by
  unfold State.relaunch State.canonical
  dsimp only
  rw [State.modLaunch_mem]
  refine canonical_foldl _ _ (fun st c hs => ?_) s h
  exact State.canonical_leaveAndFree l.lid c.idx hs

/-! ### Binding and pre-emption -/

theorem State.canonical_takeImage {t : State} {lid c : Nat} (h : s.canonical) (e : s.takeImage lid c = some t) : t.canonical := by
  unfold State.takeImage at e
  split at e
  · injection e with e
    exact e ▸ h
  · obtain ⟨x, hx, ht⟩ := Option.map_eq_some_iff.mp e
    rw [← ht]
    exact (State.canonical_takeFrame h hx : x.1.canonical)

theorem State.canonical_bindSet (lid : Nat) (places : List Spot) (state : BitVec 8) (h : s.canonical) : (s.bindSet lid places state).canonical := by
  unfold State.bindSet
  dsimp only
  split
  · exact h
  · split
    · exact h
    · next s1 e =>
      have h1 : s1.canonical := State.canonical_foldlM _ _ (fun _ _ _ hs hx => State.canonical_takeImage hs hx) h e
      split <;> exact State.canonical_of_dram (by simp) h1

theorem State.canonical_writeImage (sq : Squad) (h : s.canonical) : (s.writeImage sq).canonical := State.canonical_landPart _ _ _ _ _ _ _ h

theorem State.canonical_saveGraph (lid crew core : Nat) (h : s.canonical) : (s.saveGraph lid crew core).canonical := by
  have h1 := canonical_foldl (s.crewOf lid crew).graph.running (fun st r => st.recordProg lid crew r)
    (fun st r hs => State.canonical_recordProg _ _ _ hs) s h
  unfold State.saveGraph
  refine State.canonical_of_dram (State.modGraph_dram ..) ?_
  split
  · exact h1
  · refine canonical_foldl _ _ (fun _ _ hs => ?_) _ h1
    exact hs

/-- Images of saved squads, one after another. -/
theorem State.canonical_writeImages {xs : List (Nat × Squad)} {f : State → Nat × Squad → State} (hf : ∀ st x, f st x = st.writeImage x.2)
    (h : s.canonical) : (xs.foldl f s).canonical := by
  refine canonical_foldl xs f (fun st x hs => ?_) s h
  rw [hf]
  exact State.canonical_writeImage x.2 hs

theorem State.canonical_saveCrew (lid crew : Nat) (h : s.canonical) : (s.saveCrew lid crew).canonical := by
  unfold State.saveCrew
  extract_lets c gone
  split
  · exact h
  · next core _ =>
    extract_lets s1 s2 squads s3 eng kept s4
    have h1 : s1.mem.dram = s.mem.dram := by simp [s1]
    have h2 : s2.canonical := State.canonical_saveGraph lid crew core (State.canonical_of_dram (by simp [h1]) h)
    clear_value s2 squads
    have h3 : s3.canonical := State.canonical_writeImages (fun _ _ => rfl) h2
    have h4 : (s4.saveDeque lid core).mem.dram = s3.mem.dram := by simp [s4]
    exact State.canonical_of_dram h4 h3

/-! ### Messages, requests and jobs -/

theorem State.canonical_failMessage (m : Message) (t : Trap) (h : s.canonical) : (s.failMessage m t).canonical := by
  have hf (lid crew id : Nat) : ((match s.nodeOf lid crew id m.id with
      | some r => if t.cause = 0x11 then ((s.dropMessage m).dropData (messageRef lid crew m.id)).stagingError s lid crew r t
          else ((s.dropMessage m).dropData (messageRef lid crew m.id)).failRunning lid crew r t
      | none => (s.dropMessage m).dropData (messageRef lid crew m.id)) : State).canonical := by
    have hd : ((s.dropMessage m).dropData (messageRef lid crew m.id)).canonical := h
    split
    · split
      · exact State.canonical_stagingError _ _ _ _ hd h
      · exact State.canonical_of_dram (by simp) hd
    · exact hd
  cases m with
  | put id job peer lid crew node len => exact hf lid crew node
  | get id job peer lid crew node len got => exact hf lid crew node
  | inbound => exact h

theorem State.canonical_resetModule : s.resetModule.canonical := rfl

/-- A request that Driene answers, or lets wait (R366). -/
theorem State.canonical_request (i : Request) (hd : Header) (type : Nat) (f : State → State) (hf : ∀ st, st.canonical → (f st).canonical)
    (h : s.canonical) : (s.request i hd type f).canonical := by
  unfold State.request
  split
  · exact h
  · split
    · exact h
    · split
      · exact hf s h
      · exact h

theorem State.canonical_closeJob (j : Job) (reqid : Word) (h : s.canonical) : (s.closeJob j reqid).canonical := by
  have h0 := canonical_foldl (s.mem.stale.filter (·.job == j.num)) State.endStale (fun st x hs => State.canonical_endStale st x hs) s h
  exact canonical_foldl (((((j.objects.flatMap Object.sections).flatMap sectionPages).filterMap fun va => (s.jobPlace j va).map fun p => p.2.frame)
    ++ j.tables) ++ [j.root]) (fun st f => st.giveFrame f 4096) (fun st f hs => State.canonical_giveFrame st f 4096 hs) _ h0

theorem State.canonical_placePage {t : State} {jn : Nat} {x : Nat × Nat} {code : Bool} {bs : List Byte} {va : Nat} (h : s.canonical)
    (e : s.placePage jn x code bs va = some t) : t.canonical := by
  unfold State.placePage at e
  obtain ⟨y, hy, ht⟩ := Option.bind_eq_some_iff.mp e
  refine State.canonical_mapPage ?_ ht
  exact Memory.wf_writeBytes _ _ _ (State.canonical_zeroDram _ y.2 4096 (State.canonical_takeFrame h hy))

theorem State.canonical_placeSection {t : State} {jn k : Nat} {b : List Byte} (h : s.canonical) (e : s.placeSection jn b k = some t) :
    t.canonical :=
  State.canonical_foldlM _ _ (fun _ _ _ hs hx => State.canonical_placePage hs hx) h e

theorem State.putSysReg_keeps (cx : Ctx) (n : Nat) (v : Word) (h : s.canonical) : OkAll State.canonical (s.putSysReg cx n v) := by
  unfold State.putSysReg
  split
  all_goals simp only [okAll_ite, okAll_ok, okAll_error, implies_true, and_true]
  all_goals exact fun _ => State.canonical_of_dram (by simp) h

theorem State.canonical_debugPut {t : State} {a : DebugAt} {q : Option Nat} {sq : Squad} {lane reg : Nat} {v : Reg} {map : List Byte}
    (h : s.canonical) (e : s.debugPut a q sq lane reg v map = some t) : t.canonical := by
  unfold State.debugPut at e
  split at e
  · exact (State.putSysReg_keeps _ _ _ h).of_toOption e
  · obtain ⟨x, _, ht⟩ := Option.map_eq_some_iff.mp e
    exact ht ▸ State.canonical_of_dram (by simp) h

/-- An operation of the debugger on a stopped squad (R312). -/
theorem State.canonical_debugOp (i : Request) (hd : Header) (a : DebugAt) (f : State → Option Nat → Squad → Option (State × List Byte))
    (hf : ∀ st q sq x, st.canonical → f st q sq = some x → x.1.canonical) (h : s.canonical) : (s.debugOp i hd a f).canonical := by
  refine State.canonical_request _ _ _ _ (fun st hs => ?_) h
  split
  · next e =>
    obtain ⟨x, _, hx⟩ := Option.bind_eq_some_iff.mp e
    exact hf _ _ _ _ hs hx
  · exact hs

theorem State.canonical_rewriteBlock (i : Request) (hd : Header) (va : Word) (block : List Byte) (h : s.canonical) :
    (s.rewriteBlock i hd va block).canonical := by
  refine State.canonical_request _ _ _ _ (fun st hs => ?_) h
  split
  · exact State.canonical_jobWrite _ _ _ _ hs
  · exact hs

/-! ### Errors, storage and calls -/

theorem State.canonical_spoil (site : ErrorSite) (n : Nat) (h : s.canonical) : (s.spoil site n).canonical := by
  cases site with
  | staging lid crew =>
    unfold State.spoil
    dsimp only
    split
    · exact State.canonical_stagingError _ _ _ _ h h
    · exact h
  | _ =>
    refine State.canonical_of_dram ?_ h
    unfold State.spoil
    dsimp only
    repeat' split
    all_goals simp

theorem State.canonical_pageWritten (job va : Nat) (data : List Byte) (ok : Bool) (h : s.canonical) : (s.pageWritten job va data ok).canonical := by
  unfold State.pageWritten
  split
  · exact h
  · dsimp only
    repeat' split
    all_goals exact State.canonical_modLeaf _ _ _ _ h

theorem State.canonical_fillBuffer {t : State} {lid crew a : Nat} {bs : List Byte} (h : s.canonical) (e : s.fillBuffer lid crew a bs = some t) :
    t.canonical := by
  unfold State.fillBuffer at e
  split at e
  · injection e with e
    exact e ▸ h
  · split at e
    · cases e
    · injection e with e
      exact e ▸ State.canonical_writeParts _ _ _ _ _ h

theorem State.canonical_commandDone {t : State} {c : Nvme} {ok : Bool} (h : s.canonical) (e : s.commandDone c ok = some t) : t.canonical := by
  cases c with
  | page job va data =>
    injection e with e
    exact e ▸ State.canonical_pageWritten _ _ _ _ h
  | read path off len buf r lane hd =>
    unfold State.commandDone at e
    dsimp only at e
    split at e
    · injection e with e
      exact e ▸ State.canonical_of_dram (by simp) h
    · obtain ⟨s1, hs, ht⟩ := Option.map_eq_some_iff.mp e
      exact ht ▸ State.canonical_of_dram (by simp) (State.canonical_fillBuffer h hs)
  | _ =>
    injection e with e
    rw [← e]
    refine State.canonical_of_dram ?_ h
    repeat' split
    all_goals simp

/-- What a call does to the state keeps DRAM canonical. -/
def CallKeeps (f : Call → State → CallOutcome) : Prop := ∀ c s x, s.canonical → f c s = some x → x.1.canonical

theorem needsFlash_keeps {f : Call → State → CallOutcome} (hf : CallKeeps f) : CallKeeps (needsFlash f) := by
  intro c s x h e
  unfold needsFlash at e
  split at e
  · exact hf c s x h e
  · split at e
    · cases e
    · injection e with e
      exact e ▸ h

theorem State.canonical_serve {f : Call → State → CallOutcome} (hf : CallKeeps f) (q num : Nat) (h : s.canonical) :
    (s.serve q num f).canonical := by
  unfold State.serve
  split
  · exact h
  · dsimp only
    split
    · exact h
    · split
      · next e => exact State.canonical_of_dram (State.answerCall_dram ..) (hf _ _ _ h e)
      · exact h

theorem State.canonical_serveByPort {f : Call → State → CallOutcome} (hf : CallKeeps f) (q num : Nat) (cmd : Call → State → Option Nvme)
    (h : s.canonical) : (s.serveByPort q num f cmd).canonical := by
  unfold State.serveByPort
  split
  · exact h
  · dsimp only
    split
    · split
      · exact State.canonical_of_dram (by simp) h
      · exact h
    · exact State.canonical_serve (needsFlash_keeps hf) q num h

end Sys2Proof.Machine
end

section
/-!
SUPPORT for O58. The instructions of an issue set keep DRAM canonical.
-/
namespace Sys2Proof.Machine

variable {s : State}

/-! ### Scalar instructions of one thread -/

theorem doSrd_keeps (n : BitVec 12) (d : RegCode) : LaneKeeps (doSrd n d) := by
  intro cx s h
  exact okAll_ok.mpr (KeptByThreads.canonical.modThread _ _ _ h)

theorem doSwr_keeps (n : Nat) (a : RegCode) : LaneKeeps (doSwr n a) := by
  intro cx s h
  simp only [doSwr, okAll_bind]
  exact fun v _ => State.putSysReg_keeps _ _ _ h

theorem waitcrewLane_keeps (a : RegCode) : LaneKeeps (waitcrewLane a) := by
  intro cx s h
  simp only [waitcrewLane, okAll_bind, okAll_ite, okAll_error, okAll_ok, implies_true, true_and]
  intro v _ _ _
  split
  · exact h
  · exact State.canonical_of_dram (by simp) h

/-! ### Views -/

theorem State.canonical_execViews {i : Instr} {f : Ctx → State → Except Trap State} (hf : LaneKeeps f) (h : s.canonical) :
    (s.execViews i f).canonical := by
  unfold State.execViews
  dsimp only
  split
  · exact State.canonical_execLanes (fun cx st hs => okAll_ok.mpr (State.canonical_of_dram (by simp) hs)) h
  · exact State.canonical_execLanes hf h

theorem vdupLane_keeps (b a d : RegCode) : LaneKeeps (vdupLane b a d) := by
  intro cx s h
  simp only [vdupLane, okAll_bind]
  intro p _ _ _
  split
  · exact okAll_ok.mpr (State.canonical_of_dram (by simp) h)
  · next e => exact okAll_ok.mpr (State.canonical_of_dram (by simp [State.newView_dram e]) h)

theorem vsplitLane_keeps (b a d : RegCode) : LaneKeeps (vsplitLane b a d) := by
  intro cx s h
  simp only [vsplitLane, okAll_bind]
  intro p _ _ _
  split
  · exact okAll_ok.mpr (State.canonical_of_dram (by simp) h)
  · next e => exact okAll_ok.mpr (State.canonical_of_dram (by simp [State.newView_dram e]) h)

theorem vnarrowLane_keeps (b a d : RegCode) : LaneKeeps (vnarrowLane b a d) := by
  intro cx s h
  simp only [vnarrowLane, okAll_bind, okAll_ok]
  intro p _ _ _
  exact State.canonical_of_dram (by simp) h

theorem vdropLane_keeps (a : RegCode) : LaneKeeps (vdropLane a) := by
  intro cx s h
  simp only [vdropLane, okAll_bind, okAll_ite, okAll_error, okAll_ok, implies_true, true_and]
  intro r _ e _ _
  exact State.canonical_of_dram (by simp) h

theorem vqueryLane_keeps (i : Instr) (b a d : RegCode) : LaneKeeps (vqueryLane i b a d) := by
  intro cx s h
  simp only [vqueryLane, okAll_bind, okAll_ite, okAll_error, okAll_ok, implies_true, true_and]
  intro r _ x _ e _ _
  exact ⟨fun _ => State.canonical_of_dram (by simp) h, fun _ => State.canonical_of_dram (by simp) h⟩

theorem vboundLane_keeps (sel : BitVec 2) (a d : RegCode) : LaneKeeps (vboundLane sel a d) := by
  intro cx s h
  simp only [vboundLane, okAll_bind, okAll_ok]
  intro r _ e _
  exact State.canonical_of_dram (by simp) h

/-! ### Divergence, merging and barriers -/

theorem State.canonical_fence (i : Instr) (scope : Nat) (full : Bool) (h : s.canonical) : (s.fence i scope full).canonical := by
  refine State.canonical_execSet (fun s' s0 act _ hs => okAll_ok.mpr (canonical_foldl _ _ (fun st l ht => ?_) s' hs)) h
  split <;> exact State.canonical_of_dram (by simp) ht

/-! ### Across lanes -/

theorem State.canonical_laneFold (i : Instr) (op : FoldOp) (scan : Bool) (a d : RegCode) (h : s.canonical) :
    (s.laneFold i op scan a d).canonical := by
  refine State.canonical_execSet (fun s' s0 act _ hs => ?_) h
  simp only [okAll_bind, okAll_ok]
  exact fun vs _ t _ => State.canonical_of_dram (by simp) hs

/-! ### Enumerated regions -/

theorem execEnumOne_keeps (b d : RegCode) (h : s.canonical) : NextCanonical (execEnumOne b d s) := by
  refine .next (State.canonical_execSet (fun s' s0 act _ hs => ?_) h)
  simp only [okAll_bind, okAll_ok]
  intro _ _ st _ w _ _ _
  refine canonical_foldl _ _ (fun st l ht => ?_) _ (State.canonical_of_dram (State.openChunk_dram ..) hs)
  split <;> exact State.canonical_of_dram (by simp) ht

theorem mergeLane_keeps (m : BitVec 3) (a d : RegCode) : LaneKeeps (mergeLane m a d) := by
  intro cx s h
  have hw (v : Reg) (key : List Reg) : (s.modThread cx.q cx.lane fun t => t.waitAt cx (.merge m a d) (.merge v key)).canonical :=
    KeptByThreads.canonical.modThread _ _ _ h
  simp only [mergeLane, okAll_bind, okAll_ite, okAll_ok]
  exact ⟨fun _ _ _ v _ key _ => ⟨fun _ => h, fun _ => hw v key⟩, fun _ v _ key _ => ⟨fun _ => h, fun _ => hw v key⟩⟩

theorem endchLane_keeps (a d : RegCode) : LaneKeeps (endchLane a d) := by
  intro cx s h
  simp only [endchLane, okAll_bind, okAll_ite, okAll_ok, okAll_error, implies_true, and_true]
  refine ⟨fun _ v _ => State.canonical_of_dram (by simp) h, fun _ _ v _ => ?_⟩
  split
  · simp
  · simp only [okAll_ite, okAll_ok]
    refine ⟨fun _ => State.canonical_of_dram (by simp) h, fun _ => ?_⟩
    refine canonical_foldl _ _ (fun st l ht => KeptByThreads.canonical.modThread _ _ _ ht) _ ?_
    exact State.canonical_putScratch _ _ _ _ h

theorem execChoose_keeps (b a d : RegCode) (h : s.canonical) : NextCanonical (execChoose b a d s) := by
  refine .next (State.canonical_execSet (fun s' s0 act _ hs => ?_) h)
  simp only [okAll_bind, okAll_ite, okAll_error, implies_true, true_and]
  intro vs _ _ w _
  split
  · simp
  · simp only [okAll_ite, okAll_error, implies_true, true_and]
    intro _
    split <;> exact okAll_ok.mpr (State.canonical_of_dram (by simp) hs)

/-! ### The matrix engine -/

theorem mmaSet_keeps (i : Instr) (a : RegCode) : SetKeeps (mmaSet i a) := by
  intro s' s0 act _ hs
  simp only [mmaSet, okAll_bind, okAll_ite, okAll_ok, okAll_error, implies_true, true_and]
  intros
  refine ⟨fun _ => State.canonical_of_dram (by simp) hs, fun _ _ _ => ?_⟩
  exact fun _ _ => State.canonical_of_dram (by simp) hs

theorem bldSet_keeps (slot fmt : Nat) (a : RegCode) : SetKeeps (bldSet slot fmt a) := by
  intro s' s0 act _ hs
  simp only [bldSet, okAll_bind, okAll_ok]
  intros
  exact State.canonical_of_dram (by simp) hs

theorem tzeroSet_keeps (i : Instr) (a : RegCode) (t : Nat) : SetKeeps (tzeroSet i a t) := by
  intro s' s0 act _ hs
  simp only [tzeroSet, okAll_bind, okAll_ite, okAll_ok]
  intros
  exact ⟨fun _ => State.canonical_of_dram (by simp) hs, fun _ => State.canonical_of_dram (by simp) hs⟩

theorem tldSet_keeps (i : Instr) (b a : RegCode) (t : Nat) : SetKeeps (tldSet i b a t) := by
  intro s' s0 act _ hs
  simp only [tldSet, okAll_bind, okAll_ite, okAll_ok]
  intros
  exact ⟨fun _ => State.canonical_of_dram (by simp) hs, fun _ _ _ => State.canonical_of_dram (by simp) hs⟩

theorem tstSet_keeps (i : Instr) (b a : RegCode) (t : Nat) : SetKeeps (tstSet i b a t) := by
  intro s' s0 act _ hs
  simp only [tstSet, okAll_bind, okAll_ite, okAll_ok, okAll_error, implies_true, true_and]
  intros
  exact ⟨fun _ => State.canonical_of_dram (by simp) hs, fun _ _ _ _ => State.canonical_of_dram (by simp) hs⟩

theorem trdSet_keeps (i : Instr) (t : Nat) (a d : RegCode) : SetKeeps (trdSet i t a d) := by
  intro s' s0 act _ hs
  simp only [trdSet, okAll_bind, okAll_ite, okAll_ok]
  intros
  exact ⟨fun _ => State.canonical_of_dram (by simp) hs, fun _ _ _ => State.canonical_of_dram (by simp) hs⟩

theorem tileEffect_keeps {i : Instr} {f : State → State → List Nat → Except SetTrap State} (e : tileEffect i = some f) : SetKeeps f := by
  unfold tileEffect at e
  split at e
  all_goals cases e
  · exact mmaSet_keeps _ _
  · exact mmaSet_keeps _ _
  · exact mmaSet_keeps _ _
  · exact mmaSet_keeps _ _
  · exact mmaSet_keeps _ _
  · exact tzeroSet_keeps _ _ _
  · exact tldSet_keeps _ _ _ _
  · exact tstSet_keeps _ _ _ _
  · exact trdSet_keeps _ _ _ _

theorem execMwait_keeps (a : RegCode) (h : s.canonical) : NextCanonical (execMwait a s) := by
  refine .next (State.canonical_execSet (fun s' s0 act _ hs => ?_) h)
  simp only [okAll_bind, okAll_ok]
  intros
  refine canonical_foldl _ _ (fun st x ht => ?_) s' hs
  split
  · exact ht
  · exact State.canonical_of_dram (by simp) ht

/-! ### Queues, deques and completion objects -/

theorem execGsub_keeps (b a d : RegCode) (h : s.canonical) : NextCanonical (execGsub b a d s) := by
  refine .next (State.canonical_execSet (fun s' s0 act _ hs => ?_) h)
  simp only [okAll_bind]
  intro xs _
  split <;> exact okAll_ok.mpr (State.canonical_of_dram (by simp) hs)

theorem waitobjLane_keeps (b a d : RegCode) : LaneKeeps (waitobjLane b a d) := by
  intro cx s h
  simp only [waitobjLane, okAll_bind]
  intro r e
  have hr := State.readObject_keeps b a cx h r e
  split
  · exact okAll_ok.mpr (KeptByThreads.canonical.modThread _ _ _ (hr _ rfl))
  · exact okAll_ok.mpr (State.canonical_of_dram (by simp) h)

theorem pollobjLane_keeps (b a d : RegCode) : LaneKeeps (pollobjLane b a d) := by
  intro cx s h
  simp only [pollobjLane, okAll_bind]
  intro r e
  have hr := State.readObject_keeps b a cx h r e
  split
  · exact okAll_ok.mpr (KeptByThreads.canonical.modThread _ _ _ (hr _ rfl))
  · exact okAll_ok.mpr (State.canonical_of_dram (by simp) h)

theorem execQpush_keeps (b a : RegCode) (q : BitVec 3) (h : s.canonical) : NextCanonical (execQpush b a q s) := by
  refine .next (State.canonical_execSet (fun s' s0 act _ hs => ?_) h)
  simp only [okAll_bind, okAll_ite, okAll_ok]
  refine fun vs _ => ⟨fun _ => State.canonical_of_dram (by simp) hs, fun _ => ?_⟩
  split
  · exact okAll_ok.mpr (State.canonical_of_dram (by simp) hs)
  · next e =>
    exact okAll_ok.mpr (canonical_foldl _ _ (fun _ _ ht => State.canonical_pushElem _ _ _ _ ht) _ (State.canonical_publish hs e))

theorem execFeed_keeps (b a d : RegCode) (h : s.canonical) : NextCanonical (execFeed b a d s) := by
  refine .next (State.canonical_execSet (fun s' s0 act _ hs => ?_) h)
  simp only [okAll_bind, okAll_ok]
  intros
  refine State.canonical_of_dram (State.scatter_dram ..) ?_
  split
  · exact hs
  · exact hs

theorem execDqpush_keeps (a : RegCode) (h : s.canonical) : NextCanonical (execDqpush a s) := by
  refine .next (State.canonical_execSet (fun s' s0 act _ hs => ?_) h)
  simp only [okAll_bind]
  intro vs _
  split
  · exact okAll_ok.mpr (State.canonical_of_dram (by simp) hs)
  · next e =>
    refine okAll_ok.mpr (canonical_foldl _ _ (fun st x ht => ?_) _ (State.canonical_publish hs e))
    exact State.canonical_of_dram (State.dqPut_dram ..) ht

/-! ### Inversion (R165 to R172) -/

theorem State.canonical_openInv (i : Instr) (k : BitVec 2) (target out : RegCode) (h : s.canonical) : (s.openInv i k target out).canonical := by
  refine State.canonical_execSet (fun _ s0 act h0 _ => ?_) h
  dsimp only
  split
  · simp only [okAll_ite, okAll_ok, okAll_error, implies_true, and_true]
    exact fun _ => State.canonical_of_dram (by simp) h0
  · simp only [okAll_bind, okAll_ok]
    exact fun args _ => State.canonical_of_dram (by simp) h0

theorem State.canonical_invert (i : Instr) (dec : Bool) (tol : BitVec 3) (k : BitVec 2) (target inn out : RegCode) (h : s.canonical) :
    (s.invert i dec tol k target inn out).canonical := by
  unfold State.invert
  split
  · exact State.canonical_of_dram (by simp) h
  · exact State.canonical_openInv _ _ _ _ h

end Sys2Proof.Machine
end

section
/-!
SUPPORT for O58. The events of the module keep DRAM canonical.
-/
namespace Sys2Proof.Machine

variable {s : State}

/-- An event that leaves DRAM as it was. -/
theorem NextCanonical.of_dram {t : State} (e : t.mem.dram = s.mem.dram) (h : s.canonical) : NextCanonical (.next t) :=
  .next (State.canonical_of_dram e h)

/-! ### Writes that land, barriers and gatherings -/

theorem execWriteLands_keeps (n : Nat) (h : s.canonical) : NextCanonical (execWriteLands n s) := by
  refine .next ?_
  split
  · exact State.canonical_landNth _ _ h
  · exact h

theorem execAtomicPerformed_keeps (q : Nat) (h : s.canonical) : NextCanonical (execAtomicPerformed q s) := by
  refine .next ?_
  repeat' split
  · exact h
  · exact h
  · exact State.canonical_retryAtomics _ _ _ _ h

theorem execScoreboardWriteLands_keeps (q : Nat) (part : LandPart) (h : s.canonical) : NextCanonical (execScoreboardWriteLands q part s) := by
  refine .of_dram ?_ h
  repeat' split
  all_goals simp

theorem execBarrierPhaseComplete_keeps (lid : Nat) (group : Bool) (n : Nat) (h : s.canonical) :
    NextCanonical (execBarrierPhaseComplete lid group n s) := by
  refine .next ?_
  split
  · split
    · exact State.canonical_of_dram (by simp) (State.canonical_bringParties 4 (s.groupParties lid n) h)
    · exact h
  · split
    · exact State.canonical_of_dram (by simp) (State.canonical_bringParties 2 (s.crewParties lid n) h)
    · exact h

theorem execEnumGroupAssembled_keeps (lid crew base : Nat) (h : s.canonical) : NextCanonical (execEnumGroupAssembled lid crew base s) := by
  refine .of_dram ?_ h
  split
  · rfl
  · dsimp only
    split <;> simp

theorem State.canonical_mergeOne (s0 : State) (lid crew base : Nat) (here : List (Nat × Nat × Nat)) (x : Nat × Nat × Nat) (h : s.canonical) :
    (State.mergeOne s0 lid crew base here s x).canonical := by
  unfold State.mergeOne
  dsimp only
  split
  · exact h
  · split
    · exact State.canonical_of_dram (by simp) h
    · split
      · exact h
      · split
        · exact State.canonical_of_dram (by simp) h
        · exact KeptByThreads.canonical.modThread _ _ _ (State.canonical_appendEntry _ _ _ _ h)

theorem execMergeGathering_keeps (lid crew base : Nat) (h : s.canonical) : NextCanonical (execMergeGathering lid crew base s) := by
  refine .next ?_
  split
  · exact h
  · dsimp only
    split
    · split
      · exact h
      · exact State.canonical_of_dram (by simp) h
    · exact canonical_foldl _ _ (fun _ _ hs => canonical_foldl _ _ (fun _ _ ht => State.canonical_mergeOne _ _ _ _ _ _ ht) _ hs) s h

theorem execEndchMapWrite_keeps (lid crew base : Nat) (h : s.canonical) : NextCanonical (execEndchMapWrite lid crew base s) := by
  unfold execEndchMapWrite
  refine .next ?_
  split
  · exact h
  · extract_lets live all st code exit es put map lstops s1
    have h1 : s1.canonical := by
      rw [State.canonical, State.modCrew_mem]
      exact State.canonical_putScratch _ _ _ _ h
    clear_value live s1
    split
    · exact h
    · extract_lets
      split
      · exact h
      · split
        · exact State.canonical_of_dram (by simp) h
        · exact canonical_foldl _ _ (fun _ _ hs => KeptByThreads.canonical.modThread _ _ _ hs) _ h1

/-! ### The matrix engine -/

theorem execTileVersionAccept_keeps (q : Nat) (h : s.canonical) : NextCanonical (execTileVersionAccept q s) := by
  refine .next ?_
  split
  · exact h
  · split
    · exact h
    · next l i _ _ f e =>
      have hu (ls : List Nat) : (s.unwait q ls).canonical := State.canonical_of_dram (by simp) h
      dsimp only
      split
      · exact h
      · exact State.canonical_execSet (tileEffect_keeps e) (hu _)

theorem execMicroTileLand_keeps (part : RowPart) (h : s.canonical) : NextCanonical (execMicroTileLand part s) := by
  refine .of_dram ?_ h
  dsimp only
  repeat' split
  all_goals simp

theorem execBldComplete_keeps (part : OpPart) (bad : Bool) (h : s.canonical) : NextCanonical (execBldComplete part bad s) := by
  refine .of_dram ?_ h
  dsimp only
  split
  · split
    · next e =>
      split
      · simp [State.opRead_dram e]
      · split <;> simp [State.opRead_dram e]
    · rfl
  · rfl

theorem execTileTransferComplete_keeps (part : OpPart) (bad : Bool) (h : s.canonical) : NextCanonical (execTileTransferComplete part bad s) := by
  refine .next ?_
  dsimp only
  split
  · split
    · exact State.canonical_of_dram (by simp) h
    · split
      · exact h
      · next e =>
        split <;> exact State.canonical_of_dram (by simp [State.opRead_dram e]) h
    · split
      · exact h
      · next e =>
        have hw := State.canonical_opWrite h e
        split
        · exact hw
        · exact State.canonical_of_dram (by simp) hw
    · exact h
  · exact h

theorem execMmaQIntakeEnd_keeps (q : Nat) (h : s.canonical) : NextCanonical (execMmaQIntakeEnd q s) := by
  refine .of_dram ?_ h
  split <;> simp

/-! ### Squads, crews and launches -/

theorem execCrewComplete_keeps (lid crew : Nat) (h : s.canonical) : NextCanonical (execCrewComplete lid crew s) := by
  have h1 := State.canonical_leaveAndFree lid crew h
  refine .next ?_
  split
  · dsimp only
    split
    · exact State.canonical_freeLaunch _ (State.canonical_signalDone _ _ h1)
    · exact h1
  · exact h

theorem execLaunchEnded_keeps (lid : Nat) (h : s.canonical) : NextCanonical (execLaunchEnded lid s) := by
  refine .next ?_
  split
  · exact h
  · exact State.canonical_freeLaunch _ (State.canonical_signalDone _ _ h)

theorem execRelaunchDecision_keeps (lid crew : Nat) (h : s.canonical) : NextCanonical (execRelaunchDecision lid crew s) := by
  refine .next ?_
  dsimp only
  split
  · exact h
  · split
    · exact State.canonical_relaunch _ _ h
    · exact State.canonical_of_dram (by simp) h

theorem execWatchdogTimeout_keeps (lid n : Nat) (h : s.canonical) : NextCanonical (execWatchdogTimeout lid n s) := by
  refine .of_dram ?_ h
  split
  · rfl
  · simp only [State.endLaunch_dram, State.addRecords_dram]
    refine foldl_dram _ _ (fun _ _ => ?_) s
    rfl

theorem execPreemptionTakesEffect_keeps (lid crew : Nat) (h : s.canonical) : NextCanonical (execPreemptionTakesEffect lid crew s) := by
  refine .next ?_
  split
  · exact canonical_foldl _ _ (fun _ _ hs => State.canonical_saveCrew _ _ hs) s h
  · exact h

/-! ### Graph nodes -/

theorem execNodeFinish_keeps (lid crew node : Nat) (h : s.canonical) : NextCanonical (execNodeFinish lid crew node s) := by
  refine .next ?_
  split
  · next r _ =>
    have hf := State.canonical_finishAct lid crew r h
    split
    · exact State.canonical_of_dram (by simp) h
    · dsimp only
      split <;> exact hf
  · exact h

theorem execErrorAreaWrite_keeps (lid crew : Nat) (h : s.canonical) : NextCanonical (execErrorAreaWrite lid crew s) := by
  refine .next ?_
  split
  · exact h
  · split
    · exact h
    · exact State.canonical_graphSignal _ _ _ _ _ (State.canonical_graphWrite _ _ _ _ _ h)

/-! ### Page tables, keys and errors -/

theorem execGranuleFree_keeps (job : Nat) (va : Word) (h : s.canonical) : NextCanonical (execGranuleFree job va s) := by
  refine .next ?_
  dsimp only
  split
  · exact h
  · split
    · exact State.canonical_changeLeaf _ _ _ _ _ _ _ h
    · exact State.canonical_giveFrame _ _ _ h

theorem execShootdown_keeps (job : Nat) (va entry : Word) (h : s.canonical) : NextCanonical (execShootdown job va entry s) := by
  refine .next ?_
  split
  · exact h
  · split
    · exact h
    · exact State.canonical_changeLeaf _ _ _ _ _ _ _ h

theorem execShootdownComplete_keeps (job : Nat) (va : Word) (h : s.canonical) : NextCanonical (execShootdownComplete job va s) := by
  refine .next ?_
  split
  · exact State.canonical_endStale _ _ h
  · exact h

theorem State.canonical_getD {o : Option State} (ho : ∀ t, o = some t → t.canonical) (h : s.canonical) : (o.getD s).canonical := by
  cases o with
  | none => exact h
  | some t => exact ho t rfl

theorem execPageSplit_keeps (job : Nat) (va : Word) (join : Bool) (h : s.canonical) : NextCanonical (execPageSplit job va join s) := by
  refine .next ?_
  split
  · exact h
  · split
    · exact h
    · split
      · exact h
      · split
        · refine State.canonical_getD (fun t e => ?_) h
          obtain ⟨size, _, ht⟩ := List.exists_of_findSome?_eq_some e
          exact State.canonical_joinInto h ht
        · refine State.canonical_getD (fun t e => ?_) h
          obtain ⟨u, hu, ht⟩ := Option.map_eq_some_iff.mp e
          have hp := State.canonical_splitPage h hu
          exact ht ▸ hp

theorem execUncorrectableError_keeps (site : ErrorSite) (n : Nat) (addr : Word) (info : BitVec 128) (h : s.canonical) :
    NextCanonical (execUncorrectableError site n addr info s) := by
  refine .next ?_
  dsimp only
  split
  · exact State.canonical_spoil _ _ h
  · exact h

/-! ### The storage port -/

theorem execWritebackScan_keeps (h : s.canonical) : NextCanonical (execWritebackScan s) :=
  .next (canonical_foldl _ _ (fun _ _ hs => State.canonical_modLeaf _ _ _ _ hs) s h)

theorem execWritebackComplete_keeps (job : Nat) (va : Word) (ok : Bool) (h : s.canonical) : NextCanonical (execWritebackComplete job va ok s) := by
  refine .next ?_
  split
  · exact State.canonical_pageWritten _ _ _ _ h
  · exact h

theorem execNvmeCompletion_keeps (n : Nat) (ok : Bool) (h : s.canonical) : NextCanonical (execNvmeCompletion n ok s) := by
  refine .next ?_
  split
  · exact h
  · next c _ =>
    have h1 : { s with io := { s.io with nvme := s.io.nvme.eraseIdx n } }.canonical := h
    exact State.canonical_getD (fun t e => State.canonical_commandDone h1 e) h1

theorem execPatrolScrub_keeps (line : Nat) (corrected uncorrectable : Bool) (h : s.canonical) :
    NextCanonical (execPatrolScrub line corrected uncorrectable s) := by
  refine .of_dram ?_ h
  dsimp only
  repeat' split
  all_goals simp

/-! ### Calls (R368) -/

theorem openCall_keeps : CallKeeps openCall := by
  intro c s x h e
  unfold openCall at e
  dsimp only at e
  repeat' split at e
  all_goals
    injection e with e
    exact e ▸ State.canonical_of_dram (by simp) h

theorem closeCall_keeps : CallKeeps closeCall := by
  intro c s x h e
  unfold closeCall at e
  split at e
  all_goals
    injection e with e
    exact e ▸ State.canonical_of_dram (by simp) h

theorem readCall_keeps : CallKeeps readCall := by
  intro c s x h e
  unfold readCall at e
  dsimp only at e
  repeat' split at e
  all_goals cases e
  all_goals exact h

theorem writeCall_keeps : CallKeeps writeCall := by
  intro c s x h e
  unfold writeCall at e
  repeat' split at e
  all_goals cases e
  all_goals exact h

theorem flushCall_keeps : CallKeeps flushCall := by
  intro c s x h e
  unfold flushCall at e
  split at e
  all_goals cases e
  exact h

theorem sizeCall_keeps : CallKeeps sizeCall := by
  intro c s x h e
  unfold sizeCall at e
  repeat' split at e
  all_goals cases e
  all_goals exact h

theorem connectCall_keeps : CallKeeps connectCall := by
  intro c s x h e
  unfold connectCall at e
  dsimp only at e
  repeat' split at e
  all_goals
    injection e with e
    exact e ▸ State.canonical_of_dram (by simp) h

theorem listenCall_keeps : CallKeeps listenCall := by
  intro c s x h e
  unfold listenCall at e
  repeat' split at e
  all_goals cases e
  all_goals exact State.canonical_of_dram (by simp) h

theorem sendCall_keeps : CallKeeps sendCall := by
  intro c s x h e
  unfold sendCall at e
  dsimp only at e
  repeat' split at e
  all_goals
    injection e with e
    exact e ▸ State.canonical_of_dram (by simp) h

theorem recvCall_keeps : CallKeeps recvCall := by
  intro c s x h e
  unfold recvCall at e
  dsimp only at e
  repeat' split at e
  case h_2.isFalse.isFalse.isTrue =>
    obtain ⟨s1, hs, hx⟩ := Option.map_eq_some_iff.mp e
    have h1 := State.canonical_fillBuffer h hs
    exact hx ▸ h1
  all_goals cases e
  all_goals exact h

theorem shutdownCall_keeps : CallKeeps shutdownCall := by
  intro c s x h e
  unfold shutdownCall at e
  split at e
  all_goals
    injection e with e
    exact e ▸ State.canonical_of_dram (by simp) h

/-! ### Messages between modules -/

theorem execPacketArrival_keeps (frame : NetFrame) (h : s.canonical) : NextCanonical (execPacketArrival frame s) := by
  refine .of_dram ?_ h
  split
  · rfl
  · split <;> simp

theorem execMessageAcknowledged_keeps (msg : MsgName) (h : s.canonical) : NextCanonical (execMessageAcknowledged msg s) := by
  refine .of_dram ?_ h
  dsimp only
  repeat' split
  all_goals simp

theorem execPacketNack_keeps (msg : NackName) (cause : BitVec 8) (addr : Word) (h : s.canonical) :
    NextCanonical (execPacketNack msg cause addr s) := by
  refine .next ?_
  split
  · exact h
  · split
    · exact h
    · split
      · split
        · exact State.canonical_of_dram (by simp) h
        · exact h
      · exact State.canonical_failMessage _ _ h

theorem execLinkFailure_keeps (link : LinkEnd) (h : s.canonical) : NextCanonical (execLinkFailure link s) := by
  refine .of_dram ?_ h
  dsimp only
  split
  all_goals
    split
    · rfl
    · simp

theorem execPeerUnreachable_keeps (job peer : Nat) (h : s.canonical) : NextCanonical (execPeerUnreachable job peer s) := by
  refine .of_dram ?_ h
  dsimp only
  split <;> simp

/-! ### Boot and reset -/

theorem execBootImageRead_keeps (h : s.canonical) : NextCanonical (execBootImageRead s) := by
  refine .of_dram ?_ h
  split
  · dsimp only
    repeat' split
    all_goals simp
  · rfl

/-- Driene starts with every byte of DRAM 0 (R354). -/
theorem execDrieneInit_keeps (h : s.canonical) : NextCanonical (execDrieneInit s) := by
  refine .next ?_
  split
  · rfl
  · exact h

theorem execThermalTrip_keeps (h : s.canonical) : NextCanonical (execThermalTrip s) := by
  refine .of_dram ?_ h
  split
  · rfl
  · simp

theorem execRecovery_keeps (hd : Header) (image : List Byte) (h : s.canonical) : NextCanonical (execRecovery hd image s) := by
  refine .next ?_
  dsimp only
  split
  · repeat' split
    · exact h
    · exact h
    · exact State.canonical_resetModule
  · exact State.canonical_request _ _ _ _ (fun _ hs => hs) h

/-! ### Requests to Driene (R366 to R368) -/

theorem execJobopen_keeps (hd : Header) (number : Nat) (fabric : Word) (peers : List (Nat × Word)) (key : List Byte) (h : s.canonical) :
    NextCanonical (execJobopen hd number fabric peers key s) := by
  refine .next (State.canonical_request _ _ _ _ (fun st hs => ?_) h)
  dsimp only
  split
  · exact hs
  · next e =>
    split at e
    · cases e
    · exact State.canonical_zeroDram _ _ _ (State.canonical_takeFrame hs e)

theorem execLoadObject_keeps (hd : Header) (image : List Byte) (h : s.canonical) : NextCanonical (execLoadObject hd image s) := by
  refine .next (State.canonical_request _ _ _ _ (fun st hs => ?_) h)
  dsimp only
  split
  · exact hs
  · split
    · exact hs
    · split
      · exact hs
      · next s1 e =>
        have h1 : s1.canonical := State.canonical_foldlM _ _ (fun _ _ _ ht hx => State.canonical_placeSection ht hx) hs e
        split <;> exact h1

theorem execLaunch_keeps (hd : Header) (record : List Byte) (lid : BitVec 32) (h : s.canonical) : NextCanonical (execLaunch hd record lid s) := by
  refine .next (State.canonical_request _ _ _ _ (fun st hs => ?_) h)
  split
  · exact hs
  · next j _ =>
    have ht : (st.tablesSeen j record).canonical := State.canonical_of_dram (by simp) hs
    split
    · next e => exact State.takeLaunch_keeps _ _ _ _ _ _ ht _ e
    · exact hs

theorem execLaunchResident_keeps (lid : Nat) (h : s.canonical) : NextCanonical (execLaunchResident lid s) := by
  refine .of_dram ?_ h
  repeat' split
  all_goals simp

/-- A request whose answer leaves DRAM as it was. -/
theorem NextCanonical.request {i : Request} {hd : Header} {type : Nat} {f : State → State} (hf : ∀ st, (f st).mem.dram = st.mem.dram)
    (h : s.canonical) : NextCanonical (.next (s.request i hd type f)) :=
  .next (State.canonical_request _ _ _ _ (fun st hs => State.canonical_of_dram (hf st) hs) h)

theorem execUnlistedMessage_keeps (hd : Header) (h : s.canonical) : NextCanonical (execUnlistedMessage hd s) := by
  refine .next ?_
  dsimp only
  split
  · exact h
  · exact State.canonical_request _ _ _ _ (fun _ hs => hs) h

end Sys2Proof.Machine
end

section
/-!
O58. Every instruction and every event keeps DRAM canonical, so that what ends of itself after a step, and the step, do.
-/
namespace Sys2Proof.Machine

variable {s : State}

theorem exec_keeps (i : Instr) (h : s.canonical) : NextCanonical (exec i s) := by
  cases i with
  -- one thread after another, each changing itself alone
  | addC | subC | andC | orC | xorC | shliC | shriC | addiC | movC | faddC | fmulC | fmao | cmpltC | nop | invend
  | add | sub | and | or | xor | andn | shl | shr | shrU | rol | mul | mulh | mulhU | min | minU | max | maxU | adds | addsU | subs | subsU | mov
  | fadd | fsub | fmul | fma | fnma | fmin | fmax | cmpeq | cmpne | cmplt | cmpltU | cmple | cmpleU | fcmpeq | fcmplt | fcmple | fcmpun
  | kand | kor | kxor | kandn | addi | andi | ori | xori | shli | shri | shriU | muli | cmpeqi | cmplti | cmpltiU | movi | retag
  | jalr | ldhi | pcrel | sigchk | lea | bra | bk | bnk | bz | bnz | call | div | divU | rem | remU | popc | clz | ctz | brev | bswap | abs | neg
  | ext | extU | ins | fdiv | fsqrt | fabs | fneg | fcpys | fclass | frint | cvtF64 | cvtF32 | cvtF16 | cvtBf16 | cvtE4m3 | cvtE5m2 | cvtE2m1
  | cvtI64 | cvtI64U | cvtI32 | cvtI32U | cvtI16 | cvtI16U | cvtI8 | cvtI8U | pack | unpackLo | unpackHi | sloop | clk | rand | bset | bget =>
    exact .next (State.canonical_execThread h)
  -- one thread after another, with an effect on more than itself
  | srd => exact .next (State.canonical_execLanes (doSrd_keeps _ _) h)
  | swr | swrFrm | swrFflags | swrDraw | swrInj => exact .next (State.canonical_execLanes (doSwr_keeps _ _) h)
  | ld64C | ld8 | ld8U | ld16 | ld16U | ld32 | ld32U | ld64 | ldt => exact .next (State.canonical_execLanes (loadLane_keeps _ _ _) h)
  | st64C | st8 | st16 | st32 | st64 => exact .next (State.canonical_execLanes (storeLane_keeps _ _ _ _) h)
  | aadd | aand | aor | axor | amin | aminU | amax | amaxU | axchg | acas | afx | afxrd =>
    exact .next (State.canonical_execLanes (atomicStep_keeps _ _) h)
  | waitcrew => exact .next (State.canonical_execLanes (waitcrewLane_keeps _) h)
  | merge => exact .next (State.canonical_execLanes (mergeLane_keeps _ _ _) h)
  | endch => exact .next (State.canonical_execLanes (endchLane_keeps _ _) h)
  | waitobj => exact .next (State.canonical_execLanes (waitobjLane_keeps _ _ _) h)
  | pollobj => exact .next (State.canonical_execLanes (pollobjLane_keeps _ _ _) h)
  | valloc => exact .next (State.canonical_execViews (vallocLane_keeps _ _ _ _) h)
  | vdup => exact .next (State.canonical_execViews (vdupLane_keeps _ _ _) h)
  | vsplit => exact .next (State.canonical_execViews (vsplitLane_keeps _ _ _) h)
  | vnarrow => exact .next (State.canonical_execViews (vnarrowLane_keeps _ _ _) h)
  | vdrop => exact .next (State.canonical_execViews (vdropLane_keeps _) h)
  | vquery => exact .next (State.canonical_execViews (vqueryLane_keeps _ _ _ _) h)
  | vbound => exact .next (State.canonical_execViews (vboundLane_keeps _ _ _) h)
  -- the whole issue set, none of whose writes is to DRAM
  | yield | syscall | brk | icinv | split | rejoin | fuse | exit | tail | barC | barG | arriveG | waitG | voteAll | voteAny | ballot
  | matchLanes | setnet | netmv | gatherb | compose | runnew | enum | tver | mfence | qcfg | qpop | dqpop | dqsteal =>
    refine .next (State.canonical_execSet (fun s' s0 act _ hs => ?_) h)
    simp +contextual [State.canonical, hs]
  -- the whole issue set, by a lemma of its own
  | fenceSquad | fenceCrew | fenceGang | fenceDevice | fenceSystem | fenceFull => exact .next (State.canonical_fence _ _ _ h)
  | scanAdd | scanMin | scanMax | reduceAdd | reduceMin | reduceMax | scanMinU | scanMaxU | reduceMinU | reduceMaxU | reduceAnd | reduceOr
  | reduceXor => exact .next (State.canonical_laneFold _ _ _ _ _ h)
  | enumOne => exact execEnumOne_keeps _ _ h
  | choose => exact execChoose_keeps _ _ _ h
  | mmaQE4m3 | mmaQE5m2 | mmaQMxfp4 | mmaQBf16 | mmaQI8 => exact .next (State.canonical_execSet (mmaSet_keeps _ _) h)
  | bld => exact .next (State.canonical_execSet (bldSet_keeps _ _ _) h)
  | tzero => exact .next (State.canonical_execSet (tzeroSet_keeps _ _ _) h)
  | tld => exact .next (State.canonical_execSet (tldSet_keeps _ _ _ _) h)
  | tst => exact .next (State.canonical_execSet (tstSet_keeps _ _ _ _) h)
  | trd => exact .next (State.canonical_execSet (trdSet_keeps _ _ _ _) h)
  | mwait => exact execMwait_keeps _ h
  | gsub => exact execGsub_keeps _ _ _ h
  | qpush => exact execQpush_keeps _ _ _ h
  | feed => exact execFeed_keeps _ _ _ h
  | dqpush => exact execDqpush_keeps _ h
  | inv | invDec => exact .next (State.canonical_invert _ _ _ _ _ _ _ h)
  -- events that leave DRAM as it was
  | registerLineArrives | setnetConfigLands | yieldExpires | fenceComplete | rejoinRelease | keySlotLoad | calibrationWindow | telemetrySample =>
    exact .of_dram (by simp) h
  | stallElapsed =>
    refine .of_dram ?_ h
    dsimp only
    split <;> simp
  | trackerEntryDrained =>
    refine .of_dram ?_ h
    split
    · rfl
    · split <;> simp
  | icinvComplete | wheyDecrement | squadRetire | trapTaken | singleStepStop | preemptRequest
  | timeSliceExpiry | bankClear | correctedError | writebackDrained | fuseBlow | wearManagement | injectionEnable | codeSigningKeyEnrol
  | debuggerAttach =>
    refine .of_dram ?_ h
    split <;> simp
  | scoreboardWriteLands => exact execScoreboardWriteLands_keeps _ _ h
  | enumGroupAssembled => exact execEnumGroupAssembled_keeps _ _ _ h
  | microTileLand => exact execMicroTileLand_keeps _ h
  | bldComplete => exact execBldComplete_keeps _ _ h
  | mmaQIntakeEnd => exact execMmaQIntakeEnd_keeps _ h
  | watchdogTimeout => exact execWatchdogTimeout_keeps _ _ h
  | patrolScrub => exact execPatrolScrub_keeps _ _ _ h
  | packetArrival => exact execPacketArrival_keeps _ h
  | messageAcknowledged => exact execMessageAcknowledged_keeps _ h
  | linkFailure => exact execLinkFailure_keeps _ h
  | peerUnreachable => exact execPeerUnreachable_keeps _ _ h
  | bootImageRead => exact execBootImageRead_keeps h
  | thermalTrip => exact execThermalTrip_keeps h
  | launchResident => exact execLaunchResident_keeps _ h
  -- events that may write DRAM
  | writeLands => exact execWriteLands_keeps _ h
  | atomicPerformed => exact execAtomicPerformed_keeps _ h
  | barrierPhaseComplete => exact execBarrierPhaseComplete_keeps _ _ _ h
  | mergeGathering => exact execMergeGathering_keeps _ _ _ h
  | endchMapWrite => exact execEndchMapWrite_keeps _ _ _ h
  | tileVersionAccept => exact execTileVersionAccept_keeps _ h
  | tileTransferComplete => exact execTileTransferComplete_keeps _ _ h
  | crewComplete => exact execCrewComplete_keeps _ _ h
  | launchEnded => exact execLaunchEnded_keeps _ h
  | relaunchDecision => exact execRelaunchDecision_keeps _ _ h
  | preemptionTakesEffect => exact execPreemptionTakesEffect_keeps _ _ h
  | copyNode | checkNode | putNode => exact .next (State.canonical_nodeStep dataBody_keeps _ _ _ _ _ h)
  | xformNode => exact .next (State.canonical_nodeStep xformBody_keeps _ _ _ _ _ h)
  | launchNode => exact .next (State.canonical_nodeStep launchBody_keeps _ _ _ _ _ h)
  | signalNode => exact .next (State.canonical_nodeStep (fun _ _ _ _ _ hs => hs) _ _ _ _ _ h)
  | getNode => exact .next (State.canonical_nodeStep getBody_keeps _ _ _ _ _ h)
  | nodeFinish => exact execNodeFinish_keeps _ _ _ h
  | errorAreaWrite => exact execErrorAreaWrite_keeps _ _ h
  | bind | waitingSetBind => exact .next (State.canonical_bindSet _ _ _ h)
  | granuleFree => exact execGranuleFree_keeps _ _ h
  | shootdown => exact execShootdown_keeps _ _ _ h
  | shootdownComplete => exact execShootdownComplete_keeps _ _ h
  | pageSplit => exact execPageSplit_keeps _ _ _ h
  | uncorrectableError => exact execUncorrectableError_keeps _ _ _ _ h
  | writebackScan => exact execWritebackScan_keeps h
  | writebackComplete => exact execWritebackComplete_keeps _ _ _ h
  | nvmeCompletion => exact execNvmeCompletion_keeps _ _ h
  | packetNack => exact execPacketNack_keeps _ _ _ h
  | moduleReset => exact .next State.canonical_resetModule
  | drieneInit => exact execDrieneInit_keeps h
  -- requests to Driene
  | jobclose | cancel | fusestep =>
    refine .request (fun st => ?_) h
    repeat' split
    all_goals simp
  | attest =>
    refine .request (fun st => ?_) h
    dsimp only
    split <;> simp
  | jobopen => exact execJobopen_keeps _ _ _ _ _ h
  | loadObject => exact execLoadObject_keeps _ _ h
  | launch => exact execLaunch_keeps _ _ _ h
  | recovery => exact execRecovery_keeps _ _ h
  | unlistedMessage => exact execUnlistedMessage_keeps _ h
  | debugReadState =>
    refine .next (State.canonical_debugOp _ _ _ _ (fun st q sq x hs e => ?_) h)
    obtain ⟨b, _, hx⟩ := Option.map_eq_some_iff.mp e
    exact hx ▸ hs
  | debugAdvance | debugResume =>
    refine .next (State.canonical_debugOp _ _ _ _ (fun st q sq x hs e => ?_) h)
    injection e with e
    exact e ▸ State.canonical_of_dram (State.putStopped_dram _ _ _ _) hs
  | debugWriteState =>
    refine .next (State.canonical_debugOp _ _ _ _ (fun st q sq x hs e => ?_) h)
    obtain ⟨t, ht, hx⟩ := Option.map_eq_some_iff.mp e
    have hp := State.canonical_debugPut hs ht
    exact hx ▸ hp
  | debugStep =>
    refine .next (State.canonical_debugOp _ _ _ _ (fun st q sq x hs e => ?_) h)
    obtain ⟨q, _, e⟩ := Option.bind_eq_some_iff.mp e
    obtain ⟨pc, _, e⟩ := Option.bind_eq_some_iff.mp e
    split at e
    · injection e with e
      exact e ▸ hs
    · exact nomatch e
  | debugPlantBreakpoint | debugRemoveBreakpoint => exact .next (State.canonical_rewriteBlock _ _ _ _ h)
  -- calls
  | fileOpen => exact .next (State.canonical_serve (needsFlash_keeps openCall_keeps) _ _ h)
  | fileClose => exact .next (State.canonical_serve closeCall_keeps _ _ h)
  | fileRead => exact .next (State.canonical_serveByPort readCall_keeps _ _ _ h)
  | fileWrite => exact .next (State.canonical_serveByPort writeCall_keeps _ _ _ h)
  | fileFlush => exact .next (State.canonical_serveByPort flushCall_keeps _ _ _ h)
  | fileSize => exact .next (State.canonical_serve sizeCall_keeps _ _ h)
  | sockConnect => exact .next (State.canonical_serve connectCall_keeps _ _ h)
  | sockListen => exact .next (State.canonical_serve listenCall_keeps _ _ h)
  | sockSend => exact .next (State.canonical_serve sendCall_keeps _ _ h)
  | sockRecv => exact .next (State.canonical_serve recvCall_keeps _ _ h)
  | sockShutdown => exact .next (State.canonical_serve shutdownCall_keeps _ _ h)

/-- The row of the opcode table that an event of the default order stands for. -/
noncomputable def Due.instr : Due → Instr
  | .scoreboardWriteLands q lane => .scoreboardWriteLands q ⟨lane, 0⟩
  | .registerLineArrives q line => .registerLineArrives q line
  | .setnetConfigLands q => .setnetConfigLands q
  | .yieldExpires q => .yieldExpires q
  | .writeLands n => .writeLands n
  | .atomicPerformed q => .atomicPerformed q
  | .fenceComplete q => .fenceComplete q
  | .icinvComplete q => .icinvComplete q
  | .rejoinRelease q j => .rejoinRelease q j
  | .barrierPhaseComplete lid group n => .barrierPhaseComplete lid group n
  | .enumGroupAssembled lid crew base => .enumGroupAssembled lid crew base
  | .mergeGathering lid crew base => .mergeGathering lid crew base
  | .endchMapWrite lid crew base => .endchMapWrite lid crew base
  | .tileVersionAccept q => .tileVersionAccept q
  | .microTileLand core => .microTileLand ⟨core, 0⟩
  | .bldComplete core n => .bldComplete ⟨core, n, 0⟩ false
  | .tileTransferComplete core n => .tileTransferComplete ⟨core, n, 0⟩ false
  | .wheyDecrement => .wheyDecrement
  | .granuleFree job va => .granuleFree job va
  | .squadRetire q => .squadRetire q
  | .trackerEntryDrained core n => .trackerEntryDrained core n
  | .crewComplete lid crew => .crewComplete lid crew
  | .watchdogTimeout lid n => .watchdogTimeout lid n
  | .trapTaken q => .trapTaken q
  | .launchEnded lid => .launchEnded lid
  | .relaunchDecision lid crew => .relaunchDecision lid crew
  | .singleStepStop q => .singleStepStop q
  | .copyNode lid crew node => .copyNode lid crew ⟨node, 0⟩
  | .xformNode lid crew node => .xformNode lid crew ⟨node, 0⟩
  | .checkNode lid crew node => .checkNode lid crew ⟨node, 0⟩
  | .launchNode lid crew node => .launchNode lid crew ⟨node, 0⟩
  | .signalNode lid crew node => .signalNode lid crew ⟨node, 0⟩
  | .putNode lid crew node => .putNode lid crew ⟨node, 0⟩
  | .getNode lid crew node => .getNode lid crew ⟨node, 0⟩
  | .nodeFinish lid crew node => .nodeFinish lid crew node
  | .errorAreaWrite lid crew => .errorAreaWrite lid crew
  | .bind lid places => .bind lid ⟨places, 1⟩
  | .waitingSetBind lid places => .waitingSetBind lid ⟨places, 1⟩
  | .preemptRequest lid crew => .preemptRequest lid crew
  | .timeSliceExpiry lid crew => .timeSliceExpiry lid crew
  | .preemptionTakesEffect lid crew => .preemptionTakesEffect lid crew
  | .shootdownComplete job va => .shootdownComplete job va
  | .writebackDrained job va => .writebackDrained job va
  | .writebackComplete job va ok => .writebackComplete job va ok
  | .nvmeCompletion n ok => .nvmeCompletion n ok
  | .messageAcknowledged sender msg => .messageAcknowledged ⟨sender, msg, 0⟩
  | .bootImageRead => .bootImageRead
  | .drieneInit => .drieneInit
  | .launchResident lid => .launchResident lid
  | .fuseBlow => .fuseBlow
  | .fileOpen q => .fileOpen q
  | .fileClose q => .fileClose q
  | .fileRead q => .fileRead q
  | .fileWrite q => .fileWrite q
  | .fileFlush q => .fileFlush q
  | .fileSize q => .fileSize q
  | .sockConnect q => .sockConnect q
  | .sockListen q => .sockListen q
  | .sockSend q => .sockSend q
  | .sockRecv q => .sockRecv q
  | .sockShutdown q => .sockShutdown q
  | .mmaQIntakeEnd q => .mmaQIntakeEnd q

theorem Due.run_eq (e : Due) (s : State) : e.run s = exec e.instr s := by
  cases e <;> rfl

/-- The row of the opcode table that a request which has waited stands for. -/
noncomputable def Request.instr : Request → Instr
  | .unlistedMessage h => .unlistedMessage h
  | .jobopen h number fabric peers key => .jobopen h number fabric peers key
  | .jobclose h => .jobclose h
  | .loadObject h image => .loadObject h image
  | .launch h record lid => .launch h record lid
  | .cancel h lid => .cancel h lid
  | .attest h nonce handle => .attest h nonce handle
  | .fusestep h value sign => .fusestep h value sign
  | .recovery h image => .recovery h image
  | .debugReadState h at_ lane reg => .debugReadState h at_ lane reg
  | .debugWriteState h at_ lane reg value => .debugWriteState h at_ lane reg value
  | .debugAdvance h at_ => .debugAdvance h at_
  | .debugResume h at_ => .debugResume h at_
  | .debugStep h at_ pc => .debugStep h at_ pc
  | .debugPlantBreakpoint h va block => .debugPlantBreakpoint h va block
  | .debugRemoveBreakpoint h va block => .debugRemoveBreakpoint h va block

theorem Request.run_eq (r : Request) (s : State) : r.run s = exec r.instr s := by
  cases r <;> rfl

theorem Due.run_keeps (e : Due) (h : s.canonical) : NextCanonical (e.run s) := e.run_eq s ▸ exec_keeps e.instr h

/-! ### What ends of itself after a step -/

theorem State.canonical_retry (q : Nat) (x : Instr × List Nat) (h : s.canonical) : (s.retry q x).canonical := by
  have hu : (s.unwait q x.2).canonical := State.canonical_of_dram (by simp) h
  unfold State.retry
  split
  · exact h
  · dsimp only
    split
    · exact h
    · split
      · next t e =>
        have ht : t.canonical := by
          refine exec_keeps x.1 ?_ t e
          exact hu
        split
        · exact h
        · exact ht
      · exact h

theorem State.canonical_retryRecord (q : Nat) (h : s.canonical) : (s.retryRecord q).canonical := by
  unfold State.retryRecord
  split
  · exact h
  · next sq _ =>
    have h1 := canonical_foldl sq.liveLanes (fun st l => st.retryLoad q l) (fun st l hs => State.canonical_retryLoad q l hs) s h
    dsimp only
    split
    · exact canonical_foldl _ _ (fun st x hs => State.canonical_retry q x hs) _ h1
    · exact h1

theorem State.canonical_nextRequest (h : s.canonical) : s.nextRequest.canonical := by
  unfold State.nextRequest
  split
  · exact h
  · next r _ _ =>
    split
    · exact h
    · split
      · next t e =>
        rw [Request.run_eq] at e
        have ht : t.canonical := exec_keeps r.instr (s := { s with io := { s.io with requests := [] } }) h t e
        exact ht
      · exact h

theorem State.canonical_closeJobs (h : s.canonical) : s.closeJobs.canonical := by
  unfold State.closeJobs
  split
  · exact State.canonical_closeJob _ _ h
  · exact h

theorem State.canonical_wake (h : s.canonical) : s.wake.canonical := by
  have h1 : ((s.drawFree.1.records.map (·.1)).foldl (fun st q => (st.answerUnknown q).retryRecord q) s.drawFree.1).canonical :=
    canonical_foldl _ _ (fun st q hs => State.canonical_retryRecord q (State.canonical_of_dram (State.answerUnknown_dram st q) hs)) _ h
  exact State.canonical_nextRequest (State.canonical_closeJobs (State.canonical_of_dram (by simp) h1))

/-! ### The step -/

theorem awaken_keeps {o : Host.Outcome State Fault Refusal} (h : NextCanonical o) : NextCanonical (awaken o) := by
  cases o with
  | next t => exact .next (State.canonical_wake (h t rfl))
  | fault f => exact fun _ e => nomatch e
  | refused r => exact fun _ e => nomatch e

theorem issue_keeps (c : Cur) (h : s.canonical) : NextCanonical (issue s c) := by
  have hb : (s.beginIssue c).canonical := State.canonical_of_dram (by simp) h
  unfold issue
  split
  · exact .of_dram (by simp) hb
  · exact exec_keeps _ hb

theorem choose_keeps (c : Choice) (h : s.canonical) : NextCanonical (choose s c) := by
  unfold choose
  split
  · exact exec_keeps _ h
  · split
    · exact issue_keeps _ h
    · exact .next h
  · refine .of_dram ?_ h
    split <;> simp

theorem step_keeps (h : s.canonical) : NextCanonical (step s) := by
  unfold step
  split
  · exact awaken_keeps (choose_keeps _ h)
  · split
    · exact awaken_keeps (Due.run_keeps _ h)
    · split
      · exact fun _ e => nomatch e
      · split
        · exact awaken_keeps (issue_keeps _ h)
        · split
          · exact awaken_keeps (Due.run_keeps _ h)
          · exact .next (State.canonical_wake (State.canonical_of_dram (by simp) h))

/-- Settles O58: every outcome of `step` comes from an instruction, an event or the clock, each of which keeps DRAM canonical, and from what ends of
itself after it, which does too. -/
theorem memoryStaysCanonical : Obligations.MemoryStaysCanonical := by
  unfold Obligations.MemoryStaysCanonical
  exact fun s t h e => step_keeps h t e

end Sys2Proof.Machine
end

section
/-!
SUPPORT for O15, O16, O51 and O52. Which trap an instruction of an issue set takes where some of its lanes fail (R22, R23), and what a trap leaves of the state
(R303, R305).
-/
namespace Sys2Proof.Machine

/-! ### The lanes that fail, in ascending order -/

/-- The traps that lanes meet, where `e` gives the trap of a lane. -/
def trapsOf (e : Nat → Option Trap) (ls : List Nat) : List (Nat × Trap) := ls.filterMap fun l => (e l).map fun t => (l, t)

theorem trapsOf_cons_none {e : Nat → Option Trap} {l : Nat} (ls : List Nat) (h : e l = none) : trapsOf e (l :: ls) = trapsOf e ls := by
  simp [trapsOf, h]

theorem trapsOf_cons_some {e : Nat → Option Trap} {l : Nat} {t : Trap} (ls : List Nat) (h : e l = some t) :
    trapsOf e (l :: ls) = (l, t) :: trapsOf e ls := by
  simp [trapsOf, h]

theorem lanesOf_sorted (m : BitVec 32) : (lanesOf m).Pairwise (· < ·) := List.pairwise_lt_range.sublist List.filter_sublist

/-- The lowest lane that fails comes first. -/
theorem trapsOf_lowest {e : Nat → Option Trap} {ls : List Nat} {l : Nat} {t : Trap} (sorted : ls.Pairwise (· < ·)) (hl : l ∈ ls)
    (ht : e l = some t) (hlow : ∀ m ∈ ls, m < l → e m = none) : ∃ rest, trapsOf e ls = (l, t) :: rest := by
  induction ls with
  | nil => simp at hl
  | cons m ls ih =>
    obtain ⟨hm, sorted⟩ := List.pairwise_cons.mp sorted
    rcases List.mem_cons.mp hl with rfl | hl
    · exact ⟨_, trapsOf_cons_some ls ht⟩
    · rw [trapsOf_cons_none ls (hlow m (by simp) (hm l hl))]
      exact ih sorted hl fun k hk => hlow k (by simp [hk])

/-- A trap but that of an undersized stall names the lanes that fail with its cause. -/
theorem trapLanes_trapsOf (s : State) (e : Nat → Option Trap) (ls : List Nat) {t : Trap} (hc : t.cause ≠ 0x0B) :
    trapLanes s t (trapsOf e ls) = maskOf (ls.filter fun l => (e l).any (·.cause == t.cause)) := by
  rw [trapLanes, if_neg hc]
  congr 1
  induction ls with
  | nil => rfl
  | cons l ls ih =>
    cases h : e l with
    | none => rw [trapsOf_cons_none ls h, ih]; simp [h]
    | some u =>
      rw [trapsOf_cons_some ls h, List.filter_cons, List.filter_cons]
      by_cases hu : u.cause = t.cause <;> simp [h, hu, ih]

/-! ### An instruction that changes threads one by one -/

/-- The trap that a lane meets in an instruction that changes threads one by one. -/
def State.laneTrap (s : State) (i : Instr) (g : BitVec 2) (stall : Nat) (f : Ctx → Thread → Except Trap Thread) (l : Nat) : Option Trap :=
  match s.laneResult i g stall f l with
  | .error t => some t
  | .ok _ => none

variable {s : State} {i : Instr} {g : BitVec 2} {stall : Nat} {f : Ctx → Thread → Except Trap Thread} {l : Nat} {t : Trap}

theorem State.laneTrap_error (h : s.laneResult i g stall f l = .error t) : s.laneTrap i g stall f l = some t := by
  simp [State.laneTrap, h]

theorem State.laneTrap_ok {u : Thread} (h : s.laneResult i g stall f l = .ok u) : s.laneTrap i g stall f l = none := by
  simp [State.laneTrap, h]

theorem State.failsWith_eq (s : State) (i : Instr) (g : BitVec 2) (stall : Nat) (f : Ctx → Thread → Except Trap Thread) (cause l : Nat) :
    s.failsWith i g stall f cause l = (s.laneTrap i g stall f l).any (·.cause == cause) := by
  unfold State.failsWith State.laneTrap
  split <;> simp_all

theorem SameLanes.tail {st : State} {rest : List Nat} (h : SameLanes s (l :: rest) st) : SameLanes s rest st where
  nodup := (List.nodup_cons.mp h.nodup).2
  squads := h.squads
  bound := h.bound
  thread m hm := h.thread m (by simp [hm])
  ctx m hm := h.ctx m (by simp [hm])
  region := h.region

/-- A lane does in the state that the lanes before it have left what it would do in the state before the instruction. -/
theorem SameLanes.laneStep_onThread {st : State} {rest : List Nat} (h : SameLanes s (l :: rest) st) (i : Instr) (g : BitVec 2) (stall : Nat)
    (f : Ctx → Thread → Except Trap Thread) :
    st.laneStep i g stall (onThread f) l = (s.laneResult i g stall f l).map fun u => st.setThread s.cur.q l u := by
  have hth : st.thread s.cur.q l = s.th l := h.thread l (by simp)
  have hpast : (s.th l).advance (s.ctx l) i stall = s.past i stall l := rfl
  have hown : (st.setThread s.cur.q l (s.past i stall l)).thread s.cur.q l = s.past i stall l := State.thread_setThread_same _ _ _ _ h.bound
  simp only [State.laneStep, State.laneResult, h.ctx l (by simp), ctx_q, ctx_lane, hth, hpast, onThread, hown]
  by_cases ha : admitted (s.ctx l) i = true
  · simp only [ha, if_true]
    cases (s.th l).guardOn (s.ctx l) g with
    | error e => rfl
    | ok on =>
      cases on with
      | false => rfl
      | true => cases f (s.ctx l) (s.past i stall l) <;> simp [Except.map]
  · simp only [ha]
    rfl

/-- Where no region suppresses them, the traps of the lanes are collected in lane order. -/
theorem SameLanes.runLanes_onThread (hreg : (s.ctx 0).region ≠ 1) (ls : List Nat) (st : State) (ts : List (Nat × Trap)) (h : SameLanes s ls st) :
    ∃ st', State.runLanes i g stall (onThread f) ls st ts = (st', ts ++ trapsOf (s.laneTrap i g stall f) ls) := by
  induction ls generalizing st ts with
  | nil => exact ⟨st, by simp [State.runLanes, trapsOf]⟩
  | cons l ls ih =>
    have hstep := h.laneStep_onThread i g stall f
    cases hr : s.laneResult i g stall f l with
    | ok u =>
      rw [hr] at hstep
      obtain ⟨st', h'⟩ := ih _ ts (h.next u)
      exact ⟨st', by rw [trapsOf_cons_none ls (State.laneTrap_ok hr), ← h']; simp only [State.runLanes, hstep, Except.map]⟩
    | error t =>
      rw [hr] at hstep
      have hns : suppressed (st.ctx l) t = false := by
        have : (st.ctx l).region = (s.ctx 0).region := h.region l
        simp [suppressed, this, hreg]
      obtain ⟨st', h'⟩ := ih st (ts ++ [(l, t)]) h.tail
      exact ⟨st', by
        rw [trapsOf_cons_some ls (State.laneTrap_error hr), List.append_cons, ← h']
        simp only [State.runLanes, hstep, Except.map, hns, Bool.false_eq_true, if_false]⟩

/-- The trap of the lowest failing lane, which names the lanes that fail with its cause (R22, R23). -/
theorem State.execThread_trap (hb : (s.squad? s.cur.q).isSome = true) (hl : l ∈ s.lanes) (ht : s.laneResult i g stall f l = .error t)
    (hc : t.cause ≠ 0x0B) (hreg : (s.ctx 0).region ≠ 1) (hlow : ∀ m ∈ s.lanes, m < l → ∃ u, s.laneResult i g stall f m = .ok u) :
    s.execThread i g stall f = s.takeTrap s.cur.q t.cause (maskOf (s.lanes.filter (s.failsWith i g stall f t.cause))) t.addr s.cur.pc := by
  obtain ⟨st', hrun⟩ := SameLanes.runLanes_onThread (i := i) (g := g) (stall := stall) (f := f) hreg s.lanes s [] (SameLanes.refl s hb)
  obtain ⟨rest, hfirst⟩ : ∃ rest, trapsOf (s.laneTrap i g stall f) s.lanes = (l, t) :: rest :=
    trapsOf_lowest (lanesOf_sorted _) hl (State.laneTrap_error ht) fun m hm hlt => by
      obtain ⟨u, hu⟩ := hlow m hm hlt
      exact State.laneTrap_ok hu
  have hnamed := trapLanes_trapsOf s (s.laneTrap i g stall f) s.lanes hc
  have hfails : s.failsWith i g stall f t.cause = fun m => (s.laneTrap i g stall f m).any (·.cause == t.cause) :=
    funext fun m => s.failsWith_eq i g stall f t.cause m
  rw [hfirst] at hrun hnamed
  unfold State.execThread State.execLanes
  rw [show lanesOf s.cur.lanes = s.lanes from rfl, hrun, hfails, ← hnamed]
  rfl

/-- In an ENUM region a lane that meets one of the causes 0x01 to 0x09 is parked with it instead (R154). -/
theorem State.execThread_park (hb : (s.squad? s.cur.q).isSome = true) (ht : s.laneResult i g stall f l = .error t)
    (hreg : (s.ctx 0).region = 1) (hlo : 1 ≤ t.cause) (hhi : t.cause ≤ 9) (hone : s.lanes = [l]) :
    s.execThread i g stall f = s.park s.cur.q l (BitVec.ofNat 8 t.cause) := by
  have hstep := (hone ▸ SameLanes.refl s hb : SameLanes s [l] s).laneStep_onThread i g stall f
  rw [ht] at hstep
  have hsup : suppressed (s.ctx l) t = true := by
    have : (s.ctx l).region = 1 := hreg
    simp [suppressed, this, hlo, hhi]
  unfold State.execThread State.execLanes
  rw [show lanesOf s.cur.lanes = [l] from hone]
  simp only [State.runLanes, hstep, Except.map, hsup, if_true]

/-! ### What a trap leaves -/

@[simp] theorem State.squad_setSquad_same (s : State) (q : Nat) (v : Squad) : (s.setSquad q v).squad q = v := by
  simp [State.squad]

theorem State.squad_setSquad_other (s : State) {q p : Nat} (v : Squad) (h : p ≠ q) : (s.setSquad q v).squad p = s.squad p := by
  simp [State.squad, State.squad?_setSquad_other s v h]

theorem State.squad_takeTrap_other (s : State) {q p : Nat} (cause : Nat) (m : BitVec 32) (a e : Word) (h : p ≠ q) :
    (s.takeTrap q cause m a e).squad p = s.squad p := by
  simp [State.takeTrap, State.squad, State.squad?_modSquad, h]

/-- Values mapped by a function that keeps what an unlisted key reads as. -/
theorem SMap.get_map {α : Type} (d : α) (h : α → α) (hd : h d = d) (m : SMap α) (k : Nat) :
    SMap.get d (m.map fun (j, v) => (j, h v)) k = h (SMap.get d m k) := by
  induction m with
  | nil => exact hd.symm
  | cons x m ih =>
    obtain ⟨j, v⟩ := x
    simp only [List.map_cons, SMap.get_cons, ih]
    split <;> rfl

/-- A trap changes nothing of the threads of its squad but that what they have written has landed (R303). -/
theorem State.thread_takeTrap_same (s : State) (q cause : Nat) (m : BitVec 32) (a e : Word) (l : Nat) :
    (s.takeTrap q cause m a e).thread q l = { s.thread q l with pend := [] } := by
  cases h : s.squad? q with
  | none =>
    rw [State.takeTrap, State.modSquad_none s q _ h]
    simp [State.thread, State.squad, h, Squad.thread]
  | some sq =>
    rw [State.takeTrap, State.modSquad_some s q _ h, State.thread, State.thread, State.squad_setSquad_same, s.squad_some h]
    exact SMap.get_map {} Thread.landAll rfl sq.threads l

theorem State.thread_takeTrap_other (s : State) {q p : Nat} (cause : Nat) (m : BitVec 32) (a e : Word) (l : Nat) (h : p ≠ q) :
    (s.takeTrap q cause m a e).thread p l = s.thread p l := by
  rw [State.thread, s.squad_takeTrap_other cause m a e h, State.thread]

/-! ### A squad that stands at a trap issues nothing -/

theorem SMap.mem_set {α : Type} [DecidableEq α] {d : α} {m : SMap α} {k : Nat} {v : α} {x : Nat × α} (h : x ∈ SMap.set d m k v)
    (hk : x.1 = k) : x.2 = v := by
  have no : x ∉ SMap.erase m k := fun hx => by simp [SMap.erase, hk] at hx
  unfold SMap.set at h
  split at h
  · exact absurd h no
  · rcases (SMap.mem_insert _ _ _ _).mp h with rfl | h
    · rfl
    · exact absurd h no

/-- A record that has just been given a squad holds that one. -/
theorem State.mem_records_setSquad {q : Nat} {v : Squad} {x : Nat × Squad} (h : x ∈ (s.setSquad q v).records) (hq : x.1 = q) : x.2 = v := by
  obtain ⟨⟨p, o⟩, hm, ho⟩ := List.mem_filterMap.mp h
  obtain ⟨sq, rfl, rfl⟩ := Option.map_eq_some_iff.mp ho
  have hv : some sq = some v := SMap.mem_set (d := none) (m := s.squads) (x := (p, some sq)) hm hq
  exact Option.some.inj hv

theorem State.setOf_trapped (s : State) (q : Nat) {sq : Squad} (h : sq.status = .trapped) : s.setOf q sq = none := by
  simp [State.setOf, h]

/-- A record that may be given a port holds a squad that has an issue set. -/
theorem State.mem_candidates {c : Candidate} (h : c ∈ s.candidates) : (c.1, c.2.1) ∈ s.records ∧ (s.setOf c.1 c.2.1).isSome = true := by
  obtain ⟨⟨q, sq⟩, hm, hc⟩ := List.mem_filterMap.mp (List.mem_filter.mp h).1
  simp only at hc
  split at hc
  · obtain ⟨⟨pc, m⟩, hset, rfl⟩ := Option.map_eq_some_iff.mp hc
    exact ⟨hm, by simp [hset]⟩
  · cases hc

theorem firstOf_mem {now : Nat} {cs : List Candidate} {c : Candidate} (h : firstOf now cs = some c) : c ∈ cs := by
  refine List.foldlRecOn (motive := fun b => ∀ x, b = some x → x ∈ cs) cs _ (fun _ e => by cases e) (fun b hb d hd x hx => ?_) c h
  cases b with
  | none => exact Option.some.inj hx ▸ hd
  | some y =>
    dsimp only at hx
    split at hx
    · exact Option.some.inj hx ▸ hd
    · exact hb x hx

theorem State.not_candidate_of_trapped {q : Nat} {v : Squad} (hv : v.status = .trapped) {c : Candidate} (h : c ∈ (s.setSquad q v).candidates) :
    c.1 ≠ q := by
  intro hq
  obtain ⟨hrec, hset⟩ := State.mem_candidates h
  have hsq : c.2.1 = v := State.mem_records_setSquad hrec hq
  rw [hsq, State.setOf_trapped _ _ hv] at hset
  cases hset

theorem State.nextIssue_of_trapped {q : Nat} {v : Squad} (hv : v.status = .trapped) {c : Cur} (h : (s.setSquad q v).nextIssue = some c) :
    c.q ≠ q := by
  obtain ⟨x, hx, rfl⟩ := Option.map_eq_some_iff.mp h
  exact State.not_candidate_of_trapped hv (firstOf_mem hx)

theorem State.chosenIssue_of_trapped (s : State) {q : Nat} {v : Squad} (hv : v.status = .trapped) (pc : Word) :
    (s.setSquad q v).chosenIssue q pc = none := by
  rw [Option.eq_none_iff_forall_ne_some]
  intro c h
  obtain ⟨x, hx, rfl⟩ := Option.map_eq_some_iff.mp h
  obtain ⟨hfirst, hat⟩ := Option.filter_eq_some_iff.mp hx
  have hcand := (List.mem_filter.mp (firstOf_mem hfirst)).1
  simp only [Bool.and_eq_true, beq_iff_eq] at hat
  exact State.not_candidate_of_trapped hv hcand hat.1

/-- Settles O51: the traps of the lanes are collected in lane order, the lowest one's is taken, and a squad that stands at a trap has no issue set. -/
theorem trapsNameTheirLanes : Obligations.TrapsNameTheirLanes := by
  unfold Obligations.TrapsNameTheirLanes
  refine ⟨?_, ?_⟩
  · intro i g stall f s l t hb hl ht hc
    exact ⟨fun hreg hlow => State.execThread_trap hb hl ht hc hreg hlow, fun hreg hlo hhi hone => State.execThread_park hb ht hreg hlo hhi hone⟩
  · intro q cause lanes addr epc s sq hsq
    have hthread := s.thread_takeTrap_same q cause lanes addr epc
    have hother : ∀ p, p ≠ q → (s.takeTrap q cause lanes addr epc).squad p = s.squad p :=
      fun p hp => s.squad_takeTrap_other cause lanes addr epc hp
    rw [State.takeTrap, State.modSquad_some s q _ hsq] at hthread hother ⊢
    refine ⟨?_, ?_, ?_, ?_, ?_, ?_, ?_, rfl, hother, hthread, fun pc => s.chosenIssue_of_trapped rfl pc,
      fun c hc => State.nextIssue_of_trapped rfl hc⟩
    all_goals rw [State.squad_setSquad_same]

end Sys2Proof.Machine
end

section
/-!
SUPPORT for O40 and O50. What a register reads after a write (R9, R10), and how a thread starts (R109).
-/
namespace Sys2Proof.Machine

/-! ### Registers -/

theorem Thread.get_put (t : Thread) (cx : Ctx) (c : Nat) (v : Reg) (lat : Lat) (src : Option Nat) (k : Nat) :
    SMap.get Reg.zero (t.put cx c v lat src).regs k = if k = c then v else SMap.get Reg.zero t.regs k :=
  SMap.get_set _ _ _ _ _

theorem Thread.write_z (t : Thread) (cx : Ctx) (v : Reg) (lat : Lat) : t.write cx 62 v lat = t := rfl

theorem Thread.read_z (t : Thread) (cx : Ctx) : t.read cx 62 = .ok ⟨0, .raw64⟩ := rfl

theorem Thread.get_write_e1 (t : Thread) (cx : Ctx) (v : Reg) (lat : Lat) (k : Nat) :
    SMap.get Reg.zero (t.write cx 61 v lat).regs k = if k = 61 then v else SMap.get Reg.zero t.regs k :=
  t.get_put cx 61 v lat lat.src k

/-- The last-result shift: the new value in e0, and the old e0 in e1. -/
theorem Thread.get_write_e0 (t : Thread) (cx : Ctx) (v : Reg) (lat : Lat) (k : Nat) :
    SMap.get Reg.zero (t.write cx 60 v lat).regs k =
      if k = 60 then v else if k = 61 then SMap.get Reg.zero t.regs 60 else SMap.get Reg.zero t.regs k := by
  rw [show t.write cx 60 v lat = (t.put cx 61 (SMap.get Reg.zero t.regs 60) lat (t.srcOf 60)).put cx 60 v lat lat.src from rfl,
    Thread.get_put, Thread.get_put]

/-- A result in another register is also the last result. -/
theorem Thread.write_main (t : Thread) (cx : Ctx) {d : RegCode} (v : Reg) (lat : Lat) (hz : d ≠ 62) (h1 : d ≠ 61) (h0 : d ≠ 60) :
    t.write cx d v lat = (t.write cx 60 v lat).put cx d.toNat v lat lat.src := by
  rw [Thread.write, if_neg hz, if_neg h1, if_neg h0]
  rfl

/-- A write changes registers and what is under way, and nothing else of its thread. -/
theorem Thread.write_frame (t : Thread) (cx : Ctx) (d : RegCode) (v : Reg) (lat : Lat) :
    t.write cx d v lat = { t with regs := (t.write cx d v lat).regs, pend := (t.write cx d v lat).pend } := by
  unfold Thread.write
  split
  · rfl
  · split
    · rfl
    · dsimp only
      split <;> rfl

theorem RegCode.toNat_ne {d : RegCode} {c : RegCode} (h : d ≠ c) : d.toNat ≠ c.toNat := fun e => h (BitVec.eq_of_toNat_eq e)

/-- Settles O50, by the kind of destination: e1, e0, or a register whose result is also the last result. -/
theorem registerWrites : Obligations.RegisterWrites := by
  unfold Obligations.RegisterWrites
  intro t cx v lat
  refine ⟨t.read_z cx, t.write_z cx v lat, fun d hz => ?_⟩
  dsimp only
  suffices h : SMap.get Reg.zero (t.write cx d v lat).regs d.toNat = v ∧
      (d ≠ 61 → SMap.get Reg.zero (t.write cx d v lat).regs 61 = SMap.get Reg.zero t.regs 60 ∧
        SMap.get Reg.zero (t.write cx d v lat).regs 60 = v) ∧
      (d = 61 → SMap.get Reg.zero (t.write cx d v lat).regs 60 = SMap.get Reg.zero t.regs 60) ∧
      (∀ c, c ≠ d.toNat → c ≠ 60 → c ≠ 61 → SMap.get Reg.zero (t.write cx d v lat).regs c = SMap.get Reg.zero t.regs c) by
    obtain ⟨hd, hlast, he1, hrest⟩ := h
    exact ⟨hd, hlast, he1, hrest, t.write_frame cx d v lat⟩
  by_cases h1 : d = 61
  · subst h1
    simp only [t.get_write_e1]
    exact ⟨rfl, fun h => absurd rfl h, fun _ => rfl, fun c _ _ hc => if_neg hc⟩
  by_cases h0 : d = 60
  · subst h0
    simp only [t.get_write_e0]
    exact ⟨rfl, fun _ => ⟨rfl, rfl⟩, fun h => absurd h h1, fun c _ hc0 hc1 => by rw [if_neg hc0, if_neg hc1]⟩
  · have n0 : 60 ≠ d.toNat := (RegCode.toNat_ne h0).symm
    have n1 : 61 ≠ d.toNat := (RegCode.toNat_ne h1).symm
    simp only [t.write_main cx v lat hz h1 h0, Thread.get_put, t.get_write_e0]
    exact ⟨if_pos trivial, fun _ => ⟨by rw [if_neg n1]; rfl, by rw [if_neg n0]; rfl⟩, fun h => absurd h h1,
      fun c hc hc0 hc1 => by rw [if_neg hc, if_neg hc0, if_neg hc1]⟩

/-! ### Threads as they start -/

/-- A listed key of a map made key by key. -/
theorem SMap.get_mapKeys {α : Type} (d : α) (f : Nat → α) {ks : List Nat} {k : Nat} (h : k ∈ ks) :
    SMap.get d (ks.map fun j => (j, f j)) k = f k := by
  induction ks with
  | nil => simp at h
  | cons j ks ih =>
    rw [List.map_cons, SMap.get_cons]
    by_cases hj : j = k
    · rw [if_pos hj, hj]
    · rw [if_neg hj]
      exact ih ((List.mem_cons.mp h).resolve_left (Ne.symm hj))

theorem startSquad_thread (l : Launch) (crew num at_ ctx : Nat) {lane : Nat} (h : lane < 32) :
    (startSquad l crew num at_ ctx).thread lane = startThread l crew num lane at_ :=
  SMap.get_mapKeys _ _ (List.mem_range.mpr h)

/-- The registers of a thread as it starts. -/
theorem startThread_get (l : Launch) (crew num lane at_ c : Nat) :
    SMap.get Reg.zero (startThread l crew num lane at_).regs c =
      if c = 2 then ⟨BitVec.ofNat 64 (num * 32 + lane), .i64⟩ else if c = 1 then ⟨BitVec.ofNat 64 crew, .i64⟩
      else if c = 0 then ⟨l.arg, .i64⟩ else Reg.zero := by
  simp only [startThread, SMap.get_set, SMap.get_nil]

/-- Settles O40: every lane of a squad that starts holds the thread that `startThread` gives. -/
theorem threadsStartAtEntry : Obligations.ThreadsStartAtEntry := by
  unfold Obligations.ThreadsStartAtEntry
  intro l crew num at_ ctx lane h
  dsimp only
  rw [startSquad_thread l crew num at_ ctx h]
  have hrest : ∀ c, 3 ≤ c → SMap.get Reg.zero (startThread l crew num lane at_).regs c = ⟨0, .raw64⟩ := fun c hc => by
    rw [startThread_get, if_neg (by omega), if_neg (by omega), if_neg (by omega)]
  exact ⟨rfl, rfl, rfl, startThread_get .., startThread_get .., startThread_get .., hrest, fun _ => rfl, rfl, rfl, rfl, rfl, rfl, fun _ => rfl⟩

end Sys2Proof.Machine
end

section
/-!
SUPPORT for O53. What a step does in each case of what moves next, and what an issue set executes (R22).
-/
namespace Sys2Proof.Machine

variable {s : State}

/-! ### What an issue set executes -/

/-- A halfword with bit 0 clear is a whole instruction (R46). -/
theorem State.fetch_of_half {la : Launch} {core pick h0 n : Nat} {pc : Word} {i : Instr} (hh : s.fetchHalf la core pc pick = .ok h0)
    (heven : h0 % 2 = 0) (hd : decodeHalves h0 none none = .ok i n) : s.fetch la core pc pick = .ok i := by
  simp only [State.fetch, hh, if_pos heven, hd]

/-- A halfword with bit 0 set is the first of two (R46), behind which an F-P word looks for INVEND (R168). -/
theorem State.fetch_of_halves {la : Launch} {core pick h0 h1 n : Nat} {pc : Word} {i : Instr} (hh : s.fetchHalf la core pc pick = .ok h0)
    (hodd : h0 % 2 = 1) (hh1 : s.fetchHalf la core (pc + 2) pick = .ok h1)
    (hd : decodeHalves h0 (some h1) (s.fetchHalf la core (pc + 4) pick).toOption = .ok i n) : s.fetch la core pc pick = .ok i := by
  have hne : ¬h0 % 2 = 0 := by omega
  simp only [State.fetch, hh, if_neg hne, hh1, hd]

theorem State.instrFor_fetched {c : Cur} (h : ∀ l ∈ lanesOf c.lanes, (s.squad c.q).runOf l = none) :
    s.instrFor c = s.fetch (s.launchOf (s.squad c.q).lid) (coreOf c.q) c.pc s.freeCtr := by
  simp only [State.instrFor, List.findSome?_eq_none_iff.mpr h]

theorem lanesOf_ne_nil {m : BitVec 32} (h : m ≠ 0) : lanesOf m ≠ [] := by
  intro hn
  refine h (BitVec.eq_of_getLsbD_eq fun l hl => ?_)
  have := List.filter_eq_nil_iff.mp hn l (List.mem_range.mpr hl)
  simpa using this

theorem State.instrFor_running {c : Cur} {r : InvRun} (h : ∀ l ∈ lanesOf c.lanes, (s.squad c.q).runOf l = some r) (hm : c.lanes ≠ 0) :
    s.instrFor c = .ok r.instr := by
  obtain ⟨l, ls, hls⟩ := List.exists_cons_of_ne_nil (lanesOf_ne_nil hm)
  have hl : (s.squad c.q).runOf l = some r := h l (by simp [hls])
  simp only [State.instrFor, hls, List.findSome?_cons, hl]

/-! ### An issue -/

theorem issue_instr {c : Cur} {i : Instr} (h : s.instrFor c = .ok i) : issue s c = exec i (s.beginIssue c) := by
  simp only [issue, h]

/-- Outside an ENUM region, what cannot be fetched or decoded is a trap of the whole issue set (R22). -/
theorem State.fetchTrap_outside {c : Cur} (t : Trap) (h : s.region (s.squad c.q) ≠ 1) :
    s.fetchTrap c t = s.takeTrap c.q t.cause c.lanes t.addr c.pc := by
  simp [State.fetchTrap, h]

theorem issue_trap {c : Cur} {t : Trap} (h : s.instrFor c = .error t) (hr : (s.beginIssue c).region ((s.beginIssue c).squad c.q) ≠ 1) :
    issue s c = .next ((s.beginIssue c).takeTrap c.q t.cause c.lanes t.addr c.pc) := by
  simp only [issue, h, State.fetchTrap_outside t hr]

/-! ### The cases of a step -/

theorem step_choice {c : Choice} {rest : List Choice} (h : s.agenda = c :: rest) : step s = awaken (choose { s with agenda := rest } c) := by
  simp only [step, h]

theorem step_due {e : Due} (ha : s.agenda = []) (hd : s.dueEvent = some e) : step s = awaken (e.run s) := by
  simp only [step, ha, hd]

theorem step_issue {c : Cur} (ha : s.agenda = []) (hd : s.dueEvent = none) (hb : s.boot ≠ .tripped) (hn : s.nextIssue = some c) :
    step s = awaken (issue s c) := by
  simp only [step, ha, hd, if_neg hb, hn]

theorem step_tick (ha : s.agenda = []) (hd : s.dueEvent = none) (hb : s.boot ≠ .tripped) (hn : s.nextIssue = none)
    (ht : s.dueTimeout = none) : step s = .next s.tick.wake := by
  simp only [step, ha, hd, if_neg hb, hn, ht]

/-- Settles O53, case by case of what moves next. -/
theorem stepRunsTheDecodedInstruction : Obligations.StepRunsTheDecodedInstruction := by
  unfold Obligations.StepRunsTheDecodedInstruction
  refine ⟨?fetched, ?executed, ?issued, ?named, ?event, ?due, ?idle, ?tick⟩
  case fetched =>
    intro s la core pc pick h0 hh
    exact ⟨fun heven i n hd => State.fetch_of_half hh heven hd, fun hodd h1 i n hh1 hd => State.fetch_of_halves hh hodd hh1 hd⟩
  case executed => exact fun s c => ⟨State.instrFor_fetched, fun r => State.instrFor_running⟩
  case issued =>
    intro s c ha hd hb hn
    rw [step_issue ha hd hb hn]
    exact ⟨fun i hi => by rw [issue_instr hi], fun t ht hr => by rw [issue_trap ht hr]; rfl⟩
  case named =>
    intro s q pc rest c i ha s1 hc hi
    rw [step_choice ha]
    have hchoose : choose s1 (.issue q pc) = issue s1 c := by simp only [choose, hc]
    rw [hchoose, issue_instr hi]
  case event => exact fun s i rest ha => step_choice ha
  case due => exact fun s e ha hd => step_due ha hd
  case idle => exact fun s ha hd hb hn ht => step_tick ha hd hb hn ht
  case tick => exact fun s rest ha => step_choice ha

end Sys2Proof.Machine
end

section
/-!
SUPPORT for O52. The tag checks of two register sources (R13, R44, R45), thread by thread and where lanes are combined (R128).
-/
namespace Sys2Proof.Machine

/-! ### Thread by thread -/

/-- What a source's own tag is refused with, 0 where it is accepted (R13). -/
def tagCause (ok : Tag → Bool) (r : Reg) : Nat := if r.tag = .poison then 0x11 else if ok r.tag then 0 else 0x02

/-- What two sources are refused with: first a, then b, then the pair (R23, R44, R45). -/
def pairCause (ok : Tag → Bool) (pairs : Tag → Tag → Bool) (x y : Reg) : Nat :=
  if tagCause ok x ≠ 0 then tagCause ok x else if tagCause ok y ≠ 0 then tagCause ok y else if pairs x.tag y.tag then 0 else 0x02

theorem tagCause_ne_stall (ok : Tag → Bool) (r : Reg) : tagCause ok r ≠ 0x0B := by
  unfold tagCause
  split
  · decide
  · split <;> decide

theorem pairCause_ne_stall (ok : Tag → Bool) (pairs : Tag → Tag → Bool) (x y : Reg) : pairCause ok pairs x y ≠ 0x0B := by
  unfold pairCause
  split
  · exact tagCause_ne_stall ok x
  · split
    · exact tagCause_ne_stall ok y
    · split <;> decide

theorem need_eq (ok : Tag → Bool) (r : Reg) : need ok r = if tagCause ok r = 0 then .ok () else .error ⟨tagCause ok r, 0⟩ := by
  unfold need tagCause
  by_cases hp : r.tag = .poison
  · simp [hp]
  · cases ok r.tag <;> simp [hp]

theorem need_accepts {ok : Tag → Bool} {r : Reg} (h : tagCause ok r = 0) : need ok r = .ok () := by
  rw [need_eq, if_pos h]

/-- A check that a cause refuses: it goes on where the cause is 0, and else is an error with that cause. -/
def Answers {α : Type} (cause : Nat) (e : Except Trap α) : Prop := (cause = 0 ∧ ∃ u, e = .ok u) ∨ (cause ≠ 0 ∧ e = .error ⟨cause, 0⟩)

theorem Answers.ok {α : Type} (u : α) : Answers 0 (.ok u) := .inl ⟨rfl, u, rfl⟩

theorem Answers.error {α : Type} {cause : Nat} (h : cause ≠ 0) : Answers cause (.error ⟨cause, 0⟩ : Except Trap α) := .inr ⟨h, rfl⟩

theorem Answers.ok_of_zero {α : Type} {cause : Nat} {e : Except Trap α} (h : Answers cause e) (hc : cause = 0) : ∃ u, e = .ok u :=
  h.elim And.right fun h => absurd hc h.1

theorem Answers.error_of_ne {α : Type} {cause : Nat} {e : Except Trap α} (h : Answers cause e) (hc : cause ≠ 0) : e = .error ⟨cause, 0⟩ :=
  h.elim (fun h => absurd h.1 hc) And.right

/-- What follows a check and fails no more. -/
theorem Answers.then_ok {α β : Type} {cause : Nat} {e : Except Trap α} (h : Answers cause e) (k : α → β) : Answers cause (e >>= fun u => .ok (k u)) := by
  rcases h with ⟨rfl, u, rfl⟩ | ⟨hc, rfl⟩
  · exact .ok (k u)
  · exact .error hc

/-- A source that can be read is refused with the cause of its tag. -/
theorem Thread.src_eq {t : Thread} {cx : Ctx} {c : RegCode} {r : Reg} (ok : Tag → Bool) (h : t.read cx c = .ok r) :
    t.src cx ok c = if tagCause ok r = 0 then .ok r else .error ⟨tagCause ok r, 0⟩ := by
  simp only [Thread.src, h, need_eq]
  by_cases hc : tagCause ok r = 0
  · simp only [if_pos hc]
  · simp only [if_neg hc]

/-- RAW64 stands beside any tag, another only beside itself (R45). -/
def rawPairs (x y : Tag) : Bool := x == y || x == .raw64 || y == .raw64

/-- RAW64 stands beside any float tag, another only beside itself, and two RAW64 have no layout (R45). -/
def floatPairs (x y : Tag) : Bool := rawPairs x y && !(x == .raw64 && y == .raw64)

theorem layoutInt_answers {x y : Reg} (hx : tagCause isIntTag x = 0) (hy : tagCause isIntTag y = 0) :
    Answers (if rawPairs x.tag y.tag then 0 else 0x02) (layoutInt x y) := by
  simp only [layoutInt, need_accepts hx, need_accepts hy, bind, Except.bind, rawPairs]
  by_cases h : x.tag = y.tag
  · simpa [h] using Answers.ok y.tag
  · by_cases h1 : x.tag = .raw64
    · simpa [h1, h1 ▸ h] using Answers.ok y.tag
    · by_cases h2 : y.tag = .raw64
      · simpa [h1, h2] using Answers.ok x.tag
      · simpa [h, h1, h2] using Answers.error (α := Tag) (cause := 2) (by decide)

theorem layoutFloat_answers {x y : Reg} (hx : tagCause floatSrc x = 0) (hy : tagCause floatSrc y = 0) :
    Answers (if floatPairs x.tag y.tag then 0 else 0x02) (layoutFloat [x, y]) := by
  have hx' : need (fun t => isFloatTag t || t == .raw64) x = .ok () := need_accepts hx
  have hy' : need (fun t => isFloatTag t || t == .raw64) y = .ok () := need_accepts hy
  have herr := Answers.error (α := Tag) (cause := 2) (by decide)
  simp only [layoutFloat, List.forM_eq_forM, List.forM_cons, List.forM_nil, hx', hy', bind, Except.bind, pure, Except.pure, List.map_cons, List.map_nil,
    floatPairs, rawPairs]
  by_cases h1 : x.tag = .raw64
  · by_cases h2 : y.tag = .raw64
    · simpa [h1, h2] using herr
    · simpa [h1, h2] using Answers.ok y.tag
  · by_cases h2 : y.tag = .raw64
    · simpa [h1, h2] using Answers.ok x.tag
    · by_cases h : x.tag = y.tag
      · simpa [h, h2] using Answers.ok y.tag
      · simpa [h1, h2, h, Ne.symm h] using herr

/-- An effect on one thread checks two sources and goes on where they are accepted. -/
def ChecksPair (ok : Tag → Bool) (pairs : Tag → Tag → Bool) (a b : RegCode) (f : Ctx → Thread → Except Trap Thread) : Prop :=
  ∀ cx t x y, t.read cx a = .ok x → t.read cx b = .ok y → Answers (pairCause ok pairs x y) (f cx t)

/-- Two sources checked for their own tags, with what is done from there. -/
theorem ChecksPair.of_src {ok : Tag → Bool} {pairs : Tag → Tag → Bool} {a b : RegCode} (next : Ctx → Thread → Reg → Reg → Except Trap Thread)
    (hnext : ∀ cx t x y, tagCause ok x = 0 → tagCause ok y = 0 → Answers (if pairs x.tag y.tag then 0 else 0x02) (next cx t x y)) :
    ChecksPair ok pairs a b fun cx t => t.src cx ok a >>= fun x => t.src cx ok b >>= fun y => next cx t x y := by
  intro cx t x y hx hy
  simp only [Thread.src_eq ok hx, Thread.src_eq ok hy, pairCause]
  by_cases h1 : tagCause ok x = 0
  · by_cases h2 : tagCause ok y = 0
    · simpa [h1, h2, bind, Except.bind] using hnext cx t x y h1 h2
    · simpa [h1, h2, bind, Except.bind] using Answers.error h2
  · simpa [h1, bind, Except.bind] using Answers.error h1

theorem int2_checksPair (op : Nat → Nat → Nat → Nat) (b a d : RegCode) (lat : Lat) :
    ChecksPair isIntTag rawPairs a b fun cx t => t.int2 cx op b a d lat :=
  ChecksPair.of_src (fun cx t x y => layoutInt x y >>= fun g => .ok (t.write cx d ⟨zipElems g op x.data y.data, g⟩ lat)) fun _ _ _ _ hx hy =>
    (layoutInt_answers hx hy).then_ok _

theorem float2_checksPair (op : Fmt → Rm → Nat → Nat → Nat × Flags) (b a d : RegCode) (lat : Lat) :
    ChecksPair floatSrc floatPairs a b fun cx t => t.float2 cx op b a d lat :=
  ChecksPair.of_src (fun cx t x y => layoutFloat [x, y] >>= fun g =>
    .ok (t.writeF cx d g (floatElems g ((elems g x.data).zipWith (op (fmtOf g) t.rm) (elems g y.data))) lat)) fun _ _ _ _ hx hy =>
    (layoutFloat_answers hx hy).then_ok _

theorem bit2_checksPair (op : Word → Word → Word) (b a d : RegCode) :
    ChecksPair isBitTag (fun _ _ => true) a b fun cx t => t.bit2 cx op b a d :=
  ChecksPair.of_src (fun cx t x y => .ok (t.write cx d ⟨op x.data y.data, x.tag⟩ latInt)) fun _ _ _ _ _ _ => .ok _

/-- An instruction whose effect on each thread checks the two sources a and b. -/
def RunsPair (i : FR → Instr) (ok : Tag → Bool) (pairs : Tag → Tag → Bool) : Prop :=
  ∃ effect : FR → Ctx → Thread → Except Trap Thread,
    (∀ f s, exec (i f) s = .next (s.execThread (i f) f.g f.s.toNat (effect f))) ∧ ∀ f, ChecksPair ok pairs f.a f.b (effect f)

theorem RunsPair.int {i : FR → Instr} (op : Nat → Nat → Nat → Nat)
    (h : ∀ f s, exec (i f) s = .next (s.execThread (i f) f.g f.s.toNat fun cx t => t.int2 cx op f.b f.a f.d latInt)) :
    RunsPair i isIntTag rawPairs :=
  ⟨_, h, fun f => int2_checksPair op f.b f.a f.d latInt⟩

theorem RunsPair.bit {i : FR → Instr} (op : Word → Word → Word)
    (h : ∀ f s, exec (i f) s = .next (s.execThread (i f) f.g f.s.toNat fun cx t => t.bit2 cx op f.b f.a f.d)) :
    RunsPair i isBitTag fun _ _ => true :=
  ⟨_, h, fun f => bit2_checksPair op f.b f.a f.d⟩

theorem RunsPair.float {i : FR → Instr} (op : Fmt → Rm → Nat → Nat → Nat × Flags) (lat : Lat)
    (h : ∀ f s, exec (i f) s = .next (s.execThread (i f) f.g f.s.toNat fun cx t => t.float2 cx op f.b f.a f.d lat)) :
    RunsPair i floatSrc floatPairs :=
  ⟨_, h, fun f => float2_checksPair op f.b f.a f.d lat⟩

theorem intOps_runPair : ∀ i ∈ ([.add, .sub, .shl, .shr, .shrU, .rol, .mul, .mulh, .mulhU, .min, .minU, .max, .maxU, .adds, .addsU, .subs, .subsU] :
    List (FR → Instr)), RunsPair i isIntTag rawPairs := by
  simp only [List.forall_mem_cons]
  exact ⟨.int addE fun _ _ => rfl, .int subE fun _ _ => rfl, .int shlE fun _ _ => rfl, .int shrE fun _ _ => rfl, .int shrUE fun _ _ => rfl,
    .int rolE fun _ _ => rfl, .int mulE fun _ _ => rfl, .int mulhE fun _ _ => rfl, .int mulhUE fun _ _ => rfl, .int minE fun _ _ => rfl,
    .int minUE fun _ _ => rfl, .int maxE fun _ _ => rfl, .int maxUE fun _ _ => rfl, .int addsE fun _ _ => rfl, .int addsUE fun _ _ => rfl,
    .int subsE fun _ _ => rfl, .int subsUE fun _ _ => rfl, fun _ h => nomatch h⟩

theorem bitOps_runPair : ∀ i ∈ ([.and, .or, .xor, .andn] : List (FR → Instr)), RunsPair i isBitTag fun _ _ => true := by
  simp only [List.forall_mem_cons]
  exact ⟨.bit _ fun _ _ => rfl, .bit _ fun _ _ => rfl, .bit _ fun _ _ => rfl, .bit _ fun _ _ => rfl, fun _ h => nomatch h⟩

theorem floatOps_runPair : ∀ i ∈ ([.fadd, .fsub, .fmul, .fmin, .fmax] : List (FR → Instr)), RunsPair i floatSrc floatPairs := by
  simp only [List.forall_mem_cons]
  exact ⟨.float _ _ fun _ _ => rfl, .float _ _ fun _ _ => rfl, .float _ _ fun _ _ => rfl, .float _ _ fun _ _ => rfl,
    .float _ _ fun _ _ => rfl, fun _ h => nomatch h⟩

variable {s : State} {ok : Tag → Bool} {pairs : Tag → Tag → Bool}

/-- What a lane of a set that may run the instruction makes of it. -/
theorem State.laneResult_ready {i : Instr} {g : BitVec 2} {stall l : Nat} {f : Ctx → Thread → Except Trap Thread} (hr : s.ready i g = true)
    (hl : l ∈ s.lanes) : s.laneResult i g stall f l =
      if s.maskBit g.toNat l then f (s.ctx l) (s.past i stall l) else .ok (s.past i stall l) := by
  obtain ⟨_, ha, hg⟩ := (s.ready_iff i g).mp hr
  simp only [State.laneResult, admitted_lane s i l 0, ha, if_true, Thread.guardOn, s.readK_maskBit (hg l hl)]

/-- What an active lane's sources are refused with is what the lane makes of the instruction. -/
theorem ChecksPair.laneResult {i : Instr} {g : BitVec 2} {stall l : Nat} {a b : RegCode} {f : Ctx → Thread → Except Trap Thread}
    (hf : ChecksPair ok pairs a b f) (hr : s.ready i g = true) (hl : l ∈ s.active g) (ha : s.canRead a l = true) (hb : s.canRead b l = true) :
    Answers (pairCause ok pairs (s.operand a l) (s.operand b l)) (s.laneResult i g stall f l) := by
  obtain ⟨hl, hm⟩ := List.mem_filter.mp hl
  rw [State.laneResult_ready hr hl, if_pos hm]
  exact hf _ _ _ _ ((Thread.read_advance ..).trans (s.read_operand ha)) ((Thread.read_advance ..).trans (s.read_operand hb))

/-- The trap of two sources that some active lane's checks refuse: the cause of the lowest such lane, and the lanes that are refused with it (R23). -/
theorem RunsPair.trap {i : FR → Instr} (h : RunsPair i ok pairs) (f : FR) (s : State) (l0 : Nat) (hr : s.ready (i f) f.g = true)
    (hreg : (s.ctx 0).region ≠ 1) (hread : ∀ l ∈ s.active f.g, s.canRead f.a l = true ∧ s.canRead f.b l = true) (why : Nat → Nat)
    (hwhy : ∀ l, why l = pairCause ok pairs (s.operand f.a l) (s.operand f.b l)) (hl0 : l0 ∈ s.active f.g) (hbad : why l0 ≠ 0)
    (hlow : ∀ m ∈ s.active f.g, m < l0 → why m = 0) :
    exec (i f) s = .next (s.takeTrap s.cur.q (why l0) (maskOf ((s.active f.g).filter fun l => why l == why l0)) 0 s.cur.pc) := by
  obtain ⟨effect, hexec, hchecks⟩ := h
  have hactive : ∀ l ∈ s.active f.g, Answers (why l) (s.laneResult (i f) f.g f.s.toNat (effect f) l) := fun l hl => by
    rw [hwhy]
    exact (hchecks f).laneResult hr hl (hread l hl).1 (hread l hl).2
  have hidle : ∀ l ∈ s.lanes, s.maskBit f.g.toNat l = false →
      s.laneResult (i f) f.g f.s.toNat (effect f) l = .ok (s.past (i f) f.s.toNat l) := fun l hl hm => by
    rw [State.laneResult_ready hr hl, hm]
    rfl
  have htrap : s.laneResult (i f) f.g f.s.toNat (effect f) l0 = .error ⟨why l0, 0⟩ := (hactive l0 hl0).error_of_ne hbad
  have hbelow : ∀ m ∈ s.lanes, m < l0 → ∃ u, s.laneResult (i f) f.g f.s.toNat (effect f) m = .ok u := fun m hm hlt => by
    cases hk : s.maskBit f.g.toNat m with
    | false => exact ⟨_, hidle m hm hk⟩
    | true =>
      have hma : m ∈ s.active f.g := List.mem_filter.mpr ⟨hm, hk⟩
      exact (hactive m hma).ok_of_zero (hlow m hma hlt)
  have hnamed : s.lanes.filter (s.failsWith (i f) f.g f.s.toNat (effect f) (why l0)) = (s.active f.g).filter fun l => why l == why l0 := by
    rw [State.active, List.filter_filter]
    refine List.filter_congr fun l hl => ?_
    cases hk : s.maskBit f.g.toNat l with
    | false => simp [State.failsWith, hidle l hl hk]
    | true =>
      rcases hactive l (List.mem_filter.mpr ⟨hl, hk⟩) with ⟨h0, u, hu⟩ | ⟨_, he⟩
      · simp [State.failsWith, hu, h0, Ne.symm hbad]
      · simp [State.failsWith, he]
  have hstall : why l0 ≠ 0x0B := hwhy l0 ▸ pairCause_ne_stall ok pairs _ _
  rw [hexec, State.execThread_trap ((s.ready_iff _ _).mp hr).1 (List.mem_filter.mp hl0).1 htrap hstall hreg hbelow, hnamed]

/-! ### Where lanes are combined -/

/-- A check of a whole set that fails is the trap of the lanes that it names. -/
theorem State.execSet_trap {i : Instr} {g : BitVec 2} {stall : Nat} {f : State → State → List Nat → Except SetTrap State} {t : Trap}
    {m : BitVec 32} (hr : s.ready i g = true) (hf : f (s.advanceAll i stall) s (s.active g) = .error (t, m)) (hc : t.cause ≠ 0x0B) :
    s.execSet i g stall f = s.takeTrap s.cur.q t.cause m t.addr s.cur.pc := by
  simp only [State.execSet, ((s.ready_iff i g).mp hr).2.1, if_true, s.activeLanes_ok i g hr, hf, if_neg hc]

/-- An instruction whose lanes together must hold one accepted tag in a. -/
def RunsTogether (i : RegCode → RegCode → Instr) (ok : Tag → Bool) : Prop :=
  ∃ effect : RegCode → RegCode → State → State → List Nat → Except SetTrap State,
    (∀ a d s, exec (i a d) s = .next (s.execSet (i a d) 0 0 (effect a d))) ∧
    ∀ a d s' s0 act vs e, State.gather s0 act a = .ok vs → commonTag ok vs = .error e → effect a d s' s0 act = .error e

theorem RunsTogether.fold {i : RegCode → RegCode → Instr} (op : FoldOp) (scan : Bool)
    (h : ∀ a d s, exec (i a d) s = .next (s.laneFold (i a d) op scan a d)) : RunsTogether i op.accepts :=
  ⟨_, h, fun a d s' s0 act vs e hv he => by simp only [hv, he, bind, Except.bind]⟩

theorem matchLanes_runsTogether : RunsTogether .matchLanes matchTag :=
  ⟨_, fun _ _ _ => rfl, fun a d s' s0 act vs e hv he => by simp only [hv, he, bind, Except.bind]⟩

/-- The trap of lanes whose tags are not one accepted tag. -/
theorem RunsTogether.trap {i : RegCode → RegCode → Instr} (h : RunsTogether i ok) {a d : RegCode} (hr : s.ready (i a d) 0 = true)
    (hread : ∀ l ∈ s.active 0, s.canRead a l = true) {cause : Nat} {ls : List Nat} (hc : cause ≠ 0x0B)
    (he : commonTag ok ((s.active 0).map fun l => (l, s.operand a l)) = .error (⟨cause, 0⟩, maskOf ls)) :
    exec (i a d) s = .next (s.takeTrap s.cur.q cause (maskOf ls) 0 s.cur.pc) := by
  obtain ⟨effect, hexec, hchecks⟩ := h
  rw [hexec, State.execSet_trap hr (hchecks _ _ _ _ _ _ _ (s.gather_ok _ a hread) he) hc]

theorem lanes_of_filter (ls : List Nat) (v : Nat → Reg) (p : Reg → Bool) :
    ((ls.map fun l => (l, v l)).filter fun x => p x.2).map (·.1) = ls.filter fun l => p (v l) := by
  rw [List.filter_map, List.map_map]
  exact List.map_id _

/-- POISON is a machine check of the lanes that hold it. -/
theorem commonTag_poison {ls : List Nat} {v : Nat → Reg} (h : ls.any (fun l => (v l).tag == .poison) = true) :
    commonTag ok (ls.map fun l => (l, v l)) = .error (⟨0x11, 0⟩, maskOf (ls.filter fun l => (v l).tag == .poison)) := by
  obtain ⟨l, hl, hp⟩ := List.any_eq_true.mp h
  have hne : (ls.filter fun l => (v l).tag == .poison) ≠ [] := List.ne_nil_of_mem (List.mem_filter.mpr ⟨hl, hp⟩)
  simp only [commonTag, lanes_of_filter ls v fun r => r.tag == .poison, ne_eq, hne, not_false_eq_true, if_true]

/-- Without POISON, the tag of the lowest lane decides. -/
theorem commonTag_sound {l0 : Nat} {ls : List Nat} {v : Nat → Reg} (hp : ∀ l ∈ l0 :: ls, (v l).tag ≠ .poison) :
    commonTag ok ((l0 :: ls).map fun l => (l, v l)) =
      if ok (v l0).tag then
        if (l0 :: ls).filter (fun l => (v l).tag != (v l0).tag) = [] then .ok (v l0).tag
        else .error (⟨0x02, 0⟩, maskOf ((l0 :: ls).filter fun l => (v l).tag != (v l0).tag))
      else .error (⟨0x02, 0⟩, maskOf (l0 :: ls)) := by
  have hnone : ((l0 :: ls).filter fun l => (v l).tag == .poison) = [] := List.filter_eq_nil_iff.mpr fun l hl => by simp [hp l hl]
  have hall : ((l0 :: ls).map fun l => (l, v l)).map (·.1) = l0 :: ls := by
    rw [List.map_map]
    exact List.map_id _
  have hpois := lanes_of_filter (l0 :: ls) v fun r => r.tag == .poison
  have hodd := lanes_of_filter (l0 :: ls) v fun r => r.tag != (v l0).tag
  rw [hnone] at hpois
  rw [List.map_cons] at hpois hodd hall ⊢
  simp only [commonTag, hpois, hodd, hall, ne_eq, not_true_eq_false, if_false]

/-- The three traps of lanes that do not hold one accepted tag in a (R128). -/
theorem RunsTogether.traps {i : RegCode → RegCode → Instr} (h : RunsTogether i ok) (a d : RegCode) (s : State) (hr : s.ready (i a d) 0 = true)
    (hread : ∀ l ∈ s.active 0, s.canRead a l = true) :
    ((s.active 0).any (fun l => (s.operand a l).tag == .poison) = true → exec (i a d) s =
      .next (s.takeTrap s.cur.q 0x11 (maskOf ((s.active 0).filter fun l => (s.operand a l).tag == .poison)) 0 s.cur.pc)) ∧
    (∀ l0, (s.active 0).head? = some l0 → (∀ l ∈ s.active 0, (s.operand a l).tag ≠ .poison) →
      (ok (s.operand a l0).tag = false → exec (i a d) s = .next (s.takeTrap s.cur.q 0x02 (maskOf (s.active 0)) 0 s.cur.pc)) ∧
      (ok (s.operand a l0).tag = true → (s.active 0).any (fun l => (s.operand a l).tag != (s.operand a l0).tag) = true → exec (i a d) s =
        .next (s.takeTrap s.cur.q 0x02 (maskOf ((s.active 0).filter fun l => (s.operand a l).tag != (s.operand a l0).tag)) 0 s.cur.pc))) := by
  refine ⟨fun hp => h.trap hr hread (by decide) (commonTag_poison hp), fun l0 hhead hp => ?_⟩
  obtain ⟨ls, hls⟩ := List.head?_eq_some_iff.mp hhead
  rw [hls] at hp
  have hcommon := commonTag_sound (ok := ok) hp
  rw [← hls] at hcommon
  refine ⟨fun hno => h.trap hr hread (by decide) ?_, fun hyes hodd => h.trap hr hread (by decide) ?_⟩
  · rw [hcommon, if_neg (by simp [hno])]
  · obtain ⟨l, hl, hne⟩ := List.any_eq_true.mp hodd
    rw [hcommon, if_pos hyes, if_neg (List.ne_nil_of_mem (List.mem_filter.mpr ⟨hl, hne⟩))]

/-- Settles O52: each instruction is one that checks a pair or one that looks for a common tag. -/
theorem sourceTagsAreChecked : Obligations.SourceTagsAreChecked := by
  unfold Obligations.SourceTagsAreChecked
  refine ⟨?_, ?_⟩
  · intro p hp f s l0 hr hreg hread why hl0 hbad hlow
    have hruns : RunsPair p.1 p.2.1 p.2.2 := by
      rcases List.mem_append.mp hp with hp | hp
      · rcases List.mem_append.mp hp with hp | hp
        · obtain ⟨i, hi, rfl⟩ := List.mem_map.mp hp
          exact intOps_runPair i hi
        · obtain ⟨i, hi, rfl⟩ := List.mem_map.mp hp
          exact bitOps_runPair i hi
      · obtain ⟨i, hi, rfl⟩ := List.mem_map.mp hp
        exact floatOps_runPair i hi
    exact hruns.trap f s l0 hr hreg hread why (fun _ => rfl) hl0 hbad hlow
  · simp only [List.forall_mem_cons]
    exact ⟨matchLanes_runsTogether.traps, (RunsTogether.fold .add true fun _ _ _ => rfl).traps,
      (RunsTogether.fold .min true fun _ _ _ => rfl).traps, (RunsTogether.fold .max true fun _ _ _ => rfl).traps,
      (RunsTogether.fold .minU true fun _ _ _ => rfl).traps, (RunsTogether.fold .maxU true fun _ _ _ => rfl).traps,
      (RunsTogether.fold .add false fun _ _ _ => rfl).traps, (RunsTogether.fold .min false fun _ _ _ => rfl).traps,
      (RunsTogether.fold .max false fun _ _ _ => rfl).traps, (RunsTogether.fold .minU false fun _ _ _ => rfl).traps,
      (RunsTogether.fold .maxU false fun _ _ _ => rfl).traps, (RunsTogether.fold .and false fun _ _ _ => rfl).traps,
      (RunsTogether.fold .or false fun _ _ _ => rfl).traps, (RunsTogether.fold .xor false fun _ _ _ => rfl).traps, fun _ h => nomatch h⟩

end Sys2Proof.Machine
end

section
/-!
SUPPORT for O15 and O16. SRD and SWR (R63, R96): what a system register is made of, and what a write of one does to a lane.
-/
namespace Sys2Proof.Machine

variable {s : State} {a : RegCode} {l : Nat}

/-! ### Traps of one cause -/

theorem State.maskBit_zero (s : State) (l : Nat) : s.maskBit 0 l = true := rfl

/-- Where the lanes that fail all meet one trap, it names them. -/
theorem State.execLanes_trapWhere {i : Instr} {stall : Nat} {f : Ctx → State → Except Trap State} (bad : Nat → Bool) (t : Trap)
    (hc : t.cause ≠ 0x0B) (hr : s.ready i 0 = true) (hreg : (s.ctx 0).region ≠ 1)
    (hf : ∀ l ∈ s.lanes, ∀ st, SameLanes s [l] st →
      if bad l then f (s.ctx l) (st.setThread s.cur.q l (s.past i stall l)) = .error t
      else ∃ u, f (s.ctx l) (st.setThread s.cur.q l (s.past i stall l)) = .ok (st.setThread s.cur.q l u))
    (hsome : ∃ l ∈ s.lanes, bad l = true) :
    s.execLanes i 0 stall f = s.takeTrap s.cur.q t.cause (maskOf (s.lanes.filter bad)) t.addr s.cur.pc := by
  have hmask := trapLanes_trapsOf s (fun l => if bad l then some t else none) s.lanes hc
  have hbad : (fun l => (if bad l then some t else none).any (·.cause == t.cause)) = bad := funext fun l => by cases bad l <;> simp
  rw [hbad] at hmask
  cases hfail : trapsOf (fun l => if bad l then some t else none) s.lanes with
  | nil =>
    obtain ⟨l, hl, hb⟩ := hsome
    exact absurd (List.filterMap_eq_nil_iff.mp hfail l hl) (by simp [hb])
  | cons x rest =>
    obtain ⟨l0, e0⟩ := x
    have he0 : e0 = t := by
      have hx : (l0, e0) ∈ trapsOf (fun l => if bad l then some t else none) s.lanes := by simp [hfail]
      obtain ⟨l, _, hl⟩ := List.mem_filterMap.mp hx
      cases h : bad l <;> simp_all
    subst he0
    rw [← hmask, hfail]
    refine s.execLanes_trap i 0 stall f _ hr hreg (fun l hl st hsame => ?_) l0 e0 rest hfail
    have := hf l hl st hsame
    cases h : bad l with
    | true => exact ⟨s.maskBit_zero l, by simpa [h] using this⟩
    | false => exact fun _ => by simpa [h] using this

/-! ### SRD -/

/-- Two threads hold the same of what system registers show. -/
def Thread.SameSystem (t u : Thread) : Prop := t.draw = u.draw ∧ t.frm = u.frm ∧ t.fflags = u.fflags ∧ t.lstop = u.lstop

theorem State.sysRegOf_setThread (s : State) (sq : Squad) (l : Nat) (t : Thread) (cx : Ctx) (n : Nat) (h : t.SameSystem (sq.thread l)) :
    s.sysRegOf (sq.setThread l t) cx n = s.sysRegOf sq cx n := by
  have hsame : ((sq.setThread l t).thread cx.lane).SameSystem (sq.thread cx.lane) := by
    by_cases hl : cx.lane = l
    · rw [hl]
      simpa [Squad.setThread, Squad.thread] using h
    · simp [Squad.setThread, Squad.thread, SMap.get_set_other _ _ _ hl, Thread.SameSystem]
  obtain ⟨hdraw, hfrm, hfflags, hlstop⟩ := hsame
  simp only [State.sysRegOf, State.holdstat, hdraw, hfrm, hfflags, hlstop]
  rfl

/-- A system register reads as before where a thread is replaced by one that holds the same of what they show. -/
theorem State.sysReg_setThread (s : State) (q l : Nat) (t : Thread) (cx : Ctx) (n : Nat) (h : t.SameSystem (s.thread q l)) :
    (s.setThread q l t).sysReg cx n = s.sysReg cx n := by
  cases hq : s.squad? q with
  | none => rw [State.setThread, State.modSquad_none s q _ hq]
  | some sq =>
    have hframe : ∀ v x, (s.setSquad q v).sysRegOf x cx n = s.sysRegOf x cx n := fun _ _ => rfl
    rw [State.thread, s.squad_some hq] at h
    rw [State.setThread, State.modSquad_some s q _ hq, State.sysReg, hframe, State.sysReg]
    by_cases hc : cx.q = q
    · rw [hc, State.squad_setSquad_same, s.squad_some hq, s.sysRegOf_setThread sq l t cx n h]
    · rw [State.squad_setSquad_other s _ hc]

theorem Thread.write_sameSystem (t : Thread) (cx : Ctx) (d : RegCode) (v : Reg) (lat : Lat) : (t.write cx d v lat).SameSystem t := by
  rw [t.write_frame cx d v lat]
  exact ⟨rfl, rfl, rfl, rfl⟩

theorem State.past_sameSystem (s : State) (i : Instr) (stall l : Nat) : (s.past i stall l).SameSystem (s.th l) := ⟨rfl, rfl, rfl, rfl⟩

theorem Thread.SameSystem.trans {t u v : Thread} (h : t.SameSystem u) (k : u.SameSystem v) : t.SameSystem v := by
  obtain ⟨hdraw, hfrm, hfflags, hlstop⟩ := h
  obtain ⟨kdraw, kfrm, kfflags, klstop⟩ := k
  exact ⟨hdraw.trans kdraw, hfrm.trans kfrm, hfflags.trans kfflags, hlstop.trans klstop⟩

/-- A lane of a set that may run an unguarded instruction, in the state that the lanes before it have left. -/
theorem SameLanes.laneStep {st t : State} {rest : List Nat} {i : Instr} {stall : Nat} {f : Ctx → State → Except Trap State}
    (h : SameLanes s (l :: rest) st) (hr : s.ready i 0 = true)
    (hf : f (s.ctx l) (st.setThread s.cur.q l (s.past i stall l)) = .ok t) : st.laneStep i 0 stall f l = .ok t := by
  have hk : (s.th l).readK (s.ctx l) (BitVec.toNat (0 : BitVec 2)) = .ok true := rfl
  have hth : st.thread s.cur.q l = s.th l := h.thread l (by simp)
  have hpast : (s.th l).advance (s.ctx l) i stall = s.past i stall l := rfl
  simp only [State.laneStep, h.ctx l (by simp), ctx_q, hth, admitted_lane s i l 0, ((s.ready_iff i 0).mp hr).2.1, if_true, Thread.guardOn, hk,
    hpast, hf]

/-- An unguarded instruction has run where each lane's thread has been replaced in turn. -/
theorem State.ran_unguarded (s : State) (i : Instr) (stall : Nat) (res : Nat → Thread) :
    s.ran i 0 stall res = s.lanes.foldl (fun st l => st.setThread s.cur.q l (res l)) s := rfl

/-- SRD reads the same register in every lane's turn, because no lane's turn changes what system registers show. -/
theorem execSrd_completes (n : BitVec 12) (d : RegCode) (s : State) (hr : s.ready (.srd n d) 0 = true) :
    exec (.srd n d) s = .next (s.ran (.srd n d) 0 0 fun l =>
      (s.past (.srd n d) 0 l).write (s.ctx l) d ⟨s.sysReg (s.ctx l) n.toNat, .i64⟩ .sb) := by
  have hexec : exec (.srd n d) s = .next (s.execLanes (.srd n d) 0 0 (doSrd n d)) := rfl
  rw [hexec, State.ran_unguarded]
  refine congrArg Host.Outcome.next (s.execLanes_fold (.srd n d) 0 0 (doSrd n d) _
    (fun ls st => SameLanes s ls st ∧ ∀ cx, st.sysReg cx n.toNat = s.sysReg cx n.toNat)
    ⟨SameLanes.refl s ((s.ready_iff _ _).mp hr).1, fun _ => rfl⟩ ?_)
  rintro l rest st ⟨hsame, hreg⟩
  have hth : st.thread s.cur.q l = s.th l := hsame.thread l (by simp)
  have hpast : (st.setThread s.cur.q l (s.past (.srd n d) 0 l)).sysReg (s.ctx l) n.toNat = s.sysReg (s.ctx l) n.toNat := by
    rw [State.sysReg_setThread _ _ _ _ _ _ (hth ▸ s.past_sameSystem _ _ _), hreg]
  refine ⟨hsame.laneStep hr ?_, hsame.next _, fun cx => ?_⟩
  · simp only [doSrd, ctx_q, ctx_lane, State.modThread, State.thread_setThread_same _ _ _ _ hsame.bound, State.setThread_setThread, hpast]
  · rw [State.sysReg_setThread _ _ _ _ _ _ (hth ▸ (Thread.write_sameSystem ..).trans (s.past_sameSystem _ _ _)), hreg]

/-! ### SWR -/

/-- A write of a system register from a source that a lane holds: the register's own checks decide (R23, R96). -/
theorem doSwr_holds {st : State} {i : Instr} {stall : Nat} (n : Nat) (hb : (st.squad? s.cur.q).isSome = true) (h : s.holds isAddrTag a l = true) :
    doSwr n a (s.ctx l) (st.setThread s.cur.q l (s.past i stall l)) =
      (st.setThread s.cur.q l (s.past i stall l)).putSysReg (s.ctx l) n (s.operand a l).data := by
  simp only [doSwr, ctx_q, ctx_lane, State.thread_setThread_same _ _ _ _ hb, s.src_holds i stall h, bind, Except.bind]

/-- A register's write that a lane's value passes, as it changes the lane's thread. -/
theorem State.execSwr_ran {i : Instr} {n : Nat} (hr : s.ready i 0 = true) (put : Word → Thread → Thread) (fits : Word → Prop)
    (hput : ∀ (st : State) cx v, fits v → st.putSysReg cx n v = .ok (st.modThread cx.q cx.lane (put v)))
    (h : ∀ l ∈ s.lanes, s.holds isAddrTag a l = true ∧ fits (s.operand a l).data) :
    s.execLanes i 0 0 (doSwr n a) = s.ran i 0 0 fun l => put (s.operand a l).data (s.past i 0 l) := by
  refine s.execLanes_threads i 0 0 _ _ hr fun l hl _ st hsame => ?_
  obtain ⟨hholds, hfits⟩ := h l hl
  rw [doSwr_holds n hsame.bound hholds, hput _ _ _ hfits]
  simp only [ctx_q, ctx_lane, State.modThread, State.thread_setThread_same _ _ _ _ hsame.bound, State.setThread_setThread]

/-- A register's write that some lanes' values do not pass. -/
theorem State.execSwr_trap {i : Instr} {n : Nat} (hr : s.ready i 0 = true) (hreg : (s.ctx 0).region ≠ 1) (bad : Nat → Bool)
    (put : Word → Thread → Thread) (hholds : ∀ l ∈ s.lanes, s.holds isAddrTag a l = true)
    (hput : ∀ l ∈ s.lanes, ∀ (st : State) cx, st.putSysReg cx n (s.operand a l).data =
      if bad l then .error ⟨0x01, 0⟩ else .ok (st.modThread cx.q cx.lane (put (s.operand a l).data)))
    (hsome : ∃ l ∈ s.lanes, bad l = true) :
    s.execLanes i 0 0 (doSwr n a) = s.takeTrap s.cur.q 0x01 (maskOf (s.lanes.filter bad)) 0 s.cur.pc := by
  refine State.execLanes_trapWhere bad ⟨0x01, 0⟩ (by decide) hr hreg (fun l hl st hsame => ?_) hsome
  rw [doSwr_holds n hsame.bound (hholds l hl), hput l hl]
  cases bad l with
  | true => rfl
  | false =>
    refine ⟨put (s.operand a l).data (s.past i 0 l), ?_⟩
    simp [ctx_q, ctx_lane, State.modThread, State.thread_setThread_same _ _ _ _ hsame.bound]

theorem State.putSysReg_frm (s : State) (cx : Ctx) (v : Word) : s.putSysReg cx 0x0F v =
    if v.toNat < 5 then .ok (s.modThread cx.q cx.lane fun t => { t with frm := v.truncate 3 }) else .error ⟨0x01, 0⟩ := rfl

theorem State.putSysReg_fflags (s : State) (cx : Ctx) (v : Word) : s.putSysReg cx 0x10 v =
    if v.toNat < 32 then .ok (s.modThread cx.q cx.lane fun t => { t with fflags := v.truncate 5 }) else .error ⟨0x01, 0⟩ := rfl

theorem State.putSysReg_draw (s : State) (cx : Ctx) (v : Word) : s.putSysReg cx 0x0C v =
    if v.toNat < 2 ^ 32 then .ok (s.modThread cx.q cx.lane fun t => { t with draw := v.truncate 32 }) else .error ⟨0x01, 0⟩ := rfl

/-- A register that takes no program write (R96). -/
theorem State.putSysReg_unwritable (s : State) (cx : Ctx) {n : Nat} (v : Word) (h1 : n ≠ 0x0C) (h2 : n ≠ 0x0F) (h3 : n ≠ 0x10) (h4 : n ≠ 0x12) :
    s.putSysReg cx n v = .error ⟨0x01, 0⟩ := by
  unfold State.putSysReg
  split
  · exact absurd rfl h1
  · exact absurd rfl h2
  · exact absurd rfl h3
  · exact absurd rfl h4
  · rfl

/-- INJ takes a value without reserved bits or reserved values where the controller has enabled injection (R345). -/
theorem State.putSysReg_inj (s : State) (cx : Ctx) {v : Word} (hjob : (s.job? (s.launchOf cx.lid).job).map (·.inj) = some true)
    (hwidth : v.toNat < 2 ^ 33) (hreserved : v.toNat / 2 ^ 3 % 2 = 0) (htarget : v.toNat / 2 ^ 4 % 8 < 3) (hmode : v.toNat / 2 % 4 ≠ 3) :
    s.putSysReg cx 0x12 v = .ok (s.modCrew cx.lid cx.crew fun c => { c with inj :=
      { skip := v.toNat / 2 ^ 16 % 2 ^ 16, bit := v.toNat / 2 ^ 7 % 2 ^ 9, target := v.toNat / 2 ^ 4 % 8, mode := v.toNat / 2 % 4,
        arm := v.toNat % 2 == 1 } }) := by
  have hb : bitsOf v.toNat 3 1 = 0 := hreserved
  have ht : bitsOf v.toNat 4 3 < 3 := htarget
  have hm : bitsOf v.toNat 1 2 = v.toNat / 2 % 4 := rfl
  have harm : bitsOf v.toNat 0 1 = v.toNat % 2 := by simp [bitsOf]
  have hfits : (v.toNat / 2 % 4 != 3) = true := bne_iff_ne.mpr hmode
  simp only [State.putSysReg, hjob, Option.getD_some, decide_eq_true hwidth, hb, decide_eq_true ht, hm, hfits, harm, beq_self_eq_true, Bool.and_self,
    if_true]
  rfl

theorem getLsbD_foldl_lane (ls : List Nat) (m : BitVec 32) {k : Nat} (hk : k < 32) :
    (ls.foldl (fun m l => m ||| (1#32 <<< l)) m).getLsbD k = (m.getLsbD k || decide (k ∈ ls)) := by
  induction ls generalizing m with
  | nil => simp
  | cons l ls ih =>
    rw [List.foldl_cons, ih, BitVec.getLsbD_or, Bool.or_assoc]
    congr 1
    by_cases h : k = l
    · subst h; simp [hk]
    · have h1 : (1#32 <<< l).getLsbD k = false := by
        simp only [BitVec.getLsbD_shiftLeft, BitVec.getLsbD_one]
        simp
        omega
      simp [h1, h]

theorem maskOf_lanesOf (m : BitVec 32) : maskOf (lanesOf m) = m := by
  refine BitVec.eq_of_getLsbD_eq fun k hk => ?_
  rw [maskOf, getLsbD_foldl_lane _ _ hk]
  simp [lanesOf, hk]

/-- A trap leaves the floating status and the rounding mode of every thread. -/
theorem State.takeTrap_keepsStatus (s : State) (q cause : Nat) (m : BitVec 32) (ad e : Word) (p l : Nat) :
    ((s.takeTrap q cause m ad e).thread p l).frm = (s.thread p l).frm ∧ ((s.takeTrap q cause m ad e).thread p l).fflags = (s.thread p l).fflags := by
  by_cases h : p = q
  · rw [h, State.thread_takeTrap_same]
    exact ⟨rfl, rfl⟩
  · rw [State.thread_takeTrap_other _ _ _ _ _ _ h]
    exact ⟨rfl, rfl⟩

/-- Settles O16: the values at fault are those that `putSysReg` refuses, and a trap changes neither register. -/
theorem reservedFlagWritesTrap : Obligations.ReservedFlagWritesTrap := by
  unfold Obligations.ReservedFlagWritesTrap
  intro p hp a s hr hreg hholds hsome
  have htrap : exec (p.1 a) s = .next (s.takeTrap s.cur.q 0x01
      (maskOf (s.lanes.filter fun l => decide (p.2 ≤ (s.operand a l).data.toNat))) 0 s.cur.pc) := by
    have hsome' : ∃ l ∈ s.lanes, decide (p.2 ≤ (s.operand a l).data.toNat) = true := by simpa using hsome
    rcases List.mem_pair.mp hp with rfl | rfl
    · refine congrArg Host.Outcome.next (State.execSwr_trap (n := 0x0F) hr hreg _ (fun v t => { t with frm := v.truncate 3 }) hholds (fun l _ st cx => ?_) hsome')
      rw [State.putSysReg_frm]
      simp only [decide_eq_true_eq, ← Nat.not_lt, ite_not]
    · refine congrArg Host.Outcome.next (State.execSwr_trap (n := 0x10) hr hreg _ (fun v t => { t with fflags := v.truncate 5 }) hholds (fun l _ st cx => ?_) hsome')
      rw [State.putSysReg_fflags]
      simp only [decide_eq_true_eq, ← Nat.not_lt, ite_not]
  refine ⟨htrap, fun t ht q l => ?_⟩
  rw [htrap] at ht
  injection ht with ht
  exact ht ▸ s.takeTrap_keepsStatus _ _ _ _ _ q l

/-- SWR to a register that takes no program write traps in every lane (R96). -/
theorem execSwr_unwritable (n : BitVec 12) (hr : s.ready (.swr n a) 0 = true) (hne : s.lanes ≠ []) (hreg : (s.ctx 0).region ≠ 1) (h1 : n ≠ 0x0C)
    (h2 : n ≠ 0x0F) (h3 : n ≠ 0x10) (h4 : n ≠ 0x12) (hholds : ∀ l ∈ s.lanes, s.holds isAddrTag a l = true) :
    exec (.swr n a) s = .next (s.takeTrap s.cur.q 0x01 s.cur.lanes 0 s.cur.pc) := by
  have number (k : BitVec 12) (h : n ≠ k) : n.toNat ≠ k.toNat := fun e => h (BitVec.eq_of_toNat_eq e)
  obtain ⟨l, hl⟩ := List.exists_mem_of_ne_nil _ hne
  have htrap := State.execSwr_trap (n := n.toNat) hr hreg (fun _ => true) (fun _ t => t) hholds
    (fun l _ st cx => st.putSysReg_unwritable cx _ (number 0x0C h1) (number 0x0F h2) (number 0x10 h3) (number 0x12 h4)) ⟨l, hl, rfl⟩
  rw [List.filter_true, State.lanes, maskOf_lanesOf] at htrap
  exact congrArg Host.Outcome.next htrap

/-- Settles O15: SRD by the invariant that no lane's turn changes what system registers show, each SWR by what `putSysReg` makes of the value. -/
theorem systemRegistersComplete : Obligations.SystemRegistersComplete := by
  unfold Obligations.SystemRegistersComplete
  refine ⟨execSrd_completes, ?_, ?_, ?_, ?_, ?_⟩
  · intro a s hr h
    exact congrArg Host.Outcome.next (State.execSwr_ran (n := 0x0F) hr (fun v t => { t with frm := v.truncate 3 }) (fun v => v.toNat < 5)
      (fun st cx v hv => (st.putSysReg_frm cx v).trans (if_pos hv)) h)
  · intro a s hr h
    exact congrArg Host.Outcome.next (State.execSwr_ran (n := 0x10) hr (fun v t => { t with fflags := v.truncate 5 }) (fun v => v.toNat < 32)
      (fun st cx v hv => (st.putSysReg_fflags cx v).trans (if_pos hv)) h)
  · intro a s hr h
    exact congrArg Host.Outcome.next (State.execSwr_ran (n := 0x0C) hr (fun v t => { t with draw := v.truncate 32 }) (fun v => v.toNat < 2 ^ 32)
      (fun st cx v hv => (st.putSysReg_draw cx v).trans (if_pos hv)) h)
  · intro a s f h
    refine congrArg Host.Outcome.next (s.execLanes_oneByOne (.swrInj a) 0 0 (doSwr 0x12 a) f fun l hl => ?_)
    obtain ⟨hr, hholds, hjob, hwidth, hreserved, htarget, hmode⟩ := h l hl
    refine State.laneStep_ok _ _ _ _ hr ?_
    rw [doSwr_holds 0x12 ((State.ready_iff _ _ _).mp hr).1 hholds]
    refine State.putSysReg_inj _ _ ?_ hwidth hreserved htarget hmode
    simpa [State.job?, State.launchOf, State.launch?] using hjob
  · exact fun n a s hr hne hreg h1 h2 h3 h4 hholds => execSwr_unwritable n hr hne hreg h1 h2 h3 h4 hholds

end Sys2Proof.Machine
end

section
/-!
SUPPORT for O18. AFX and AFXRD (R246, R247): their plans from operands that a lane holds, and what an atomic of one lane leaves
where it only writes memory, or only reads it.
-/
namespace Sys2Proof.Machine

variable {s : State} {a b : RegCode} {l : Nat}

/-! ### Operands and plans -/

/-- The offset operand of an atomic: o3 where the base is a view, else zero (R242). -/
def State.atomicOffset (s : State) (a : RegCode) (l : Nat) : Reg := if (s.operand a l).tag = .view then s.operand 59 l else Reg.zero

/-- What AFX does once its operands are read (R246). -/
def afxOn (o : BitVec 1) (base y off : Reg) : AtomicPlan where
  base := base
  off := off
  nd := .atomic
  size := 16
  det := .free
  bad := (afxAddends y).any FVal.special
  ar := o == 1
  writes := true
  new old := (old + ((afxAddends y).map toFX).foldl (· + ·) 0) % 2 ^ 128
  res _ t := t

/-- What AFXRD does once its operands are read (R247). -/
def afxrdOn (o : BitVec 1) (d : RegCode) (cx : Ctx) (base off : Reg) : AtomicPlan where
  base := base
  off := off
  nd := .atomicRead
  size := 16
  det := .read
  bad := false
  ar := o == 1
  writes := false
  new := id
  res old t := (t.write cx d ⟨BitVec.ofNat 64 (fromFX old).1, .f64⟩ .sb).raise (fromFX old).2

theorem State.atomicOff_holds (i : Instr) (stall : Nat) (h : (s.operand a l).tag = .view → s.holds isAddrTag 59 l = true) :
    (s.past i stall l).atomicOff (s.ctx l) (s.operand a l) = .ok (s.atomicOffset a l) := by
  unfold Thread.atomicOff State.atomicOffset
  split
  · next hview => exact s.src_holds i stall (h hview)
  · rfl

theorem State.afxPlan_holds (o : BitVec 1) (i : Instr) (stall : Nat) (ha : s.holds atomicBase a l = true) (hb : s.holds afxTag b l = true)
    (hoff : (s.operand a l).tag = .view → s.holds isAddrTag 59 l = true) :
    afxPlan o b a (s.ctx l) (s.past i stall l) = .ok (afxOn o (s.operand a l) (s.operand b l) (s.atomicOffset a l)) := by
  simp only [afxPlan, Thread.atomicBaseReg, s.src_holds i stall ha, s.src_holds i stall hb, State.atomicOff_holds i stall hoff, bind, Except.bind, afxOn]

theorem State.afxrdPlan_holds (o : BitVec 1) (d : RegCode) (i : Instr) (stall : Nat) (ha : s.holds atomicBase a l = true)
    (hoff : (s.operand a l).tag = .view → s.holds isAddrTag 59 l = true) :
    afxrdPlan o a d (s.ctx l) (s.past i stall l) = .ok (afxrdOn o d (s.ctx l) (s.operand a l) (s.atomicOffset a l)) := by
  simp only [afxrdPlan, Thread.atomicBaseReg, s.src_holds i stall ha, State.atomicOff_holds i stall hoff, bind, Except.bind, afxrdOn]

/-! ### Loads are fixed whatever the threads hold -/

theorem State.fixReads_squad? (s : State) (f : Read → Nat) (q : Nat) : (s.fixReads f).squad? q = s.squad? q := by
  rw [State.squad?, State.fixReads_squads, State.squad?]

theorem State.fixReads_setThread (s : State) (q l : Nat) (t : Thread) (f : Read → Nat) :
    (s.setThread q l t).fixReads f = (s.fixReads f).setThread q l t := by
  have hset : ∀ sq, (s.setSquad q sq).fixReads f = (s.fixReads f).setSquad q sq := fun sq => by
    unfold State.fixReads State.setSquad
    split <;> rfl
  cases hq : s.squad? q with
  | none => rw [State.setThread, State.setThread, State.modSquad_none s q _ hq, State.modSquad_none _ q _ ((s.fixReads_squad? f q).trans hq)]
  | some sq => rw [State.setThread, State.setThread, State.modSquad_some s q _ hq, State.modSquad_some _ q _ ((s.fixReads_squad? f q).trans hq), hset]

theorem State.mustMiss_setThread (s : State) (q l : Nat) (t : Thread) : (s.setThread q l t).mustMiss = s.mustMiss := by
  rw [State.setThread_squads]
  rfl

theorem State.fixAtomic_setThread (s : State) (q l : Nat) (t : Thread) (cx : Ctx) (loc : Loc) (size : Nat) (ar writes : Bool) :
    (s.setThread q l t).fixAtomic cx loc size ar writes = (s.fixAtomic cx loc size ar writes).setThread q l t := by
  unfold State.fixAtomic
  rw [State.mustMiss_setThread, State.fixReads_setThread]

/-! ### An atomic of one lane -/

variable {i : Instr} {plan : Ctx → Thread → Except Trap AtomicPlan} {p : AtomicPlan} {addr : Word} {loc : Loc}

/-- An atomic without a result in the thread: the thread has moved past it, and its bytes are put where it acts. -/
theorem State.laneStep_atomicPut (hr : s.ready i 0 = true) (hp : plan (s.ctx l) (s.past i 0 l) = .ok p)
    (hl : s.atomicLoc (s.ctx l) p.base p.off p.nd p.size p.det = .ok (addr, loc)) (hb : p.bad = false)
    (hf : s.atomicFree (s.ctx l) loc p.size p.ar p.writes = true) (hw : p.writes = true) (hres : p.res = fun _ => id) :
    s.laneStep i 0 0 (atomicStep i plan) l = .ok (((s.setThread s.cur.q l (s.past i 0 l)).fixAtomic (s.ctx l) loc p.size p.ar true).putAtomic
      (s.ctx l) loc (bytesLE p.size (p.new (natLE (s.landedBytes (s.ctx l) loc p.size))))) := by
  refine s.laneStep_ok i 0 _ hr ?_
  rw [s.atomicStep_ok i plan hr hp hl hb hf, hw, hres, if_pos rfl]
  exact congrArg Except.ok (State.putAtomic_again s _ s.cur.q l (s.past i 0 l) (s.ctx l) loc _ rfl rfl ((s.ready_iff i 0).mp hr).1
    (State.fixReads_squads _ _))

/-- An atomic that only reads: the earlier loads that it must follow are fixed, and the thread past it takes the result. -/
theorem State.laneStep_atomicGet (hr : s.ready i 0 = true) (hp : plan (s.ctx l) (s.past i 0 l) = .ok p)
    (hl : s.atomicLoc (s.ctx l) p.base p.off p.nd p.size p.det = .ok (addr, loc)) (hb : p.bad = false)
    (hf : s.atomicFree (s.ctx l) loc p.size p.ar p.writes = true) (hw : p.writes = false) :
    s.laneStep i 0 0 (atomicStep i plan) l = .ok ((s.fixAtomic (s.ctx l) loc p.size p.ar false).setThread s.cur.q l
      (p.res (natLE (s.landedBytes (s.ctx l) loc p.size)) (s.past i 0 l))) := by
  have hbound : ((s.fixAtomic (s.ctx l) loc p.size p.ar false).squad? s.cur.q).isSome = true := by
    rw [State.fixAtomic, State.fixReads_squad?]
    exact ((s.ready_iff i 0).mp hr).1
  refine s.laneStep_ok i 0 _ hr ?_
  rw [s.atomicStep_ok i plan hr hp hl hb hf, hw, if_neg Bool.false_ne_true, State.fixAtomic_setThread, State.modThread,
    State.thread_setThread_same _ _ _ _ hbound, State.setThread_setThread]

/-- Settles O18: AFX is an atomic that leaves its thread alone, AFXRD one that writes no memory, and each lane runs in the state that the lanes
below it have left. -/
theorem fixedPointAtomicsComplete : Obligations.FixedPointAtomicsComplete := by
  unfold Obligations.FixedPointAtomicsComplete
  intro o a s loc off
  refine ⟨?_, ?_⟩
  · intro b f h
    refine congrArg Host.Outcome.next (s.execLanes_oneByOne (.afx o b a) 0 0 (atomicStep _ (afxPlan o b a)) f fun l hl => ?_)
    obtain ⟨hr, hbase, haddend, hoff, hloc, hspecial, hfree⟩ := h l hl
    have hplan := State.afxPlan_holds o (.afx o b a) 0 hbase haddend hoff
    exact (State.laneStep_atomicPut hr hplan hloc hspecial hfree rfl rfl :)
  · intro d f h
    refine congrArg Host.Outcome.next (s.execLanes_oneByOne (.afxrd o a d) 0 0 (atomicStep _ (afxrdPlan o a d)) f fun l hl => ?_)
    obtain ⟨hr, hbase, hoff, hloc, hfree⟩ := h l hl
    have hplan := State.afxrdPlan_holds o d (.afxrd o a d) 0 hbase hoff
    exact (State.laneStep_atomicGet hr hplan hloc rfl hfree rfl :)

end Sys2Proof.Machine
end

section
/-!
SUPPORT for O55, O56. Fields and words (R49-R54): the fields of each instruction with their places in its word, and a word put together
again from groups of bits that lie side by side and fill it.
-/
namespace Sys2Proof

/-! ### Fields at their places -/

/-- A field of an instruction where it stands in the word (R49-R54): its lowest bit and its contents. -/
structure FieldAt where
  lo : Nat
  {n : Nat}
  x : BitVec n

/-- A group of bits of a word, as a row lists those that it fixes: lowest bit, width, value. -/
abbrev Bits := Nat × Nat × Nat

/-- Where bits stand in a word: the lowest of them and their number. -/
abbrev bitsAt (p : Bits) : Nat × Nat := (p.1, p.2.1)

/-- A field as a group of bits. -/
def FieldAt.bits (f : FieldAt) : Bits := (f.lo, f.n, f.x.toNat)

/-- The field at the same place in a word. -/
def FieldAt.readFrom (w : Nat) (f : FieldAt) : FieldAt := ⟨f.lo, fld w f.lo f.n⟩

/-- The fields of an instruction, in the order in which its encoding lists them. -/
def Instr.fields : Instr → List FieldAt
  | .addC b d | .subC b d | .andC b d | .orC b d | .xorC b d | .shliC b d | .shriC b d | .addiC b d | .movC b d | .faddC b d | .fmulC b d
  | .fmao b d | .ld64C b d | .st64C b d | .cmpltC b d => [⟨11, b⟩, ⟨5, d⟩]
  | .nop i => [⟨11, i⟩]
  | .add f | .sub f | .and f | .or f | .xor f | .andn f | .shl f | .shr f | .shrU f | .rol f | .mul f | .mulh f | .mulhU f | .min f
  | .minU f | .max f | .maxU f | .adds f | .addsU f | .subs f | .subsU f | .fadd f | .fsub f | .fmul f | .fma f | .fnma f | .fmin f
  | .fmax f | .gatherb f | .compose f => [⟨30, f.g⟩, ⟨27, f.s⟩, ⟨26, f.r⟩, ⟨20, f.b⟩, ⟨14, f.a⟩, ⟨8, f.d⟩]
  | .mov f => [⟨30, f.g⟩, ⟨27, f.s⟩, ⟨26, f.r⟩, ⟨14, f.a⟩, ⟨8, f.d⟩]
  | .cmpeq f | .cmpne f | .cmplt f | .cmpltU f | .cmple f | .cmpleU f | .fcmpeq f | .fcmplt f | .fcmple f | .fcmpun f =>
    [⟨30, f.g⟩, ⟨27, f.s⟩, ⟨26, f.r⟩, ⟨20, f.b⟩, ⟨14, f.a⟩, ⟨8, f.k⟩]
  | .kand f | .kor f | .kxor f | .kandn f => [⟨30, f.g⟩, ⟨27, f.s⟩, ⟨26, f.r⟩, ⟨20, f.n⟩, ⟨14, f.m⟩, ⟨8, f.k⟩]
  | .netmv f => [⟨30, f.g⟩, ⟨27, f.s⟩, ⟨26, f.r⟩, ⟨20, f.n⟩, ⟨14, f.a⟩, ⟨8, f.d⟩]
  | .addi i a d | .andi i a d | .ori i a d | .xori i a d | .muli i a d | .jalr i a d => [⟨20, i⟩, ⟨14, a⟩, ⟨8, d⟩]
  | .shli i a d | .shri i a d | .shriU i a d => [⟨20, i⟩, ⟨14, a⟩, ⟨8, d⟩]
  | .cmpeqi i a k | .cmplti i a k | .cmpltiU i a k => [⟨20, i⟩, ⟨14, a⟩, ⟨8, k⟩]
  | .movi i d | .srd i d => [⟨20, i⟩, ⟨8, d⟩]
  | .retag t a d => [⟨20, t⟩, ⟨14, a⟩, ⟨8, d⟩]
  | .swr s a => [⟨20, s⟩, ⟨14, a⟩]
  | .swrFrm a | .swrFflags a | .swrDraw a | .swrInj a | .fuse a | .barG a | .arriveG a | .waitG a | .waitcrew a | .vdrop a | .mwait a
  | .dqpush a => [⟨14, a⟩]
  | .ldhi i d | .pcrel i d | .bz i d | .bnz i d | .call i d => [⟨14, i⟩, ⟨8, d⟩]
  | .sigchk i | .bra i => [⟨14, i⟩]
  | .ld8 q o b d | .ld8U q o b d | .ld16 q o b d | .ld16U q o b d | .ld32 q o b d | .ld32U q o b d | .ld64 q o b d | .st8 q o b d
  | .st16 q o b d | .st32 q o b d | .st64 q o b d => [⟨30, q⟩, ⟨20, o⟩, ⟨14, b⟩, ⟨8, d⟩]
  | .lea o b d => [⟨20, o⟩, ⟨14, b⟩, ⟨8, d⟩]
  | .bk o k | .bnk o k => [⟨14, o⟩, ⟨8, k⟩]
  | .div b a d | .divU b a d | .rem b a d | .remU b a d | .ext b a d | .extU b a d | .ins b a d | .fdiv b a d | .fcpys b a d | .pack b a d
  | .unpackLo b a d | .unpackHi b a d | .valloc b a d | .vdup b a d | .vsplit b a d | .vnarrow b a d | .vquery b a d | .enum b a d
  | .choose b a d | .gsub b a d | .waitobj b a d | .pollobj b a d | .feed b a d => [⟨20, b⟩, ⟨14, a⟩, ⟨8, d⟩]
  | .popc a d | .clz a d | .ctz a d | .brev a d | .bswap a d | .abs a d | .neg a d | .fabs a d | .fneg a d | .fclass a d | .matchLanes a d
  | .scanAdd a d | .scanMin a d | .scanMax a d | .reduceAdd a d | .reduceMin a d | .reduceMax a d | .scanMinU a d | .scanMaxU a d
  | .reduceMinU a d | .reduceMaxU a d | .reduceAnd a d | .reduceOr a d | .reduceXor a d | .endch a d | .dqsteal a d => [⟨14, a⟩, ⟨8, d⟩]
  | .fsqrt r a d | .frint r a d | .merge r a d | .trd r a d => [⟨20, r⟩, ⟨14, a⟩, ⟨8, d⟩]
  | .cvtF64 x m a d | .cvtF32 x m a d | .cvtF16 x m a d | .cvtBf16 x m a d | .cvtE4m3 x m a d | .cvtE5m2 x m a d | .cvtE2m1 x m a d
  | .cvtI64 x m a d | .cvtI64U x m a d | .cvtI32 x m a d | .cvtI32U x m a d | .cvtI16 x m a d | .cvtI16U x m a d | .cvtI8 x m a d
  | .cvtI8U x m a d => [⟨23, x⟩, ⟨20, m⟩, ⟨14, a⟩, ⟨8, d⟩]
  | .split j | .rejoin j => [⟨8, j⟩]
  | .voteAll m k | .voteAny m k => [⟨14, m⟩, ⟨8, k⟩]
  | .ballot m d => [⟨14, m⟩, ⟨8, d⟩]
  | .setnet a n => [⟨14, a⟩, ⟨8, n⟩]
  | .ldt q t b a d => [⟨30, q⟩, ⟨26, t⟩, ⟨20, b⟩, ⟨14, a⟩, ⟨8, d⟩]
  | .aadd o b a d | .aand o b a d | .aor o b a d | .axor o b a d | .amin o b a d | .aminU o b a d | .amax o b a d | .amaxU o b a d
  | .axchg o b a d | .acas o b a d => [⟨31, o⟩, ⟨20, b⟩, ⟨14, a⟩, ⟨8, d⟩]
  | .afx o b a => [⟨31, o⟩, ⟨20, b⟩, ⟨14, a⟩]
  | .afxrd o a d => [⟨31, o⟩, ⟨14, a⟩, ⟨8, d⟩]
  | .vbound s a d => [⟨20, s⟩, ⟨14, a⟩, ⟨8, d⟩]
  | .enumOne b d => [⟨20, b⟩, ⟨8, d⟩]
  | .mmaQE4m3 s a h t | .mmaQE5m2 s a h t | .mmaQMxfp4 s a h t | .mmaQBf16 s a h t | .mmaQI8 s a h t | .bld s a h t =>
    [⟨20, s⟩, ⟨14, a⟩, ⟨11, h⟩, ⟨8, t⟩]
  | .tzero a t | .qcfg a t => [⟨14, a⟩, ⟨8, t⟩]
  | .tld b a t | .tst b a t | .qpush b a t => [⟨20, b⟩, ⟨14, a⟩, ⟨8, t⟩]
  | .tver t d | .qpop t d => [⟨20, t⟩, ⟨8, d⟩]
  | .mfence d | .dqpop d | .clk d | .rand d => [⟨8, d⟩]
  | .sloop o d => [⟨14, o⟩, ⟨8, d⟩]
  | .brk c => [⟨20, c⟩]
  | .inv t k g i o | .invDec t k g i o => [⟨29, t⟩, ⟨26, k⟩, ⟨20, g⟩, ⟨14, i⟩, ⟨8, o⟩]
  | .bset k a => [⟨26, k⟩, ⟨14, a⟩]
  | .bget k d => [⟨26, k⟩, ⟨8, d⟩]
  | _ => []

/-- The places of an instruction's fields. -/
def Instr.fieldsAt (i : Instr) : List (Nat × Nat) := i.fields.map fun f => bitsAt f.bits

/-- Every field of the list has its contents in the word. -/
def Shows (w : Nat) : List FieldAt → Prop
  | [] => True
  | ⟨lo, x⟩ :: fs => fld w lo _ = x ∧ Shows w fs

/-- Every listed group of bits has its value in the word. -/
def HasBits (w : Nat) (ps : List Bits) : Prop := ∀ p ∈ ps, w / 2 ^ p.1 % 2 ^ p.2.1 = p.2.2

theorem Row.fits_iff (r : Row) (w : Nat) : r.fits w = true ↔ HasBits w r.fixed := by
  simp [Row.fits, HasBits]

theorem fld_eq_iff (w lo : Nat) {n : Nat} (x : BitVec n) : fld w lo n = x ↔ w / 2 ^ lo % 2 ^ n = x.toNat := by
  rw [← BitVec.toNat_inj, BitVec.toNat_ofNat]

theorem shows_iff (w : Nat) (fs : List FieldAt) : Shows w fs ↔ HasBits w (fs.map FieldAt.bits) := by
  induction fs with
  | nil => simp [Shows, HasBits]
  | cons f fs ih => simp only [Shows, ih, fld_eq_iff, HasBits, List.map_cons, List.forall_mem_cons, FieldAt.bits]

theorem shows_readFrom (w : Nat) (fs : List FieldAt) : Shows w (fs.map (FieldAt.readFrom w)) := by
  induction fs with
  | nil => trivial
  | cons f fs ih => exact ⟨rfl, ih⟩

theorem hasBits_append {w : Nat} {ps qs : List Bits} : HasBits w (ps ++ qs) ↔ HasBits w ps ∧ HasBits w qs :=
  List.forall_mem_append

/-! ### Words put together from groups of bits -/

/-- The word with the listed values at their places, and 0 elsewhere. -/
def packed (ps : List Bits) : Nat := (ps.map fun p => p.2.2 * 2 ^ p.1).sum

theorem packed_cons (p : Nat × Nat × Nat) (ps : List Bits) : packed (p :: ps) = p.2.2 * 2 ^ p.1 + packed ps := rfl

theorem packed_append (ps qs : List Bits) : packed (ps ++ qs) = packed ps + packed qs := by
  simp [packed]

theorem packed_fields (fs : List FieldAt) : packed (fs.map FieldAt.bits) = (fs.map fun f => pk f.x f.lo).sum := by
  simp [packed, FieldAt.bits, pk, Function.comp_def]

/-- Groups of bits, in rising order, that fill a word from bit lo up to bit hi. -/
def tilesFrom (lo : Nat) : List (Nat × Nat) → Nat → Bool
  | [], hi => lo == hi
  | p :: ps, hi => p.1 == lo && tilesFrom (lo + p.2) ps hi

/-- Groups of bits, in any order, that fill a word of that many bits. -/
def tiles (ps : List (Nat × Nat)) (bits : Nat) : Bool := tilesFrom 0 (ps.insertionSort fun p q => p.1 ≤ q.1) bits

/-- A word is put together again from the groups that fill it. -/
theorem packed_of_tilesFrom {w hi : Nat} : ∀ {ps : List Bits} {lo : Nat}, tilesFrom lo (ps.map bitsAt) hi = true → HasBits w ps →
    w % 2 ^ lo + packed ps = w % 2 ^ hi
  | [], lo, ht, _ => by
    obtain rfl : lo = hi := by simpa [tilesFrom] using ht
    rfl
  | (lo', n, v) :: ps, lo, ht, hw => by
    obtain ⟨rfl, ht⟩ : lo' = lo ∧ tilesFrom (lo + n) (ps.map bitsAt) hi = true := by simpa [tilesFrom] using ht
    obtain ⟨hv, hw⟩ := List.forall_mem_cons.1 hw
    rw [← packed_of_tilesFrom ht hw, packed_cons, Nat.pow_add, Nat.mod_mul, hv]
    ring

theorem dvd_packed {hi : Nat} : ∀ {ps : List Bits} {lo : Nat}, tilesFrom lo (ps.map bitsAt) hi = true → 2 ^ lo ∣ packed ps
  | [], _, _ => Nat.dvd_zero _
  | (lo', n, v) :: ps, lo, ht => by
    obtain ⟨rfl, ht⟩ : lo' = lo ∧ tilesFrom (lo + n) (ps.map bitsAt) hi = true := by simpa [tilesFrom] using ht
    exact Nat.dvd_add (Nat.dvd_mul_left _ _) ((Nat.pow_dvd_pow 2 (Nat.le_add_right _ n)).trans (dvd_packed ht))

/-- A word that is put together from groups of bits shows each of them, whatever stands in the bits below. -/
theorem hasBits_of_tilesFrom {hi : Nat} : ∀ {ps : List Bits} {lo c : Nat}, tilesFrom lo (ps.map bitsAt) hi = true →
    (∀ p ∈ ps, p.2.2 < 2 ^ p.2.1) → c < 2 ^ lo → HasBits (c + packed ps) ps ∧ c + packed ps < 2 ^ hi
  | [], lo, c, ht, _, hc => by
    obtain rfl : lo = hi := by simpa [tilesFrom] using ht
    exact ⟨by simp [HasBits], hc⟩
  | (lo', n, v) :: ps, lo, c, ht, hv, hc => by
    obtain ⟨rfl, ht⟩ : lo' = lo ∧ tilesFrom (lo + n) (ps.map bitsAt) hi = true := by simpa [tilesFrom] using ht
    obtain ⟨hn, hv⟩ := List.forall_mem_cons.1 hv
    have hc' : c + v * 2 ^ lo' < 2 ^ (lo' + n) := by
      have : (v + 1) * 2 ^ lo' ≤ 2 ^ n * 2 ^ lo' := Nat.mul_le_mul_right _ hn
      rw [Nat.pow_add]
      linarith
    obtain ⟨hbits, hlt⟩ := hasBits_of_tilesFrom ht hv hc'
    rw [packed_cons, ← Nat.add_assoc]
    refine ⟨List.forall_mem_cons.2 ⟨?_, hbits⟩, hlt⟩
    obtain ⟨k, hk⟩ := dvd_packed ht
    have : c + v * 2 ^ lo' + packed ps = c + 2 ^ lo' * (v + 2 ^ n * k) := by
      rw [hk, Nat.pow_add]
      ring
    rw [this, Nat.add_mul_div_left _ _ (Nat.two_pow_pos lo'), Nat.div_eq_of_lt hc, Nat.zero_add, Nat.add_mul_mod_self_left, Nat.mod_eq_of_lt hn]

/-! ### Groups in any order -/

theorem exists_tilesFrom {ps : List Bits} {bits : Nat} (h : tiles (ps.map bitsAt) bits = true) :
    ∃ qs : List Bits, qs.Perm ps ∧ tilesFrom 0 (qs.map bitsAt) bits = true := by
  have hsort := List.map_insertionSort (fun p q : Bits => p.1 ≤ q.1) (fun p q : Nat × Nat => p.1 ≤ q.1) bitsAt ps
    fun _ _ _ _ => Iff.rfl
  refine ⟨ps.insertionSort fun p q => p.1 ≤ q.1, List.perm_insertionSort _ ps, ?_⟩
  rw [hsort]
  exact h

theorem packed_perm {ps qs : List Bits} (h : qs.Perm ps) : packed qs = packed ps := (h.map _).sum_eq

/-- A word that shows all groups of bits that fill it is put together from them. -/
theorem packed_of_tiles {ps : List Bits} {bits w : Nat} (h : tiles (ps.map bitsAt) bits = true) (hw : HasBits w ps) :
    packed ps = w % 2 ^ bits := by
  obtain ⟨qs, hperm, ht⟩ := exists_tilesFrom h
  have := packed_of_tilesFrom ht fun q hq => hw q (hperm.mem_iff.1 hq)
  rwa [Nat.pow_zero, Nat.mod_one, Nat.zero_add, packed_perm hperm] at this

theorem hasBits_packed {ps : List Bits} {bits : Nat} (h : tiles (ps.map bitsAt) bits = true) (hv : ∀ p ∈ ps, p.2.2 < 2 ^ p.2.1) :
    HasBits (packed ps) ps ∧ packed ps < 2 ^ bits := by
  obtain ⟨qs, hperm, ht⟩ := exists_tilesFrom h
  obtain ⟨hbits, hlt⟩ := hasBits_of_tilesFrom ht (fun q hq => hv q (hperm.mem_iff.1 hq)) Nat.one_pos
  rw [Nat.zero_add, packed_perm hperm] at hbits hlt
  exact ⟨fun p hp => hbits p (hperm.mem_iff.2 hp), hlt⟩

end Sys2Proof
end

section
/-!
SUPPORT for O55, O56. The encoding tables as tables (R46-R54, R61, R62): each row reads its fields where `encode` writes them, every
instruction has a row, and the first row that fits a word is the only one that gives a legal instruction for it.
-/
namespace Sys2Proof

/-! ### Tables -/

/-- The rows of the F-P words that are not bracket moves (R165). -/
def rowsInv : List Row :=
  [⟨"INV", [(0, 8, 0xF1), (28, 1, 0x0)], fun w => .inv (fld w 29 3) (fld w 26 2) (fld w 20 6) (fld w 14 6) (fld w 8 6)⟩,
   ⟨"INV_DEC", [(0, 8, 0xF1), (28, 1, 0x1)], fun w => .invDec (fld w 29 3) (fld w 26 2) (fld w 20 6) (fld w 14 6) (fld w 8 6)⟩]

/-- The rows of the bracket moves: an F-P word and the INVEND behind it (R168). -/
def rowsMove : List Row :=
  [⟨"BSET", [(0, 8, 0xF1), (8, 6, 0x0), (20, 6, 0x0), (28, 1, 0x0), (29, 3, 0x0), (32, 16, 0x3E)], fun w => .bset (fld w 26 2) (fld w 14 6)⟩,
   ⟨"BGET", [(0, 8, 0xF1), (14, 6, 0x0), (20, 6, 0x0), (28, 1, 0x1), (29, 3, 0x0), (32, 16, 0x3E)], fun w => .bget (fld w 26 2) (fld w 8 6)⟩]

/-- The places of all bits of a row, those that it fixes and those of its fields. -/
def Row.layout (r : Row) : List (Nat × Nat) := r.fixed.map bitsAt ++ (r.build 0).fieldsAt

/-- The bits of the row fill its word of n bytes, and what it fixes has room. -/
def Row.fills (n : Nat) (r : Row) : Bool := tiles r.layout (8 * n) && r.fixed.all fun p => p.2.2 < 2 ^ p.2.1

/-- A row of n bytes reads each field where `encode` writes it, and fixes the bits that `encode` gives its instruction. -/
def Row.Reads (n : Nat) (r : Row) : Prop := ∀ w, (r.build w).len = n ∧ (r.build w).fields = (r.build 0).fields.map (FieldAt.readFrom w) ∧
  encode (r.build w) = word (packed r.fixed) ((r.build w).fields.map fun f => pk f.x f.lo)

theorem rows16_read : ∀ r ∈ rows16, r.Reads 2 := by
  repeat refine List.forall_mem_cons.2 ⟨fun _ => ⟨rfl, rfl, rfl⟩, ?_⟩
  exact List.forall_mem_nil _

theorem rows32_read : ∀ r ∈ rows32, r.Reads 4 := by
  repeat refine List.forall_mem_cons.2 ⟨fun _ => ⟨rfl, rfl, rfl⟩, ?_⟩
  exact List.forall_mem_nil _

theorem rowsInv_read : ∀ r ∈ rowsInv, r.Reads 4 := by
  repeat refine List.forall_mem_cons.2 ⟨fun _ => ⟨rfl, rfl, rfl⟩, ?_⟩
  exact List.forall_mem_nil _

theorem rowsMove_read : ∀ r ∈ rowsMove, r.Reads 6 := by
  repeat refine List.forall_mem_cons.2 ⟨fun _ => ⟨rfl, rfl, rfl⟩, ?_⟩
  exact List.forall_mem_nil _

/-! ### Words and rows -/

theorem FieldAt.fieldsAt_readFrom (w : Nat) (fs : List FieldAt) :
    (fs.map (FieldAt.readFrom w)).map (fun f => bitsAt f.bits) = fs.map fun f => bitsAt f.bits := by
  simp [FieldAt.readFrom, FieldAt.bits]

variable {r : Row} {n w : Nat}

theorem Row.tiles_bits (hf : r.fills n = true) {i : Instr} (h : i.fieldsAt = (r.build 0).fieldsAt) :
    tiles ((r.fixed ++ i.fields.map FieldAt.bits).map bitsAt) (8 * n) = true := by
  have ht : tiles r.layout (8 * n) = true := (Bool.and_eq_true_iff.1 hf).1
  rwa [Row.layout, ← h, Instr.fieldsAt, ← Function.comp_def, ← List.map_map, ← List.map_append] at ht

theorem Row.encode_build_eq_packed (hr : r.Reads n) (w : Nat) :
    encode (r.build w) = packed (r.fixed ++ (r.build w).fields.map FieldAt.bits) := by
  rw [(hr w).2.2, packed_append, packed_fields, word]

theorem Row.shows_build (hr : r.Reads n) (w : Nat) : Shows w (r.build w).fields := by
  rw [(hr w).2.1]
  exact shows_readFrom w _

theorem Row.fieldsAt_build (hr : r.Reads n) (w : Nat) : (r.build w).fieldsAt = (r.build 0).fieldsAt := by
  rw [Instr.fieldsAt, (hr w).2.1, FieldAt.fieldsAt_readFrom, Instr.fieldsAt]

/-- A word that fits a row is the encoding of the instruction that the row gives for it (R48). -/
theorem Row.encode_build (hr : r.Reads n) (hf : r.fills n = true) (hw : w < 2 ^ (8 * n)) (hfit : r.fits w = true) : encode (r.build w) = w := by
  have hbits : HasBits w (r.fixed ++ (r.build w).fields.map FieldAt.bits) :=
    hasBits_append.2 ⟨(r.fits_iff w).1 hfit, (shows_iff w _).1 (Row.shows_build hr w)⟩
  rw [Row.encode_build_eq_packed hr, packed_of_tiles (Row.tiles_bits hf (Row.fieldsAt_build hr w)) hbits, Nat.mod_eq_of_lt hw]

theorem FieldAt.bits_lt (fs : List FieldAt) : ∀ p ∈ fs.map FieldAt.bits, p.2.2 < 2 ^ p.2.1 :=
  List.forall_mem_map.2 fun f _ => f.x.isLt

/-- The encoding of an instruction fits its row, which gives the instruction again. -/
theorem Row.build_encode (hr : r.Reads n) (hf : r.fills n = true) {i : Instr} (hpos : i.fieldsAt = (r.build 0).fieldsAt)
    (hi : ∀ w, Shows w i.fields → r.build w = i) :
    i.len = n ∧ encode i < 2 ^ (8 * n) ∧ r.fits (encode i) = true ∧ r.build (encode i) = i := by
  have hfixed : ∀ p ∈ r.fixed, p.2.2 < 2 ^ p.2.1 := by
    simpa using (Bool.and_eq_true_iff.1 hf).2
  obtain ⟨hbits, hlt⟩ := hasBits_packed (Row.tiles_bits hf hpos) (List.forall_mem_append.2 ⟨hfixed, FieldAt.bits_lt _⟩)
  obtain ⟨hfit, hshow⟩ := hasBits_append.1 hbits
  have hb := hi _ ((shows_iff _ _).2 hshow)
  have he : encode i = packed (r.fixed ++ i.fields.map FieldAt.bits) := by
    have := Row.encode_build_eq_packed hr (packed (r.fixed ++ i.fields.map FieldAt.bits))
    rwa [hb] at this
  rw [he]
  exact ⟨hb ▸ (hr _).1, hlt, (r.fits_iff _).2 hfit, hb⟩

/-! ### The first row that fits -/

/-- Row r may stand before r': where both fit a word, r' would give an illegal instruction. -/
def Row.MayPrecede (r r' : Row) : Prop := ∀ w, r.fits w = true → r'.fits w = true → (r'.build w).wf = false

theorem decodeRows_of_fits {rows : List Row} (hrows : rows.Pairwise Row.MayPrecede) (hr : r ∈ rows) (hfit : r.fits w = true)
    (hwf : (r.build w).wf = true) : decodeRows rows w = some (r.build w) := by
  obtain ⟨before, after, rfl⟩ := List.append_of_mem hr
  have hbefore : ∀ a ∈ before, a.fits w = false := by
    intro a ha
    have := (List.pairwise_append.1 hrows).2.2 a ha r List.mem_cons_self w
    cases h : a.fits w with
    | false => rfl
    | true => exact absurd hwf (by simp [this h hfit])
  have hfind : (before ++ r :: after).find? (fun r => r.fits w) = some r :=
    List.find?_eq_some_iff_append.2 ⟨hfit, before, after, rfl, by simpa using hbefore⟩
  rw [decodeRows, hfind]
  exact if_pos hwf

theorem exists_row_of_decodeRows {rows : List Row} {i : Instr} (h : decodeRows rows w = some i) :
    ∃ r ∈ rows, r.fits w = true ∧ r.build w = i ∧ i.wf = true := by
  unfold decodeRows at h
  split at h
  · next r hfind =>
    split at h
    · next hwf =>
      obtain rfl := Option.some.inj h
      exact ⟨r, List.mem_of_find?_eq_some hfind, by simpa using List.find?_some hfind, rfl, hwf⟩
    · cases h
  · cases h

/-- What makes a list of rows the table of the instructions of n bytes. -/
structure IsTable (rows : List Row) (n : Nat) : Prop where
  reads : ∀ r ∈ rows, r.Reads n
  fills : ∀ r ∈ rows, r.fills n = true
  order : rows.Pairwise Row.MayPrecede

theorem IsTable.encode_of_decodeRows {rows : List Row} {i : Instr} (h : IsTable rows n) (hw : w < 2 ^ (8 * n)) (hd : decodeRows rows w = some i) :
    i.wf = true ∧ i.len = n ∧ encode i = w := by
  obtain ⟨r, hr, hfit, rfl, hwf⟩ := exists_row_of_decodeRows hd
  exact ⟨hwf, (h.reads r hr w).1, Row.encode_build (h.reads r hr) (h.fills r hr) hw hfit⟩

theorem IsTable.decodeRows_encode {rows : List Row} {i : Instr} (h : IsTable rows n) (hr : r ∈ rows) (hpos : i.fieldsAt = (r.build 0).fieldsAt)
    (hi : ∀ w, Shows w i.fields → r.build w = i) (hwf : i.wf = true) :
    i.len = n ∧ encode i < 2 ^ (8 * n) ∧ decodeRows rows (encode i) = some i := by
  obtain ⟨hlen, hlt, hfit, hb⟩ := Row.build_encode (h.reads r hr) (h.fills r hr) hpos hi
  have := decodeRows_of_fits h.order hr hfit (hb.symm ▸ hwf)
  exact ⟨hlen, hlt, this.trans (congrArg some hb)⟩

/-! ### Two rows that fit one word -/

/-- Two rows fix bits in common differently. -/
def Row.clashes (r r' : Row) : Bool :=
  r.fixed.any fun p => r'.fixed.any fun q => p.1 == q.1 && p.2.2 % 2 ^ min p.2.1 q.2.1 != q.2.2 % 2 ^ min p.2.1 q.2.1

theorem Row.mayPrecede_of_clashes {r r' : Row} (h : r.clashes r' = true) : r.MayPrecede r' := by
  intro w hfit hfit'
  rw [Row.fits_iff] at hfit hfit'
  obtain ⟨p, hp, q, hq, hlo, hne⟩ : ∃ p ∈ r.fixed, ∃ q ∈ r'.fixed, p.1 = q.1 ∧
      p.2.2 % 2 ^ min p.2.1 q.2.1 ≠ q.2.2 % 2 ^ min p.2.1 q.2.1 := by simpa [Row.clashes] using h
  refine absurd ?_ hne
  rw [← hfit p hp, ← hfit' q hq, hlo, Nat.mod_mod_of_dvd _ (Nat.pow_dvd_pow 2 (Nat.min_le_left _ _)),
    Nat.mod_mod_of_dvd _ (Nat.pow_dvd_pow 2 (Nat.min_le_right _ _))]

/-- The value that the row fixes in the n bits from bit lo on. -/
def Row.valueAt (r : Row) (lo n : Nat) : Option Nat := (r.fixed.find? fun p => bitsAt p == (lo, n)).map (·.2.2)

theorem Row.bits_of_valueAt {r : Row} {lo n v w : Nat} (h : r.valueAt lo n = some v) (hfit : r.fits w = true) : w / 2 ^ lo % 2 ^ n = v := by
  obtain ⟨p, hp, rfl⟩ := Option.map_eq_some_iff.1 h
  have hpos : bitsAt p = (lo, n) := by simpa using List.find?_some hp
  have hbits := (r.fits_iff w).1 hfit p (List.mem_of_find?_eq_some hp)
  rwa [show p.1 = lo from congrArg Prod.fst hpos, show p.2.1 = n from congrArg Prod.snd hpos] at hbits

/-- The opcode of a 32-bit word and the low five bits of func6 as one number (R51, R52). -/
def wordKey (w : Nat) : Nat := 2 ^ 5 * (w % 2 ^ 8) + w / 2 ^ 26 % 2 ^ 5

/-- The least and the greatest of these numbers in the words that fit a row. -/
def Row.keys (r : Row) : Nat × Nat :=
  match r.valueAt 0 8, r.valueAt 26 5 with
  | some op, some f => (2 ^ 5 * op + f, 2 ^ 5 * op + f)
  | some op, none => (2 ^ 5 * op, 2 ^ 5 * op + 31)
  | none, _ => (0, 2 ^ 13)

theorem Row.wordKey_mem {r : Row} {w : Nat} (h : r.fits w = true) : r.keys.1 ≤ wordKey w ∧ wordKey w ≤ r.keys.2 := by
  have hop : w % 2 ^ 8 < 2 ^ 8 := Nat.mod_lt _ (Nat.two_pow_pos 8)
  have hf : w / 2 ^ 26 % 2 ^ 5 < 2 ^ 5 := Nat.mod_lt _ (Nat.two_pow_pos 5)
  unfold Row.keys wordKey
  split
  · next op f h1 h2 =>
    have h1 := Row.bits_of_valueAt h1 h
    have h2 := Row.bits_of_valueAt h2 h
    rw [Nat.pow_zero, Nat.div_one] at h1
    rw [h1, h2]
    exact ⟨le_rfl, le_rfl⟩
  · next op h1 h2 =>
    have h1 := Row.bits_of_valueAt h1 h
    rw [Nat.pow_zero, Nat.div_one] at h1
    omega
  · omega

/-- The words that fit r have lower numbers than those that fit r'. -/
abbrev Row.Below (r r' : Row) : Prop := r.keys.2 < r'.keys.1

theorem Row.keys_le (r : Row) : r.keys.1 ≤ r.keys.2 := by
  unfold Row.keys
  split <;> simp

theorem Row.mayPrecede_of_below {r r' : Row} (h : r.Below r') : r.MayPrecede r' := fun _ hfit hfit' =>
  absurd ((Row.wordKey_mem hfit).2.trans_lt h) (Row.wordKey_mem hfit').1.not_gt

theorem pairwise_of_isChain_below {rows : List Row} (h : rows.IsChain Row.Below) : rows.Pairwise Row.MayPrecede := by
  have : IsTrans Row Row.Below := ⟨fun _ b _ hab hbc => (hab.trans_le b.keys_le).trans hbc⟩
  exact (List.isChain_iff_pairwise.1 h).imp Row.mayPrecede_of_below

theorem pairwise_of_clashes {rows : List Row} (h : rows.Pairwise fun r r' => r.clashes r' = true) : rows.Pairwise Row.MayPrecede :=
  h.imp Row.mayPrecede_of_clashes

/-- The row has the opcode of SWR. -/
def Row.isSwr (r : Row) : Bool := r.valueAt 0 8 == some 0x9D

/-- The rows of SWR to FRM, FFLAGS, DRAW and INJ (R62). -/
def swrNamed : List Row :=
  [⟨"SWR_FRM", [(0, 8, 0x9D), (8, 6, 0x0), (20, 6, 0xF), (26, 5, 0x0), (31, 1, 0x0)], fun w => .swrFrm (fld w 14 6)⟩,
   ⟨"SWR_FFLAGS", [(0, 8, 0x9D), (8, 6, 0x0), (20, 6, 0x10), (26, 5, 0x0), (31, 1, 0x0)], fun w => .swrFflags (fld w 14 6)⟩,
   ⟨"SWR_DRAW", [(0, 8, 0x9D), (8, 6, 0x0), (20, 6, 0xC), (26, 5, 0x0), (31, 1, 0x0)], fun w => .swrDraw (fld w 14 6)⟩,
   ⟨"SWR_INJ", [(0, 8, 0x9D), (8, 6, 0x0), (20, 6, 0x12), (26, 5, 0x0), (31, 1, 0x0)], fun w => .swrInj (fld w 14 6)⟩]

/-- The row of SWR to any other system register. -/
def swrRow : Row := ⟨"SWR", [(0, 8, 0x9D), (8, 6, 0x0)], fun w => .swr (fld w 20 12) (fld w 14 6)⟩

theorem rows32_filter_isSwr : rows32.filter Row.isSwr = swrNamed ++ [swrRow] := (rfl)

theorem Instr.wf_swr (s : BitVec 12) (a : RegCode) :
    (Instr.swr s a).wf = (notRes a && s.toNat < 0x14 && s != 0x00F && s != 0x010 && s != 0x00C && s != 0x012) := rfl

/-- A row that fixes the low six bits of the system register's number to n and the rest of it to 0. -/
theorem Row.fld_eq_of_valueAt {r : Row} {w n : Nat} (h0 : r.valueAt 20 6 = some n) (h1 : r.valueAt 26 5 = some 0) (h2 : r.valueAt 31 1 = some 0)
    (hfit : r.fits w = true) : fld w 20 12 = BitVec.ofNat 12 n := by
  have h0 := Row.bits_of_valueAt h0 hfit
  have h1 := Row.bits_of_valueAt h1 hfit
  have h2 := Row.bits_of_valueAt h2 hfit
  rw [fld_eq_iff, BitVec.toNat_ofNat]
  omega

theorem swrNamed_mayPrecede : ∀ r ∈ swrNamed, r.MayPrecede swrRow := by
  have h : ∀ r ∈ swrNamed, ∃ n ∈ [0x0F, 0x10, 0x0C, 0x12], r.valueAt 20 6 = some n ∧ r.valueAt 26 5 = some 0 ∧
      r.valueAt 31 1 = some 0 := by decide +kernel
  intro r hr w hfit _
  obtain ⟨n, hn, h0, h1, h2⟩ := h r hr
  show (Instr.swr _ _).wf = false
  rw [Row.fld_eq_of_valueAt h0 h1 h2 hfit, Instr.wf_swr]
  fin_cases hn <;> simp

theorem Row.mayPrecede_of_valueAt_ne {r r' : Row} {lo n v v' : Nat} (h : r.valueAt lo n = some v) (h' : r'.valueAt lo n = some v') (hne : v ≠ v') :
    r.MayPrecede r' :=
  fun _ hfit hfit' => absurd ((Row.bits_of_valueAt h hfit).symm.trans (Row.bits_of_valueAt h' hfit')) hne

/-- Every 32-bit row fixes the opcode, which is odd and not that of an F-P word (R46, R51, R54). -/
theorem rows32_opcode {r : Row} (hr : r ∈ rows32) : ∃ op, r.valueAt 0 8 = some op ∧ op % 2 = 1 ∧ op / 2 ≠ 0x78 := by
  have h : ∀ r ∈ rows32, ((r.valueAt 0 8).any fun op => op % 2 == 1 && op / 2 != 0x78) = true := by decide +kernel
  simpa [Option.any_eq_true] using h r hr

theorem rows32_order : rows32.Pairwise Row.MayPrecede := by
  have hswr : (rows32.filter Row.isSwr).Pairwise Row.MayPrecede := by
    rw [rows32_filter_isSwr, List.pairwise_append]
    exact ⟨pairwise_of_clashes (by decide +kernel), List.pairwise_singleton _ _,
      fun r hr _ h => List.mem_singleton.1 h ▸ swrNamed_mayPrecede r hr⟩
  have hrest : (rows32.filter fun r => !r.isSwr).Pairwise Row.MayPrecede := pairwise_of_isChain_below (by decide +kernel)
  rw [List.pairwise_filter] at hswr hrest
  refine (hswr.and hrest).imp_of_mem fun {r r'} hr hr' ⟨hs, hn⟩ => ?_
  obtain ⟨op, hop, -, -⟩ := rows32_opcode hr
  obtain ⟨op', hop', -, -⟩ := rows32_opcode hr'
  by_cases he : op = op'
  · have : r'.isSwr = r.isSwr := by rw [Row.isSwr, Row.isSwr, hop, hop', he]
    cases hrs : r.isSwr with
    | true => exact hs hrs (this.trans hrs)
    | false => exact hn (by simp [hrs]) (by simp [this, hrs])
  · exact Row.mayPrecede_of_valueAt_ne hop hop' he

theorem rows16_isTable : IsTable rows16 2 := ⟨rows16_read, by decide +kernel, pairwise_of_clashes (by decide +kernel)⟩
theorem rows32_isTable : IsTable rows32 4 := ⟨rows32_read, by decide +kernel, rows32_order⟩
theorem rowsInv_isTable : IsTable rowsInv 4 := ⟨rowsInv_read, by decide +kernel, pairwise_of_clashes (by decide +kernel)⟩
theorem rowsMove_isTable : IsTable rowsMove 6 := ⟨rowsMove_read, by decide +kernel, pairwise_of_clashes (by decide +kernel)⟩

/-! ### The row of an instruction -/

/-- All rows of the encoding tables. -/
def rowsAll : List Row := rows16 ++ rows32 ++ rowsInv ++ rowsMove

/-- Which of these rows is an instruction's: they stand in the order of the constructors, but that SWR stands behind the SWR of each register that it
writes (R62). -/
def Instr.rowNumber : Instr → Nat
  | .swrFrm _ => 78
  | .swrFflags _ => 79
  | .swrDraw _ => 80
  | .swrInj _ => 81
  | .swr .. => 82
  | i => i.ctorIdx

/-- The instruction has a row, with fields at the same places, which gives it for every word that shows its fields. -/
def Instr.HasRow (i : Instr) : Prop :=
  ∃ r, rowsAll[i.rowNumber]? = some r ∧ i.fieldsAt = (r.build 0).fieldsAt ∧ ∀ w, Shows w i.fields → r.build w = i

/-- Instruction by instruction: the fields that its row reads are all that it holds. -/
theorem Instr.hasRow (i : Instr) (h : i.len ≠ 0) : i.HasRow := by
  cases i
  any_goals exact absurd rfl h
  all_goals clear h
  all_goals try cases ‹FR›
  all_goals try cases ‹FRU›
  all_goals try cases ‹FRK›
  all_goals try cases ‹FRM›
  all_goals try cases ‹FRN›
  -- The fields stand for the variables of the instruction, one after another.
  all_goals
    refine ⟨_, rfl, rfl, fun w h => ?_⟩
    repeat obtain ⟨rfl, h⟩ := h
    rfl

end Sys2Proof
end

section
/-!
SUPPORT for O54, O55, O56. Decoding (R46, R54, R168): halfwords and bytes, which table the decoder looks into, the round trips, and the
words that the spec writes out.
-/
namespace Sys2Proof

/-! ### Halfwords and bytes -/

theorem halfAt_bytesOfNat (n v : Nat) (rest : List Byte) : halfAt (bytesOfNat (n + 2) v ++ rest) = some (v % 2 ^ 16) := by
  simp only [bytesOfNat, List.cons_append, halfAt, BitVec.toNat_ofNat]
  congr 1
  omega

theorem drop_bytesOfNat (n v : Nat) (rest : List Byte) : (bytesOfNat (n + 2) v ++ rest).drop 2 = bytesOfNat n (v / 2 ^ 16) ++ rest := by
  simp [bytesOfNat, Nat.div_div_eq_div_mul]

/-- The halfword at the front of a list: its two bytes are the list's first. -/
theorem halfAt_eq_some {bs : List Byte} {h : Nat} (e : halfAt bs = some h) : h < 2 ^ 16 ∧ bs.take 2 = bytesOfNat 2 h := by
  match bs, e with
  | b0 :: b1 :: _, e =>
    obtain rfl := Option.some.inj e
    have h0 := b0.isLt
    have h1 := b1.isLt
    refine ⟨by omega, ?_⟩
    simp only [List.take_succ_cons, List.take_zero, bytesOfNat, List.cons.injEq, and_true]
    constructor <;> apply BitVec.eq_of_toNat_eq <;> rw [BitVec.toNat_ofNat] <;> omega

theorem bytesOfNat_add_half {h : Nat} (hh : h < 2 ^ 16) (n v : Nat) : bytesOfNat (n + 2) (h + v * 2 ^ 16) = bytesOfNat 2 h ++ bytesOfNat n v := by
  have h0 : BitVec.ofNat 8 (h + v * 2 ^ 16) = BitVec.ofNat 8 h := BitVec.eq_of_toNat_eq (by simp only [BitVec.toNat_ofNat]; omega)
  have h1 : BitVec.ofNat 8 ((h + v * 2 ^ 16) / 2 ^ 8) = BitVec.ofNat 8 (h / 2 ^ 8) := BitVec.eq_of_toNat_eq (by simp only [BitVec.toNat_ofNat]; omega)
  have h2 : (h + v * 2 ^ 16) / 2 ^ 8 / 2 ^ 8 = v := by omega
  simp only [bytesOfNat, h0, h1, h2, List.cons_append, List.nil_append]

/-! ### F-P words (R54, R165, R168) -/

variable {w W : Nat} {next : Option Nat}

/-- The row's instruction, if it is well formed. -/
def Row.legal (r : Row) (w : Nat) : Option Instr := if (r.build w).wf then some (r.build w) else none

theorem decodeRows_pair (r r' : Row) (w : Nat) :
    decodeRows [r, r'] w = if r.fits w = true then r.legal w else if r'.fits w = true then r'.legal w else none := by
  cases hr : r.fits w <;> cases hr' : r'.fits w <;> simp [decodeRows, hr, hr', Row.legal]

/-- An F-P word that no INVEND follows is read by its DEC bit. -/
theorem decodeFP_eq_rowsInv (hop : w % 256 = 0xF1) (hnext : next ≠ some 0x3E) : decodeFP w next = decodeRows rowsInv w := by
  rw [rowsInv, decodeRows_pair]
  rcases Nat.mod_two_eq_zero_or_one (w / 268435456) with hdec | hdec <;> simp [decodeFP, hnext, Row.legal, Row.fits, hop, hdec]

/-- The word W of six bytes holds the F-P word w, and INVEND behind it. -/
structure IsMove (W w : Nat) : Prop where
  low : ∀ lo n, lo + n ≤ 32 → W / 2 ^ lo % 2 ^ n = w / 2 ^ lo % 2 ^ n
  invend : W / 2 ^ 32 % 2 ^ 16 = 0x3E
  fp : w % 256 = 0xF1

theorem IsMove.fld_eq (h : IsMove W w) (lo n : Nat) (hn : lo + n ≤ 32) : fld W lo n = fld w lo n := by
  rw [fld_eq_iff, h.low lo n hn, BitVec.toNat_ofNat]

theorem IsMove.fits_bset_iff (h : IsMove W w) :
    rowsMove[0].fits W = true ↔ w / 2 ^ 28 % 2 = 0 ∧ fld w 29 3 = 0 ∧ fld w 20 6 = 0 ∧ fld w 8 6 = 0 := by
  rw [Row.fits_iff]
  simp only [rowsMove, List.getElem_cons_zero, HasBits, List.forall_mem_cons, h.invend, h.low 0 8 (by decide), h.low 8 6 (by decide),
    h.low 20 6 (by decide), h.low 28 1 (by decide), h.low 29 3 (by decide), fld_eq_iff]
  simp [h.fp]
  tauto

theorem IsMove.fits_bget_iff (h : IsMove W w) :
    rowsMove[1].fits W = true ↔ w / 2 ^ 28 % 2 = 1 ∧ fld w 29 3 = 0 ∧ fld w 20 6 = 0 ∧ fld w 14 6 = 0 := by
  rw [Row.fits_iff]
  simp only [rowsMove, List.getElem_cons_zero, List.getElem_cons_succ, HasBits, List.forall_mem_cons, h.invend, h.low 0 8 (by decide),
    h.low 14 6 (by decide), h.low 20 6 (by decide), h.low 28 1 (by decide), h.low 29 3 (by decide), fld_eq_iff]
  simp [h.fp]
  tauto

theorem IsMove.legal_bset (h : IsMove W w) : rowsMove[0].legal W = rowsMove[0].legal w := by
  have hb : rowsMove[0].build W = rowsMove[0].build w := congrArg₂ Instr.bset (h.fld_eq 26 2 (by decide)) (h.fld_eq 14 6 (by decide))
  rw [Row.legal, hb, Row.legal]

theorem IsMove.legal_bget (h : IsMove W w) : rowsMove[1].legal W = rowsMove[1].legal w := by
  have hb : rowsMove[1].build W = rowsMove[1].build w := congrArg₂ Instr.bget (h.fld_eq 26 2 (by decide)) (h.fld_eq 8 6 (by decide))
  rw [Row.legal, hb, Row.legal]

/-- Bits of a word that stand below whatever is added to it. -/
theorem bits_add_mul {lo n m : Nat} (w q : Nat) (h : lo + n ≤ m) : (w + 2 ^ m * q) / 2 ^ lo % 2 ^ n = w / 2 ^ lo % 2 ^ n := by
  obtain ⟨k, rfl⟩ := Nat.exists_eq_add_of_le h
  rw [Nat.pow_add, Nat.pow_add, Nat.mul_assoc, Nat.mul_assoc, Nat.add_mul_div_left _ _ (Nat.two_pow_pos lo), Nat.add_mul_mod_self_left]

theorem IsMove.of_add {q : Nat} (hw : w < 2 ^ 32) (hop : w % 256 = 0xF1) (hq : q = 0x3E) : IsMove (w + 2 ^ 32 * q) w where
  low _ _ hn := bits_add_mul w q hn
  invend := by omega
  fp := hop

/-- An F-P word that INVEND follows is a bracket move, or illegal. -/
theorem IsMove.decodeFP_eq (h : IsMove W w) : decodeFP w (some 0x3E) = decodeRows rowsMove W := by
  rw [show decodeRows rowsMove W = _ from decodeRows_pair rowsMove[0] rowsMove[1] W, h.legal_bset, h.legal_bget]
  simp only [h.fits_bset_iff, h.fits_bget_iff]
  rcases Nat.mod_two_eq_zero_or_one (w / 2 ^ 28) with hdec | hdec
  · simp only [decodeFP, hdec, true_and, zero_ne_one, false_and, Nat.reduceBEq, Bool.false_eq_true, if_false, if_true]
    split_ifs <;> rfl
  · simp only [decodeFP, hdec, true_and, one_ne_zero, false_and, Nat.reduceBEq, if_false, if_true]
    split_ifs <;> rfl

/-! ### The halfwords of an instruction -/

theorem rows16_even {i : Instr} (h : decodeRows rows16 w = some i) : w % 2 = 0 := by
  have heven : ∀ r ∈ rows16, ∃ p ∈ r.fixed, p.1 = 0 ∧ 1 ≤ p.2.1 ∧ p.2.2 % 2 = 0 := by decide +kernel
  obtain ⟨r, hr, hfit, -, -⟩ := exists_row_of_decodeRows h
  obtain ⟨p, hp, hlo, hn, hv⟩ := heven r hr
  have hbits := (r.fits_iff w).1 hfit p hp
  rw [hlo, Nat.pow_zero, Nat.div_one] at hbits
  rw [← hbits] at hv
  rwa [Nat.mod_mod_of_dvd w (dvd_pow_self 2 (Nat.one_le_iff_ne_zero.1 hn))] at hv

theorem rows32_odd {i : Instr} (h : decodeRows rows32 w = some i) : w % 2 = 1 ∧ w / 2 % 2 ^ 7 ≠ 0x78 := by
  obtain ⟨r, hr, hfit, -, -⟩ := exists_row_of_decodeRows h
  obtain ⟨op, hop, hodd, hne⟩ := rows32_opcode hr
  have := Row.bits_of_valueAt hop hfit
  omega

theorem rowsInv_opcode {i : Instr} (h : decodeRows rowsInv w = some i) : w % 256 = 0xF1 := by
  have hop : ∀ r ∈ rowsInv, r.valueAt 0 8 = some 0xF1 := by decide +kernel
  obtain ⟨r, hr, hfit, -, -⟩ := exists_row_of_decodeRows h
  simpa using Row.bits_of_valueAt (hop r hr) hfit

theorem rowsMove_opcode {i : Instr} (h : decodeRows rowsMove w = some i) : w % 256 = 0xF1 ∧ w / 2 ^ 32 % 2 ^ 16 = 0x3E := by
  have hop : ∀ r ∈ rowsMove, r.valueAt 0 8 = some 0xF1 ∧ r.valueAt 32 16 = some 0x3E := by decide +kernel
  obtain ⟨r, hr, hfit, -, -⟩ := exists_row_of_decodeRows h
  obtain ⟨h0, h32⟩ := hop r hr
  exact ⟨by simpa using Row.bits_of_valueAt h0 hfit, Row.bits_of_valueAt h32 hfit⟩

theorem decodeHalves_rows16 {i : Instr} (h1 h2 : Option Nat) (h : decodeRows rows16 w = some i) : decodeHalves w h1 h2 = .ok i 2 := by
  unfold decodeHalves
  rw [if_pos (rows16_even h), h]

variable {h0 k : Nat}

theorem decodeHalves_rows32 {i : Instr} (h2 : Option Nat) (h : decodeRows rows32 (h0 + k * 2 ^ 16) = some i) :
    decodeHalves h0 (some k) h2 = .ok i 4 := by
  obtain ⟨hodd, hfp⟩ := rows32_odd h
  have : ¬h0 % 2 = 0 := by omega
  unfold decodeHalves
  simp only [if_neg this, if_neg hfp, h]

theorem decodeHalves_fp {i : Instr} {h2 : Option Nat} (hop : (h0 + k * 2 ^ 16) % 256 = 0xF1) (h : decodeFP (h0 + k * 2 ^ 16) h2 = some i) :
    decodeHalves h0 (some k) h2 = .ok i (if h2 = some 0x3E then 6 else 4) := by
  have hodd : ¬h0 % 2 = 0 := by omega
  have hfp : (h0 + k * 2 ^ 16) / 2 % 2 ^ 7 = 0x78 := by omega
  unfold decodeHalves
  simp only [if_neg hodd, if_pos hfp, h]

theorem decodeHalves_rowsInv {i : Instr} {h2 : Option Nat} (h : decodeRows rowsInv (h0 + k * 2 ^ 16) = some i) (hend : h2 ≠ some 0x3E) :
    decodeHalves h0 (some k) h2 = .ok i 4 := by
  have hop := rowsInv_opcode h
  rw [decodeHalves_fp hop ((decodeFP_eq_rowsInv hop hend).trans h), if_neg hend]

theorem decodeHalves_rowsMove {i : Instr} (h : decodeRows rowsMove W = some i) (hm : IsMove W (h0 + k * 2 ^ 16)) :
    decodeHalves h0 (some k) (some 0x3E) = .ok i 6 := by
  rw [decodeHalves_fp hm.fp (hm.decodeFP_eq.trans h), if_pos rfl]

/-- What decodes is an instruction of one of the four tables. -/
theorem decodeHalves_eq_ok {n : Nat} {h1 h2 : Option Nat} {i : Instr} (h : decodeHalves h0 h1 h2 = .ok i n) :
    (n = 2 ∧ decodeRows rows16 h0 = some i) ∨
    ∃ k, h1 = some k ∧ ((n = 4 ∧ (decodeRows rows32 (h0 + k * 2 ^ 16) = some i ∨ decodeRows rowsInv (h0 + k * 2 ^ 16) = some i)) ∨
      (n = 6 ∧ h2 = some 0x3E ∧ (h0 + k * 2 ^ 16) % 256 = 0xF1 ∧ decodeFP (h0 + k * 2 ^ 16) (some 0x3E) = some i)) := by
  unfold decodeHalves at h
  split at h
  · split at h
    · next hd => cases h; exact .inl ⟨rfl, hd⟩
    · cases h
  · next hodd =>
    split at h
    · cases h
    · next k =>
      refine .inr ⟨k, rfl, ?_⟩
      dsimp only at h
      split at h
      · next hfp =>
        have hop : (h0 + k * 2 ^ 16) % 256 = 0xF1 := by omega
        split at h
        · next hd =>
          by_cases hend : h2 = some 0x3E
          · rw [if_pos hend] at h
            cases h
            exact .inr ⟨rfl, hend, hop, hend ▸ hd⟩
          · rw [if_neg hend] at h
            cases h
            exact .inl ⟨rfl, .inr (decodeFP_eq_rowsInv hop hend ▸ hd)⟩
        · cases h
      · split at h
        · next hd => cases h; exact .inl ⟨rfl, .inl hd⟩
        · cases h

/-! ### Decode and encode -/

theorem Instr.bytes_eq {i : Instr} {n w : Nat} (hlen : i.len = n) (henc : encode i = w) : i.bytes = bytesOfNat n w := by
  rw [Instr.bytes, hlen, henc]

/-- Every well-formed instruction that has a word stands in one of the four tables. -/
theorem Instr.decodeRows_encode {i : Instr} (hlen : i.len ≠ 0) (hwf : i.wf = true) :
    (i.len = 2 ∧ encode i < 2 ^ 16 ∧ decodeRows rows16 (encode i) = some i) ∨
    (i.len = 4 ∧ encode i < 2 ^ 32 ∧ (decodeRows rows32 (encode i) = some i ∨ decodeRows rowsInv (encode i) = some i)) ∨
    (i.len = 6 ∧ encode i < 2 ^ 48 ∧ decodeRows rowsMove (encode i) = some i) := by
  obtain ⟨r, hat, hpos, hi⟩ := i.hasRow hlen
  have hr : r ∈ rowsAll := List.mem_of_getElem? hat
  simp only [rowsAll, List.mem_append] at hr
  obtain ((hr | hr) | hr) | hr := hr
  · exact .inl (rows16_isTable.decodeRows_encode hr hpos hi hwf)
  · obtain ⟨hl, hlt, hd⟩ := rows32_isTable.decodeRows_encode hr hpos hi hwf
    exact .inr (.inl ⟨hl, hlt, .inl hd⟩)
  · obtain ⟨hl, hlt, hd⟩ := rowsInv_isTable.decodeRows_encode hr hpos hi hwf
    exact .inr (.inl ⟨hl, hlt, .inr hd⟩)
  · exact .inr (.inr (rowsMove_isTable.decodeRows_encode hr hpos hi hwf))

theorem eq_inv_of_rowsInv {i : Instr} {w : Nat} (h : decodeRows rowsInv w = some i) :
    ∃ t k g a o, i = .inv t k g a o ∨ i = .invDec t k g a o := by
  obtain ⟨r, hr, -, rfl, -⟩ := exists_row_of_decodeRows h
  obtain rfl | hr := List.mem_cons.1 hr
  · exact ⟨_, _, _, _, _, .inl rfl⟩
  · obtain rfl := List.mem_singleton.1 hr
    exact ⟨_, _, _, _, _, .inr rfl⟩

theorem decode_bytes_two {i : Instr} {w : Nat} (hw : w < 2 ^ 16) (h : decodeRows rows16 w = some i) (rest : List Byte) :
    decode (bytesOfNat 2 w ++ rest) = .ok i 2 := by
  rw [decode, halfAt_bytesOfNat 0, Nat.mod_eq_of_lt hw]
  exact decodeHalves_rows16 _ _ h

theorem decode_bytes_four {w : Nat} (hw : w < 2 ^ 32) (rest : List Byte) :
    decode (bytesOfNat 4 w ++ rest) = decodeHalves (w % 2 ^ 16) (some (w / 2 ^ 16)) (halfAt rest) := by
  have hdrop : (bytesOfNat 4 w ++ rest).drop 4 = rest := rfl
  have : w / 2 ^ 16 < 2 ^ 16 := by omega
  rw [decode, halfAt_bytesOfNat 2, drop_bytesOfNat, halfAt_bytesOfNat 0, hdrop, Nat.mod_eq_of_lt this]

theorem decode_bytes_six (w : Nat) (rest : List Byte) :
    decode (bytesOfNat 6 w ++ rest) = decodeHalves (w % 2 ^ 16) (some (w / 2 ^ 16 % 2 ^ 16)) (some (w / 2 ^ 16 / 2 ^ 16 % 2 ^ 16)) := by
  have hdrop : (bytesOfNat 6 w ++ rest).drop 4 = ((bytesOfNat 6 w ++ rest).drop 2).drop 2 := rfl
  rw [decode, halfAt_bytesOfNat 4, hdrop, drop_bytesOfNat, drop_bytesOfNat, halfAt_bytesOfNat 2, halfAt_bytesOfNat 0]

theorem isMove_halves {W : Nat} (hW : W < 2 ^ 48) (hop : W % 256 = 0xF1) (hend : W / 2 ^ 32 % 2 ^ 16 = 0x3E) :
    IsMove W (W % 2 ^ 16 + W / 2 ^ 16 % 2 ^ 16 * 2 ^ 16) := by
  have hsum : W % 2 ^ 16 + W / 2 ^ 16 % 2 ^ 16 * 2 ^ 16 + 2 ^ 32 * (W / 2 ^ 32) = W := by omega
  have := IsMove.of_add (w := W % 2 ^ 16 + W / 2 ^ 16 % 2 ^ 16 * 2 ^ 16) (q := W / 2 ^ 32) (by omega) (by omega) (by omega)
  rwa [hsum] at this

/-- Settles O55: an instruction's row is the first of its table that fits its word, and its length and opcode lead the decoder to that table. -/
theorem encodedInstructionsDecode : Obligations.EncodedInstructionsDecode := by
  unfold Obligations.EncodedInstructionsDecode
  intro i rest hlen hwf hinv
  obtain ⟨hl, hlt, hd⟩ | ⟨hl, hlt, hd⟩ | ⟨hl, hlt, hd⟩ := Instr.decodeRows_encode hlen hwf
  · rw [Instr.bytes_eq hl rfl, hl]
    exact decode_bytes_two hlt hd rest
  · rw [Instr.bytes_eq hl rfl, hl, decode_bytes_four hlt]
    have hw : encode i = encode i % 2 ^ 16 + encode i / 2 ^ 16 * 2 ^ 16 := by omega
    obtain hd | hd := hd
    · exact decodeHalves_rows32 _ (hw ▸ hd)
    · obtain ⟨t, k, g, a, o, hi⟩ := eq_inv_of_rowsInv hd
      exact decodeHalves_rowsInv (hw ▸ hd) (hinv t k g a o hi)
  · rw [Instr.bytes_eq hl rfl, hl, decode_bytes_six]
    obtain ⟨hop, hend⟩ := rowsMove_opcode hd
    rw [show encode i / 2 ^ 16 / 2 ^ 16 % 2 ^ 16 = 0x3E by omega]
    exact decodeHalves_rowsMove hd (isMove_halves hlt hop hend)

/-! ### From bytes -/

theorem take_halfAt {bs : List Byte} {h n v : Nat} (hh : halfAt bs = some h) (hrest : (bs.drop 2).take n = bytesOfNat n v) :
    bs.take (n + 2) = bytesOfNat (n + 2) (h + v * 2 ^ 16) := by
  obtain ⟨hlt, htake⟩ := halfAt_eq_some hh
  rw [bytesOfNat_add_half hlt, ← htake, ← hrest, Nat.add_comm, List.take_add]

/-- Settles O56: each of the four tables reads the word that it encodes, whose halfwords are the bytes at the front. -/
theorem decodedBytesAreTheEncoding : Obligations.DecodedBytesAreTheEncoding := by
  unfold Obligations.DecodedBytesAreTheEncoding
  intro bs i n h
  unfold decode at h
  split at h
  · cases h
  next h0 hh0 =>
  obtain ⟨hlt0, htake0⟩ := halfAt_eq_some hh0
  obtain ⟨rfl, hd⟩ | ⟨k, hk, ⟨rfl, hd⟩ | ⟨rfl, hend, hop, hd⟩⟩ := decodeHalves_eq_ok h
  · obtain ⟨hwf, hlen, henc⟩ := rows16_isTable.encode_of_decodeRows hlt0 hd
    exact ⟨hwf, hlen.symm, by rw [Instr.bytes_eq hlen henc, htake0]⟩
  · obtain ⟨hltk, htakek⟩ := halfAt_eq_some hk
    have hlt : h0 + k * 2 ^ 16 < 2 ^ 32 := by omega
    obtain ⟨hwf, hlen, henc⟩ := hd.elim (rows32_isTable.encode_of_decodeRows hlt) (rowsInv_isTable.encode_of_decodeRows hlt)
    exact ⟨hwf, hlen.symm, by rw [Instr.bytes_eq hlen henc, take_halfAt hh0 htakek]⟩
  · -- The halfword of INVEND stays a variable, or the kernel counts up to the word that holds it.
    obtain ⟨e, he⟩ : ∃ e : Nat, e = 0x3E := ⟨_, rfl⟩
    rw [← he, show bs.drop 4 = (bs.drop 2).drop 2 from (List.drop_drop (i := 2) (j := 2)).symm] at hend
    obtain ⟨hltk, -⟩ := halfAt_eq_some hk
    have hlt : h0 + k * 2 ^ 16 < 2 ^ 32 := by omega
    have hm := IsMove.of_add hlt hop he
    rw [hm.decodeFP_eq] at hd
    obtain ⟨hwf, hlen, henc⟩ := rowsMove_isTable.encode_of_decodeRows (by omega) hd
    have hword : h0 + k * 2 ^ 16 + 2 ^ 32 * e = h0 + (k + e * 2 ^ 16) * 2 ^ 16 := by omega
    exact ⟨hwf, hlen.symm, by rw [Instr.bytes_eq hlen henc, hword, take_halfAt hh0 (take_halfAt hk (halfAt_eq_some hend).2)]⟩

/-- Settles O54: the decoder run on each of the words. -/
theorem wordsOfTheSpecDecode : Obligations.WordsOfTheSpecDecode := by
  unfold Obligations.WordsOfTheSpecDecode
  decide +kernel

end Sys2Proof
end

section
/-!
SUPPORT for O36. What time and memory bring: cycles that pass (R56), results that land (R57, R223), and an atomic that waited, performed
at the location that its checks found (R218, R245).
-/
namespace Sys2Proof.Machine

/-! ### A cycle passes -/

theorem State.foldl_enterError (es : List BankError) (s : State) :
    (es.foldl State.enterError s).cycle = s.cycle ∧ (es.foldl State.enterError s).mem.writes = s.mem.writes := by
  induction es generalizing s with
  | nil => exact ⟨rfl, rfl⟩
  | cons e es ih => exact ih (s.enterError e)

theorem State.tick_cycle (s : State) : s.tick.cycle = s.cycle + 1 := (State.foldl_enterError _ _).1

theorem State.tick_writes (s : State) : s.tick.mem.writes = s.mem.writes := (State.foldl_enterError _ _).2

/-- n cycles move the clock by n and leave DRAM and the outstanding writes. -/
theorem State.iterate_tick (n : Nat) (s : State) :
    (Nat.iterate State.tick n s).cycle = s.cycle + n ∧ (Nat.iterate State.tick n s).mem.dram = s.mem.dram ∧
      (Nat.iterate State.tick n s).mem.writes = s.mem.writes := by
  induction n generalizing s with
  | zero => exact ⟨rfl, rfl, rfl⟩
  | succ n ih =>
    obtain ⟨hcycle, hdram, hwrites⟩ := ih s.tick
    rw [Function.iterate_succ_apply]
    exact ⟨by rw [hcycle, s.tick_cycle]; omega, hdram.trans s.tick_dram, hwrites.trans s.tick_writes⟩

/-- Cycles that nothing holds up all pass. -/
theorem State.ticks_eq_iterate (n : Nat) (s : State) (h : ∀ k, k < n → (Nat.iterate State.tick k s).mayTick = true) :
    s.ticks n = Nat.iterate State.tick n s := by
  induction n generalizing s with
  | zero => rfl
  | succ n ih =>
    have hnow : s.mayTick = true := h 0 n.succ_pos
    rw [State.ticks, if_pos hnow, Function.iterate_succ_apply]
    exact ih s.tick fun k hk => h (k + 1) (by omega)

theorem execStallElapsed_passes {q lane : Nat} {s : State} (hlive : (s.thread q lane).live = true)
    (hstall : s.cycle < (s.thread q lane).readyAt)
    (hmay : ∀ k, k < (s.thread q lane).readyAt - s.cycle → (Nat.iterate State.tick k s).mayTick = true) :
    execStallElapsed q lane s = .next (Nat.iterate State.tick ((s.thread q lane).readyAt - s.cycle) s) := by
  have hcond : ((s.thread q lane).live && decide (s.cycle < (s.thread q lane).readyAt)) = true := by simp [hlive, hstall]
  refine congrArg Host.Outcome.next ((if_pos hcond).trans ?_)
  exact State.ticks_eq_iterate _ s hmay

/-! ### Scoreboarded results -/

variable {t : Thread} {sq : Squad} {w : RegWrite} {lane now : Nat}

theorem Thread.landOne_of_nextSb (h : t.nextSb = some w) :
    t.landOne = { t with pend := t.pend.filter fun x => !(x.sb && x.iss == w.iss) } := by
  simp only [Thread.landOne, h]

/-- A thread's first result may land when no write of its instruction is still due. -/
theorem Thread.mayLand_iff (h : t.nextSb = some w) :
    t.mayLand now = true ↔ ∀ x ∈ t.pend, x.sb = true → x.iss = w.iss → x.due ≤ now := by
  simp only [Thread.mayLand, h, List.all_eq_true, Bool.or_eq_true, Bool.not_eq_true', Bool.and_eq_false_iff, decide_eq_true_eq]
  refine forall₂_congr fun x _ => ⟨fun hx hsb hiss => ?_, fun hx => ?_⟩
  · simpa [hsb, hiss] using hx
  · by_cases hsb : x.sb = true
    · by_cases hiss : x.iss = w.iss
      · exact .inr (hx hsb hiss)
      · exact .inl (.inr (beq_eq_false_iff_ne.mpr hiss))
    · exact .inl (.inl (Bool.eq_false_iff.mpr hsb))

theorem Squad.mem_landsWith (h : (sq.thread lane).nextSb = some w) (l : Nat) :
    l ∈ sq.landsWith lane ↔ l ∈ sq.liveLanes ∧ ∃ x, (sq.thread l).nextSb = some x ∧ x.iss = w.iss := by
  simp only [Squad.landsWith, h, List.mem_filter, Option.any_eq_true, beq_iff_eq]

/-- What would land with a live lane's first result may land when nothing of that issue is still due. -/
theorem Squad.mayLand_iff (h : (sq.thread lane).nextSb = some w) (hlive : lane ∈ sq.liveLanes) :
    sq.mayLand lane now = true ↔ ∀ l ∈ sq.landsWith lane, ∀ x ∈ (sq.thread l).pend, x.sb = true → x.iss = w.iss → x.due ≤ now := by
  have hself : lane ∈ sq.landsWith lane := (Squad.mem_landsWith h lane).mpr ⟨hlive, w, h, rfl⟩
  have hne : (sq.landsWith lane != []) = true := bne_iff_ne.mpr (List.ne_nil_of_mem hself)
  simp only [Squad.mayLand, hne, Bool.true_and, List.all_eq_true]
  refine forall₂_congr fun l hl => ?_
  obtain ⟨-, x, hx, hiss⟩ := (Squad.mem_landsWith h l).mp hl
  rw [Thread.mayLand_iff hx, hiss]

theorem execScoreboardWriteLands_lands {q : Nat} {s : State} (h : (s.squad q).mayLand lane s.cycle = true) :
    execScoreboardWriteLands q ⟨lane, 0⟩ s = .next (((s.squad q).landsWith lane).foldl (fun st l => st.modThread q l Thread.landOne) s) :=
  congrArg Host.Outcome.next (if_pos h)

/-! ### Loads performed anew -/

theorem State.noteRead_noFlip {s : State} {p : Place} (h : s.mem.latent.contains p.line = false) : s.noteRead p = s := by
  simp only [State.noteRead, h, Bool.false_eq_true, if_false]

/-- A load performed anew where no injected flip waits: its thread takes what memory holds for it now. -/
theorem State.reload_noLatent {s : State} (h : s.mem.latent = []) (q : Nat) (r : Read) :
    s.reload q r = s.modThread q r.lane fun t =>
      let x := s.readLoc { q := q, lane := r.lane, lid := r.by_.lid, crew := r.by_.crew, num := r.by_.num } r.loc r.size
      t.reload r.seq (loadResult r.sgn r.tag x.1 x.2) := by
  unfold State.reload
  cases r.loc.place with
  | none => rfl
  | some p => exact congrArg (State.modThread · q r.lane _) (State.noteRead_noFlip (by rw [h]; rfl))

theorem execScoreboardWriteLands_reloads {q n : Nat} {s : State} {r : Read} (hr : (s.readsOf q lane)[n]? = some r)
    (hmay : s.mayReload q r = true) : execScoreboardWriteLands q ⟨lane, n + 1⟩ s = .next (s.reload q r) := by
  simp only [execScoreboardWriteLands, hr, hmay, if_true]

theorem State.lane_of_readsOf {q n : Nat} {s : State} {r : Read} (h : (s.readsOf q lane)[n]? = some r) : r.lane = lane := by
  have hmem := (List.mem_filter.mp (List.mem_of_getElem? h)).2
  simp only [Bool.and_eq_true, beq_iff_eq] at hmem
  exact hmem.2

/-! ### Register lines, network configurations, YIELD -/

variable {q : Nat} {s : State}

theorem execRegisterLineArrives_sound {line : Nat} (hq : s.squad? q = some sq) (hp : s.poisoned (.dram (sq.ctx + 64 * line) 0) = false) :
    execRegisterLineArrives q line s = .next (s.setSquad q { sq with missing := sq.missing.filter (· != line) }) := by
  simp only [execRegisterLineArrives, State.modSquad_some s q _ hq, hp, Bool.and_false, Bool.false_eq_true, if_false]

theorem execSetnetConfigLands_due {x : NetWrite} {rest : List NetWrite} (hq : s.squad? q = some sq) (hx : sq.nPend = x :: rest)
    (hdue : x.due ≤ s.cycle) :
    execSetnetConfigLands q s = .next (s.setSquad q { sq with n := SMap.set [] sq.n x.n x.map, nPend := rest }) := by
  have hnet : sq.netDue s.cycle = some x := by simp [Squad.netDue, hx, hdue]
  simp only [execSetnetConfigLands, State.modSquad_some s q _ hq, hnet, Squad.landNet, hx, List.drop_succ_cons, List.drop_zero]

theorem execYieldExpires_last (hq : s.squad? q = some sq) (hy : sq.yielded = 1) :
    execYieldExpires q s = .next (s.setSquad q { sq with yielded := 0 }) := by
  simp only [execYieldExpires, State.modSquad_some s q _ hq, hy, if_true]

/-! ### Outstanding writes -/

theorem State.canLand_of_free {n : Nat} {w : Write} (hw : s.mem.writes[n]? = some w)
    (hheld : (w.held && s.placeHeld w.job w.va w.place) = false) (hfree : ∀ e ∈ s.mem.writes, s.holdsBack w.next e w = false) :
    s.canLand n = true := by
  simp only [State.canLand, hw, hheld, Bool.not_false, Bool.true_and, List.all_eq_true, Bool.not_eq_true']
  exact hfree

theorem execWriteLands_canLand {n : Nat} (h : s.canLand n = true) : execWriteLands n s = .next (s.landNth n) :=
  congrArg Host.Outcome.next (if_pos h)

theorem State.landNth_last {n : Nat} {w : Write} (hw : s.mem.writes[n]? = some w) (h : 4 ≤ w.next) :
    let s1 := s.fixReads (s.fixedBy w w.next)
    s.landNth n = { s1 with seq := s1.seq + 1, mem := { s1.mem with writes := s.mem.writes.eraseIdx n } }.landPart
      w.by_.lid w.by_.crew w.place w.job w.va w.data := by
  simp only [State.landNth, hw, h, if_true]

theorem State.landNth_step {n : Nat} {w : Write} (hw : s.mem.writes[n]? = some w) (h : w.next < 4) :
    let s1 := s.fixReads (s.fixedBy w w.next)
    s.landNth n = { s1 with seq := s1.seq + 1, mem := { s1.mem with
      writes := s.mem.writes.eraseIdx n ++ [{ w with times := w.times ++ List.replicate (w.next - w.stage) s1.seq }] } } := by
  simp only [State.landNth, hw, Nat.not_le.mpr h, if_false]

/-! ### What an atomic puts leaves the issue under way -/

theorem State.foldl_cur {α : Type} (xs : List α) (f : State → α → State) (hf : ∀ s x, (f s x).cur = s.cur) (s : State) :
    (xs.foldl f s).cur = s.cur := by
  induction xs generalizing s with
  | nil => rfl
  | cons x xs ih => exact (ih _).trans (hf s x)

@[simp] theorem State.fixReads_cur (s : State) (f : Read → Nat) : (s.fixReads f).cur = s.cur := by
  unfold State.fixReads
  split <;> rfl

@[simp] theorem State.rekeyLine_cur (s : State) (key line : Nat) : (s.rekeyLine key line).cur = s.cur := by
  simp only [State.rekeyLine]
  split <;> rfl

@[simp] theorem State.putBytes_cur (s : State) (p : Place) (bs : List Byte) : (s.putBytes p bs).cur = s.cur := by
  cases p with
  | dram pa key => exact State.foldl_cur (linesOf pa bs.length) _ (fun st l => st.rekeyLine_cur key l) s
  | scratch l c o => rfl

@[simp] theorem State.setDirty_cur (s : State) (job va pa : Nat) : (s.setDirty job va pa).cur = s.cur := by
  unfold State.setDirty
  split <;> split <;> rfl

@[simp] theorem State.heal_cur (s : State) (p : Place) (n : Nat) : (s.heal p n).cur = s.cur := by
  cases p <;> rfl

@[simp] theorem State.noteSource_cur (s : State) (p : Place) (bs : List Byte) : (s.noteSource p bs).cur = s.cur := by
  unfold State.noteSource
  split <;> rfl

@[simp] theorem State.injectWrite_cur (s : State) (lid c target : Nat) (p : Place) : (s.injectWrite lid c target p).cur = s.cur := by
  simp only [State.injectWrite]
  split
  · rfl
  · split
    · rfl
    · split
      · exact State.putBytes_cur _ _ _
      · rfl

@[simp] theorem State.landPart_cur (s : State) (lid c : Nat) (p : Place) (job va : Nat) (bs : List Byte) :
    (s.landPart lid c p job va bs).cur = s.cur := by
  cases p with
  | scratch l c o => simp [State.landPart]
  | dram pa key =>
    by_cases h : job = 0
    · simp [State.landPart, h]
    · simp [State.landPart, h]

@[simp] theorem State.putAtomic_cur (s : State) (cx : Ctx) (loc : Loc) (bs : List Byte) : (s.putAtomic cx loc bs).cur = s.cur := by
  cases loc with
  | stack off => simp [State.putAtomic, State.storeLoc, State.fixOwn, State.modThread]
  | dram pa key job va lf => simp [State.putAtomic]
  | scratch l c o => simp [State.putAtomic]

/-! ### An atomic at its location -/

variable {cx : Ctx} {addr : Word} {loc : Loc} {p : AtomicPlan}

@[simp] theorem State.fixAtomic_latent (s : State) (cx : Ctx) (loc : Loc) (size : Nat) (ar writes : Bool) :
    (s.fixAtomic cx loc size ar writes).mem.latent = s.mem.latent := by
  unfold State.fixAtomic State.fixReads
  split <;> rfl

/-- An atomic of sound bytes in whose line no injected flip waits: the loads that it fixes, its bytes where it acts, its result (R218). -/
theorem State.atomicAt_sound (hsound : s.locPoisoned cx loc = false) (hflip : (loc.place.all fun p => !s.mem.latent.contains p.line) = true) :
    s.atomicAt cx addr loc p =
      let old := natLE (s.landedBytes cx loc p.size)
      let s1 := s.fixAtomic cx loc p.size p.ar p.writes
      .ok ((if p.writes then s1.putAtomic cx loc (bytesLE p.size (p.new old)) else s1).modThread cx.q cx.lane (p.res old)) := by
  have hnote : ∀ pl, loc.place = some pl → (s.fixAtomic cx loc p.size p.ar p.writes).noteRead pl = s.fixAtomic cx loc p.size p.ar p.writes := by
    intro pl hpl
    refine State.noteRead_noFlip ?_
    rw [State.fixAtomic_latent]
    simpa [hpl] using hflip
  simp only [State.atomicAt, hsound, Bool.false_eq_true, if_false]
  cases loc with
  | stack off => rfl
  | dram pa key job va lf => simp only [hnote (.dram pa key) rfl, State.putAtomic]
  | scratch l c o => simp only [hnote (.scratch l c o) rfl, State.putAtomic]

/-- Where nothing holds an atomic up it is performed at its location, whether or not its page was under write-back when its checks were passed. -/
theorem State.atAtomicPoint_free (i : Instr) (held : Bool) (hheld : s.atomicHeld loc p = false) (hlower : s.lowerWaits cx = false)
    (hneeds : (s.mem.writes.all fun w => decide (s.atomicNeeds cx loc p w ≤ w.stage)) = true) :
    s.atAtomicPoint cx i addr loc held p = s.atomicAt cx addr loc p := by
  simp only [State.atAtomicPoint, hheld, hlower, Bool.and_false, Bool.or_self, Bool.false_eq_true, if_false, s.bring_ready _ hneeds, if_true]

theorem State.locPoisoned_past (i : Instr) (stall l : Nat) (h : (s.squad? s.cur.q).isSome = true) :
    (s.setThread s.cur.q l (s.past i stall l)).locPoisoned (s.ctx l) loc = s.locPoisoned (s.ctx l) loc := by
  unfold State.locPoisoned
  rw [s.readLoc_past i stall l loc 1 h, State.setThread_squads]
  cases loc <;> rfl

/-- A lane that has moved past an atomic is held up by nothing that did not hold it up before. -/
theorem State.atAtomicPoint_past (i : Instr) (l : Nat) (held : Bool) (hr : s.ready i 0 = true)
    (hfree : s.atomicFree (s.ctx l) loc p.size p.ar p.writes = true) :
    let u := s.setThread s.cur.q l (s.past i 0 l)
    let old := natLE (s.landedBytes (s.ctx l) loc p.size)
    let u1 := u.fixAtomic (s.ctx l) loc p.size p.ar p.writes
    u.atAtomicPoint (s.ctx l) i addr loc held p = .ok ((if p.writes then u1.putAtomic (s.ctx l) loc (bytesLE p.size (p.new old)) else u1).modThread
      s.cur.q l (p.res old)) := by
  intro u old u1
  have hbound := ((s.ready_iff i 0).mp hr).1
  simp only [State.atomicFree, Bool.and_eq_true, Bool.not_eq_true'] at hfree
  obtain ⟨⟨⟨⟨hheld, hlower⟩, hneeds⟩, hsound⟩, hflip⟩ := hfree
  have hheldU : u.atomicHeld loc p = false := (s.atomicHeld_setThread _ _ _ loc p).trans hheld
  have hlowerU : u.lowerWaits (s.ctx l) = false := (s.lowerWaits_setThread _ _ _ _ rfl).trans hlower
  have hneedsU : (u.mem.writes.all fun w => decide (u.atomicNeeds (s.ctx l) loc p w ≤ w.stage)) = true := by
    rw [State.atomicNeeds_setThread, State.setThread_mem]
    exact hneeds
  have hsoundU : u.locPoisoned (s.ctx l) loc = false := (State.locPoisoned_past i 0 l hbound).trans hsound
  have hflipU : (loc.place.all fun p => !u.mem.latent.contains p.line) = true := by
    rw [State.setThread_mem]
    simpa using hflip
  rw [State.atAtomicPoint_free i held hheldU hlowerU hneedsU, State.atomicAt_sound hsoundU hflipU]
  simp only [u, s.landedBytes_past i 0 l loc _ hbound]
  rfl

/-- The atomic that a lane waited to perform, once nothing holds it up. -/
theorem State.retryAtomic_free {i : Instr} {l : Nat} {held : Bool} {plan : Ctx → Thread → Except Trap AtomicPlan} (hr : s.ready i 0 = true)
    (hplan : plan (s.ctx l) (s.past i 0 l) = .ok p) (hfree : s.atomicFree (s.ctx l) loc p.size p.ar p.writes = true) :
    let u := s.setThread s.cur.q l (s.past i 0 l)
    let old := natLE (s.landedBytes (s.ctx l) loc p.size)
    let u1 := u.fixAtomic (s.ctx l) loc p.size p.ar p.writes
    retryAtomic i addr loc held plan (s.ctx l) u = .ok ((if p.writes then u1.putAtomic (s.ctx l) loc (bytesLE p.size (p.new old)) else u1).modThread
      s.cur.q l (p.res old)) := by
  have hthread := s.thread_ready i 0 l (s.past i 0 l) hr
  simp only [retryAtomic, ctx_q, ctx_lane, hthread, hplan, bind, Except.bind]
  exact State.atAtomicPoint_past i l held hr hfree

/-! ### The atomics of the lanes that waited -/

/-- The issue set that performs the atomics of some lanes of a squad, at the first lane's instruction. -/
def State.atomicSet (s : State) (q l : Nat) (ls : List Nat) : State :=
  { s.unwait q ls with cur := { q := q, pc := (s.thread q l).pc, lanes := maskOf ls, slot := (s.thread q l).stamp, at_ := (s.thread q l).since } }

/-- What one lane's atomic does: `loc` is the location that its checks found. -/
def State.atomicAct (q : Nat) (i : Instr) (loc : Nat → Loc) (p : Nat → AtomicPlan) (m : Nat) (st : State) : State :=
  let old := natLE (st.landedBytes (st.ctx m) (loc m) (p m).size)
  let st1 := (st.setThread st.cur.q m (st.past i 0 m)).fixAtomic (st.ctx m) (loc m) (p m).size (p m).ar (p m).writes
  (if (p m).writes then st1.putAtomic (st.ctx m) (loc m) (bytesLE (p m).size ((p m).new old)) else st1).modThread q m ((p m).res old)

@[simp] theorem State.atomicAct_cur (q : Nat) (i : Instr) (loc : Nat → Loc) (p : Nat → AtomicPlan) (m : Nat) (st : State) :
    (State.atomicAct q i loc p m st).cur = st.cur := by
  simp only [State.atomicAct, State.modThread, State.setThread_cur]
  split <;> simp [State.fixAtomic]

theorem State.before_cur (F : Nat → State → State) (hF : ∀ m st, (F m st).cur = st.cur) (l : Nat) : (s.before F l).cur = s.cur :=
  State.foldl_cur _ _ (fun st m => hF m st) s

/-- Waiting lanes whose atomics nothing holds up are performed one after another. -/
theorem State.retryAtomics_oneByOne {l : Nat} {rest : List Nat} {i : Instr} {plan : Ctx → Thread → Except Trap AtomicPlan}
    {at_ : Nat → Word × Loc × Bool} {p : Nat → AtomicPlan}
    (h : ∀ m ∈ (s.atomicSet q l (l :: rest)).lanes, let st := (s.atomicSet q l (l :: rest)).before (State.atomicAct q i (fun m => (at_ m).2.1) p) m
      (s.thread q m).wait = .atomic (at_ m).1 (at_ m).2.1 (at_ m).2.2 i ∧ st.ready i 0 = true ∧
      plan (st.ctx m) (st.past i 0 m) = .ok (p m) ∧
      st.atomicFree (st.ctx m) (at_ m).2.1 (p m).size (p m).ar (p m).writes = true) :
    s.retryAtomics q i (l :: rest) plan = (s.atomicSet q l (l :: rest)).oneByOne (State.atomicAct q i (fun m => (at_ m).2.1) p) := by
  refine (s.atomicSet q l (l :: rest)).execLanes_oneByOne i 0 0 _ _ fun m hm => ?_
  have hcur : ((s.atomicSet q l (l :: rest)).before (State.atomicAct q i (fun m => (at_ m).2.1) p) m).cur.q = q :=
    congrArg Cur.q (State.before_cur _ (State.atomicAct_cur q i _ p) m)
  obtain ⟨hwait, hr, hplan, hfree⟩ := h m hm
  generalize (s.atomicSet q l (l :: rest)).before _ m = st at hcur hr hplan hfree ⊢
  refine State.laneStep_ok st i 0 _ hr ?_
  have hw : ((s.squad q).thread (st.ctx m).lane).atomicWait = some ((at_ m).1, (at_ m).2.1, (at_ m).2.2, i) := by
    have : ((s.squad q).thread (st.ctx m).lane).wait = .atomic (at_ m).1 (at_ m).2.1 (at_ m).2.2 i := hwait
    rw [Thread.atomicWait, this]
  subst hcur
  simp only [hw]
  exact State.retryAtomic_free hr hplan hfree

theorem execAtomicPerformed_retries {l : Nat} {i : Instr} {rest : List (Nat × Instr)} {plan : Ctx → Thread → Except Trap AtomicPlan}
    (hls : (s.squad q).atomicLanes = (l, i) :: rest) (hplan : atomicOf i = some plan) :
    execAtomicPerformed q s = .next (s.retryAtomics q i (l :: rest.map (·.1)) plan) := by
  simp only [execAtomicPerformed, hls, hplan]

/-- Settles O36: each event by its equation where it may come; the cycles by induction on their number, and each waiting lane's atomic in the
state that the lanes below it have left. -/
theorem timeAndMemoryEventsComplete : Obligations.TimeAndMemoryEventsComplete := by
  unfold Obligations.TimeAndMemoryEventsComplete
  refine ⟨?_, ?_, ?_, ?_, ?_, ?_, ?_, ?_, ?_, ?_⟩
  · intro q lane s hlive hstall hmay
    obtain ⟨hcycle, hdram, hwrites⟩ := State.iterate_tick ((s.thread q lane).readyAt - s.cycle) s
    exact ⟨execStallElapsed_passes hlive hstall hmay, hcycle.trans (by omega), hdram, hwrites⟩
  · exact fun q lane s w hw => ⟨execScoreboardWriteLands_lands, fun hlive => Squad.mayLand_iff hw hlive, Squad.mem_landsWith hw,
      Thread.landOne_of_nextSb hw⟩
  · intro q lane n s r hr hmay hlatent
    obtain rfl := State.lane_of_readsOf hr
    exact (execScoreboardWriteLands_reloads hr hmay).trans (congrArg Host.Outcome.next (State.reload_noLatent hlatent q r))
  · exact fun q line s sq hq hp => execRegisterLineArrives_sound hq hp
  · exact fun q x rest s sq hq hx hdue => execSetnetConfigLands_due hq hx hdue
  · exact fun q s sq hq hy => execYieldExpires_last hq hy
  · intro n s w hw hheld hfree
    have hland := execWriteLands_canLand (State.canLand_of_free hw hheld hfree)
    exact ⟨fun h => hland.trans (congrArg Host.Outcome.next (State.landNth_last hw h)),
      fun h => hland.trans (congrArg Host.Outcome.next (State.landNth_step hw h))⟩
  · intro q l i rest plan s at_ p hls hplan ls u act h
    exact (execAtomicPerformed_retries hls hplan).trans (congrArg Host.Outcome.next (State.retryAtomics_oneByOne h))
  · exact fun q s => rfl
  · exact fun q s h => congrArg Host.Outcome.next (if_neg h)

end Sys2Proof.Machine
end

section
/-!
SUPPORT for O1 to O7 and O10. An instruction that changes its own lanes' threads, from what each lane holds: the operand forms of the integer
page (R73-R79), moves and constants (R74-R76, R95, R239), fields and packs (R78, R86), compares and masks (R87, R89), branches (R90, R91).
-/
namespace Sys2Proof.Machine

variable {s : State} {i : Instr} {g : BitVec 2} {stall l : Nat} {a b d : RegCode}

/-! ### From the effect on a thread to the instruction -/

/-- An instruction dispatched to an effect on each thread, where no active lane traps. -/
theorem exec_ran {f : Ctx → Thread → Except Trap Thread} {res : Nat → Thread} (hexec : exec i s = .next (s.execThread i g stall f))
    (hr : s.ready i g = true) (hf : ∀ l ∈ s.active g, f (s.ctx l) (s.past i stall l) = .ok (res l)) :
    exec i s = .next (s.ran i g stall res) := by
  rw [hexec, s.execThread_ran i g stall f res hr fun l hl hm => hf l (List.mem_filter.mpr ⟨hl, hm⟩)]

/-- The same without a guard, where every lane is active. -/
theorem exec_ranAll {f : Ctx → Thread → Except Trap Thread} {res : Nat → Thread} (hexec : exec i s = .next (s.execThread i 0 stall f))
    (hr : s.ready i 0 = true) (hf : ∀ l ∈ s.lanes, f (s.ctx l) (s.past i stall l) = .ok (res l)) :
    exec i s = .next (s.ran i 0 stall res) :=
  exec_ran hexec hr (s.active_zero.symm ▸ hf)

/-! ### Operands -/

/-- A register that can be read holds a tag that a test accepts, unless the test accepts POISON. -/
theorem State.holds_of_accepts {ok : Tag → Bool} {c : RegCode} (hp : ok .poison = false) (hread : s.canRead c l = true)
    (hok : ok (s.operand c l).tag = true) : s.holds ok c l = true := by
  have hne : (s.operand c l).tag ≠ .poison := fun e => by simp [e, hp] at hok
  simp [State.holds, hread, hok, hne]

theorem State.readK_past (hk : s.canReadK k l = true) : (s.past i stall l).readK (s.ctx l) k = .ok (s.maskBit k l) :=
  (Thread.readK_advance ..).trans (s.readK_maskBit hk)

theorem isIntTag_of_pairInt {x y : Tag} (h : pairInt x y = true) : isIntTag x = true ∧ isIntTag y = true := by
  simp only [pairInt, Bool.and_eq_true] at h
  exact h.1

theorem ne_poison_of_isIntTag {x : Tag} (h : isIntTag x = true) : x ≠ .poison := fun e => by simp [e, isIntTag] at h

/-- Integer-class operands that pair have the layout of the tag that governs them (R44, R45). -/
theorem layoutInt_pair {x y : Reg} (h : pairInt x.tag y.tag = true) : layoutInt x y = .ok (pairTag x.tag y.tag) := by
  obtain ⟨hx, hy⟩ := isIntTag_of_pairInt h
  have hraw : x.tag = y.tag ∨ x.tag = .raw64 ∨ y.tag = .raw64 := by simpa [pairInt, hx, hy, or_assoc] using h
  simp only [layoutInt, need, ne_poison_of_isIntTag hx, ne_poison_of_isIntTag hy, hx, hy, if_false, if_true, bind, Except.bind, pairTag]
  rcases hraw with h | h | h
  · simp [h]
  · simp [h]
  · simp only [h]
    split <;> simp [*]

/-- The integer operation of two registers in a lane whose operands pair. -/
theorem State.int2_past (op : Nat → Nat → Nat → Nat) (lat : Lat)
    (h : s.canRead a l = true ∧ s.canRead b l = true ∧ pairInt (s.operand a l).tag (s.operand b l).tag = true) :
    (s.past i stall l).int2 (s.ctx l) op b a d lat = .ok (
      let g := pairTag (s.operand a l).tag (s.operand b l).tag
      (s.past i stall l).write (s.ctx l) d ⟨zipElems g op (s.operand a l).data (s.operand b l).data, g⟩ lat) := by
  obtain ⟨ha, hb, hpair⟩ := h
  obtain ⟨hx, hy⟩ := isIntTag_of_pairInt hpair
  simp only [Thread.int2, s.src_holds i stall (State.holds_of_accepts rfl ha hx), s.src_holds i stall (State.holds_of_accepts rfl hb hy),
    layoutInt_pair hpair, bind, Except.bind]

theorem State.bit2_past (op : Word → Word → Word) (h : s.holds isBitTag a l = true ∧ s.holds isBitTag b l = true) :
    (s.past i stall l).bit2 (s.ctx l) op b a d = .ok ((s.past i stall l).write (s.ctx l) d
      ⟨op (s.operand a l).data (s.operand b l).data, (s.operand a l).tag⟩ latInt) := by
  simp only [Thread.bit2, s.src_holds i stall h.1, s.src_holds i stall h.2, bind, Except.bind]

theorem State.bitImm_past (op : Word → Word → Word) (v : Word) (h : s.holds isBitTag a l = true) :
    (s.past i stall l).bitImm (s.ctx l) op v a d = .ok ((s.past i stall l).write (s.ctx l) d
      ⟨op (s.operand a l).data (immElems (s.operand a l).tag v), (s.operand a l).tag⟩ latInt) := by
  simp only [Thread.bitImm, s.src_holds i stall h, bind, Except.bind]

theorem State.intImm_past (op : Nat → Nat → Nat → Nat) (v : Word) (h : s.holds isIntTag a l = true) :
    (s.past i stall l).intImm (s.ctx l) op v a d = .ok ((s.past i stall l).write (s.ctx l) d
      ⟨zipElems (s.operand a l).tag op (s.operand a l).data (immElems (s.operand a l).tag v), (s.operand a l).tag⟩ latInt) := by
  simp only [Thread.intImm, s.src_holds i stall h, bind, Except.bind]

theorem State.int1_past (op : Nat → Nat → Nat) (h : s.holds isIntTag a l = true) :
    (s.past i stall l).int1 (s.ctx l) op a d = .ok ((s.past i stall l).write (s.ctx l) d
      ⟨mapElems (s.operand a l).tag op (s.operand a l).data, (s.operand a l).tag⟩ .sb) := by
  simp only [Thread.int1, s.src_holds i stall h, bind, Except.bind]

/-! ### Integer and bitwise instructions -/

/-- Settles O1: each instruction is `int2` with its element operation, on two registers that pair in every active lane. -/
theorem integerOperationsComplete : Obligations.IntegerOperationsComplete := by
  unfold Obligations.IntegerOperationsComplete
  refine ⟨?_, ?_, ?_⟩
  · intro p hp f s hr h
    have hexec : exec (p.1 f) s = .next (s.execThread (p.1 f) f.g f.s.toNat fun cx t => t.int2 cx p.2 f.b f.a f.d latInt) := by
      fin_cases hp <;> rfl
    exact exec_ran hexec hr fun l hl => State.int2_past p.2 latInt (h l hl)
  · intro p hp b d s hr h
    have hexec : exec (p.1 b d) s = .next (s.execThread (p.1 b d) 0 0 fun cx t => t.int2 cx p.2 (cReg b) d d latInt) := by
      fin_cases hp <;> rfl
    exact exec_ranAll hexec hr fun l hl => State.int2_past p.2 latInt (h l hl)
  · intro p hp b a d s hr h
    have hexec : exec (p.1 b a d) s = .next (s.execThread (p.1 b a d) 0 0 fun cx t => t.int2 cx p.2 b a d .sb) := by
      fin_cases hp <;> rfl
    exact exec_ranAll hexec hr fun l hl => State.int2_past p.2 .sb (h l hl)

/-- Settles O2: AND to ANDN and the C forms are `bit2`, the immediate forms `bitImm`. -/
theorem bitwiseOperationsComplete : Obligations.BitwiseOperationsComplete := by
  unfold Obligations.BitwiseOperationsComplete
  refine ⟨?_, ?_, ?_⟩
  · intro p hp f s hr h
    have hexec : exec (p.1 f) s = .next (s.execThread (p.1 f) f.g f.s.toNat fun cx t => t.bit2 cx p.2 f.b f.a f.d) := by
      fin_cases hp <;> rfl
    exact exec_ran hexec hr fun l hl => State.bit2_past p.2 (h l hl)
  · intro p hp b d s hr h
    have hexec : exec (p.1 b d) s = .next (s.execThread (p.1 b d) 0 0 fun cx t => t.bit2 cx p.2 (cReg b) d d) := by
      fin_cases hp <;> rfl
    exact exec_ranAll hexec hr fun l hl => State.bit2_past p.2 (h l hl)
  · intro p hp v a d s hr h
    have hexec : exec (p.1 v a d) s = .next (s.execThread (p.1 v a d) 0 0 fun cx t => t.bitImm cx p.2 (sext v) a d) := by
      fin_cases hp <;> rfl
    exact exec_ranAll hexec hr fun l hl => State.bitImm_past p.2 (sext v) (h l hl)

/-- Settles O3: the immediate forms are `intImm` with their extension of the immediate, the others `int1`. -/
theorem immediateAndUnaryComplete : Obligations.ImmediateAndUnaryComplete := by
  unfold Obligations.ImmediateAndUnaryComplete
  refine ⟨?_, ?_, ?_, ?_⟩
  · intro p hp v a d s hr h
    have hexec : exec (p.1 v a d) s = .next (s.execThread (p.1 v a d) 0 0 fun cx t => t.intImm cx p.2 (sext v) a d) := by
      fin_cases hp <;> rfl
    exact exec_ranAll hexec hr fun l hl => State.intImm_past p.2 (sext v) (h l hl)
  · intro p hp v a d s hr h
    have hexec : exec (p.1 v a d) s = .next (s.execThread (p.1 v a d) 0 0 fun cx t => t.intImm cx p.2 (v.zeroExtend 64) a d) := by
      fin_cases hp <;> rfl
    exact exec_ranAll hexec hr fun l hl => State.intImm_past p.2 (v.zeroExtend 64) (h l hl)
  · intro p hp v d s hr h
    have hexec : exec (p.1 v d) s = .next (s.execThread (p.1 v d) 0 0 fun cx t => t.intImm cx p.2.1 (p.2.2 v) d d) := by
      fin_cases hp <;> rfl
    exact exec_ranAll hexec hr fun l hl => State.intImm_past p.2.1 (p.2.2 v) (h l hl)
  · intro p hp a d s hr h
    have hexec : exec (p.1 a d) s = .next (s.execThread (p.1 a d) 0 0 fun cx t => t.int1 cx p.2 a d) := by
      fin_cases hp <;> rfl
    exact exec_ranAll hexec hr fun l hl => State.int1_past p.2 (h l hl)

/-! ### Moves, constants, fields and packs -/

theorem State.copy_past (h : s.holds (fun _ => true) a l = true) :
    (s.past i stall l).copy (s.ctx l) a d = .ok ((s.past i stall l).write (s.ctx l) d (s.operand a l) latInt) := by
  simp only [Thread.copy, s.src_holds i stall h, bind, Except.bind]

/-- Settles O4: what each form makes of the register it reads. -/
theorem movesAndConstantsComplete : Obligations.MovesAndConstantsComplete := by
  unfold Obligations.MovesAndConstantsComplete
  refine ⟨?_, ?_, ?_, ?_, ?_⟩
  · exact fun f s hr h => exec_ran (f := doMov f) rfl hr fun l hl => State.copy_past (h l hl)
  · exact fun b d s hr h => exec_ranAll (f := doMovC b d) rfl hr fun l hl => State.copy_past (h l hl)
  · intro x a d s hr h
    refine exec_ranAll (f := doRetag x a d) rfl hr fun l hl => ?_
    simp only [doRetag, s.src_holds _ 0 (h l hl), bind, Except.bind]
  · exact fun v d s hr => exec_ranAll (f := doMovi v d) rfl hr fun l _ => rfl
  · intro o b d s hr h
    refine exec_ranAll (f := doLea o b d) rfl hr fun l hl => ?_
    simp only [doLea, s.src_holds _ 0 (h l hl), bind, Except.bind, sext]

/-- Settles O5: neither form reads a register, so that no lane can trap. -/
theorem ldhiAndPcrelResults : Obligations.LdhiAndPcrelResults := by
  unfold Obligations.LdhiAndPcrelResults
  exact ⟨fun v d s hr => exec_ranAll (f := doLdhi v d) rfl hr fun l _ => rfl,
    fun v d s hr => exec_ranAll (f := doPcrel v d) rfl hr fun l _ => rfl⟩

/-- pos and the length that the control word of EXT and INS names, clipped at bit 63 (R78). -/
theorem extField_eq (w : Word) : extField w = (w.toNat % 64, min (w.toNat / 256 % 64 + 1) (64 - w.toNat % 64)) := by
  simp [extField, bitsOf]

theorem State.extract_past (sgn : Bool) (h : s.holds isAddrTag a l = true ∧ s.holds isAddrTag b l = true) :
    (s.past i stall l).extract (s.ctx l) (!sgn) b a d = .ok (
      let y := (s.operand b l).data.toNat
      let len := min (y / 256 % 64 + 1) (64 - y % 64)
      let v := (s.operand a l).data.toNat / 2 ^ (y % 64) % 2 ^ len
      (s.past i stall l).write (s.ctx l) d ⟨BitVec.ofNat 64 (if sgn then wrap 64 (signed len v) else v), .i64⟩ .sb) := by
  simp only [Thread.extract, s.src_holds i stall h.1, s.src_holds i stall h.2, extField_eq, bind, Except.bind]
  cases sgn <;> rfl

theorem State.insert_past (h : s.holds isAddrTag a l = true ∧ s.holds isAddrTag b l = true ∧ s.holds isAddrTag d l = true) :
    (s.past i stall l).insert (s.ctx l) b a d = .ok (
      let y := (s.operand b l).data.toNat
      let len := min (y / 256 % 64 + 1) (64 - y % 64)
      let m : Word := BitVec.ofNat 64 ((2 ^ len - 1) * 2 ^ (y % 64))
      (s.past i stall l).write (s.ctx l) d
        ⟨((s.operand d l).data &&& ~~~m) ||| (((s.operand a l).data <<< (y % 64)) &&& m), .i64⟩ .sb) := by
  obtain ⟨ha, hb, hd⟩ := h
  simp only [Thread.insert, s.src_holds i stall ha, s.src_holds i stall hb, s.src_holds i stall hd, extField_eq, bind, Except.bind]

theorem State.pack2_past (op : Tag → Word → Word → Word)
    (h : s.holds isBitTag a l = true ∧ s.holds isBitTag b l = true ∧ pairAny (s.operand a l).tag (s.operand b l).tag = true) :
    (s.past i stall l).pack2 (s.ctx l) op b a d = .ok (
      let g := pairTag (s.operand a l).tag (s.operand b l).tag
      (s.past i stall l).write (s.ctx l) d ⟨op g (s.operand a l).data (s.operand b l).data, g⟩ .sb) := by
  obtain ⟨ha, hb, hpair⟩ := h
  have hlayout : layoutPack (s.operand a l) (s.operand b l) = .ok (pairTag (s.operand a l).tag (s.operand b l).tag) := if_pos hpair
  simp only [Thread.pack2, s.src_holds i stall ha, s.src_holds i stall hb, hlayout, bind, Except.bind]

/-- Settles O6: EXT and EXT.U are `extract`, PACK and UNPACK `pack2`. -/
theorem fieldAndPackComplete : Obligations.FieldAndPackComplete := by
  unfold Obligations.FieldAndPackComplete
  refine ⟨?_, ?_, ?_⟩
  · intro p hp b a d s hr h
    have hexec : exec (p.1 b a d) s = .next (s.execThread (p.1 b a d) 0 0 fun cx t => t.extract cx (!p.2) b a d) := by
      fin_cases hp <;> rfl
    exact exec_ranAll hexec hr fun l hl => State.extract_past p.2 (h l hl)
  · exact fun b a d s hr h => exec_ranAll (f := doIns b a d) rfl hr fun l hl => State.insert_past (h l hl)
  · intro p hp b a d s hr h
    have hexec : exec (p.1 b a d) s = .next (s.execThread (p.1 b a d) 0 0 fun cx t => t.pack2 cx p.2 b a d) := by
      fin_cases hp <;> rfl
    exact exec_ranAll hexec hr fun l hl => State.pack2_past p.2 (h l hl)

/-! ### Compares and mask operations -/

theorem State.cmp2_past (rel : Nat → Nat → Nat → Bool) (k : Nat)
    (h : s.canRead a l = true ∧ s.canRead b l = true ∧ pairInt (s.operand a l).tag (s.operand b l).tag = true) :
    (s.past i stall l).cmp2 (s.ctx l) rel b a k = .ok (
      let g := pairTag (s.operand a l).tag (s.operand b l).tag
      (s.past i stall l).writeK (s.ctx l) k
        (((elems g (s.operand a l).data).zip (elems g (s.operand b l).data)).all fun e => rel (tagWidth g) e.1 e.2) latInt) := by
  obtain ⟨ha, hb, hpair⟩ := h
  obtain ⟨hx, hy⟩ := isIntTag_of_pairInt hpair
  simp only [Thread.cmp2, s.src_holds i stall (State.holds_of_accepts rfl ha hx), s.src_holds i stall (State.holds_of_accepts rfl hb hy),
    layoutInt_pair hpair, bind, Except.bind]

theorem State.cmpImm_past (rel : Nat → Nat → Nat → Bool) (v : Word) (k : Nat) (h : s.holds isIntTag a l = true) :
    (s.past i stall l).cmpImm (s.ctx l) rel v a k = .ok (
      let g := (s.operand a l).tag
      (s.past i stall l).writeK (s.ctx l) k
        (((elems g (s.operand a l).data).zip (elems g (immElems g v))).all fun e => rel (tagWidth g) e.1 e.2) latInt) := by
  simp only [Thread.cmpImm, s.src_holds i stall h, bind, Except.bind]

theorem State.maskOp_past (op : Bool → Bool → Bool) (f : FRM) (h : s.canReadK f.m.toNat l = true ∧ s.canReadK f.n.toNat l = true) :
    (s.past i stall l).maskOp (s.ctx l) op f = .ok ((s.past i stall l).writeK (s.ctx l) f.k.toNat
      (op (s.maskBit f.m.toNat l) (s.maskBit f.n.toNat l)) latInt) := by
  simp only [Thread.maskOp, State.readK_past h.1, State.readK_past h.2, bind, Except.bind]

/-- Settles O7: the compares are `cmp2` and `cmpImm` with their relations, the mask operations `maskOp`. -/
theorem comparesAndMasksComplete : Obligations.ComparesAndMasksComplete := by
  unfold Obligations.ComparesAndMasksComplete
  refine ⟨?_, ?_, ?_, ?_⟩
  · intro p hp f s hr h
    have hexec : exec (p.1 f) s = .next (s.execThread (p.1 f) f.g f.s.toNat fun cx t => t.cmp2 cx p.2 f.b f.a f.k.toNat) := by
      fin_cases hp <;> rfl
    exact exec_ran hexec hr fun l hl => State.cmp2_past p.2 f.k.toNat (h l hl)
  · intro p hp v a k s hr h
    have hexec : exec (p.1 v a k) s = .next (s.execThread (p.1 v a k) 0 0 fun cx t => t.cmpImm cx p.2 (sext v) a k.toNat) := by
      fin_cases hp <;> rfl
    exact exec_ranAll hexec hr fun l hl => State.cmpImm_past p.2 (sext v) k.toNat (h l hl)
  · exact fun b d s hr h => exec_ranAll (f := doCmpltC b d) rfl hr fun l hl => State.cmp2_past ltE 1 (h l hl)
  · intro p hp f s hr h
    have hexec : exec (p.1 f) s = .next (s.execThread (p.1 f) f.g f.s.toNat fun cx t => t.maskOp cx p.2 f) := by
      fin_cases hp <;> rfl
    exact exec_ran hexec hr fun l hl => State.maskOp_past p.2 f (h l hl)

/-! ### Branches -/

theorem State.branchK_past (want : Bool) (o : BitVec 18) (k : BitVec 3) (h : s.canReadK k.toNat l = true) :
    (s.past i stall l).branchK (s.ctx l) want o k = .ok (
      if s.maskBit k.toNat l = want then { s.past i stall l with pc := s.cur.pc + o.signExtend 64 * 2, sig := 0 } else s.past i stall l) := by
  simp only [Thread.branchK, State.readK_past h, bind, Except.bind]
  rfl

theorem State.branchZ_past (want : Bool) (o : BitVec 18) (h : s.holds (fun _ => true) a l = true) :
    (s.past i stall l).branchZ (s.ctx l) want o a = .ok (
      if ((s.operand a l).data == 0) = want then { s.past i stall l with pc := s.cur.pc + o.signExtend 64 * 2, sig := 0 }
      else s.past i stall l) := by
  simp only [Thread.branchZ, s.src_holds i stall h, bind, Except.bind]
  rfl

/-- Settles O10: BK and BNK are `branchK`, BZ and BNZ `branchZ`; CALL and JALR write the link and go to their target. -/
theorem branchesComplete : Obligations.BranchesComplete := by
  unfold Obligations.BranchesComplete
  refine ⟨?_, ?_, ?_, ?_, ?_⟩
  · exact fun o s hr => exec_ranAll (f := doBra o) rfl hr fun l _ => rfl
  · intro p hp o k s hr h
    have hexec : exec (p.1 o k) s = .next (s.execThread (p.1 o k) 0 0 fun cx t => t.branchK cx p.2 o k) := by
      fin_cases hp <;> rfl
    exact exec_ranAll hexec hr fun l hl => State.branchK_past p.2 o k (h l hl)
  · intro p hp o c s hr h
    have hexec : exec (p.1 o c) s = .next (s.execThread (p.1 o c) 0 0 fun cx t => t.branchZ cx p.2 o c) := by
      fin_cases hp <;> rfl
    exact exec_ranAll hexec hr fun l hl => State.branchZ_past p.2 o (h l hl)
  · exact fun o c s hr => exec_ranAll (f := doCall o c) rfl hr fun l _ => rfl
  · intro v a d s hr h
    refine exec_ranAll (f := doJalr v a d) rfl hr fun l hl => ?_
    simp only [doJalr, s.src_holds _ 0 (h l hl), bind, Except.bind]
    rfl

end Sys2Proof.Machine
end

section
/-!
SUPPORT for O8 and O9. Float operands that pair (R44, R45), the float operations of two and of three registers (R80-R83, R87, R88), and
conversions (R84, R85).
-/
namespace Sys2Proof.Machine

variable {s : State} {i : Instr} {stall l : Nat} {a b d : RegCode}

/-! ### Float operands that pair -/

theorem floatTag_eq_head (ts : List Tag) : floatTag ts = ((ts.filter (· != .raw64)).head?).getD .raw64 := by
  rw [floatTag, List.head?_filter]

theorem floatSrc_of_pairFloat {ts : List Tag} (h : pairFloat ts = true) {t : Tag} (ht : t ∈ ts) : floatSrc t = true := by
  simp only [pairFloat, Bool.and_eq_true, List.all_eq_true, Bool.or_eq_true, beq_iff_eq] at h
  obtain ⟨hfloat, hall⟩ := h
  rcases hall t ht with e | e
  · rw [e]; rfl
  · rw [floatSrc, e, hfloat]; rfl

theorem forM_need_ok {ok : Tag → Bool} {rs : List Reg} (h : ∀ r ∈ rs, need ok r = .ok ()) : rs.forM (need ok) = .ok () := by
  induction rs with
  | nil => rfl
  | cons r rs ih =>
    rw [List.forM_eq_forM, List.forM_cons, h r (by simp)]
    exact ih fun x hx => h x (by simp [hx])

theorem need_floatSrc {r : Reg} (h : floatSrc r.tag = true) : need floatSrc r = .ok () := by
  have hne : r.tag ≠ .poison := fun e => by simp [e, floatSrc, isFloatTag] at h
  rw [need, if_neg hne, if_pos h]

/-- Float operands that pair have the layout of the one float tag among them (R44, R45). -/
theorem layoutFloat_pair {rs : List Reg} (h : pairFloat (rs.map (·.tag)) = true) : layoutFloat rs = .ok (floatTag (rs.map (·.tag))) := by
  have hneed : rs.forM (need fun t => isFloatTag t || t == .raw64) = .ok () :=
    forM_need_ok fun r hr => need_floatSrc (floatSrc_of_pairFloat h (List.mem_map_of_mem hr))
  simp only [pairFloat, Bool.and_eq_true, List.all_eq_true, Bool.or_eq_true, beq_iff_eq] at h
  obtain ⟨hfloat, hall⟩ := h
  have htag := floatTag_eq_head (rs.map (·.tag))
  simp only [layoutFloat, hneed, bind, Except.bind]
  cases hts : (rs.map (·.tag)).filter (· != .raw64) with
  | nil =>
    rw [htag, hts] at hfloat
    exact absurd hfloat Bool.false_ne_true
  | cons t ts =>
    rw [hts] at htag
    have hrest : ts.all (· == t) = true := List.all_eq_true.mpr fun u hu => by
      have hmem : u ∈ (rs.map (·.tag)).filter (· != .raw64) := by simp [hts, hu]
      obtain ⟨hin, hraw⟩ := List.mem_filter.mp hmem
      exact beq_iff_eq.mpr (((hall u hin).resolve_left (bne_iff_ne.mp hraw)).trans htag)
    simp only [hrest, if_true, htag, List.head?_cons, Option.getD_some]

/-- A float operand of a set that pairs is read. -/
theorem State.src_float {ts : List Tag} {c : RegCode} (hread : s.canRead c l = true) (h : pairFloat ts = true) (hmem : (s.operand c l).tag ∈ ts) :
    (s.past i stall l).src (s.ctx l) floatSrc c = .ok (s.operand c l) :=
  s.src_holds i stall (State.holds_of_accepts rfl hread (floatSrc_of_pairFloat h hmem))

/-! ### Arithmetic -/

theorem State.float2_past (op : Fmt → Rm → Nat → Nat → Nat × Flags) (lat : Lat)
    (h : s.canRead a l = true ∧ s.canRead b l = true ∧ pairFloat [(s.operand a l).tag, (s.operand b l).tag] = true) :
    (s.past i stall l).float2 (s.ctx l) op b a d lat = .ok (
      let g := floatTag [(s.operand a l).tag, (s.operand b l).tag]
      let t := s.past i stall l
      t.writeF (s.ctx l) d g (floatElems g ((elems g (s.operand a l).data).zipWith (op (fmtOf g) t.rm) (elems g (s.operand b l).data))) lat) := by
  obtain ⟨ha, hb, hpair⟩ := h
  have hlayout : layoutFloat [s.operand a l, s.operand b l] = _ := layoutFloat_pair hpair
  simp only [Thread.float2, State.src_float ha hpair (by simp), State.src_float hb hpair (by simp), hlayout, bind, Except.bind, List.map_cons, List.map_nil]

theorem State.float3_past (minus : Bool)
    (h : s.canRead a l = true ∧ s.canRead b l = true ∧ s.canRead d l = true ∧
      pairFloat [(s.operand a l).tag, (s.operand b l).tag, (s.operand d l).tag] = true) :
    (s.past i stall l).float3 (s.ctx l) minus b a d = .ok (
      let g := floatTag [(s.operand a l).tag, (s.operand b l).tag, (s.operand d l).tag]
      let t := s.past i stall l
      t.writeF (s.ctx l) d g (fusedElems g t.rm minus (s.operand a l).data (s.operand b l).data (s.operand d l).data) latFp) := by
  obtain ⟨ha, hb, hd, hpair⟩ := h
  have hlayout : layoutFloat [s.operand a l, s.operand b l, s.operand d l] = _ := layoutFloat_pair hpair
  simp only [Thread.float3, State.src_float ha hpair (by simp), State.src_float hb hpair (by simp), State.src_float hd hpair (by simp), hlayout,
    bind, Except.bind, List.map_cons, List.map_nil, fusedElems]

/-- Settles O8: the operations of two registers are `float2`, the fused ones `float3`. -/
theorem floatArithmeticCompletes : Obligations.FloatArithmeticCompletes := by
  unfold Obligations.FloatArithmeticCompletes
  refine ⟨?_, ?_, ?_, ?_, ?_⟩
  · intro p hp f s hr h
    have hexec : exec (p.1 f) s = .next (s.execThread (p.1 f) f.g f.s.toNat fun cx t => t.float2 cx p.2 f.b f.a f.d latFp) := by
      fin_cases hp <;> rfl
    exact exec_ran hexec hr fun l hl => State.float2_past p.2 latFp (h l hl)
  · intro p hp b d s hr h
    have hexec : exec (p.1 b d) s = .next (s.execThread (p.1 b d) 0 0 fun cx t => t.float2 cx p.2 (cReg b) d d latFp) := by
      fin_cases hp <;> rfl
    exact exec_ranAll hexec hr fun l hl => State.float2_past p.2 latFp (h l hl)
  · intro p hp b a d s hr h
    have hexec : exec (p.1 b a d) s = .next (s.execThread (p.1 b a d) 0 0 fun cx t => t.float2 cx p.2 b a d .sb) := by
      fin_cases hp <;> rfl
    exact exec_ranAll hexec hr fun l hl => State.float2_past p.2 .sb (h l hl)
  · intro p hp f s hr h
    have hexec : exec (p.1 f) s = .next (s.execThread (p.1 f) f.g f.s.toNat fun cx t => t.float3 cx p.2 f.b f.a f.d) := by
      fin_cases hp <;> rfl
    exact exec_ran hexec hr fun l hl => State.float3_past p.2 (h l hl)
  · exact fun b d s hr h => exec_ranAll (f := doFmao b d) rfl hr fun l hl => State.float3_past false (h l hl)

/-! ### Unary operations and compares -/

/-- One float source under an operation that may look at the thread's rounding mode. -/
theorem State.float1_past (op : Thread → Fmt → Nat → Nat × Flags) (h : s.holds isFloatTag a l = true) :
    (s.past i stall l).float1 (s.ctx l) (op (s.past i stall l)) a d = .ok (
      let g := (s.operand a l).tag
      let t := s.past i stall l
      t.writeF (s.ctx l) d g (floatElems g ((elems g (s.operand a l).data).map (op t (fmtOf g)))) .sb) := by
  simp only [Thread.float1, s.src_holds i stall h, bind, Except.bind]

theorem State.classify_past (h : s.holds isFloatTag a l = true) :
    (s.past i stall l).classify (s.ctx l) a d = .ok (
      let g := (s.operand a l).tag
      let f := fmtOf g
      (s.past i stall l).write (s.ctx l) d ⟨mapElems g (fun _ e => (f.decode e).fclass f e) (s.operand a l).data,
        if g = .f64 then .i64 else if g = .f32x2 then .i32x2 else .i16x4⟩ .sb) := by
  simp only [Thread.classify, s.src_holds i stall h, bind, Except.bind]
  cases (s.operand a l).tag <;> rfl

theorem State.fcmp_past (rel : FVal → FVal → Bool) (quiet : Bool) (f : FRK)
    (h : s.canRead f.a l = true ∧ s.canRead f.b l = true ∧ pairFloat [(s.operand f.a l).tag, (s.operand f.b l).tag] = true) :
    (s.past i stall l).fcmp (s.ctx l) rel quiet f = .ok (
      let g := floatTag [(s.operand f.a l).tag, (s.operand f.b l).tag]
      let es := ((elems g (s.operand f.a l).data).map (fmtOf g).decode).zip ((elems g (s.operand f.b l).data).map (fmtOf g).decode)
      ((s.past i stall l).writeK (s.ctx l) f.k.toNat (es.all fun e => rel e.1 e.2) latFp).raise
        (if es.any fun e => if quiet then e.1.isSig || e.2.isSig else e.1.isNan || e.2.isNan then flagNV else 0)) := by
  obtain ⟨ha, hb, hpair⟩ := h
  have hlayout : layoutFloat [s.operand f.a l, s.operand f.b l] = _ := layoutFloat_pair hpair
  simp only [Thread.fcmp, State.src_float ha hpair (by simp), State.src_float hb hpair (by simp), hlayout, bind, Except.bind, List.map_cons, List.map_nil]

/-! ### Conversions -/

theorem Thread.writeF_draw (t : Thread) (cx : Ctx) (d : RegCode) (g : Tag) (r : Word × Flags) (lat : Lat) : (t.writeF cx d g r lat).draw = t.draw := by
  rw [Thread.writeF, Thread.write_frame]
  rfl

/-- What a conversion of `v` makes of the thread, once its operands are read: `o1` holds the scale, `old` what stood in d (R85). -/
def Thread.converted (t : Thread) (cx : Ctx) (g : Tag) (u : Bool) (x m : BitVec 3) (d : RegCode) (v o1 old : Reg) : Thread :=
  let mode := t.rmCode m
  let n := if tagCount v.tag < tagCount g then tagCount v.tag else tagCount g
  let part := if tagCount g < tagCount v.tag then x.toNat * tagCount g else 0
  let rnd := fun k => (t.block cx (k / 8)).toNat / 2 ^ (16 * (k % 8)) % 65536
  let rs := (List.range n).map fun k =>
    convElem v.tag g u mode x (o1.data.toNat % 256) (if mode = .sr then rnd k else 0) (elem v.data (tagWidth v.tag) (part + k))
  let new := ofElems (tagWidth g) (rs.map (·.1))
  let data := if tagCount v.tag < tagCount g then
    (old.data >>> (tagCount v.tag * tagWidth g)) ||| (new <<< ((tagCount g - tagCount v.tag) * tagWidth g)) else new
  let t' := t.writeF cx d g (data, rs.foldl (fun fl r => fl ||| r.2) 0) .sb
  if mode = .sr ∧ srDest g = true ∧ cvtExact v.tag g = false then { t' with draw := t.draw + BitVec.ofNat 32 ((n + 7) / 8) } else t'

/-- A conversion outside an INV routine whose operands are read: o1 where E2M1 takes part, the old d where it has more elements than the source. -/
theorem Thread.convert_of_read {t : Thread} {cx : Ctx} {g : Tag} {u : Bool} {x m : BitVec 3} {v o1 old : Reg} (hroutine : cx.routine = false)
    (hv : t.src cx (cvtAccepts g) a = .ok v) (haux : auxFits v.tag g x = true)
    (hscale : v.tag = .e2m1x16 ∨ g = .e2m1x16 → t.src cx (· == .scale) 57 = .ok o1)
    (hold : tagCount v.tag < tagCount g → t.src cx (fun _ => true) d = .ok old) :
    t.convert cx g u x m a d = .ok (t.converted cx g u x m d v (if v.tag = .e2m1x16 ∨ g = .e2m1x16 then o1 else Reg.zero)
      (if tagCount v.tag < tagCount g then old else Reg.zero)) := by
  by_cases hs : v.tag = .e2m1x16 ∨ g = .e2m1x16 <;> by_cases hn : tagCount v.tag < tagCount g <;>
    simp only [Thread.convert, Thread.converted, hv, haux, hroutine, hs, hn, hscale, hold, if_true, if_false, bind, Except.bind, Bool.or_eq_true,
      beq_iff_eq, Bool.false_eq_true, Bool.and_eq_true, Bool.not_eq_true', and_assoc]

theorem Thread.withDraw_if (u : Thread) (p : Prop) [Decidable p] {n k : BitVec 32} (h : u.draw = k) :
    (if p then { u with draw := n } else u) = { u with draw := if p then n else k } := by
  subst h
  split <;> rfl

/-- What a lane holds where it may convert a to a tag (R84). -/
def State.canConvert (s : State) (g : Tag) (x : BitVec 3) (a d : RegCode) (l : Nat) : Prop :=
  s.holds (cvtAccepts g) a l = true ∧ auxFits (s.operand a l).tag g x = true ∧
    ((s.operand a l).tag = .e2m1x16 ∨ g = .e2m1x16 → s.holds (· == .scale) 57 l = true) ∧
    (tagCount (s.operand a l).tag < tagCount g → s.holds (fun _ => true) d l = true)

/-- The conversion of a lane, with the scale byte and the old elements where they enter (R85). -/
theorem State.convert_past {g : Tag} {u : Bool} {x m : BitVec 3} (h : s.canConvert g x a d l) :
    (s.past i stall l).convert (s.ctx l) g u x m a d = .ok (
      let src := s.operand a l
      let n := min (tagCount src.tag) (tagCount g)
      let part := if tagCount g < tagCount src.tag then x.toNat * tagCount g else 0
      let t := s.past i stall l
      let mode := t.rmCode m
      let rnd := fun k => (t.block (s.ctx l) (k / 8)).toNat / 2 ^ (16 * (k % 8)) % 65536
      let rs := (List.range n).map fun k => convElem src.tag g u mode x
        (if src.tag = .e2m1x16 ∨ g = .e2m1x16 then (s.operand 57 l).data.toNat % 256 else 0) (if mode = .sr then rnd k else 0)
        (elem src.data (tagWidth src.tag) (part + k))
      let new := ofElems (tagWidth g) (rs.map (·.1))
      let data := if tagCount src.tag < tagCount g then ((s.operand d l).data >>> (n * tagWidth g)) |||
        (new <<< ((tagCount g - n) * tagWidth g)) else new
      { t.writeF (s.ctx l) d g (data, rs.foldl (fun fl r => fl ||| r.2) 0) .sb with
        draw := if mode = .sr ∧ srDest g = true ∧ cvtExact src.tag g = false then t.draw + BitVec.ofNat 32 ((n + 7) / 8)
          else t.draw }) := by
  obtain ⟨ha, haux, hscale, hold⟩ := h
  rw [Thread.convert_of_read rfl (s.src_holds i stall ha) haux (fun hs => s.src_holds i stall (hscale hs)) fun hn => s.src_holds i stall (hold hn)]
  have he8 (p : Prop) [Decidable p] (r : Reg) : (if p then r else Reg.zero).data.toNat % 256 = if p then r.data.toNat % 256 else 0 := by
    split <;> rfl
  refine congrArg Except.ok ?_
  by_cases hn : tagCount (s.operand a l).tag < tagCount g
  · simp only [Thread.converted, he8, hn, if_true, Nat.min_eq_left (Nat.le_of_lt hn)]
    exact Thread.withDraw_if _ _ (Thread.writeF_draw ..)
  · simp only [Thread.converted, he8, hn, if_false, Nat.min_eq_right (Nat.not_lt.mp hn)]
    exact Thread.withDraw_if _ _ (Thread.writeF_draw ..)

/-- Settles O9: FSQRT, FRINT, FABS and FNEG are `float1`, the compares `fcmp`, the conversions `convert` to their tag. -/
theorem floatUnaryAndConversionsComplete : Obligations.FloatUnaryAndConversionsComplete := by
  unfold Obligations.FloatUnaryAndConversionsComplete
  refine ⟨?_, ?_, ?_, ?_, ?_⟩
  · intro p hp r a d s hr h
    have hexec : exec (p.1 r a d) s = .next (s.execThread (p.1 r a d) 0 0 fun cx t => t.float1 cx (fun f => p.2 f (t.rmCode r).plain) a d) := by
      fin_cases hp <;> rfl
    exact exec_ranAll hexec hr fun l hl => State.float1_past (fun t f => p.2 f (t.rmCode r).plain) (h l hl)
  · intro p hp a d s hr h
    have hexec : exec (p.1 a d) s = .next (s.execThread (p.1 a d) 0 0 fun cx t => t.float1 cx p.2 a d) := by
      fin_cases hp <;> rfl
    exact exec_ranAll hexec hr fun l hl => State.float1_past (fun _ => p.2) (h l hl)
  · exact fun a d s hr h => exec_ranAll (f := doFclass a d) rfl hr fun l hl => State.classify_past (h l hl)
  · intro p hp f s hr h
    have hexec : exec (p.1 f) s = .next (s.execThread (p.1 f) f.g f.s.toNat fun cx t => t.fcmp cx p.2.1 p.2.2 f) := by
      fin_cases hp <;> rfl
    exact exec_ran hexec hr fun l hl => State.fcmp_past p.2.1 p.2.2 f (h l hl)
  · intro p hp x m a d s hr h
    have hexec : exec (p.1 x m a d) s = .next (s.execThread (p.1 x m a d) 0 0 fun cx t => t.convert cx p.2.1 p.2.2 x m a d) := by
      fin_cases hp <;> rfl
    exact exec_ranAll hexec hr fun l hl => State.convert_past (h l hl)

end Sys2Proof.Machine
end

section
/-!
SUPPORT for O12 and O13. Loads and stores outside enumerated regions (R92-R94, R235-R241): the lanes run one after another, and what a lane has
changed (its thread, the numbering of accesses, the loads that are open and the writes under way) leaves the operands and the checks of the lanes
above it as they were.
-/
namespace Sys2Proof.Machine

variable {s st : State} {i : Instr} {l : Nat} {rest : List Nat} {a b d : RegCode} {q : BitVec 2} {o : BitVec 10} {size : Nat}

/-! ### A lane's access, as the other lanes see it -/

/-- A thread replaced, accesses numbered up to `n`, and other loads open and writes under way. -/
def State.accessed (s : State) (q l : Nat) (t : Thread) (n : Nat) (rs : List Read) (ws : List Write) : State :=
  { s.setThread q l t with seq := n, mem := { s.mem with reads := rs, writes := ws } }

/-- The lanes still to run find what they would have found in `s`: other lanes have accessed memory, and nothing else has happened. -/
structure SameAccess (s : State) (ls : List Nat) (st : State) : Prop where
  nodup : ls.Nodup
  frame : ∃ m n rs ws, st = { s with squads := m, seq := n, mem := { s.mem with reads := rs, writes := ws } }
  bound : (st.squad? s.cur.q).isSome = true
  thread : ∀ l ∈ ls, st.thread s.cur.q l = s.thread s.cur.q l
  ctx : ∀ l ∈ ls, st.ctx l = s.ctx l

theorem SameAccess.refl (h : (s.squad? s.cur.q).isSome = true) : SameAccess s s.lanes s :=
  ⟨lanesOf_nodup _, ⟨s.squads, s.seq, s.mem.reads, s.mem.writes, rfl⟩, h, fun _ _ => rfl, fun _ _ => rfl⟩

theorem SameAccess.cur {ls : List Nat} (h : SameAccess s ls st) : st.cur = s.cur := by
  obtain ⟨m, n, rs, ws, rfl⟩ := h.frame
  rfl

/-- The lanes above one that has accessed memory still find what they would have found. -/
theorem SameAccess.next (h : SameAccess s (l :: rest) st) (t : Thread) (n : Nat) (rs : List Read) (ws : List Write) :
    SameAccess s rest (st.accessed s.cur.q l t n rs ws) := by
  obtain ⟨hl, nodup⟩ := List.nodup_cons.mp h.nodup
  have ne : ∀ k ∈ rest, k ≠ l := fun k hk e => hl (e ▸ hk)
  refine ⟨nodup, ?_, ?_, fun k hk => ?_, fun k hk => ?_⟩
  · obtain ⟨m, n', rs', ws', hst⟩ := h.frame
    refine ⟨(st.setThread s.cur.q l t).squads, n, rs, ws, ?_⟩
    rw [State.accessed, State.setThread_squads, hst]
  · exact (State.setThread_isSome st s.cur.q s.cur.q l t).trans h.bound
  · exact (State.thread_setThread_lane st _ _ t (ne k hk)).trans (h.thread k (by simp [hk]))
  · exact (State.ctx_setThread st _ t (ne k hk)).trans (h.ctx k (by simp [hk]))

theorem SameAccess.past (h : SameAccess s (l :: rest) st) : st.past i 0 l = s.past i 0 l := by
  rw [State.past, State.th, h.cur, h.thread l (by simp), h.ctx l (by simp)]
  rfl

/-- A set that may run an unguarded instruction still may, once lanes below have accessed memory. -/
theorem SameAccess.ready (h : SameAccess s (l :: rest) st) (hr : s.ready i 0 = true) : st.ready i 0 = true := by
  obtain ⟨_, hadmit, _⟩ := (s.ready_iff i 0).mp hr
  refine (st.ready_iff i 0).mpr ⟨h.cur ▸ h.bound, ?_, fun _ _ => rfl⟩
  rw [admitted_lane st i 0 l, h.ctx l (by simp), admitted_lane s i l 0, hadmit]

/-- The turn of a lane of such a set. -/
theorem SameAccess.laneStep {f : Ctx → State → Except Trap State} {u : State} (h : SameAccess s (l :: rest) st) (hr : s.ready i 0 = true)
    (hf : f (s.ctx l) (st.setThread s.cur.q l (s.past i 0 l)) = .ok u) : st.laneStep i 0 0 f l = .ok u := by
  refine st.laneStep_ok i 0 f (h.ready hr) ?_
  rw [h.ctx l (by simp), h.cur, h.past, hf]

/-- What an access is checked against is not changed by lanes that have accessed memory. -/
theorem SameAccess.locate {ls : List Nat} (h : SameAccess s ls st) (k : Nat) (t : Thread) (cx : Ctx) (op : AddrOp) (nd : Need) (size : Nat) :
    (st.setThread s.cur.q k t).locate cx op nd size = s.locate cx op nd size := by
  obtain ⟨m, n, rs, ws, rfl⟩ := h.frame
  rw [State.locate_setThread]
  rfl

/-- Lanes that access memory one after another; the state that they leave each other satisfies `J`. -/
theorem State.execLanes_access (hr : s.ready i 0 = true) {f : Ctx → State → Except Trap State} (F : Nat → State → State) (J : State → Prop) (hJ : J s)
    (step : ∀ l ∈ s.lanes, ∀ rest st, SameAccess s (l :: rest) st → J st →
      f (s.ctx l) (st.setThread s.cur.q l (s.past i 0 l)) = .ok (F l st) ∧ J (F l st) ∧ ∃ t n rs ws, F l st = st.accessed s.cur.q l t n rs ws) :
    s.execLanes i 0 0 f = s.lanes.foldl (fun st l => F l st) s := by
  refine s.execLanes_fold i 0 0 f F (fun ls st => SameAccess s ls st ∧ J st ∧ ∀ l ∈ ls, l ∈ s.lanes)
    ⟨SameAccess.refl ((s.ready_iff i 0).mp hr).1, hJ, fun _ h => h⟩ ?_
  rintro l rest st ⟨hsame, hj, hin⟩
  obtain ⟨hf, hj', t, n, rs, ws, hF⟩ := step l (hin l (by simp)) rest st hsame hj
  exact ⟨hsame.laneStep hr hf, hF ▸ hsame.next t n rs ws, hj', fun k hk => hin k (by simp [hk])⟩

/-! ### Threads behind the numbering of accesses -/

theorem State.setThread_numbered (s : State) (q l : Nat) (t : Thread) (n : Nat) (m : Mem) :
    ({ s with seq := n, mem := m } : State).setThread q l t = { s.setThread q l t with seq := n, mem := m } := by
  cases hq : s.squad? q with
  | none =>
    have hn : ({ s with seq := n, mem := m } : State).squad? q = none := hq
    rw [State.setThread, State.setThread, State.modSquad_none _ q _ hn, State.modSquad_none s q _ hq]
  | some sq =>
    have hn : ({ s with seq := n, mem := m } : State).squad? q = some sq := hq
    rw [State.setThread, State.setThread, State.modSquad_some _ q _ hn, State.modSquad_some s q _ hq]
    rfl

/-- A thread that has been replaced is changed, after accesses have been numbered. -/
theorem State.modThread_accessed {q l : Nat} (hb : (s.squad? q).isSome = true) (t : Thread) (n : Nat) (rs : List Read) (ws : List Write) (f : Thread → Thread) :
    (s.accessed q l t n rs ws).modThread q l f = s.accessed q l (f t) n rs ws := by
  have ht : (s.accessed q l t n rs ws).thread q l = t := State.thread_setThread_same s q l t hb
  rw [State.modThread, ht, State.accessed, State.setThread_numbered, State.setThread_setThread, State.accessed]

/-- Fixing loads changes which loads are open. -/
theorem State.fixReads_accessed (q l : Nat) (t : Thread) (f : Read → Nat) :
    ∃ rs, (s.setThread q l t).fixReads f = s.accessed q l t s.seq rs s.mem.writes := by
  rw [State.fixReads, State.setThread_mem]
  split
  · refine ⟨s.mem.reads, ?_⟩
    rw [State.accessed, ← State.setThread_seq s q l t, ← State.setThread_mem s q l t]
  · refine ⟨s.mem.reads.filterMap fun r => r.fixedAt (f r), ?_⟩
    rw [State.accessed, ← State.setThread_seq s q l t]

/-! ### Loads -/

/-- Outside an ENUM region a load returns what stands in memory, and no flip that waits is found. -/
theorem State.loadBytes_plain {addr : Word} {loc : Loc} {cx : Ctx} (n : Nat) (hlatent : s.mem.latent = []) (hregion : cx.region ≠ 1) :
    s.loadBytes cx addr loc n = ((s.readLoc cx loc n).1, (s.readLoc cx loc n).2, s) := by
  have hnote (p : Place) : s.noteRead p = s := State.noteRead_noFlip (by rw [hlatent]; rfl)
  unfold State.loadBytes
  cases loc.place with
  | none => simp only [if_neg hregion]
  | some p => simp only [hnote, if_neg hregion]

/-- What a load that nothing holds up does (R92, R241): its value is read and noted, and d receives it when the load is performed. -/
theorem finishLoad_free {f : LoadForm} {addr : Word} {loc : Loc} {cx : Ctx} (hfree : s.loadFree cx loc (loadKind cx f.q) f.size = true)
    (hlatent : s.mem.latent = []) (hregion : cx.region ≠ 1) :
    finishLoad i f addr loc cx s = (s.noteLoad cx loc (loadKind cx f.q) f.size f.sgn f.tag).modThread cx.q cx.lane fun t =>
      t.write cx f.d (loadResult f.sgn f.tag (s.readLoc cx loc f.size).1 (s.readLoc cx loc f.size).2) (.mem s.seq) := by
  simp only [finishLoad, s.bring_loadFree cx loc _ _ hfree, State.loadBytes_plain f.size hlatent hregion, Bool.not_true, Bool.false_eq_true, if_false]

theorem State.noteLoad_accessed (q l : Nat) (t : Thread) (cx : Ctx) (loc : Loc) (k : LoadKind) (size : Nat) (sgn : Bool) (g : Tag) :
    ∃ rs, (s.setThread q l t).noteLoad cx loc k size sgn g = s.accessed q l t (s.seq + 1) rs s.mem.writes := by
  rw [State.noteLoad, State.fixOwn]
  obtain ⟨rs, hrs⟩ := s.fixReads_accessed q l t fun x => if x.by_ == cx.ref && x.lane == cx.lane then x.keeps loc size 0 else 0
  rw [hrs]
  exact ⟨_, rfl⟩

theorem State.tookLoad_accessed (hb : (s.squad? s.cur.q).isSome = true) (loc : Loc) (k : LoadKind) (sgn : Bool) (g : Tag) (r : Reg) :
    ∃ t n rs, s.tookLoad i l loc k size sgn g d r = s.accessed s.cur.q l t n rs s.mem.writes := by
  obtain ⟨rs, hrs⟩ := s.noteLoad_accessed s.cur.q l (s.past i 0 l) (s.ctx l) loc k size sgn g
  exact ⟨_, _, rs, by rw [State.tookLoad, hrs, State.modThread_accessed hb]⟩

/-- A lane past its instruction reads what it would have read at first, where the lanes below it have written nothing. -/
theorem SameAccess.readLoc (h : SameAccess s (l :: rest) st) (hw : st.mem.writes = s.mem.writes) (loc : Loc) (n : Nat) :
    (st.setThread s.cur.q l (s.past i 0 l)).readLoc (s.ctx l) loc n = s.readLoc (s.ctx l) loc n := by
  have hth : (st.setThread s.cur.q l (s.past i 0 l)).thread (s.ctx l).q (s.ctx l).lane = s.past i 0 l :=
    State.thread_setThread_same st _ _ _ h.bound
  cases loc with
  | stack off => simp only [State.readLoc, Loc.place, hth]; rfl
  | dram pa key job va lf =>
    obtain ⟨m, n, rs, ws, rfl⟩ := h.frame
    obtain rfl : ws = s.mem.writes := hw
    rw [State.setThread_squads]
    rfl
  | scratch lid c off =>
    obtain ⟨m, n, rs, ws, rfl⟩ := h.frame
    obtain rfl : ws = s.mem.writes := hw
    rw [State.setThread_squads]
    rfl

theorem SameAccess.loadFree (h : SameAccess s (l :: rest) st) (hw : st.mem.writes = s.mem.writes) (t : Thread) (cx : Ctx) (loc : Loc) (k : LoadKind) (n : Nat) :
    (st.setThread s.cur.q l t).loadFree cx loc k n = s.loadFree cx loc k n := by
  obtain ⟨m, n, rs, ws, rfl⟩ := h.frame
  obtain rfl : ws = s.mem.writes := hw
  rw [State.loadFree_setThread]
  rfl

theorem SameAccess.latent {ls : List Nat} (h : SameAccess s ls st) : st.mem.latent = s.mem.latent := by
  obtain ⟨m, n, rs, ws, rfl⟩ := h.frame
  rfl

/-- The loads of a set whose operands are read and whose checks pass, none of which must follow an outstanding write. -/
theorem State.execLanes_load {f : LoadForm} {opnd : Ctx → Thread → Except Trap AddrOp} (op : Nat → AddrOp) (loc : Nat → Word × Loc) (hr : s.ready i 0 = true)
    (hlatent : s.mem.latent = [])
    (h : ∀ l ∈ s.lanes, opnd (s.ctx l) (s.past i 0 l) = .ok (op l) ∧ (s.ctx l).region ≠ 1 ∧ s.locate (s.ctx l) (op l) .load f.size = .ok (loc l) ∧
      s.loadFree (s.ctx l) (loc l).2 (loadKind (s.ctx l) f.q) f.size = true) :
    s.execLanes i 0 0 (loadLane i opnd f) = s.oneByOne fun l st => st.tookLoad i l (loc l).2 (loadKind (s.ctx l) f.q) f.size f.sgn f.tag f.d
      (loadResult f.sgn f.tag (s.readLoc (s.ctx l) (loc l).2 f.size).1 (s.readLoc (s.ctx l) (loc l).2 f.size).2) := by
  refine State.execLanes_access hr _ (fun st => st.mem.writes = s.mem.writes) rfl fun l hl rest st hsame hw => ?_
  obtain ⟨hop, hregion, hloc, hfree⟩ := h l hl
  have hb : (st.squad? st.cur.q).isSome = true := hsame.cur ▸ hsame.bound
  obtain ⟨t, n, rs, htook⟩ := st.tookLoad_accessed (i := i) (l := l) (size := f.size) (d := f.d) hb (loc l).2 (loadKind (s.ctx l) f.q) f.sgn f.tag
    (loadResult f.sgn f.tag (s.readLoc (s.ctx l) (loc l).2 f.size).1 (s.readLoc (s.ctx l) (loc l).2 f.size).2)
  refine ⟨?_, by rw [htook]; exact hw, t, n, rs, st.mem.writes, by rw [htook, hsame.cur]⟩
  have hth : (st.setThread s.cur.q l (s.past i 0 l)).thread (s.ctx l).q (s.ctx l).lane = s.past i 0 l :=
    State.thread_setThread_same st _ _ _ hsame.bound
  have hfree' := (hsame.loadFree hw (s.past i 0 l) (s.ctx l) (loc l).2 (loadKind (s.ctx l) f.q) f.size).trans hfree
  have hlatent' : (st.setThread s.cur.q l (s.past i 0 l)).mem.latent = [] := by
    rw [State.setThread_mem, hsame.latent, hlatent]
  simp only [loadLane, hth, hop, hsame.locate, hloc, bind, Except.bind, finishLoad_free hfree' hlatent' hregion, hsame.readLoc hw, State.setThread_seq]
  rw [State.tookLoad, hsame.cur, hsame.past, hsame.ctx l (by simp)]
  rfl

/-! ### Operands -/

/-- The address operands of an F-M form that a lane holds (R92, R235, R237). -/
theorem State.addrFM_past (h : s.holdsFM q b l = true) :
    (s.past i 0 l).addrFM (s.ctx l) q o b size = .ok (s.accessFM q o b size l) := by
  by_cases hq : q = 3
  · simp only [State.holdsFM, if_pos hq, Bool.and_eq_true] at h
    simp only [Thread.addrFM, State.accessFM, if_pos hq, s.src_holds i 0 h.1, s.src_holds i 0 h.2, bind, Except.bind]
  · simp only [State.holdsFM, if_neg hq] at h
    simp only [Thread.addrFM, State.accessFM, if_neg hq, s.src_holds i 0 h, bind, Except.bind, sext]

/-- The C forms: the base itself (R79). -/
theorem State.addrC_past (h : s.holds isAddrTag b l = true) :
    (s.past i 0 l).addrFM (s.ctx l) 0 0 b 8 = .ok (.plain (s.operand b l).data) := by
  have hoff : (s.operand b l).data + sext (0 : BitVec 10) * BitVec.ofNat 64 8 = (s.operand b l).data := by simp [sext]
  have hq : (0 : BitVec 2) ≠ 3 := by decide
  simp only [Thread.addrFM, if_neg hq, s.src_holds i 0 h, bind, Except.bind, hoff]

/-- The address operands of LDT (R240). -/
theorem State.addrLDT_past (hb : s.holds isAddrTag b l = true) (ha : s.holds (fun g => if q = 3 then g == .view else isAddrTag g) a l = true) :
    (s.past i 0 l).addrLDT (s.ctx l) q b a = .ok (if q = 3 then .view (s.operand a l) (s.operand b l).data.toNat
      else .plain ((s.operand a l).data + (s.operand b l).data)) := by
  by_cases hq : q = 3
  · simp only [if_pos hq] at ha
    simp only [Thread.addrLDT, if_pos hq, s.src_holds i 0 ha, s.src_holds i 0 hb, bind, Except.bind]
  · simp only [if_neg hq] at ha
    simp only [Thread.addrLDT, if_neg hq, s.src_holds i 0 ha, s.src_holds i 0 hb, bind, Except.bind]

/-- Settles O12: every load form is `loadLane` with its operands; no lane's load changes what the lanes above it read. -/
theorem loadsComplete : Obligations.LoadsComplete := by
  unfold Obligations.LoadsComplete
  refine ⟨?_, ?_, ?_⟩
  · intro p hp q o b d s loc hr hlatent h
    have hexec : exec (p.1 q o b d) s = .next (s.execLanes (p.1 q o b d) 0 0
        (loadLane (p.1 q o b d) (fun cx t => t.addrFM cx q o b p.2.1) ⟨q, p.2.1, p.2.2.1, p.2.2.2, d⟩)) := by
      fin_cases hp <;> rfl
    rw [hexec, State.execLanes_load (s.accessFM q o b p.2.1) loc hr hlatent fun l hl => ⟨State.addrFM_past (h l hl).1, (h l hl).2⟩]
  · intro b d s loc hr hlatent h
    exact congrArg Host.Outcome.next (State.execLanes_load (f := ⟨0, 8, false, .raw64, d⟩) (fun l => .plain (s.operand (cReg b) l).data) loc hr hlatent
      fun l hl => ⟨State.addrC_past (h l hl).1, (h l hl).2⟩)
  · intro q t b a d s loc hr hlatent h
    refine congrArg Host.Outcome.next (State.execLanes_load (f := ⟨q, 8, false, tagOf t.toNat, d⟩)
      (fun l => if q = 3 then .view (s.operand a l) (s.operand b l).data.toNat else .plain ((s.operand a l).data + (s.operand b l).data)) loc hr hlatent
      fun l hl => ?_)
    obtain ⟨hb, ha, hrest⟩ := h l hl
    exact ⟨State.addrLDT_past hb ha, hrest⟩

/-! ### Stores -/

/-- A store numbers its access, and changes the stack slice of its own thread or posts a write. -/
theorem State.storeLoc_accessed {cx : Ctx} (hb : (s.squad? cx.q).isSome = true) (t : Thread) (loc : Loc) (bs : List Byte) (rel : Bool) :
    ∃ t' n rs ws, (s.setThread cx.q cx.lane t).storeLoc cx loc bs rel = s.accessed cx.q cx.lane t' n rs ws := by
  obtain ⟨rs, hrs⟩ := s.fixReads_accessed cx.q cx.lane t fun x =>
    if x.by_ == ⟨cx.lid, cx.crew, cx.num⟩ && x.lane == cx.lane then (if x.loc.meets x.size loc bs.length then 4 else 0) else 0
  simp only [State.storeLoc, State.fixOwn, hrs]
  cases loc with
  | stack off => exact ⟨_, _, _, _, State.modThread_accessed hb ..⟩
  | dram pa key job va lf => exact ⟨t, _, _, _, rfl⟩
  | scratch lid c off => exact ⟨t, _, _, _, rfl⟩

/-- The stores of a set outside regions whose operands are read and whose checks pass. -/
theorem State.execLanes_store {opnd : Ctx → Thread → Except Trap AddrOp} {rel : Bool} (op : Nat → AddrOp) (loc : Nat → Word × Loc) (hr : s.ready i 0 = true)
    (h : ∀ l ∈ s.lanes, opnd (s.ctx l) (s.past i 0 l) = .ok (op l) ∧ s.holds (fun _ => true) d l = true ∧ (s.ctx l).region ≠ 1 ∧
      (s.ctx l).region ≠ 2 ∧ s.locate (s.ctx l) (op l) .store size = .ok (loc l)) :
    s.execLanes i 0 0 (storeLane opnd size rel d) = s.lanes.foldl (fun st l => (st.setThread s.cur.q l (s.past i 0 l)).storeLoc (s.ctx l) (loc l).2
      (bytesLE size (s.operand d l).data.toNat) rel) s := by
  refine State.execLanes_access hr (fun l st => (st.setThread s.cur.q l (s.past i 0 l)).storeLoc (s.ctx l) (loc l).2
    (bytesLE size (s.operand d l).data.toNat) rel) (fun _ => True) trivial fun l hl rest st hsame _ => ?_
  obtain ⟨hop, hdata, hregion1, hregion2, hloc⟩ := h l hl
  have hth : (st.setThread s.cur.q l (s.past i 0 l)).thread (s.ctx l).q (s.ctx l).lane = s.past i 0 l :=
    State.thread_setThread_same st _ _ _ hsame.bound
  refine ⟨?_, trivial, State.storeLoc_accessed (cx := s.ctx l) hsame.bound ..⟩
  simp only [storeLane, hth, hop, s.src_holds i 0 hdata, hsame.locate, hloc, bind, Except.bind, if_neg hregion1, if_neg hregion2]

/-- Settles O13: every store form is `storeLane` with its operands; no lane's store changes the checks of the lanes above it. -/
theorem storesComplete : Obligations.StoresComplete := by
  unfold Obligations.StoresComplete
  refine ⟨?_, ?_⟩
  · intro p hp q o b d s loc hr h
    have hexec : exec (p.1 q o b d) s = .next (s.execLanes (p.1 q o b d) 0 0 (storeLane (fun cx t => t.addrFM cx q o b p.2) p.2 (q == 1) d)) := by
      fin_cases hp <;> rfl
    rw [hexec, State.execLanes_store (s.accessFM q o b p.2) loc hr fun l hl => ⟨State.addrFM_past (h l hl).1, (h l hl).2⟩]
  · intro b d s loc hr h
    exact congrArg Host.Outcome.next (State.execLanes_store (fun l => .plain (s.operand (cReg b) l).data) loc hr
      fun l hl => ⟨State.addrC_past (h l hl).1, (h l hl).2⟩)

end Sys2Proof.Machine
end

section
/-!
SUPPORT for O59. The state right after module reset (R97, R109, R353, R355).
-/
namespace Sys2Proof.Machine

theorem State.fusesInOrder_reset : State.reset.fusesInOrder :=
  ⟨Nat.zero_le 128, fun _ _ hstep => nomatch hstep⟩

/-- Where no record holds a squad, no issue set issues next. -/
theorem State.nextIssue_noSquads {s : State} (h : s.squads = []) : s.nextIssue = none := by
  have hrecords : s.records = [] := by rw [State.records, h]; rfl
  simp [State.nextIssue, State.candidates, State.readyRecords, hrecords, firstOf]

/-- Settles O59: reset is the state whose every field has its default, with empty storage. -/
theorem resetState : Obligations.ResetState := by
  unfold Obligations.ResetState
  exact ⟨rfl, rfl, rfl, rfl, rfl, rfl, rfl, rfl, State.fusesInOrder_reset, rfl, State.nextIssue_noSquads rfl⟩

end Sys2Proof.Machine
end

section
/-!
SUPPORT for O22. SPLIT and REJOIN at an issue set that may run them (R115, R116, R130).
-/
namespace Sys2Proof.Machine

/-- A SPLIT of a register at which no thread waits writes it as the issue set (R115). -/
theorem execSplit_free {j : BitVec 2} {s : State} (hr : s.ready (.split j) 0 = true)
    (hfree : ∀ l ∈ (s.squad s.cur.q).liveLanes, (s.th l).atRejoin j.toNat = false) :
    execSplit j s = .next ((s.advanceAll (.split j) 0).modSquad s.cur.q fun sq =>
      { sq with j := SMap.set 0 sq.j j.toNat (maskOf s.lanes) }) := by
  have hwait : ((s.squad s.cur.q).liveLanes.filter fun l => ((s.squad s.cur.q).thread l).atRejoin j.toNat) = [] :=
    List.filter_eq_nil_iff.mpr fun l hl => Bool.eq_false_iff.mp (hfree l hl)
  refine congrArg Host.Outcome.next (s.execSet_ok _ 0 0 _ hr ?_)
  simp only [hwait, if_true, State.active_zero]

/-- A REJOIN: a thread of the register waits, another goes on with the signature of the REJOIN's PC (R116, R340). -/
theorem execRejoin_ready {j : BitVec 2} {s : State} (hr : s.ready (.rejoin j) 0 = true) :
    execRejoin j s = .next (s.ranTogether (.rejoin j) 0 0 fun l =>
      if (SMap.get 0 (s.squad s.cur.q).j j.toNat).getLsbD l
      then (s.past (.rejoin j) 0 l).waitAt (s.ctx l) (.rejoin j) (.rejoin j.toNat)
      else { s.past (.rejoin j) 0 l with sig := sigHash 0 (s.cur.pc.truncate 32) }) := by
  obtain ⟨hbound, -, -⟩ := (s.ready_iff _ 0).mp hr
  refine congrArg Host.Outcome.next (s.execSet_ok _ 0 0 _ hr (congrArg Except.ok ?_))
  exact s.advanceAll_modThreads (.rejoin j) 0 0 _ _ hbound fun _ _ => rfl

/-- Settles O22: each instruction by what its issue set does when its checks pass. -/
theorem splitAndRejoinComplete : Obligations.SplitAndRejoinComplete := by
  unfold Obligations.SplitAndRejoinComplete
  exact ⟨fun j s hr hfree => execSplit_free hr hfree, fun j s hr => execRejoin_ready hr⟩

end Sys2Proof.Machine
end

section
/-!
SUPPORT for O24. EXIT, TAIL and FUSE at an issue set that may run them (R118, R119, R131, R138, R139).
-/
namespace Sys2Proof.Machine

variable {s : State}

/-! ### Threads end -/

/-- The issue set has ended: its threads are no longer live, and what that releases waits for the squad's next slot (R131). -/
def State.ended (s : State) (i : Instr) : State :=
  (s.ranTogether i 0 0 fun l => { (s.past i 0 l).landAll with live := false }).modSquad s.cur.q fun sq => { sq with rejoins := true }

theorem State.endThreads_advanceAll {i : Instr} (hr : s.ready i 0 = true) :
    (s.advanceAll i 0).endThreads s.cur.q (s.active 0) = s.ended i := by
  obtain ⟨hbound, -, -⟩ := (s.ready_iff i 0).mp hr
  exact congrArg (State.modSquad · s.cur.q _) (s.advanceAll_modThreads i 0 0 (fun _ t => { t.landAll with live := false }) _ hbound fun _ _ => rfl)

theorem execExit_ready (hr : s.ready .exit 0 = true) :
    execExit s = .next (((s.ended .exit).retireExited s.cur.q).settleFuses (s.squad s.cur.q).lid (s.squad s.cur.q).crew) := by
  refine congrArg Host.Outcome.next (s.execSet_ok .exit 0 0 _ hr ?_)
  simp only [State.endThreads_advanceAll hr]

/-- TAIL of a set that leaves live threads in its squad. -/
theorem execTail_some (hr : s.ready .tail 0 = true) (hlive : ((s.ended .tail).squad s.cur.q).liveLanes ≠ []) :
    execTail s = .next ((s.ended .tail).settleFuses (s.squad s.cur.q).lid (s.squad s.cur.q).crew) := by
  refine congrArg Host.Outcome.next (s.execSet_ok .tail 0 0 _ hr ?_)
  simp only [State.endThreads_advanceAll hr, hlive, ne_eq, not_false_eq_true, if_true]

/-- TAIL of the last threads: the slot is free at once, and what is outstanding passes to the tracker (R119). -/
theorem execTail_last (hr : s.ready .tail 0 = true) (hlive : ((s.ended .tail).squad s.cur.q).liveLanes = [])
    (hroom : (s.coreAt (coreOf s.cur.q)).tracker.length < Config.trackerEntries) :
    execTail s = .next ((((s.ended .tail).retire s.cur.q).modCore (coreOf s.cur.q) fun c =>
      { c with tracker := c.tracker ++ [(s.squad s.cur.q).ref] }).settleFuses (s.squad s.cur.q).lid (s.squad s.cur.q).crew) := by
  refine congrArg Host.Outcome.next (s.execSet_ok .tail 0 0 _ hr ?_)
  simp only [State.endThreads_advanceAll hr, hlive, ne_eq, not_true_eq_false, if_false, Nat.not_le.mpr hroom]

/-- TAIL of the last threads waits where the tracker is full (R119). -/
theorem execTail_full (hr : s.ready .tail 0 = true) (hlive : ((s.ended .tail).squad s.cur.q).liveLanes = [])
    (hfull : Config.trackerEntries ≤ (s.coreAt (coreOf s.cur.q)).tracker.length) :
    execTail s = .next (s.ranTogether .tail 0 0 fun l => (s.past .tail 0 l).waitAt (s.ctx l) .tail (.blocked .tail)) := by
  obtain ⟨hbound, -, -⟩ := (s.ready_iff .tail 0).mp hr
  refine congrArg Host.Outcome.next (s.execSet_ok .tail 0 0 _ hr ?_)
  simp only [State.endThreads_advanceAll hr, hlive, ne_eq, not_true_eq_false, if_false, hfull, if_true]
  exact congrArg Except.ok (s.advanceAll_modThreads .tail 0 0 (fun l t => t.waitAt (s.ctx l) .tail (.blocked .tail)) _ hbound fun _ _ => rfl)

/-! ### FUSE -/

/-- What FUSE does once its lanes hold one operand without reserved bits. -/
theorem execFuse_operand {a : RegCode} {v : Word} (hr : s.ready (.fuse a) 0 = true) (hne : s.lanes ≠ [])
    (hv : ∀ l ∈ s.lanes, s.holds isAddrTag a l = true ∧ (s.operand a l).data = v) (hres : fuseReserved v = false) :
    let sq := s.squad s.cur.q
    let p := fusePartner v
    execFuse a s = .next (
      if maskOf s.lanes ≠ sq.liveMask || p == sq.num || decide ((s.launchOf sq.lid).squads ≤ p) then
        (s.ranTogether (.fuse a) 0 0 fun l => ((s.past (.fuse a) 0 l).writeK (s.ctx l) 1 false .sb).holdTill (sq.landsBy s.lanes)).refusePartners
          sq.lid sq.crew sq.num fun _ _ _ => false
      else
        ((s.ranTogether (.fuse a) 0 0 fun l => (s.past (.fuse a) 0 l).waitAt (s.ctx l) (.fuse a) (.fuse (fuseMask v) p)).refusePartners
          sq.lid sq.crew sq.num fun n m pc => n == p && m == fuseMask v && pc == s.cur.pc).settleFuses sq.lid sq.crew) := by
  intro sq p
  obtain ⟨hbound, -, -⟩ := (s.ready_iff (.fuse a) 0).mp hr
  have hgather := s.gatherSrc_ok s.lanes isAddrTag a fun l hl => (hv l hl).1
  have hreserved : ((s.lanes.map fun l => (l, s.operand a l)).filter fun x => fuseReserved x.2.data) = [] := by
    simpa [List.filter_eq_nil_iff] using fun l hl => by rw [(hv l hl).2, hres]
  have hodd : ((s.lanes.map fun l => (l, s.operand a l)).filter fun x => x.2.data != v) = [] := by
    simpa [List.filter_eq_nil_iff] using fun l hl => (hv l hl).2
  have hfirst : ((s.lanes.map fun l => (l, s.operand a l)).head?.map (·.2.data)).getD 0 = v := by
    obtain ⟨l, ls, hls⟩ := List.exists_cons_of_ne_nil hne
    simp [hls, (hv l (by simp [hls])).2]
  have hthreads (f : Nat → Thread → Thread) :
      s.lanes.foldl (fun st l => st.modThread s.cur.q l (f l)) (s.advanceAll (.fuse a) 0) =
        s.ranTogether (.fuse a) 0 0 fun l => f l (s.past (.fuse a) 0 l) := by
    simpa using s.advanceAll_modThreads (.fuse a) 0 0 f _ hbound fun _ _ => rfl
  refine congrArg Host.Outcome.next (s.execSet_ok (.fuse a) 0 0 _ hr ?_)
  simp only [State.active_zero, hgather, bind, Except.bind, hreserved, List.map_nil, ne_eq, not_true_eq_false, if_false, hfirst, hodd, hthreads]
  split <;> rfl

theorem fuseReserved_eq_false {v : Word} (hhigh : v.toNat / 2 ^ 32 = 0) (hlow : v.toNat / 16 % 4096 = 0) : fuseReserved v = false := by
  have hlow' : v.toNat / 2 ^ 4 % 2 ^ 12 = 0 := hlow
  simp only [fuseReserved, bitsOf, hhigh, hlow', Nat.zero_mod, bne_self_eq_false, Bool.or_self]

theorem fusePartner_eq (v : Word) : fusePartner v = v.toNat % 16 := by simp [fusePartner, bitsOf]

/-- Settles O24: EXIT and TAIL by what remains of the squad and of the tracker, FUSE by whether it can have a partner. -/
theorem squadEndsComplete : Obligations.SquadEndsComplete := by
  unfold Obligations.SquadEndsComplete
  refine ⟨fun i s hr => ?_, fun a s v hr hne hv hhigh hlow => ?_⟩
  · refine ⟨?_, ?_⟩
    · rintro rfl
      exact execExit_ready hr
    · rintro rfl
      exact ⟨fun h => execTail_some hr h, fun h hroom => execTail_last hr h hroom, fun h hfull => execTail_full hr h hfull⟩
  · have hfuse := execFuse_operand hr hne hv (fuseReserved_eq_false hhigh hlow)
    rw [fusePartner_eq] at hfuse
    refine ⟨fun halone => hfuse.trans (congrArg Host.Outcome.next (if_pos ?_)),
      fun hpartner => hfuse.trans (congrArg Host.Outcome.next (if_neg ?_))⟩
    · simpa [or_assoc] using halone
    · simpa [and_assoc] using hpartner

end Sys2Proof.Machine
end

section
/-!
SUPPORT for O39. Granules and frames given back (R206, R207), the ends of squads, crews and launches (R118, R121, R145, R306, R313, R336, R346),
binding and pre-emption (R107, R108, R319, R323, R324).
-/
namespace Sys2Proof.Machine

variable {s : State}

/-! ### Granules -/

/-- A key that a filter of the keys refuses reads as unlisted. -/
theorem SMap.get_filter_key_out {α : Type} (d : α) (p : Nat → Bool) (m : SMap α) {k : Nat} (h : p k = false) :
    SMap.get d (m.filter fun e => p e.1) k = d := by
  induction m with
  | nil => rfl
  | cons e m ih =>
    obtain ⟨j, v⟩ := e
    by_cases hp : p j = true
    · have hj : j ≠ k := fun e => by simp [e, h] at hp
      simp [hp, SMap.get_cons, hj, ih]
    · simp [hp, ih]

theorem Memory.read_clear {m : Memory} {a n c : Nat} (hlo : a ≤ c) (hhi : c < a + n) : (m.clear a n).read c = 0 :=
  SMap.get_filter_key_out _ (fun c => decide (c < a) || decide (a + n ≤ c)) m (by simp [hlo, hhi])

theorem State.giveFrame_reads (s : State) {a n k : Nat} (hk : k < n) : (s.giveFrame a n).mem.dram.read (a + k) = 0 :=
  Memory.read_clear (m := s.mem.dram) (by omega) (by omega)

@[simp] theorem State.granule_modGranule_same (s : State) (job va : Nat) (f : Granule → Granule) :
    (s.modGranule job va f).granule job va = f (s.granule job va) :=
  SMap.get_set_same ..

theorem execWheyDecrement_next {i : Nat} {d : Decrement} (h : s.nextDecrement = some (i, d)) :
    execWheyDecrement s = .next ({ s with mem := { s.mem with whey := s.mem.whey.eraseIdx i } }.modGranule d.job d.va.toNat fun g =>
      { g with count := g.count - 1 }) := by
  simp only [execWheyDecrement, h]

section Granule

variable {job : Nat} {va : Word} (hdue : s.granuleDue job (va.toNat / 65536 * 65536) = true)
  (hquiet : s.shooting job (va.toNat / 65536 * 65536) 65536 = false)

include hdue hquiet

theorem execGranuleFree_mapped {pl : Nat × Leaf} (hpl : ((s.job? job).bind fun j => s.jobPlace j (va.toNat / 65536 * 65536)) = some pl) :
    execGranuleFree job va s = .next (s.changeLeaf job (va.toNat / 65536 * 65536) pl.2 (pl.2.raw - 1) [] none) := by
  simp only [execGranuleFree, hdue, hquiet, hpl, Bool.not_true, Bool.or_self, Bool.false_eq_true, if_false]

theorem execGranuleFree_unmapped (hpl : ((s.job? job).bind fun j => s.jobPlace j (va.toNat / 65536 * 65536)) = none) :
    execGranuleFree job va s = .next ((s.giveFrame (s.granule job (va.toNat / 65536 * 65536)).frame 65536).modGranule job
      (va.toNat / 65536 * 65536) fun _ => {}) := by
  simp only [execGranuleFree, hdue, hquiet, hpl, Bool.not_true, Bool.or_self, Bool.false_eq_true, if_false]

end Granule

/-! ### Squads and trackers -/

theorem State.canRetire_of_ended {q : Nat} {sq : Squad} (hq : s.squad? q = some sq) (hlive : sq.liveLanes = []) (hintake : sq.intake = none)
    (hbusy : s.squadBusy sq.ref = false) : s.canRetire q = true := by
  simp [State.canRetire, hq, hlive, hintake, hbusy]

/-- A squad's record is freed; the squad retires then, where it has not by EXIT. -/
theorem State.retire_squad {q : Nat} {sq : Squad} (hq : s.squad? q = some sq) (hrec : recordOf q ≠ 16) :
    s.retire q = if sq.retired then s.freeRecord q else (s.freeRecord q).noteRetired sq := by
  simp [State.retire, hq, hrec]

theorem execSquadRetire_due {q : Nat} {sq : Squad} (hq : s.squad? q = some sq) (h : s.canRetire q = true) :
    execSquadRetire q s = .next ((s.retire q).settleFuses sq.lid sq.crew) := by
  simp only [execSquadRetire, h, if_true, s.squad_some hq]

theorem execTrackerEntryDrained_quiet {core n : Nat} {r : SquadRef} (hr : (s.coreAt core).tracker[n]? = some r) (hbusy : s.squadBusy r = false) :
    execTrackerEntryDrained core n s = .next (s.modCore core fun c => { c with tracker := c.tracker.eraseIdx n }) := by
  simp only [execTrackerEntryDrained, hr, hbusy, Bool.false_eq_true, if_false]

/-! ### A launch ends -/

/-- What every step of a fold leaves as it was, the fold does. -/
theorem State.foldl_keeps {α β : Type} (g : State → β) (xs : List α) (f : State → α → State) (hf : ∀ s x, g (f s x) = g s) (s : State) :
    g (xs.foldl f s) = g s := by
  induction xs generalizing s with
  | nil => rfl
  | cons x xs ih => exact (ih _).trans (hf s x)

@[simp] theorem State.stopIntake_launches (s : State) (q : Nat) (f : Thread → Thread) : (s.stopIntake q f).launches = s.launches := by
  unfold State.stopIntake
  dsimp only
  split
  · rfl
  · rw [State.settleBatches, State.modSquad_launches, State.modEngine, State.modCore_launches, State.foldl_keeps State.launches, State.foldl_keeps State.launches, State.modSquad_launches]
    all_goals exact fun _ _ => State.modThread_launches ..

@[simp] theorem State.stopCrew_launches (s : State) (c : Crew) : (s.stopCrew c).launches = s.launches :=
  State.foldl_keeps State.launches (s.crewRecords c.lid c.idx) _ (fun _ _ => State.stopIntake_launches ..) s

@[simp] theorem State.launchOf_setLaunch_same (s : State) (lid : Nat) (l : Launch) : (s.setLaunch lid l).launchOf lid = l := by
  simp [State.launchOf, State.launch?, State.setLaunch]

theorem State.launchOf_some {lid : Nat} {l : Launch} (h : s.launch? lid = some l) : s.launchOf lid = l := by
  rw [State.launchOf, h]
  rfl

/-- A launch that runs is there. -/
theorem State.launch?_of_running {lid : Nat} (h : (s.launchOf lid).status = .running) : s.launch? lid = some (s.launchOf lid) := by
  cases hl : s.launch? lid with
  | none => simp [State.launchOf, hl] at h
  | some l => rw [State.launchOf_some hl]

theorem State.launchOf_addRecords {lid : Nat} (rs : List (List Byte)) (h : (s.launchOf lid).status = .running) :
    (s.addRecords lid rs).launchOf lid = { s.launchOf lid with records := (s.launchOf lid).records ++ rs } := by
  simp only [State.addRecords, State.modLaunch, State.launch?_of_running h]
  exact State.launchOf_setLaunch_same ..

/-- A launch that runs ends with a cause (R306). -/
theorem State.launchOf_endLaunch {lid : Nat} (cause : Nat) (h : (s.launchOf lid).status = .running) :
    (s.endLaunch lid cause).launchOf lid = { s.launchOf lid with status := .ending cause } := by
  have hrun : (decide ((s.launchOf lid).status = .running) || decide ((s.launchOf lid).status = .admitted)) = true := by simp [h]
  have hstop (u : State) : ((s.crewsOf lid).foldl State.stopCrew u).launches = u.launches := State.foldl_keeps State.launches _ _ State.stopCrew_launches u
  simp only [State.endLaunch, State.launch?_of_running h]
  rw [if_pos hrun, State.launchOf, State.launch?, hstop]
  exact State.launchOf_setLaunch_same ..

theorem State.running_of_timedOut {lid n : Nat} {w : Watch} (h : s.timedOut lid n = some w) : (s.launchOf lid).status = .running := by
  have hlimit := (Option.filter_eq_some_iff.mp h).1
  simp only [State.atLimit] at hlimit
  split at hlimit
  · split at hlimit
    · next hcond =>
      simp only [Bool.and_eq_true, beq_iff_eq] at hcond
      exact hcond.1.1.1.1
    · cases hlimit
  · cases hlimit

/-- A wait that times out ends its launch with cause 0x0E, after the diagnostic record and those of its squads (R145, R346). -/
theorem execWatchdogTimeout_ends {lid n : Nat} {w : Watch} (h : s.timedOut lid n = some w) :
    ∃ t recs, execWatchdogTimeout lid n s = .next t ∧
      t.launchOf lid = { s.launchOf lid with records := (s.launchOf lid).records ++ s.diagRecord lid w :: recs, status := .ending 0x0E } := by
  simp only [execWatchdogTimeout, h]
  generalize hs1 : List.foldl (fun (st : State) (x : Nat × Squad) => st.setSquad x.1 x.2) s _ = s1
  have hlaunches : s1.launches = s.launches := by
    rw [← hs1]
    exact State.foldl_keeps State.launches _ (fun (st : State) (x : Nat × Squad) => st.setSquad x.1 x.2) (fun _ _ => rfl) s
  have hlaunch : s1.launchOf lid = s.launchOf lid := by rw [State.launchOf, State.launch?, hlaunches]; rfl
  have hrun : (s1.launchOf lid).status = .running := hlaunch ▸ State.running_of_timedOut h
  generalize (List.map _ _ ++ List.map _ _ : List (List Byte)) = recs
  refine ⟨_, recs, rfl, ?_⟩
  rw [State.launchOf_endLaunch _ (by rw [State.launchOf_addRecords _ hrun]; exact hrun), State.launchOf_addRecords _ hrun, hlaunch]

theorem execCrewComplete_done {lid crew : Nat} (h : s.crewDone lid crew = true) :
    let s1 := ((s.leaveCore lid crew).freeImage lid crew).modCrew lid crew fun c =>
      { lid := lid, idx := crew, started := true, completed := true, boundAt := c.boundAt }
    execCrewComplete lid crew s = .next (if s1.launchDone lid then (s1.signalDone (s1.launchOf lid) 0).freeLaunch lid else s1) := by
  simp only [execCrewComplete, h, if_true]

theorem execLaunchEnded_due {lid c : Nat} (h : s.endDue lid = some c) :
    execLaunchEnded lid s = .next (((s.signalDone (s.launchOf lid) (c * 2 ^ 8 + 1)).note (.report 0x81 (s.launchOf lid).job
      (bytesLE 4 lid ++ bytesLE 8 (c * 2 ^ 8 + 1) ++ (s.launchOf lid).records.flatten))).freeLaunch lid) := by
  have hword : statusWord 1 c 0 0 = c * 2 ^ 8 + 1 := by simp [statusWord]
  simp only [execLaunchEnded, h, hword]

theorem execRelaunchDecision_quiet {lid crew : Nat} (hrun : (s.launchOf lid).status = .running)
    (hkill : inRanges (s.launchOf lid).killing crew = true) (hquiet : s.quiet lid (inRanges ((s.launchOf lid).joined crew)) = true) :
    execRelaunchDecision lid crew s = .next (
      if s.mayRelaunch (s.launchOf lid) ((s.launchOf lid).joined crew) then s.relaunch (s.launchOf lid) ((s.launchOf lid).joined crew)
      else s.endLaunch lid (SMap.get 0x11 (s.launchOf lid).killCauses (setNumber ((s.launchOf lid).joined crew)))) := by
  simp only [execRelaunchDecision, hrun, hkill, hquiet, ne_eq, not_true_eq_false, decide_false, Bool.not_true, Bool.or_self, Bool.false_eq_true, if_false]

/-! ### Traps and steps -/

theorem execTrapTaken_due {q : Nat} (h : s.trapDue q = true) : execTrapTaken q s = .next (s.actOnTrap q) :=
  congrArg Host.Outcome.next (if_pos h)

/-- Driene's action on a trap, by its cause (R306, R309, R335). -/
theorem State.actOnTrap_syscall {q : Nat} (h : (s.squad q).tcause.toNat % 256 = 0x20) :
    s.actOnTrap q = (s.stopIntake q).modSquad q fun x => { x with status := .serving ((s.squad q).tlanes.truncate 32) } := by
  simp only [State.actOnTrap, h, if_true]

theorem State.actOnTrap_kill {q : Nat} (h : (s.squad q).tcause.toNat % 256 = 0x10 ∨ (s.squad q).tcause.toNat % 256 = 0x11) :
    s.actOnTrap q = ((s.stopIntake q).addRecords (s.squad q).lid [trapRecord (s.squad q) (some (coreOf q))]).killSet
      (s.squad q).lid (s.squad q).crew ((s.squad q).tcause.toNat % 256) := by
  have hcall : (s.squad q).tcause.toNat % 256 ≠ 0x20 := by omega
  simp only [State.actOnTrap, if_neg hcall, Bool.or_eq_true, decide_eq_true_eq, if_pos h]

section Trap

variable {q : Nat} (hcall : (s.squad q).tcause.toNat % 256 ≠ 0x20) (hmemory : (s.squad q).tcause.toNat % 256 ≠ 0x10)
  (hcheck : (s.squad q).tcause.toNat % 256 ≠ 0x11)

include hcall hmemory hcheck

theorem State.actOnTrap_debugger (hdbg : (s.launchOf (s.squad q).lid).debugger = true) : s.actOnTrap q = (s.stopIntake q).toDebugger q := by
  simp only [State.actOnTrap, if_neg hcall, hmemory, hcheck, hdbg, decide_false, Bool.or_self, Bool.false_eq_true, if_false, if_true]

theorem State.actOnTrap_end (hdbg : (s.launchOf (s.squad q).lid).debugger = false) :
    s.actOnTrap q = ((s.stopIntake q).addRecords (s.squad q).lid [trapRecord (s.squad q) (some (coreOf q))]).endLaunch
      (s.squad q).lid ((s.squad q).tcause.toNat % 256) := by
  simp only [State.actOnTrap, if_neg hcall, hmemory, hcheck, hdbg, decide_false, Bool.or_self, Bool.false_eq_true, if_false]

end Trap

theorem State.stepOver_of_stepped {q : Nat} {sq : Squad} {pc : Word} {lanes : BitVec 32} (hq : s.squad? q = some sq)
    (hst : sq.status = .stepped pc lanes) (hwrites : s.hasWrites sq.ref = false) (hacc : sq.accessing = false)
    (hinvs : ∀ r ∈ sq.invs, r.lanes &&& lanes = 0) : s.stepOver q = some (pc, lanes) := by
  have hany : (sq.invs.any fun r => r.lanes &&& lanes != 0) = false := by simpa using hinvs
  simp only [State.stepOver, hq, hst, hwrites, hacc, hany, Bool.or_self, Bool.false_eq_true, if_false]

/-- A squad as the end of a step leaves it for its debugger: its writes have landed, its PCs stay (R313). -/
def Squad.stepDone (sq : Squad) (pc : Word) (lanes : BitVec 32) : Squad :=
  { sq with tcause := BitVec.ofNat 64 (0x221 + (if sq.num = 16 then 256 else 0)), tlanes := lanes.zeroExtend 64, taddr := 0, tepc := pc
            brkCode := none, threads := sq.threads.map fun (l, t) => (l, t.landAll), status := .debug }

theorem Squad.thread_stepDone (sq : Squad) (pc : Word) (lanes : BitVec 32) (l : Nat) :
    (sq.stepDone pc lanes).thread l = (sq.thread l).landAll :=
  SMap.get_map ({} : Thread) Thread.landAll rfl sq.threads l

theorem execSingleStepStop_over {q : Nat} {sq : Squad} {pc : Word} {lanes : BitVec 32} (hq : s.squad? q = some sq)
    (h : s.stepOver q = some (pc, lanes)) : ∃ t, execSingleStepStop q s = .next t ∧ t.squad? q = some (sq.stepDone pc lanes) := by
  simp only [execSingleStepStop, h, State.modSquad_some s q _ hq, State.toDebugger]
  refine ⟨_, rfl, ?_⟩
  rw [State.modSquad_some _ q _ (State.squad?_setSquad_same s q _), State.setSquad_setSquad]
  exact State.squad?_setSquad_same ..

/-! ### Binding -/

/-- A set that may be bound is bound in one step; records with a reserved STATE are a machine check of their squads (R107, R319). -/
theorem State.bindSet_bound {lid : Nat} {places : List Spot} {state : BitVec 8} {s1 : State}
    (hwhole : s.wholeSet (s.launchOf lid) places = true)
    (horder : s.mayBind (s.launchOf lid) ((s.launchOf lid).joined ((places.head?.map (·.1)).getD 0)) = true)
    (hroom : s.placesOk (s.launchOf lid) [] places = true)
    (himages : (places.map (·.1)).foldlM (fun st c => State.takeImage st lid c) s = some s1)
    (hstate : state = 1 ∨ 3 < state.toNat) :
    let s2 := (places.map (·.1)).foldl (fun st c => st.settleFuses lid c) (places.foldl (fun st x => st.bindCrew (s.launchOf lid) x) s1)
    s.bindSet lid places state = if state = 1 then s2 else s2.faultRecords lid (places.map (·.1)) state.toNat := by
  have hne0 : state ≠ 0 := by rintro rfl; simp at hstate
  have hne2 : state ≠ 2 := by rintro rfl; simp at hstate
  have hne3 : state ≠ 3 := by rintro rfl; simp at hstate
  simp only [State.bindSet, hwhole, horder, hroom, himages, hne0, hne2, hne3, Bool.and_self, Bool.not_true, decide_false, Bool.or_self,
    Bool.false_eq_true, if_false]

theorem State.requestStop_victim {lid crew : Nat} {slice : Bool} (h : s.isVictim lid crew slice = true) :
    (if s.isVictim lid crew slice then s.requestStop lid crew else s) = (s.savedCrews lid crew).foldl (fun st c =>
      st.modCrew lid c.idx fun c => { c with stopReq := true }) s :=
  if_pos h

/-- Settles O39: each event by its equation where it may come. -/
theorem lifecycleEventsComplete : Obligations.LifecycleEventsComplete := by
  unfold Obligations.LifecycleEventsComplete
  refine ⟨?_, ?_, ?_, ?_, ?_, ?_, ?_, ?_, ?_, ?_, ?_, ?_, ?_⟩
  · exact fun i d s h => execWheyDecrement_next h
  · intro job va s a f hdue hquiet
    refine ⟨fun pl hpl => execGranuleFree_mapped hdue hquiet hpl, fun hpl => ⟨_, execGranuleFree_unmapped hdue hquiet hpl, ?_, rfl, ?_⟩⟩
    · exact State.granule_modGranule_same ..
    · exact fun k hk => State.giveFrame_reads s hk
  · intro q s sq hq hrec hlive hintake hbusy
    refine (execSquadRetire_due hq (State.canRetire_of_ended hq hlive hintake hbusy)).trans ?_
    rw [State.retire_squad hq hrec]
    rfl
  · exact fun core n r s hr hbusy => execTrackerEntryDrained_quiet hr hbusy
  · exact fun lid crew s h => execCrewComplete_done h
  · intro lid n w s h
    obtain ⟨t, recs, hexec, hlaunch⟩ := execWatchdogTimeout_ends h
    exact ⟨t, recs, hexec, by rw [hlaunch], by rw [hlaunch]⟩
  · intro q s h sq c s1 s2
    have hexec := execTrapTaken_due h
    refine ⟨fun hc => ?_, fun hc => ?_, fun hcall hmemory hcheck hdbg => ?_, fun hcall hmemory hcheck hdbg => ?_⟩
    · exact hexec.trans (congrArg Host.Outcome.next (State.actOnTrap_syscall hc))
    · exact hexec.trans (congrArg Host.Outcome.next (State.actOnTrap_kill hc))
    · exact hexec.trans (congrArg Host.Outcome.next (State.actOnTrap_debugger hcall hmemory hcheck hdbg))
    · exact hexec.trans (congrArg Host.Outcome.next (State.actOnTrap_end hcall hmemory hcheck hdbg))
  · exact fun lid c s h => execLaunchEnded_due h
  · exact fun lid crew s hrun hkill hquiet => execRelaunchDecision_quiet hrun hkill hquiet
  · intro q s sq pc lanes hq hst hwrites hacc hinvs
    obtain ⟨t, hexec, ht⟩ := execSingleStepStop_over hq (State.stepOver_of_stepped hq hst hwrites hacc hinvs)
    have hsquad := t.squad_some ht
    refine ⟨t, hexec, by rw [hsquad]; rfl, by rw [hsquad]; rfl, by rw [hsquad]; rfl, by rw [hsquad]; rfl, fun l => ?_⟩
    rw [State.thread, State.thread, hsquad, s.squad_some hq, Squad.thread_stepDone]
    rfl
  · intro p hp lid places state s s1 l cs hwhole horder hroom himages s2
    have hexec : exec (p lid ⟨places, state⟩) s = .next (s.bindSet lid places state) := by
      fin_cases hp <;> rfl
    refine ⟨fun hstate => ?_, fun hstate => ?_⟩
    · rw [hexec, State.bindSet_bound hwhole horder hroom himages (.inl hstate), if_pos hstate]
    · have hne : state ≠ 1 := by rintro rfl; simp at hstate
      rw [hexec, State.bindSet_bound hwhole horder hroom himages (.inr hstate), if_neg hne]
  · intro p hp lid crew s h
    have hexec : exec (p.1 lid crew) s = .next (if s.isVictim lid crew p.2 then s.requestStop lid crew else s) := by
      fin_cases hp <;> rfl
    rw [hexec, State.requestStop_victim h]
  · exact fun lid crew s h => congrArg Host.Outcome.next (if_pos h)

end Sys2Proof.Machine
end

section
/-!
SUPPORT for O37. Releases of threads that wait for one another: REJOIN (R116), the phases of crew and group barriers (R142, R143).
-/
namespace Sys2Proof.Machine

variable {s : State}

/-! ### REJOIN -/

theorem Squad.joinLanes_nodup (sq : Squad) (j : Nat) : (sq.joinLanes j).Nodup :=
  (List.nodup_range.sublist List.filter_sublist).sublist List.filter_sublist

/-- A thread that a REJOIN releases: it goes on after it, with the signature of the REJOIN's PC (R116, R340). -/
def Thread.rejoined (t : Thread) (stamp till : Nat) : Thread := { (t.release stamp).holdTill till with sig := rejoinSig t.pc }

theorem State.settleRejoin_ready {q j : Nat} {sq : Squad} (hq : s.squad? q = some sq) (hfull : sq.joinFull j = true) (hone : sq.joinOne j = true)
    (hnow : sq.rejoinsLater s.cycle = false) :
    s.settleRejoin q j = s.setThreads q (sq.joinLanes j) fun l =>
      (s.thread q l).rejoined (s.rejoinStamp sq (s.thread q l)) (sq.landsBy (sq.joinLanes j)) := by
  have hready : sq.joinReady j = true := by simp [Squad.joinReady, hfull, hone]
  simp only [State.settleRejoin, hq, hnow, hready, Bool.false_eq_true, if_false, if_true]
  exact s.foldl_modThread q _ (fun _ t => t.rejoined (s.rejoinStamp sq t) (sq.landsBy (sq.joinLanes j))) _ (sq.joinLanes_nodup j) fun _ _ => rfl

/-! ### What the landing of a write leaves as it was -/

@[simp] theorem State.fixReads_launches (s : State) (f : Read → Nat) : (s.fixReads f).launches = s.launches := by
  unfold State.fixReads
  split <;> rfl

@[simp] theorem State.rekeyLine_launches (s : State) (key line : Nat) : (s.rekeyLine key line).launches = s.launches := by
  simp only [State.rekeyLine]
  split <;> rfl

@[simp] theorem State.putBytes_launches (s : State) (p : Place) (bs : List Byte) : (s.putBytes p bs).launches = s.launches := by
  cases p with
  | dram pa key => exact State.foldl_keeps State.launches (linesOf pa bs.length) _ (fun st l => st.rekeyLine_launches key l) s
  | scratch l c o => rfl

@[simp] theorem State.setDirty_launches (s : State) (job va pa : Nat) : (s.setDirty job va pa).launches = s.launches := by
  unfold State.setDirty
  split <;> split <;> rfl

@[simp] theorem State.heal_launches (s : State) (p : Place) (n : Nat) : (s.heal p n).launches = s.launches := by
  cases p <;> rfl

@[simp] theorem State.noteSource_launches (s : State) (p : Place) (bs : List Byte) : (s.noteSource p bs).launches = s.launches := by
  unfold State.noteSource
  split <;> rfl

@[simp] theorem State.injectWrite_launches (s : State) (lid c target : Nat) (p : Place) : (s.injectWrite lid c target p).launches = s.launches := by
  simp only [State.injectWrite]
  split
  · rfl
  · split
    · rfl
    · split
      · exact State.putBytes_launches _ _ _
      · rfl

@[simp] theorem State.landPart_launches (s : State) (lid c : Nat) (p : Place) (job va : Nat) (bs : List Byte) :
    (s.landPart lid c p job va bs).launches = s.launches := by
  cases p with
  | scratch l c o => simp [State.landPart]
  | dram pa key =>
    by_cases h : job = 0
    · simp [State.landPart, h]
    · simp [State.landPart, h]

/-- What stands in the bind records and what the launches hold: no landing of a write changes it. -/
def State.parties (s : State) : SMap (Option Squad) × SMap (Option Launch) := (s.squads, s.launches)

@[simp] theorem State.fixReads_parties (s : State) (f : Read → Nat) : (s.fixReads f).parties = s.parties :=
  Prod.ext (s.fixReads_squads f) (s.fixReads_launches f)

@[simp] theorem State.landPart_parties (s : State) (lid c : Nat) (p : Place) (job va : Nat) (bs : List Byte) :
    (s.landPart lid c p job va bs).parties = s.parties :=
  Prod.ext (s.landPart_squads lid c p job va bs) (s.landPart_launches lid c p job va bs)

@[simp] theorem State.landNth_parties (s : State) (n : Nat) : (s.landNth n).parties = s.parties := by
  simp only [State.landNth]
  split
  · rfl
  · split
    · exact (State.landPart_parties ..).trans (s.fixReads_parties _)
    · exact s.fixReads_parties _

@[simp] theorem State.push_parties (t seq fuel : Nat) (s : State) : (s.push t seq fuel).parties = s.parties := by
  induction fuel generalizing s t seq with
  | zero => rfl
  | succ fuel ih =>
    rw [State.push]
    split
    · rfl
    · next w _ =>
      have hfold (xs : List Write) (u : State) : (xs.foldl (fun st e => State.push st w.next e.seq fuel) u).parties = u.parties :=
        State.foldl_keeps State.parties xs _ (fun st e => ih w.next e.seq st) u
      dsimp only
      split
      · rfl
      · split
        · rw [ih, State.landNth_parties, hfold]
        · exact hfold _ _

theorem State.bringParties_parties (s : State) (scope : Nat) (ps : List Party) : (s.bringParties scope ps).1.parties = s.parties :=
  (State.foldl_keeps State.parties _ _ (fun _ _ => State.push_parties ..) _).trans (s.fixReads_parties _)

theorem State.bringParties_squads (s : State) (scope : Nat) (ps : List Party) : (s.bringParties scope ps).1.squads = s.squads :=
  congrArg Prod.fst (s.bringParties_parties scope ps)

theorem State.bringParties_launches (s : State) (scope : Nat) (ps : List Party) : (s.bringParties scope ps).1.launches = s.launches :=
  congrArg Prod.snd (s.bringParties_parties scope ps)

theorem State.thread_congr {s t : State} (h : t.squads = s.squads) (q l : Nat) : t.thread q l = s.thread q l := by
  rw [State.thread, State.thread, State.squad, State.squad, State.squad?, State.squad?, h]

theorem State.records_congr {s t : State} (h : t.squads = s.squads) : t.records = s.records := by
  rw [State.records, State.records, h]

/-! ### A phase is over -/

/-- A record with a live thread holds a squad. -/
theorem State.isSome_of_live {q l : Nat} (h : l ∈ (s.squad q).liveLanes) : (s.squad? q).isSome = true := by
  cases hq : s.squad? q with
  | some sq => rfl
  | none =>
    have hlive := (List.mem_filter.mp h).2
    simp [State.squad, hq, Squad.thread] at hlive

/-- What the end of a phase makes of a thread: nothing; it goes on; or its BAR.G waits for the next phase. -/
theorem Thread.afterPhase_cases (t : Thread) (w : Wait) :
    (∀ n k, t.afterPhase w n k = t) ∨ (∀ n k, (t.afterPhase w n k).wait = .run) ∨
      ∃ g p, w = .barG g p ∧ ∀ n k, (t.afterPhase w n k).wait = .barG g (p + 1) := by
  by_cases hwait : t.wait = w
  · exact .inr (.inl fun n k => by simp [Thread.afterPhase, hwait, Thread.release])
  · simp only [Thread.afterPhase, if_neg hwait]
    generalize t.wait = v
    split
    · next g p a g' p' =>
      by_cases hphase : (decide (g = g') && p == p') = true
      · obtain ⟨rfl, rfl⟩ : g = g' ∧ p = p' := by simpa using hphase
        exact .inr (.inr ⟨g, p, rfl, fun n k => by rw [if_pos hphase]⟩)
      · exact .inl fun n k => if_neg hphase
    · next g p i g' p' _ =>
      by_cases hphase : (decide (g = g') && p == p') = true
      · exact .inr (.inl fun n k => by rw [if_pos hphase]; rfl)
      · exact .inl fun n k => if_neg hphase
    · exact .inl fun _ _ => rfl

section Phase

variable {w : Wait} (hw : w ≠ .run)
include hw

theorem Thread.afterPhase_run {t : Thread} (h : t.wait = .run) (n stamp : Nat) : t.afterPhase w n stamp = t := by
  simp only [Thread.afterPhase, h, hw.symm, if_false]

/-- A thread that the end of a phase has moved on is not moved by it again. -/
theorem Thread.afterPhase_afterPhase (t : Thread) (n stamp n' stamp' : Nat) :
    (t.afterPhase w n stamp).afterPhase w n' stamp' = t.afterPhase w n stamp := by
  rcases t.afterPhase_cases w with hsame | hrun | ⟨g, p, rfl, hnext⟩
  · rw [hsame, hsame]
  · exact Thread.afterPhase_run hw (hrun n stamp) n' stamp'
  · have hwait := hnext n stamp
    generalize t.afterPhase (.barG g p) n stamp = u at hwait ⊢
    simp [Thread.afterPhase, hwait]

end Phase

/-! ### Several threads changed in turn -/

/-- Each of several threads, named by record and lane, changed in turn. -/
def State.modEach {α : Type} (s : State) (xs : List (Nat × Nat × α)) (f : Nat × Nat × α → Thread → Thread) : State :=
  xs.foldl (fun st x => st.modThread x.1 x.2.1 (f x)) s

section Each

variable {α : Type} (f : Nat × Nat × α → Thread → Thread)

theorem State.modThread_isSome (s : State) (q p l : Nat) (g : Thread → Thread) : ((s.modThread q l g).squad? p).isSome = (s.squad? p).isSome :=
  s.setThread_isSome q p l _

theorem State.modEach_crews (s : State) (xs : List (Nat × Nat × α)) : (s.modEach xs f).crews = s.crews :=
  State.foldl_keeps State.crews xs _ (fun st x => st.modThread_crews x.1 x.2.1 (f x)) s

theorem State.modEach_launches (s : State) (xs : List (Nat × Nat × α)) : (s.modEach xs f).launches = s.launches :=
  State.foldl_keeps State.launches xs _ (fun st x => st.modThread_launches x.1 x.2.1 (f x)) s

theorem State.thread_modThread_same {q l : Nat} (hs : (s.squad? q).isSome = true) (g : Thread → Thread) :
    (s.modThread q l g).thread q l = g (s.thread q l) :=
  State.thread_setThread_same s q l _ hs

theorem State.thread_modThread_other {q l p m : Nat} (h : (q, l) ≠ (p, m)) (g : Thread → Thread) :
    (s.modThread q l g).thread p m = s.thread p m := by
  by_cases hq : p = q
  · subst hq
    exact State.thread_setThread_lane s p p _ fun hm => h (by rw [hm])
  · exact State.thread_setThread_record s l m _ hq

theorem State.thread_modEach_out {xs : List (Nat × Nat × α)} {q l : Nat} (h : (q, l) ∉ xs.map fun x => (x.1, x.2.1)) :
    (s.modEach xs f).thread q l = s.thread q l := by
  induction xs generalizing s with
  | nil => rfl
  | cons y ys ih =>
    obtain ⟨hy, hys⟩ := List.ne_and_not_mem_of_not_mem_cons h
    exact (ih hys).trans (State.thread_modThread_other hy.symm _)

/-- Threads named once each: every one is changed as it was. -/
theorem State.thread_modEach_in {xs : List (Nat × Nat × α)} (hnd : (xs.map fun x => (x.1, x.2.1)).Nodup) {x : Nat × Nat × α} (hx : x ∈ xs)
    (hs : (s.squad? x.1).isSome = true) : (s.modEach xs f).thread x.1 x.2.1 = f x (s.thread x.1 x.2.1) := by
  induction xs generalizing s with
  | nil => exact absurd hx List.not_mem_nil
  | cons y ys ih =>
    obtain ⟨hy, hnd⟩ := List.nodup_cons.mp hnd
    rcases List.mem_cons.mp hx with rfl | hx
    · exact (State.thread_modEach_out f hy).trans (State.thread_modThread_same hs _)
    · have hne : (y.1, y.2.1) ≠ (x.1, x.2.1) := fun he => hy (List.mem_map.mpr ⟨x, hx, he.symm⟩)
      refine (ih hnd hx (by rwa [State.modThread_isSome])).trans ?_
      rw [State.thread_modThread_other hne]

/-- A thread that none of the changes moves. -/
theorem State.thread_modEach_fixed (xs : List (Nat × Nat × α)) {q l : Nat} (hs : (s.squad? q).isSome = true)
    (hf : ∀ x, f x (s.thread q l) = s.thread q l) : (s.modEach xs f).thread q l = s.thread q l := by
  induction xs generalizing s with
  | nil => rfl
  | cons y ys ih =>
    have hfirst : (s.modThread y.1 y.2.1 (f y)).thread q l = s.thread q l := by
      by_cases hkey : (y.1, y.2.1) = (q, l)
      · obtain ⟨rfl, rfl⟩ := Prod.mk.inj hkey
        exact (State.thread_modThread_same hs _).trans (hf y)
      · exact State.thread_modThread_other hkey _
    exact (ih (by rwa [State.modThread_isSome]) (by rwa [hfirst])).trans hfirst

/-- Where a thread that one change has moved is not moved by the others, a thread that is named, once or again, is changed once. -/
theorem State.thread_modEach_once (hf : ∀ x y t, f x (f y t) = f y t) {xs : List (Nat × Nat × α)} {q l : Nat}
    (hx : (q, l) ∈ xs.map fun x => (x.1, x.2.1)) (hs : (s.squad? q).isSome = true) :
    ∃ y, (s.modEach xs f).thread q l = f y (s.thread q l) := by
  induction xs generalizing s with
  | nil => exact absurd hx List.not_mem_nil
  | cons y ys ih =>
    have hs' : ((s.modThread y.1 y.2.1 (f y)).squad? q).isSome = true := by rwa [State.modThread_isSome]
    by_cases hkey : (y.1, y.2.1) = (q, l)
    · obtain ⟨rfl, rfl⟩ := Prod.mk.inj hkey
      have hfirst := State.thread_modThread_same (l := y.2.1) hs (f y)
      exact ⟨y, (State.thread_modEach_fixed f ys hs' fun x => by rw [hfirst, hf]).trans hfirst⟩
    · obtain ⟨z, hz⟩ := ih ((List.mem_cons.mp hx).resolve_left (Ne.symm hkey)) hs'
      exact ⟨z, hz.trans (by rw [State.thread_modThread_other hkey])⟩

end Each

/-! ### A phase of a barrier -/

/-- The threads of some records that have not exited, each with its squad. -/
def liveThreads (rs : List (Nat × Squad)) : List (Nat × Nat × Squad) := rs.flatMap fun r => r.2.liveLanes.map fun l => (r.1, l, r.2)

theorem State.phaseOver_eq (s : State) (w : Wait) (rs : List (Nat × Squad)) :
    s.phaseOver w rs = s.modEach (liveThreads rs) fun x t => t.afterPhase w s.seq (s.releaseStamp x.2.2 t) := by
  simp only [State.phaseOver, State.modEach, liveThreads, List.foldl_flatMap, List.foldl_map]

theorem State.thread_phaseOver {w : Wait} (hw : w ≠ .run) {rs : List (Nat × Squad)} {q l : Nat} (hq : (q, s.squad q) ∈ rs)
    (hl : l ∈ (s.squad q).liveLanes) : ∃ n stamp, (s.phaseOver w rs).thread q l = (s.thread q l).afterPhase w n stamp := by
  have hmem : (q, l) ∈ (liveThreads rs).map fun x => (x.1, x.2.1) :=
    List.mem_map.mpr ⟨(q, l, s.squad q), List.mem_flatMap.mpr ⟨_, hq, List.mem_map_of_mem hl⟩, rfl⟩
  rw [State.phaseOver_eq]
  obtain ⟨y, hy⟩ := State.thread_modEach_once (fun x t => t.afterPhase w s.seq (s.releaseStamp x.2.2 t))
    (fun _ _ t => Thread.afterPhase_afterPhase hw t _ _ _ _) hmem (State.isSome_of_live hl)
  exact ⟨_, _, hy⟩

theorem Thread.afterPhase_waits {t : Thread} {w : Wait} (h : t.wait = w) (n stamp : Nat) : t.afterPhase w n stamp = t.release stamp :=
  if_pos h

theorem Thread.afterPhase_barG {t : Thread} {g p : Nat} {a : RegCode} (h : t.wait = .arrive g p (.barG a)) (n stamp : Nat) :
    t.afterPhase (.barG g p) n stamp = { t.joinG g (p + 1) n with wait := .barG g (p + 1) } := by
  simp [Thread.afterPhase, h]

theorem Thread.afterPhase_arriveG {t : Thread} {g p : Nat} {a : RegCode} (h : t.wait = .arrive g p (.arriveG a)) (n stamp : Nat) :
    t.afterPhase (.barG g p) n stamp = (t.joinG g (p + 1) n).release stamp := by
  simp [Thread.afterPhase, h]

theorem Thread.phaseG_joinG (t : Thread) (g p n : Nat) : (t.joinG g p n).phaseG g = some p := by
  simp [Thread.phaseG, Thread.joinG]

theorem State.launchOf_modLaunch {lid : Nat} (hs : (s.launch? lid).isSome = true) (f : Launch → Launch) :
    (s.modLaunch lid f).launchOf lid = f (s.launchOf lid) := by
  obtain ⟨l, hl⟩ := Option.isSome_iff_exists.mp hs
  rw [State.launchOf_some hl, State.modLaunch, hl]
  exact State.launchOf_setLaunch_same ..

theorem State.phaseOver_launches (s : State) (w : Wait) (rs : List (Nat × Squad)) : (s.phaseOver w rs).launches = s.launches := by
  rw [State.phaseOver_eq, State.modEach_launches]

/-- A phase of a crew's barrier is over (R142). -/
theorem execBarrierPhaseComplete_crew {lid n : Nat} (h : s.crewPhaseDone lid n = true) :
    ∃ t, exec (.barrierPhaseComplete lid false n) s = .next t ∧ (t.crewOf lid n).barPhase = (s.crewOf lid n).barPhase + 1 ∧
      ∀ q, (q, s.squad q) ∈ s.crewRecords lid n → ∀ l ∈ (s.squad q).liveLanes,
        ∃ k stamp, t.thread q l = (s.thread q l).afterPhase (.barC (s.crewOf lid n).barPhase) k stamp := by
  refine ⟨_, congrArg Host.Outcome.next (if_pos h), ?_, fun q hq l hl => ?_⟩
  · simp [State.modCrew, State.crewOf, State.setCrew]
  · have hsquads := s.bringParties_squads 2 (s.crewParties lid n)
    generalize (s.bringParties 2 (s.crewParties lid n)).1 = u at hsquads ⊢
    have hsquad : u.squad q = s.squad q := by rw [State.squad, State.squad?, hsquads]; rfl
    have hrecords : u.crewRecords lid n = s.crewRecords lid n := by rw [State.crewRecords, State.records_congr hsquads]; rfl
    rw [← State.thread_congr hsquads q l]
    exact u.thread_phaseOver Wait.noConfusion (hrecords ▸ hsquad ▸ hq) (hsquad ▸ hl)

/-- A phase of a group's barrier is over (R142). -/
theorem execBarrierPhaseComplete_group {lid g : Nat} (hs : (s.launch? lid).isSome = true) (h : s.groupPhaseDone lid g = true) :
    ∃ t, exec (.barrierPhaseComplete lid true g) s = .next t ∧ t.groupPhase lid g = s.groupPhase lid g + 1 ∧
      ∀ q, (q, s.squad q) ∈ s.records → (s.squad q).lid = lid → ∀ l ∈ (s.squad q).liveLanes,
        ∃ k stamp, t.thread q l = (s.thread q l).afterPhase (.barG g (s.groupPhase lid g)) k stamp := by
  refine ⟨_, congrArg Host.Outcome.next (if_pos h), ?_, fun q hq hlid l hl => ?_⟩
  · have hlaunches := s.bringParties_launches 4 (s.groupParties lid g)
    rw [State.groupPhase, State.launchOf_modLaunch, SMap.get_set_same]
    rwa [State.launch?, State.phaseOver_launches, hlaunches]
  · have hsquads := s.bringParties_squads 4 (s.groupParties lid g)
    generalize (s.bringParties 4 (s.groupParties lid g)).1 = u at hsquads ⊢
    have hsquad : u.squad q = s.squad q := by rw [State.squad, State.squad?, hsquads]; rfl
    have hmem : (q, u.squad q) ∈ u.records.filter fun r => r.2.lid == lid := by
      rw [hsquad, State.records_congr hsquads]
      exact List.mem_filter.mpr ⟨hq, by simpa using hlid⟩
    rw [State.thread_congr (State.modLaunch_squads ..), ← State.thread_congr hsquads q l]
    exact u.thread_phaseOver Wait.noConfusion hmem (hsquad ▸ hl)

end Sys2Proof.Machine
end

section
/-!
SUPPORT for O37. The gatherings of an enumerated group: it is assembled (R153), merges at MERGE (R157).
-/
namespace Sys2Proof.Machine

variable {s : State}

/-! ### The lanes of a group -/

/-- A lane of a group is a live lane of a bound record. -/
theorem State.mem_groupLanes {lid crew gbase gsize : Nat} {x : Nat × Nat × Nat} (h : x ∈ s.groupLanes lid crew gbase gsize) :
    x.2.1 ∈ (s.squad x.1).liveLanes := by
  obtain ⟨i, -, hx⟩ := List.mem_flatMap.mp h
  split at hx
  · exact absurd hx List.not_mem_nil
  · obtain ⟨l, hl, rfl⟩ := List.mem_map.mp hx
    exact hl

theorem State.isSome_of_groupLane {lid crew gbase gsize : Nat} {x : Nat × Nat × Nat} (h : x ∈ s.groupLanes lid crew gbase gsize) :
    (s.squad? x.1).isSome = true := State.isSome_of_live (State.mem_groupLanes h)

/-! ### ENUM: the group is assembled -/

@[simp] theorem State.openChunk_squads (s : State) (lid crew : Nat) (ch : Chunk) : (s.openChunk lid crew ch).squads = s.squads := rfl

theorem State.chunks_openChunk (s : State) (lid crew : Nat) (ch : Chunk) :
    ((s.openChunk lid crew ch).crewOf lid crew).chunks = (s.crewOf lid crew).chunks ++ [ch] := by
  simp [State.openChunk, State.scrambleHeader, State.modCrew, State.setCrew, State.crewOf]

/-- The candidates of the lanes of a group (R153). -/
def groupCandidates (s : State) (lanes : List (Nat × Nat × Nat)) : List Byte :=
  candidates (lanes.map fun x => (x.2.2, elem (s.thread x.1 x.2.1).gatherArgs.2.data 8 (x.2.2 / 32))) 256 []

/-- A lane of a group that is assembled: it starts from its candidate, or is parked where it has none (R153). -/
def Thread.enumerated (t : Thread) (now stamp : Nat) (c : Byte) : Thread :=
  if c = 0xFF then { t with wait := .parked, word := 0, lstop := 0xFC }
  else { (t.release stamp).writeAt now t.gatherArgs.1 ⟨c.zeroExtend 64, .i64⟩ with held := 0, lstop := 0 }

theorem Thread.regs_writeAt_congr {t u : Thread} (h : t.regs = u.regs) (now : Nat) (d : RegCode) (v : Reg) :
    (t.writeAt now d v).regs = (u.writeAt now d v).regs := by
  simp only [Thread.writeAt, Thread.write]
  split
  · exact h
  · split
    · simp only [Thread.put, h]
    · split <;> simp only [Thread.put, h]

/-- The chunk that a group opens (R153). -/
def groupChunk (s : State) (lid crew : Nat) (e : Desc) : Chunk :=
  ⟨e.gbase, e.gsize, e.entries, e.offset, false, false, 0, 0, groupCandidates s (s.groupLanes lid crew e.gbase e.gsize), 0, 0⟩

/-- A group is assembled: its chunk is open, and its lanes start or are parked (R153). -/
def State.assembled (s : State) (lid crew : Nat) (e : Desc) : State :=
  (s.openChunk lid crew (groupChunk s lid crew e)).modEach (s.groupLanes lid crew e.gbase e.gsize)
    fun x t => t.enumerated s.cycle (s.releaseStamp (s.squad x.1) t) ((groupCandidates s (s.groupLanes lid crew e.gbase e.gsize)).getD x.2.2 0xFF)

theorem State.chunks_assembled (s : State) (lid crew : Nat) (e : Desc) :
    ((s.assembled lid crew e).crewOf lid crew).chunks = (s.crewOf lid crew).chunks ++ [groupChunk s lid crew e] := by
  rw [State.assembled, State.crewOf, State.modEach_crews]
  exact s.chunks_openChunk lid crew _

theorem State.thread_assembled {lid crew : Nat} {e : Desc} (hnd : ((s.groupLanes lid crew e.gbase e.gsize).map fun x => (x.1, x.2.1)).Nodup)
    {x : Nat × Nat × Nat} (hx : x ∈ s.groupLanes lid crew e.gbase e.gsize) :
    (s.assembled lid crew e).thread x.1 x.2.1 = (s.thread x.1 x.2.1).enumerated s.cycle (s.releaseStamp (s.squad x.1) (s.thread x.1 x.2.1))
      ((groupCandidates s (s.groupLanes lid crew e.gbase e.gsize)).getD x.2.2 0xFF) :=
  State.thread_modEach_in _ hnd hx (State.isSome_of_groupLane hx)

theorem execEnumGroupAssembled_opens {lid crew base : Nat} {w : Word} (h : s.enumReady lid crew base = some w)
    (hcand : ∃ c ∈ groupCandidates s (s.groupLanes lid crew (descOf w).gbase (descOf w).gsize), c ≠ 0xFF) :
    execEnumGroupAssembled lid crew base s = .next (s.assembled lid crew (descOf w)) := by
  have hsome : (groupCandidates s (s.groupLanes lid crew (descOf w).gbase (descOf w).gsize)).all (· == 0xFF) = false := by
    simpa using hcand
  unfold execEnumGroupAssembled
  rw [h]
  refine congrArg Host.Outcome.next ((if_neg ?_).trans ?_)
  · exact Bool.not_eq_true _ ▸ hsome
  · rfl

theorem Thread.writeAt_frame (t : Thread) (now : Nat) (d : RegCode) (v : Reg) :
    t.writeAt now d v = { t with regs := (t.writeAt now d v).regs, pend := (t.writeAt now d v).pend } :=
  t.write_frame _ d v .sb

theorem Thread.enumerated_none (t : Thread) (now stamp : Nat) :
    (t.enumerated now stamp 0xFF).wait = .parked ∧ (t.enumerated now stamp 0xFF).lstop = 0xFC := ⟨rfl, rfl⟩

theorem Thread.enumerated_some (t : Thread) (now stamp : Nat) {c : Byte} (hc : c ≠ 0xFF) :
    (t.enumerated now stamp c).wait = .run ∧ (t.enumerated now stamp c).pc = t.pc + 4 ∧
      (t.enumerated now stamp c).regs = (t.writeAt now t.gatherArgs.1 ⟨c.zeroExtend 64, .i64⟩).regs := by
  rw [Thread.enumerated, if_neg hc]
  refine ⟨?_, ?_, ?_⟩
  · rw [Thread.writeAt_frame]; rfl
  · rw [Thread.writeAt_frame]; rfl
  · exact Thread.regs_writeAt_congr (t := t.release stamp) (u := t) rfl now t.gatherArgs.1 ⟨c.zeroExtend 64, .i64⟩

/-! ### MERGE -/

theorem execMergeGathering_merges {lid crew base : Nat} {ch : Chunk} (h : s.gathered lid crew base = some ch)
    (hms : s.atMerge (s.liveGroup lid crew ch) ≠ []) :
    execMergeGathering lid crew base s = .next ((s.mergePcs (s.atMerge (s.liveGroup lid crew ch))).foldl (fun st pc =>
      let here := (s.atMerge (s.liveGroup lid crew ch)).filter fun y => (s.thread y.1 y.2.1).pc == pc
      here.foldl (s.mergeOne lid crew base here) st) s) := by
  unfold execMergeGathering
  rw [h]
  exact congrArg Host.Outcome.next (if_neg hms)

section MergeOne

variable {lid crew base : Nat} {here : List (Nat × Nat × Nat)} {st : State} {x y : Nat × Nat × Nat}
  (hy : (here.find? fun z => (s.thread z.1 z.2.1).mergeKey == (s.thread x.1 x.2.1).mergeKey) = some y)
include hy

theorem State.mergeOne_lowest (hlow : y.2.2 = x.2.2) : s.mergeOne lid crew base here st x = st.releaseLanes x.1 [x.2.1] := by
  simp only [State.mergeOne, hy, hlow, if_true]

variable (hlow : y.2.2 ≠ x.2.2) {c : Chunk} (hc : (st.crewOf lid crew).chunkAt base = some c)
include hlow hc

theorem State.mergeOne_full (hfull : c.used = c.cap) : s.mergeOne lid crew base here st x = st.parkLane x.1 x.2.1 0xFE := by
  simp only [State.mergeOne, hy, hlow, hc, hfull, if_true, if_false]

theorem State.mergeOne_absorbed (hroom : c.used ≠ c.cap) : s.mergeOne lid crew base here st x =
    (st.appendEntry lid crew c (mergeRecord y.2.2 (s.thread y.1 y.2.1).held x.2.2)).parkLane x.1 x.2.1 0xFD := by
  simp only [State.mergeOne, hy, hlow, hc, hroom, if_false]

end MergeOne

end Sys2Proof.Machine
end

section
/-!
SUPPORT for O37. The bytes that the device writes to a crew's scratchpad (R216, R345), and what of the crew they leave as it was.
-/
namespace Sys2Proof.Machine

variable {s : State}

@[simp] theorem State.crewOf_modCrew_same (s : State) (lid c : Nat) (f : Crew → Crew) : (s.modCrew lid c f).crewOf lid c = f (s.crewOf lid c) :=
  SMap.get_set_same _ _ _ _

/-- What a write of n bytes to memory does to a crew: of the graph's requests under way, those that read there are marked (R287). -/
def Crew.noteSource (p : Place) (n : Nat) (c : Crew) : Crew :=
  { c with graph := { c.graph with running := c.graph.running.map fun r => if r.readsAt p n then { r with changed := true } else r } }

theorem State.crewOf_noteSource (s : State) (p : Place) (bs : List Byte) (lid c : Nat) :
    ∃ g, (s.noteSource p bs).crewOf lid c = { s.crewOf lid c with graph := g } := by
  unfold State.noteSource
  split
  · exact ⟨_, rfl⟩
  · have hcrew := SMap.get_map ({} : Crew) (Crew.noteSource p bs.length) rfl s.crews (crewKey lid c)
    exact ⟨_, hcrew⟩

/-! ### The chunks stay -/

@[simp] theorem State.chunks_noteSource (s : State) (p : Place) (bs : List Byte) (lid c : Nat) :
    ((s.noteSource p bs).crewOf lid c).chunks = (s.crewOf lid c).chunks := by
  obtain ⟨g, hg⟩ := s.crewOf_noteSource p bs lid c
  rw [hg]

@[simp] theorem State.chunks_putBytes (s : State) (lid c off : Nat) (bs : List Byte) :
    ((s.putBytes (.scratch lid c off) bs).crewOf lid c).chunks = (s.crewOf lid c).chunks := by simp [State.putBytes]

@[simp] theorem State.chunks_heal (s : State) (lid c off n : Nat) :
    ((s.heal (.scratch lid c off) n).crewOf lid c).chunks = (s.crewOf lid c).chunks := by simp [State.heal]

@[simp] theorem State.chunks_flipBit (s : State) (lid c off bit : Nat) :
    ((s.flipBit (.scratch lid c off) bit).crewOf lid c).chunks = (s.crewOf lid c).chunks := State.chunks_putBytes s lid c _ _

@[simp] theorem State.chunks_injectWrite (s : State) (lid c target off : Nat) :
    ((s.injectWrite lid c target (.scratch lid c off)).crewOf lid c).chunks = (s.crewOf lid c).chunks := by
  simp only [State.injectWrite]
  split
  · rfl
  · split
    · simp
    · split
      · simp
      · simp [State.crewOf, State.modCrew, State.setCrew]

@[simp] theorem State.chunks_landPart (s : State) (lid c off job va : Nat) (bs : List Byte) :
    ((s.landPart lid c (.scratch lid c off) job va bs).crewOf lid c).chunks = (s.crewOf lid c).chunks := by
  simp [State.landPart]

theorem State.chunks_putParts (lid c n off : Nat) (bs : List Byte) (s : State) :
    ((s.putParts lid c n off bs).crewOf lid c).chunks = (s.crewOf lid c).chunks := by
  induction n generalizing off bs s with
  | zero => rfl
  | succ n ih =>
    cases bs with
    | nil => rfl
    | cons b bs => exact (ih _ _ _).trans (s.chunks_landPart ..)

theorem State.chunks_putScratch (s : State) (lid c off : Nat) (bs : List Byte) :
    ((s.putScratch lid c off bs).crewOf lid c).chunks = (s.crewOf lid c).chunks := State.chunks_putParts ..

theorem State.putParts_squads (lid c n off : Nat) (bs : List Byte) (s : State) : (s.putParts lid c n off bs).squads = s.squads := by
  induction n generalizing off bs s with
  | zero => rfl
  | succ n ih =>
    cases bs with
    | nil => rfl
    | cons b bs => exact (ih _ _ _).trans (s.landPart_squads ..)

theorem State.putScratch_squads (s : State) (lid c off : Nat) (bs : List Byte) : (s.putScratch lid c off bs).squads = s.squads :=
  State.putParts_squads ..

/-! ### The bytes, where no injection is armed (R345) -/

theorem State.injectWrite_unarmed {lid c : Nat} (h : (s.crewOf lid c).inj.arm = false) (target : Nat) (p : Place) :
    s.injectWrite lid c target p = s := by
  simp [State.injectWrite, h]

/-- A part that lands in scratchpad where no injection is armed: its bytes are written, and none is armed after it. -/
theorem State.landPart_unarmed {lid c : Nat} (h : (s.crewOf lid c).inj.arm = false) (off job va : Nat) (bs : List Byte) :
    ((s.landPart lid c (.scratch lid c off) job va bs).crewOf lid c).scratch = (s.crewOf lid c).scratch.writeBytes off bs ∧
      ((s.landPart lid c (.scratch lid c off) job va bs).crewOf lid c).inj.arm = false := by
  obtain ⟨g, hg⟩ := s.crewOf_noteSource (.scratch lid c off) bs lid c
  have hcrew : ((((s.noteSource (.scratch lid c off) bs).putBytes (.scratch lid c off) bs).heal (.scratch lid c off) bs.length).crewOf lid c) =
      { s.crewOf lid c with graph := g, scratch := (s.crewOf lid c).scratch.writeBytes off bs, poison := healLine (s.crewOf lid c).poison off bs.length } := by
    simp [State.putBytes, State.heal, hg]
  have harm := congrArg (fun x : Crew => x.inj.arm) hcrew
  simp only [State.landPart, State.injectWrite_unarmed (harm.trans h), hcrew]
  exact ⟨trivial, h⟩

theorem Memory.writeBytes_take_drop (m : Memory) (a k : Nat) (bs : List Byte) :
    (m.writeBytes a (bs.take k)).writeBytes (a + k) (bs.drop k) = m.writeBytes a bs := by
  induction k generalizing m a bs with
  | zero => rfl
  | succ k ih =>
    cases bs with
    | nil => rfl
    | cons b bs =>
      have hnext : a + (k + 1) = a + 1 + k := Nat.add_right_comm a k 1
      rw [hnext]
      exact ih (m.write a b) (a + 1) bs

/-- The parts of a span are written one after another, like the span itself, where the parts reach to its end. -/
theorem State.scratch_putParts {lid c n off : Nat} {bs : List Byte} (harm : (s.crewOf lid c).inj.arm = false) (hn : off % 16 + bs.length ≤ 16 * n) :
    ((s.putParts lid c n off bs).crewOf lid c).scratch = (s.crewOf lid c).scratch.writeBytes off bs := by
  induction n generalizing off bs s with
  | zero =>
    obtain rfl : bs = [] := List.eq_nil_of_length_eq_zero (by omega)
    rfl
  | succ n ih =>
    cases bs with
    | nil => rfl
    | cons b bs =>
      obtain ⟨hscratch, harm'⟩ := State.landPart_unarmed harm off 0 0 ((b :: bs).take (16 - off % 16))
      refine (ih harm' ?_).trans ?_
      · rw [List.length_drop]
        omega
      · rw [hscratch, Memory.writeBytes_take_drop]

theorem State.scratch_putScratch {lid c : Nat} (harm : (s.crewOf lid c).inj.arm = false) (off : Nat) (bs : List Byte) :
    ((s.putScratch lid c off bs).crewOf lid c).scratch = (s.crewOf lid c).scratch.writeBytes off bs :=
  State.scratch_putParts harm (by omega)

end Sys2Proof.Machine
end

section
/-!
SUPPORT for O37. ENDCH: the chunk header is written, and the lanes hold the map (R149, R158).
-/
namespace Sys2Proof.Machine

variable {s : State}

/-! ### The header -/

theorem isAddrTag_iff (t : Tag) : isAddrTag t = true ↔ t = .raw64 ∨ t = .i64 := by
  cases t <;> decide

/-- The stop code of a lane of a group at ENDCH (R158). -/
def groupCode (s : State) (lanes : List (Nat × Nat × Nat)) (g : Nat) : Nat :=
  match lanes.find? (·.2.2 == g) with
  | none => 0xFC
  | some (q, l, _) =>
    if (s.thread q l).wait == .parked then (s.thread q l).lstop.toNat
    else if isAddrTag (s.thread q l).gatherArgs.2.tag then 0 else 2

/-- The exit byte of a lane of a group at ENDCH (R158). -/
def groupExit (s : State) (lanes : List (Nat × Nat × Nat)) (g : Nat) : Nat :=
  match lanes.find? (·.2.2 == g) with
  | none => 0xFF
  | some (q, l, _) => (s.thread q l).gatherArgs.2.data.toNat % 256

/-- The map's entry of one candidate: the exit of the lane where its chain of absorptions ends, if that lane has not stopped (R158). -/
def mapEntry (es : List HoldEntry) (cand : List Byte) (code exit : Nat → Nat) (m : List Byte) (g : Nat) : List Byte :=
  let c := cand.getD g 0xFF
  if c = 0xFF then m else
  let p := chainEnd es code 256 g
  if code p = 0 then m.set c.toNat (BitVec.ofNat 8 (exit p)) else m

theorem mapEntry_eq (es : List HoldEntry) (cand : List Byte) (code exit : Nat → Nat) (m : List Byte) (g : Nat) :
    mapEntry es cand code exit m g = if cand.getD g 0xFF ≠ 0xFF ∧ code (chainEnd es code 256 g) = 0 then
      m.set (cand.getD g 0xFF).toNat (BitVec.ofNat 8 (exit (chainEnd es code 256 g))) else m := by
  by_cases hc : cand.getD g 0xFF = 0xFF <;> simp only [mapEntry, hc, ne_eq, not_true_eq_false, not_false_eq_true, false_and, true_and, if_true, if_false]

/-- The map of a chunk (R158). -/
def chunkMap (es : List HoldEntry) (cand : List Byte) (code exit : Nat → Nat) : List Byte :=
  (List.range 256).foldl (mapEntry es cand code exit) (List.replicate 256 0xFF)

/-- The codes of all lanes of a group. -/
def lstopBytes (code : Nat → Nat) : List Byte := (List.range 256).map fun g => BitVec.ofNat 8 (code g)

theorem length_chunkMap (es : List HoldEntry) (cand : List Byte) (code exit : Nat → Nat) : (chunkMap es cand code exit).length = 256 := by
  refine (List.foldlRecOn (List.range 256) (mapEntry es cand code exit) (motive := fun m => m.length = 256) List.length_replicate ?_)
  intro m hm g _
  simp only [mapEntry]
  split
  · exact hm
  · split
    · rw [List.length_set, hm]
    · exact hm

theorem length_headerBytes {map cand : List Byte} (hmap : map.length = 256) (hcand : cand.length = 256) (readF : BitVec 2048) (code : Nat → Nat) :
    (headerBytes map readF cand (lstopBytes code)).length = 1024 := by
  simp [headerBytes, lstopBytes, bytesLE, hmap, hcand]

/-- The state in which a chunk's header is written and the chunk is pending (R158). -/
def State.endChunk (s : State) (lid crew : Nat) (ch : Chunk) (map : List Byte) (code : Nat → Nat) : State :=
  (s.putScratch lid crew ch.offset (headerBytes map ch.readF ch.cand (lstopBytes code))).modCrew lid crew fun c =>
    c.modChunk ch.gbase fun ch => { ch with pending := true }

theorem State.endChunk_squads (s : State) (lid crew : Nat) (ch : Chunk) (map : List Byte) (code : Nat → Nat) :
    (s.endChunk lid crew ch map code).squads = s.squads := s.putScratch_squads lid crew ch.offset _

theorem Crew.chunkAt_modChunk {c : Crew} {base : Nat} {ch : Chunk} (h : c.chunkAt base = some ch) {f : Chunk → Chunk}
    (hf : ∀ x, (f x).gbase = x.gbase) : (c.modChunk base f).chunkAt base = some (f ch) := by
  have hcomp : (fun x : Chunk => x.gbase == base) ∘ (fun x => if x.gbase = base then f x else x) = fun x => x.gbase == base := by
    funext x
    by_cases hx : x.gbase = base
    · simp [hx, hf]
    · simp [hx]
  have hbase : ch.gbase = base := by simpa using List.find?_some h
  rw [Crew.chunkAt, Crew.modChunk, List.find?_map, hcomp]
  rw [Crew.chunkAt] at h
  rw [h]
  exact congrArg some (if_pos hbase)

theorem State.chunkAt_endChunk {lid crew : Nat} {ch : Chunk} (h : (s.crewOf lid crew).chunkAt ch.gbase = some ch) (map : List Byte) (code : Nat → Nat) :
    ((s.endChunk lid crew ch map code).crewOf lid crew).chunkAt ch.gbase = some { ch with pending := true } := by
  rw [State.endChunk, State.crewOf_modCrew_same]
  refine Crew.chunkAt_modChunk ?_ fun _ => rfl
  rwa [Crew.chunkAt, State.chunks_putScratch]

theorem State.header_endChunk {lid crew : Nat} {ch : Chunk} (harm : (s.crewOf lid crew).inj.arm = false) {map : List Byte}
    (hmap : map.length = 256) (hcand : ch.cand.length = 256) (code : Nat → Nat) :
    ((s.endChunk lid crew ch map code).crewOf lid crew).scratch.readBytes ch.offset 1024 = headerBytes map ch.readF ch.cand (lstopBytes code) := by
  have hscratch : ((s.endChunk lid crew ch map code).crewOf lid crew).scratch =
      (s.crewOf lid crew).scratch.writeBytes ch.offset (headerBytes map ch.readF ch.cand (lstopBytes code)) := by
    rw [State.endChunk, State.crewOf_modCrew_same]
    exact State.scratch_putScratch harm _ _
  rw [hscratch, ← length_headerBytes hmap hcand ch.readF code, Memory.readBytes_writeBytes]

/-! ### The lanes -/

/-- A lane of a group after ENDCH (R158). -/
def Thread.chunkEnded (t : Thread) (now stamp : Nat) (rd : RegCode) (v : Reg) (pc : Word) (code : Nat) : Thread :=
  let u := t.writeAt now rd v
  if t.wait = .parked then { u with pc := pc + 4 }
  else if code = 0 then { u.release stamp with lstop := 0 } else { u.release stamp with wait := .parked, lstop := 2 }

theorem Thread.chunkEnded_parked {t : Thread} (h : t.wait = .parked) (now stamp : Nat) (rd : RegCode) (v : Reg) (pc : Word) (code : Nat) :
    t.chunkEnded now stamp rd v pc code = { t.writeAt now rd v with pc := pc + 4 } := if_pos h

theorem Thread.chunkEnded_zero {t : Thread} (h : t.wait ≠ .parked) (now stamp : Nat) (rd : RegCode) (v : Reg) (pc : Word) :
    t.chunkEnded now stamp rd v pc 0 = { (t.writeAt now rd v).release stamp with lstop := 0 } := if_neg h

theorem Thread.chunkEnded_stops {t : Thread} (h : t.wait ≠ .parked) {code : Nat} (hcode : code ≠ 0) (now stamp : Nat) (rd : RegCode) (v : Reg) (pc : Word) :
    t.chunkEnded now stamp rd v pc code = { (t.writeAt now rd v).release stamp with wait := .parked, lstop := 2 } :=
  (if_neg h).trans (if_neg hcode)

theorem Thread.regs_chunkEnded (t : Thread) (now stamp : Nat) (rd : RegCode) (v : Reg) (pc : Word) (code : Nat) :
    (t.chunkEnded now stamp rd v pc code).regs = (t.writeAt now rd v).regs := by
  simp only [Thread.chunkEnded]
  split
  · rfl
  · split <;> rfl

theorem Thread.pc_chunkEnded {t : Thread} {pc : Word} (h : t.wait ≠ .parked → t.pc = pc) (now stamp : Nat) (rd : RegCode) (v : Reg) (code : Nat) :
    (t.chunkEnded now stamp rd v pc code).pc = pc + 4 := by
  have hpc : (t.writeAt now rd v).pc = t.pc := by rw [Thread.writeAt_frame]
  by_cases hp : t.wait = .parked
  · rw [Thread.chunkEnded_parked hp]
  · rw [← h hp, ← hpc]
    by_cases hc : code = 0
    · rw [hc, Thread.chunkEnded_zero hp]
      rfl
    · rw [Thread.chunkEnded_stops hp hc]
      rfl

theorem State.gathered_chunkAt {lid crew base : Nat} {ch : Chunk} (h : s.gathered lid crew base = some ch) :
    (s.crewOf lid crew).chunkAt base = some ch := by
  unfold State.gathered at h
  split at h
  · cases h
  · next c hc =>
    dsimp only at h
    split at h
    · cases h
      exact hc
    · cases h

/-- A lane of a group that is not parked takes part in its chunk. -/
theorem State.mem_liveGroup {lid crew : Nat} {ch : Chunk} {x : Nat × Nat × Nat} (hx : x ∈ s.groupLanes lid crew ch.gbase ch.gsize)
    (h : (s.thread x.1 x.2.1).wait ≠ .parked) : x ∈ s.liveGroup lid crew ch := by
  have hlive : (s.thread x.1 x.2.1).live = true := (List.mem_filter.mp (State.mem_groupLanes hx)).2
  exact List.mem_filter.mpr ⟨hx, by simp [Thread.inRun, hlive, h]⟩

/-- Every live lane of a group waits at one ENDCH, at one PC (R158). -/
def State.AtOneEndch (s : State) (live : List (Nat × Nat × Nat)) (d : Nat) (pc : Word) : Prop :=
  ∀ x ∈ live, (∃ a, (s.thread x.1 x.2.1).wait = .endch d a) ∧ (s.thread x.1 x.2.1).pc = pc

theorem State.atEndch_all {live : List (Nat × Nat × Nat)} {d : Nat} {pc : Word} (h : s.AtOneEndch live d pc) : s.atEndch live = live := by
  refine List.filter_eq_self.mpr fun x hx => ?_
  obtain ⟨⟨a, ha⟩, -⟩ := h x hx
  simp [ha]

/-- The map of the chunk of a group at ENDCH (R158). -/
def groupMap (s : State) (lid crew : Nat) (ch : Chunk) : List Byte :=
  let lanes := s.groupLanes lid crew ch.gbase ch.gsize
  chunkMap (chunkEntries (s.crewOf lid crew) ch) ch.cand (groupCode s lanes) (groupExit s lanes)

/-- A group has ended its chunk at the ENDCH at pc with destination d (R158). -/
def State.groupEnded (s : State) (lid crew : Nat) (ch : Chunk) (d : Nat) (pc : Word) : State :=
  let lanes := s.groupLanes lid crew ch.gbase ch.gsize
  (s.endChunk lid crew ch (groupMap s lid crew ch) (groupCode s lanes)).modEach lanes fun x t =>
    t.chunkEnded s.cycle (s.releaseStamp (s.squad x.1) t) (BitVec.ofNat 6 d) (mapWord (groupMap s lid crew ch) x.2.1) pc (groupCode s lanes x.2.2)

theorem State.crewOf_groupEnded (s : State) (lid crew : Nat) (ch : Chunk) (d : Nat) (pc : Word) :
    (s.groupEnded lid crew ch d pc).crewOf lid crew =
      (s.endChunk lid crew ch (groupMap s lid crew ch) (groupCode s (s.groupLanes lid crew ch.gbase ch.gsize))).crewOf lid crew := by
  rw [State.crewOf, State.groupEnded, State.modEach_crews]
  rfl

theorem State.thread_groupEnded {lid crew d : Nat} {ch : Chunk} {pc : Word}
    (hnd : ((s.groupLanes lid crew ch.gbase ch.gsize).map fun x => (x.1, x.2.1)).Nodup)
    {x : Nat × Nat × Nat} (hx : x ∈ s.groupLanes lid crew ch.gbase ch.gsize) :
    (s.groupEnded lid crew ch d pc).thread x.1 x.2.1 = (s.thread x.1 x.2.1).chunkEnded s.cycle (s.releaseStamp (s.squad x.1) (s.thread x.1 x.2.1))
      (BitVec.ofNat 6 d) (mapWord (groupMap s lid crew ch) x.2.1) pc (groupCode s (s.groupLanes lid crew ch.gbase ch.gsize) x.2.2) := by
  have hsquads := s.endChunk_squads lid crew ch (groupMap s lid crew ch) (groupCode s (s.groupLanes lid crew ch.gbase ch.gsize))
  rw [State.groupEnded, State.thread_modEach_in _ hnd hx, State.thread_congr hsquads]
  rw [State.squad?, hsquads]
  exact State.isSome_of_groupLane hx

theorem execEndchMapWrite_writes {lid crew base d : Nat} {ch : Chunk} {pc : Word} (h : s.gathered lid crew base = some ch)
    (hlive : s.liveGroup lid crew ch ≠ []) (hd : d < 64) (hwait : s.AtOneEndch (s.liveGroup lid crew ch) d pc)
    (hlines : ∀ x ∈ s.groupLanes lid crew ch.gbase ch.gsize, (s.squad x.1).linesIn d = true) :
    execEndchMapWrite lid crew base s = .next (s.groupEnded lid crew ch d pc) := by
  unfold execEndchMapWrite
  rw [h]
  dsimp only
  cases hgroup : s.liveGroup lid crew ch with
  | nil => exact absurd hgroup hlive
  | cons x0 rest =>
    obtain ⟨q0, l0, g0⟩ := x0
    rw [hgroup] at hwait
    obtain ⟨⟨a, ha⟩, hpc⟩ := hwait (q0, l0, g0) List.mem_cons_self
    have hrd : (s.thread q0 l0).gatherArgs.1 = BitVec.ofNat 6 d := by simp [Thread.gatherArgs, ha]
    have hrdNat : (BitVec.ofNat 6 d).toNat = d := Nat.mod_eq_of_lt hd
    dsimp only at hpc ⊢
    rw [hrd, hpc, hrdNat, if_neg, if_neg]
    · rfl
    · rw [List.any_eq_true]
      rintro ⟨x, hx, hne⟩
      exact absurd (hwait x hx).2 (by simpa using hne)
    · rw [State.atEndch_all hwait]
      simpa using fun q l g hx => hlines (q, l, g) hx

end Sys2Proof.Machine
end

section
/-!
PROOFS of O37.
-/
namespace Sys2Proof.Machine

variable {s : State}

/-- R116: a REJOIN at which every thread waits. -/
theorem rejoinRelease_goes {q j : Nat} {sq : Squad} (hq : s.squad? q = some sq) (hfull : sq.joinFull j = true) (hone : sq.joinOne j = true)
    (hnow : sq.rejoinsLater s.cycle = false) :
    ∃ t, exec (.rejoinRelease q j) s = .next t ∧ (∀ l ∈ sq.joinLanes j, (t.thread q l).wait = .run ∧
      (t.thread q l).pc = (s.thread q l).pc + 4 ∧ (t.thread q l).sig = sigHash 0 ((s.thread q l).pc.truncate 32)) ∧
      (∀ p l, (p ≠ q ∨ l ∉ sq.joinLanes j) → t.thread p l = s.thread p l) := by
  refine ⟨_, congrArg Host.Outcome.next (State.settleRejoin_ready hq hfull hone hnow), fun l hl => ?_, fun p l hout => ?_⟩
  · rw [State.thread_setThreads_in _ _ _ _ (sq.joinLanes_nodup j) (by rw [hq]; rfl) hl]
    exact ⟨rfl, rfl, rfl⟩
  · exact State.thread_setThreads_out _ _ _ _ hout

/-- R142: a phase of a crew's barrier. -/
theorem barrierPhaseComplete_crew {lid n : Nat} (h : s.crewPhaseDone lid n = true) :
    ∃ t, exec (.barrierPhaseComplete lid false n) s = .next t ∧ (t.crewOf lid n).barPhase = (s.crewOf lid n).barPhase + 1 ∧
      ∀ q, (q, s.squad q) ∈ s.crewRecords lid n → ∀ l ∈ (s.squad q).liveLanes,
        (s.thread q l).wait = .barC (s.crewOf lid n).barPhase →
        (t.thread q l).wait = .run ∧ (t.thread q l).pc = (s.thread q l).pc + 4 := by
  obtain ⟨t, ht, hphase, hthreads⟩ := execBarrierPhaseComplete_crew h
  refine ⟨t, ht, hphase, fun q hq l hl hwait => ?_⟩
  obtain ⟨k, stamp, hthread⟩ := hthreads q hq l hl
  rw [hthread, Thread.afterPhase_waits hwait]
  exact ⟨rfl, rfl⟩

/-- R142, R143: a phase of a group's barrier. -/
theorem barrierPhaseComplete_group {lid g : Nat} (hs : (s.launch? lid).isSome = true) (h : s.groupPhaseDone lid g = true) :
    ∃ t, exec (.barrierPhaseComplete lid true g) s = .next t ∧ t.groupPhase lid g = s.groupPhase lid g + 1 ∧
      ∀ q, (q, s.squad q) ∈ s.records → (s.squad q).lid = lid → ∀ l ∈ (s.squad q).liveLanes,
        ((s.thread q l).wait = .barG g (s.groupPhase lid g) →
          (t.thread q l).wait = .run ∧ (t.thread q l).pc = (s.thread q l).pc + 4) ∧
        (∀ a, (s.thread q l).wait = .arrive g (s.groupPhase lid g) (.barG a) → (t.thread q l).wait = .barG g (s.groupPhase lid g + 1) ∧
          (t.thread q l).phaseG g = some (s.groupPhase lid g + 1)) ∧
        (∀ a, (s.thread q l).wait = .arrive g (s.groupPhase lid g) (.arriveG a) → (t.thread q l).wait = .run ∧
          (t.thread q l).pc = (s.thread q l).pc + 4 ∧ (t.thread q l).phaseG g = some (s.groupPhase lid g + 1)) := by
  obtain ⟨t, ht, hphase, hthreads⟩ := execBarrierPhaseComplete_group hs h
  refine ⟨t, ht, hphase, fun q hq hlid l hl => ?_⟩
  obtain ⟨k, stamp, hthread⟩ := hthreads q hq hlid l hl
  rw [hthread]
  refine ⟨fun hwait => ?_, fun a hwait => ?_, fun a hwait => ?_⟩
  · rw [Thread.afterPhase_waits hwait]
    exact ⟨rfl, rfl⟩
  · rw [Thread.afterPhase_barG hwait]
    exact ⟨rfl, Thread.phaseG_joinG ..⟩
  · rw [Thread.afterPhase_arriveG hwait]
    exact ⟨rfl, rfl, Thread.phaseG_joinG ..⟩

/-- R149, R158: a group at ENDCH. -/
theorem endchMapWrite_ends {lid crew base d : Nat} {ch : Chunk} {pc : Word} (h : s.gathered lid crew base = some ch)
    (hnd : ((s.groupLanes lid crew ch.gbase ch.gsize).map fun x => (x.1, x.2.1)).Nodup) (hlive : s.liveGroup lid crew ch ≠ []) (hd : d < 64)
    (hwait : s.AtOneEndch (s.liveGroup lid crew ch) d pc)
    (hlines : ∀ x ∈ s.groupLanes lid crew ch.gbase ch.gsize, (s.squad x.1).linesIn d = true) :
    let code := groupCode s (s.groupLanes lid crew ch.gbase ch.gsize)
    let map := groupMap s lid crew ch
    ∃ t, exec (.endchMapWrite lid crew base) s = .next t ∧ (t.crewOf lid crew).chunkAt base = some { ch with pending := true } ∧
      ((s.crewOf lid crew).inj.arm = false → ch.cand.length = 256 → (t.crewOf lid crew).scratch.readBytes ch.offset 1024 =
        map ++ bytesLE 256 ch.readF.toNat ++ ch.cand ++ lstopBytes code) ∧
      ∀ x ∈ s.groupLanes lid crew ch.gbase ch.gsize, (t.thread x.1 x.2.1).pc = pc + 4 ∧
        (t.thread x.1 x.2.1).regs = ((s.thread x.1 x.2.1).writeAt s.cycle (BitVec.ofNat 6 d) (mapWord map x.2.1)).regs ∧
        ((s.thread x.1 x.2.1).wait = .parked → (t.thread x.1 x.2.1).wait = .parked ∧
          (t.thread x.1 x.2.1).lstop = (s.thread x.1 x.2.1).lstop) ∧
        ((s.thread x.1 x.2.1).wait ≠ .parked → code x.2.2 = 0 → (t.thread x.1 x.2.1).wait = .run ∧ (t.thread x.1 x.2.1).lstop = 0) ∧
        ((s.thread x.1 x.2.1).wait ≠ .parked → code x.2.2 ≠ 0 → (t.thread x.1 x.2.1).wait = .parked ∧ (t.thread x.1 x.2.1).lstop = 2) := by
  intro code map
  have hchunk := State.gathered_chunkAt h
  obtain rfl : ch.gbase = base := by simpa using List.find?_some hchunk
  refine ⟨_, execEndchMapWrite_writes h hlive hd hwait hlines, ?_, fun harm hcand => ?_, fun x hx => ?_⟩
  · rw [State.crewOf_groupEnded]
    exact State.chunkAt_endChunk hchunk _ _
  · rw [State.crewOf_groupEnded]
    exact State.header_endChunk harm (length_chunkMap ..) hcand _
  · rw [State.thread_groupEnded hnd hx]
    have hpc (hp : (s.thread x.1 x.2.1).wait ≠ .parked) : (s.thread x.1 x.2.1).pc = pc := (hwait x (State.mem_liveGroup hx hp)).2
    refine ⟨Thread.pc_chunkEnded hpc .., Thread.regs_chunkEnded .., fun hp => ?_, fun hp hcode => ?_, fun hp hcode => ?_⟩
    · rw [Thread.chunkEnded_parked hp, Thread.writeAt_frame]
      exact ⟨hp, rfl⟩
    · rw [show groupCode s (s.groupLanes lid crew ch.gbase ch.gsize) x.2.2 = 0 from hcode, Thread.chunkEnded_zero hp]
      exact ⟨rfl, rfl⟩
    · rw [Thread.chunkEnded_stops hp hcode]
      exact ⟨rfl, rfl⟩

/-- Settles O37, gathering by gathering. At a REJOIN the lanes are one issue set's threads, each changed once. Of a phase's end a thread is moved once, however
often its record is named, for it no longer waits for that phase; what the phase's writes change on their way leaves squads and launches as they are. A chunk's header
is written in parts, which together are the whole span, and with them the crew keeps its chunks. -/
theorem gatheringsRelease : Obligations.GatheringsRelease := by
  unfold Obligations.GatheringsRelease
  refine ⟨fun q j s sq => rejoinRelease_goes, fun lid n s => barrierPhaseComplete_crew, fun lid g s => barrierPhaseComplete_group,
    fun lid crew base w s h => ?enum, fun lid crew base ch s h => ?merge, fun lid crew base d ch pc s h => ?endch⟩
  case enum =>
    intro e lanes cand hnd hcand
    refine ⟨_, execEnumGroupAssembled_opens h hcand, s.chunks_assembled lid crew e, fun x hx => ?_⟩
    rw [State.thread_assembled hnd hx]
    refine ⟨fun hnone => ?_, fun hsome => Thread.enumerated_some _ _ _ hsome⟩
    have hcode : (groupCandidates s (s.groupLanes lid crew (descOf w).gbase (descOf w).gsize)).getD x.2.2 0xFF = 0xFF := hnone
    rw [hcode]
    exact Thread.enumerated_none ..
  case merge =>
    intro ms hms
    refine ⟨execMergeGathering_merges h hms, fun here st x y c hy => ⟨State.mergeOne_lowest hy, fun hlow hc => ⟨fun hfull => ?_, fun hroom => ?_⟩⟩⟩
    · exact State.mergeOne_full hy hlow hc hfull
    · exact State.mergeOne_absorbed hy hlow hc hroom
  case endch =>
    intro lanes hnd hlive hd hwait hlines state code exit map
    have hcode : code = groupCode s lanes := by
      funext g
      simp only [code, groupCode, state]
      cases lanes.find? (·.2.2 == g) with
      | none => rfl
      | some x => simp only [beq_iff_eq, isAddrTag_iff]
    have hmap : map = groupMap s lid crew ch := by
      have hexit : exit = groupExit s lanes := by
        funext g
        simp only [exit, groupExit, state]
        cases lanes.find? (·.2.2 == g) <;> rfl
      simp only [map, groupMap, chunkMap, hcode, hexit]
      congr 1
      funext m g
      exact (mapEntry_eq ..).symm
    have hends := endchMapWrite_ends h hnd hlive hd hwait hlines
    rw [← hmap, ← hcode] at hends
    exact hends

end Sys2Proof.Machine
end

section
/-!
SUPPORT for O20. What the issue set performs together over values of its lanes (R127, R128): votes (R132), MATCH (R133), SCAN and REDUCE (R134).
-/
namespace Sys2Proof.Machine

variable {s : State} {i : Instr} {g : BitVec 2} {stall : Nat} {a d : RegCode}

/-! ### From the effect on a set to the instruction -/

/-- An instruction dispatched to an effect on the whole issue set, where its checks pass. -/
theorem exec_together {f : State → State → List Nat → Except SetTrap State} {t : State} (hexec : exec i s = .next (s.execSet i g stall f))
    (hr : s.ready i g = true) (hf : f (s.advanceAll i stall) s (s.active g) = .ok t) : exec i s = .next t := by
  rw [hexec, s.execSet_ok i g stall f hr hf]

/-- Every thread of an unguarded issue set changed once the set has moved past its instruction. -/
theorem State.advanceAll_modLanes (f : Nat → Thread → Thread) (hr : s.ready i 0 = true) :
    s.lanes.foldl (fun st l => st.modThread s.cur.q l (f l)) (s.advanceAll i stall) = s.ranTogether i 0 stall fun l => f l (s.past i stall l) := by
  simpa only [State.active_zero] using s.advanceAll_modThreads i 0 stall f _ ((s.ready_iff i 0).mp hr).1 fun _ _ => rfl

/-- A result written in every lane of an unguarded issue set. -/
theorem State.scatter_lanes (lat : Lat) (v : Nat → Reg) (hr : s.ready i 0 = true) :
    (s.advanceAll i stall).scatter s d lat (s.lanes.map fun l => (l, v l)) =
      s.ranTogether i 0 stall fun l => (s.past i stall l).write (s.ctx l) d (v l) lat := by
  simpa only [State.active_zero] using s.scatter_ok i 0 stall d lat v ((s.ready_iff i 0).mp hr).1

/-- A mask's bit written in every lane of an unguarded issue set. -/
theorem State.scatterK_lanes (k : Nat) (lat : Lat) (v : Nat → Bool) (hr : s.ready i 0 = true) :
    (s.advanceAll i stall).scatterK s k lat (s.lanes.map fun l => (l, v l)) =
      s.ranTogether i 0 stall fun l => (s.past i stall l).writeK (s.ctx l) k (v l) lat := by
  simpa only [State.active_zero] using s.scatterK_ok i 0 stall k lat v ((s.ready_iff i 0).mp hr).1

/-- Lanes that read registers of one accepted tag have it in common. -/
theorem State.commonTag_lanes {ok : Tag → Bool} {t : Tag} {ls : List Nat} (ht : ok t = true) (hp : t ≠ .poison) (hne : ls ≠ [])
    (h : ∀ l ∈ ls, (s.operand a l).tag = t) : commonTag ok (ls.map fun l => (l, s.operand a l)) = .ok t :=
  commonTag_ok ok _ t ht hp (List.forall_mem_map.mpr h) (by simpa using hne)

/-- Lanes that read registers of one accepted tag pass the check, without lanes too. -/
theorem State.commonTag_passes {ok : Tag → Bool} {t : Tag} {ls : List Nat} (ht : ok t = true) (hp : t ≠ .poison)
    (h : ∀ l ∈ ls, (s.operand a l).tag = t) : ∃ u, commonTag ok (ls.map fun l => (l, s.operand a l)) = .ok u := by
  by_cases hne : ls = []
  · exact ⟨.raw64, by simp [hne, commonTag_nil]⟩
  · exact ⟨t, State.commonTag_lanes ht hp hne h⟩

/-! ### Votes, ballots, MATCH -/

/-- An instruction that writes one verdict over the bits of km to kd of each thread (R132). -/
theorem exec_vote {m k : BitVec 3} (verdict : List (Nat × Bool) → Bool)
    (hexec : exec i s = .next (s.execSet i 0 0 fun s' s0 act => do
      let bs ← s0.gatherK act m
      .ok (s'.scatterK s0 k.toNat .sb (act.map fun l => (l, verdict bs)))))
    (hr : s.ready i 0 = true) (hm : ∀ l ∈ s.lanes, s.canReadK m.toNat l = true) :
    exec i s = .next (s.ranTogether i 0 0 fun l =>
      (s.past i 0 l).writeK (s.ctx l) k.toNat (verdict (s.lanes.map fun l => (l, s.maskBit m.toNat l))) .sb) := by
  refine exec_together hexec hr ?_
  simp only [State.active_zero, s.gatherK_ok s.lanes m hm, bind, Except.bind, State.scatterK_lanes _ _ _ hr]

theorem execBallot_ready {m : BitVec 3} (hr : s.ready (.ballot m d) 0 = true) (hm : ∀ l ∈ s.lanes, s.canReadK m.toNat l = true) :
    exec (.ballot m d) s = .next (s.ranTogether (.ballot m d) 0 0 fun l => (s.past (.ballot m d) 0 l).write (s.ctx l) d
      ⟨(maskOf (s.lanes.filter (s.maskBit m.toNat))).zeroExtend 64, .i64⟩ .sb) := by
  have hones : ((s.lanes.map fun l => (l, s.maskBit m.toNat l)).filter (·.2)).map (·.1) = s.lanes.filter (s.maskBit m.toNat) := by
    rw [List.filter_map, List.map_map]
    exact List.map_id _
  refine exec_together rfl hr ?_
  simp only [State.active_zero, s.gatherK_ok s.lanes m hm, bind, Except.bind, hones, State.scatter_lanes _ _ hr]

theorem matchTag_poison : matchTag .poison = false := rfl

theorem execMatchLanes_ready {t : Tag} (hr : s.ready (.matchLanes a d) 0 = true) (ht : matchTag t = true)
    (h : ∀ l ∈ s.lanes, s.canRead a l = true ∧ (s.operand a l).tag = t) :
    exec (.matchLanes a d) s = .next (s.ranTogether (.matchLanes a d) 0 0 fun l => (s.past (.matchLanes a d) 0 l).write (s.ctx l) d
      ⟨(maskOf (s.lanes.filter fun m => matchKey (s.operand a m) == matchKey (s.operand a l))).zeroExtend 64, .i64⟩ .sb) := by
  obtain ⟨u, hu⟩ := State.commonTag_passes (s := s) ht (fun e => by simp [e, matchTag_poison] at ht) fun l hl => (h l hl).2
  have hequal (r : Reg) := lanes_of_filter s.lanes (s.operand a) fun x => matchKey x == matchKey r
  refine exec_together rfl hr ?_
  simp only [State.active_zero, s.gather_ok s.lanes a fun l hl => (h l hl).1, bind, Except.bind, hu, List.map_map, Function.comp_def,
    hequal, State.scatter_lanes _ _ hr]

/-! ### SCAN and REDUCE -/

/-- The running values cut into the lanes' own: lane l has those at its place among the lanes. -/
theorem pieces_eq_map (n : Nat) {ls : List Nat} (nd : ls.Nodup) (rs : List Nat) :
    pieces n ls.length rs = ls.map fun l => (rs.drop (n * ls.idxOf l)).take n := by
  induction ls generalizing rs with
  | nil => rfl
  | cons m ls ih =>
    obtain ⟨hm, nd⟩ := List.nodup_cons.mp nd
    have htail : ∀ l ∈ ls, (rs.drop (n * (m :: ls).idxOf l)).take n = ((rs.drop n).drop (n * ls.idxOf l)).take n := fun l hl => by
      have hne : m ≠ l := fun e => hm (e ▸ hl)
      rw [List.idxOf_cons_ne _ hne, List.drop_drop, Nat.mul_succ, Nat.add_comm]
    rw [List.map_cons, List.map_congr_left htail, List.length_cons, pieces, ih nd, List.idxOf_cons_self, Nat.mul_zero, List.drop_zero]

/-- The elements of the issue set in a layout, in ascending lane order and, within a lane, element order (R134). -/
def State.laneElems (s : State) (lay : Tag) (a : RegCode) : List Nat := s.lanes.flatMap fun l => elems lay (s.operand a l).data

/-- The rounding mode of the lowest lane (R134). -/
def State.foldMode (s : State) : Rm := (rmOf (s.th (s.lanes.headD 0)).frm.toNat).plain

/-- What a lane receives of the running values: SCAN its own, REDUCE the last one in every element (R134). -/
def State.foldOut (s : State) (scan : Bool) (n : Nat) (rs : List Nat) (l : Nat) : List Nat :=
  if scan then (rs.drop (n * s.lanes.idxOf l)).take n else List.replicate n (rs.getLast?.getD 0)

theorem State.foldOuts_eq (s : State) (scan : Bool) (n : Nat) (rs : List Nat) :
    (if scan then pieces n s.lanes.length rs else s.lanes.map fun _ => List.replicate n (rs.getLast?.getD 0)) =
      s.lanes.map (s.foldOut scan n rs) := by
  cases scan with
  | true => exact pieces_eq_map n (lanesOf_nodup _) rs
  | false => rfl

theorem State.foldMode_eq (h : s.lanes ≠ []) :
    (rmOf ((s.lanes.head?.map fun l => (s.thread s.cur.q l).frm.toNat).getD 0)).plain = s.foldMode := by
  obtain ⟨l, ls, hls⟩ := List.exists_cons_of_ne_nil h
  simp [State.foldMode, hls, State.th]

theorem FoldOp.accepts_poison (op : FoldOp) : op.accepts .poison = false := by cases op <;> rfl

/-- A thread of the issue set after an instruction that the set performs together. -/
theorem State.thread_ranTogether {res : Nat → Thread} {l : Nat} (hr : s.ready i g = true) (hl : l ∈ s.active g) :
    (s.ranTogether i g stall res).thread s.cur.q l = res l := by
  have hbound : ((s.advanceAll i stall).squad? s.cur.q).isSome = true := by
    rw [State.advanceAll_eq, State.setThreads_isSome]
    exact ((s.ready_iff i g).mp hr).1
  exact State.thread_setThreads_in _ _ _ _ (s.active_nodup g) hbound hl

/-- The thread of a lane that has received its elements of a fold. -/
def State.folded (s : State) (i : Instr) (op : FoldOp) (scan : Bool) (t : Tag) (a d : RegCode) (l : Nat) : Thread :=
  let lay := op.layout t
  let rs := (foldRun (op.step lay s.foldMode) none (s.laneElems lay a)).1
  (s.past i 0 l).write (s.ctx l) d ⟨ofElems (tagWidth lay) (s.foldOut scan (tagCount lay) rs l), t⟩ .sb

/-- What the lanes receive of the running values, written in each of them. -/
theorem State.scatter_foldOuts {scan : Bool} {n w : Nat} {t : Tag} (rs : List Nat) (hr : s.ready i 0 = true) :
    (s.advanceAll i 0).scatter s d .sb (((s.lanes.map fun l => (l, s.operand a l)).zip
        (if scan then pieces n s.lanes.length rs else s.lanes.map fun _ => List.replicate n (rs.getLast?.getD 0))).map
          fun x => (x.1.1, ⟨ofElems w x.2, t⟩)) =
      s.ranTogether i 0 0 fun l => (s.past i 0 l).write (s.ctx l) d ⟨ofElems w (s.foldOut scan n rs l), t⟩ .sb := by
  rw [State.foldOuts_eq, List.zip_map', List.map_map]
  exact State.scatter_lanes .sb _ hr

/-- SCAN or REDUCE of registers of one accepted tag. -/
theorem State.laneFold_ready {op : FoldOp} {scan : Bool} {t : Tag} (hr : s.ready i 0 = true) (ht : op.accepts t = true) (hne : s.lanes ≠ [])
    (h : ∀ l ∈ s.lanes, s.canRead a l = true ∧ (s.operand a l).tag = t) :
    s.laneFold i op scan a d = (s.ranTogether i 0 0 (s.folded i op scan t a d)).setThreads s.cur.q s.lanes fun l =>
      (s.folded i op scan t a d l).raise (foldFlags op (op.layout t) (s.laneElems (op.layout t) a)
        (foldRun (op.step (op.layout t) s.foldMode) none (s.laneElems (op.layout t) a)).2) := by
  have hcommon := State.commonTag_lanes (s := s) (a := a) ht (fun e => by simp [e, op.accepts_poison] at ht) hne fun l hl => (h l hl).2
  refine s.execSet_ok i 0 0 _ hr ?_
  simp only [State.active_zero, s.gather_ok s.lanes a fun l hl => (h l hl).1, bind, Except.bind, hcommon, State.foldMode_eq hne, List.length_map,
    List.map_map, Function.comp_def, List.flatMap_map, State.scatter_foldOuts _ hr]
  refine congrArg Except.ok (State.foldl_modThread _ _ _ (fun _ t => t.raise _) _ (lanesOf_nodup _) fun l hl => ?_)
  rw [State.thread_ranTogether hr (s.active_zero.symm ▸ hl)]
  rfl

/-- An instruction that folds the elements of its issue set. -/
def RunsFold (i : RegCode → RegCode → Instr) (op : FoldOp) (scan : Bool) : Prop :=
  ∀ a d s, exec (i a d) s = .next (s.laneFold (i a d) op scan a d)

theorem folds_runFold : ∀ p ∈ ([(.scanAdd, .add, true), (.scanMin, .min, true), (.scanMax, .max, true), (.reduceAdd, .add, false),
    (.reduceMin, .min, false), (.reduceMax, .max, false), (.scanMinU, .minU, true), (.scanMaxU, .maxU, true), (.reduceMinU, .minU, false),
    (.reduceMaxU, .maxU, false), (.reduceAnd, .and, false), (.reduceOr, .or, false), (.reduceXor, .xor, false)] :
    List ((RegCode → RegCode → Instr) × FoldOp × Bool)), RunsFold p.1 p.2.1 p.2.2 := by
  simp only [List.forall_mem_cons]
  exact ⟨fun _ _ _ => rfl, fun _ _ _ => rfl, fun _ _ _ => rfl, fun _ _ _ => rfl, fun _ _ _ => rfl, fun _ _ _ => rfl, fun _ _ _ => rfl,
    fun _ _ _ => rfl, fun _ _ _ => rfl, fun _ _ _ => rfl, fun _ _ _ => rfl, fun _ _ _ => rfl, fun _ _ _ => rfl, fun _ h => nomatch h⟩

/-- Settles O20: votes and MATCH by what their lanes hold, each SCAN and REDUCE as one fold over the elements of the issue set. -/
theorem crossLaneOperationsComplete : Obligations.CrossLaneOperationsComplete := by
  unfold Obligations.CrossLaneOperationsComplete
  refine ⟨?_, fun m d s hr hm => execBallot_ready hr hm, fun a d s t hr ht h => execMatchLanes_ready hr ht h, ?_⟩
  · simp only [List.forall_mem_cons]
    refine ⟨fun m k s hr hm => ?_, fun m k s hr hm => ?_, fun _ h => nomatch h⟩
    · have hvote := exec_vote (k := k) (List.all · (·.2)) rfl hr hm
      rw [List.all_map] at hvote
      exact hvote
    · have hvote := exec_vote (k := k) (List.any · (·.2)) rfl hr hm
      rw [List.any_map] at hvote
      exact hvote
  · intro p hp a d s t hr ht hne h
    exact (folds_runFold p hp a d s).trans (congrArg Host.Outcome.next (State.laneFold_ready hr ht hne h))

end Sys2Proof.Machine
end

section
/-!
SUPPORT for O21. The byte network (R135, R136) and the map unit (R137, R159) at an issue set that may run them.
-/
namespace Sys2Proof.Machine

variable {s : State}

/-! ### Bytes of a squad's register -/

/-- A byte position of lanes that hold registers: the byte of its lane, or the default where the lane is not among them (R34). -/
theorem squadByte_lanes (ls : List Nat) (v : Nat → Reg) (dflt p : Nat) :
    squadByte (ls.map fun l => (l, v l)) dflt p = if p / 8 ∈ ls then elem (v (p / 8)).data 8 (p % 8) else dflt := by
  have hfind : (ls.map fun l => (l, v l)).find? (fun x => x.1 == p / 8) = if p / 8 ∈ ls then some (p / 8, v (p / 8)) else none := by
    induction ls with
    | nil => rfl
    | cons l ls ih =>
      by_cases h : l = p / 8
      · simp [h]
      · simp [h, Ne.symm h, ih]
  by_cases h : p / 8 ∈ ls
  · simp [squadByte, hfind, h]
  · simp [squadByte, hfind, h]

/-- Lanes that read MAP8 registers pass the check for them. -/
theorem map8_passes {c : RegCode} {ls : List Nat} (h : ∀ l ∈ ls, (s.operand c l).tag = .map8) :
    ∃ t, commonTag (· == .map8) (ls.map fun l => (l, s.operand c l)) = .ok t := State.commonTag_passes rfl (by decide) h

/-! ### SETNET -/

/-- A map that takes each position to another one names none twice (R135). -/
theorem noneTwice_of_injective {f : Nat → Nat} {n : Nat} (h : ∀ p < n, ∀ r < n, f p = f r → p = r) :
    ((List.range n).map f).any (fun x => decide (1 < ((List.range n).map f).count x)) = false := by
  have hnodup : ((List.range n).map f).Nodup :=
    List.Nodup.map_on (fun p hp r hr => h p (List.mem_range.mp hp) r (List.mem_range.mp hr)) List.nodup_range
  exact List.any_eq_false.mpr fun x _ => by simpa using List.nodup_iff_count_le_one.mp hnodup x

/-- The byte that each position of the network takes from the issue set's maps; a position of another lane keeps its own (R135). -/
def State.netByte (s : State) (a : RegCode) (p : Nat) : Nat := if p / 8 ∈ s.lanes then elem (s.operand a (p / 8)).data 8 (p % 8) else p

/-- SETNET of a permutation. -/
theorem execSetnet_permutation {a : RegCode} {n : BitVec 2} (hr : s.ready (.setnet a n) 0 = true)
    (h : ∀ l ∈ s.lanes, s.canRead a l = true ∧ (s.operand a l).tag = .map8)
    (hperm : ∀ p < 256, ∀ r < 256, s.netByte a p = s.netByte a r → p = r) :
    exec (.setnet a n) s = .next ((s.advanceAll (.setnet a n) 0).modSquad s.cur.q fun sq =>
      { sq with nPend := sq.nPend ++ [⟨n.toNat, (List.range 256).map fun p => BitVec.ofNat 8 (s.netByte a p), s.cycle + 64, maskOf s.lanes⟩] }) := by
  obtain ⟨hread, htag⟩ := forall₂_and.mp h
  obtain ⟨t, ht⟩ := map8_passes htag
  have hmap : ((List.range 256).map fun p => squadByte (s.lanes.map fun l => (l, s.operand a l)) p p) = (List.range 256).map (s.netByte a) :=
    List.map_congr_left fun _ _ => squadByte_lanes ..
  refine exec_together rfl hr ?_
  simp only [State.active_zero, s.gather_ok _ a hread, bind, Except.bind, ht, hmap, noneTwice_of_injective hperm,
    Bool.false_eq_true, if_false, List.map_map, Function.comp_def]

/-! ### Bytes that the active lanes hold -/

/-- A byte of a register of the active lanes; a byte of another lane reads as the default (R34). -/
def State.activeByte (s : State) (g : BitVec 2) (c : RegCode) (dflt p : Nat) : Nat :=
  if p / 8 ∈ s.active g then elem (s.operand c (p / 8)).data 8 (p % 8) else dflt

theorem State.squadByte_active (s : State) (g : BitVec 2) (c : RegCode) (dflt : Nat) :
    squadByte ((s.active g).map fun l => (l, s.operand c l)) dflt = s.activeByte g c dflt := funext fun _ => squadByte_lanes ..

theorem moveTag_ne_poison {t : Tag} (h : moveTag t = true) : t ≠ .poison := fun e => by simp [e, moveTag] at h

theorem execNetmv_ready {f : FRN} {t : Tag} (hr : s.ready (.netmv f) f.g = true) (ht : moveTag t = true)
    (h : ∀ l ∈ s.active f.g, s.canRead f.a l = true ∧ (s.operand f.a l).tag = t) (hne : s.active f.g ≠ []) :
    exec (.netmv f) s = .next (s.ranTogether (.netmv f) f.g f.s.toNat fun l => (s.past (.netmv f) f.s.toNat l).write (s.ctx l) f.d
      ⟨ofElems 8 ((List.range 8).map fun b => s.activeByte f.g f.a 0 ((s.squad s.cur.q).perm f.n.toNat (8 * l + b))), t⟩ latNet) := by
  obtain ⟨hread, htag⟩ := forall₂_and.mp h
  obtain ⟨hbound, -, -⟩ := (s.ready_iff _ _).mp hr
  refine exec_together rfl hr ?_
  simp only [s.gather_ok _ f.a hread, bind, Except.bind, State.commonTag_lanes ht (moveTag_ne_poison ht) hne htag, State.squadByte_active,
    s.scatter_ok (.netmv f) f.g f.s.toNat f.d latNet _ hbound]

theorem execGatherb_ready {f : FR} {t : Tag} (hr : s.ready (.gatherb f) f.g = true) (ht : moveTag t = true)
    (h : ∀ l ∈ s.active f.g, s.canRead f.a l = true ∧ (s.operand f.a l).tag = t ∧ s.holds indexTag f.b l = true) (hne : s.active f.g ≠ []) :
    exec (.gatherb f) s = .next (s.ranTogether (.gatherb f) f.g f.s.toNat fun l => (s.past (.gatherb f) f.s.toNat l).write (s.ctx l) f.d
      ⟨ofElems 8 ((elems .map8 (s.operand f.b l).data).map (s.activeByte f.g f.a 0)), t⟩ latMap) := by
  simp only [forall₂_and] at h
  obtain ⟨hread, htag, hindex⟩ := h
  obtain ⟨hbound, -, -⟩ := (s.ready_iff _ _).mp hr
  refine exec_together rfl hr ?_
  simp only [s.gather_ok _ f.a hread, bind, Except.bind, State.commonTag_lanes ht (moveTag_ne_poison ht) hne htag,
    s.gatherSrc_ok _ indexTag f.b hindex, State.squadByte_active, List.map_map, Function.comp_def,
    s.scatter_ok (.gatherb f) f.g f.s.toNat f.d latMap _ hbound]

theorem execCompose_ready {f : FR} (hr : s.ready (.compose f) f.g = true)
    (h : ∀ l ∈ s.active f.g, s.canRead f.a l = true ∧ (s.operand f.a l).tag = .map8 ∧ s.canRead f.b l = true ∧ (s.operand f.b l).tag = .map8) :
    exec (.compose f) s = .next (s.ranTogether (.compose f) f.g f.s.toNat fun l => (s.past (.compose f) f.s.toNat l).write (s.ctx l) f.d
      ⟨ofElems 8 ((elems .map8 (s.operand f.a l).data).map fun x => if x = 255 then 255 else s.activeByte f.g f.b 255 x), .map8⟩ latMap) := by
  simp only [forall₂_and] at h
  obtain ⟨hreadA, htagA, hreadB, htagB⟩ := h
  obtain ⟨ta, hta⟩ := map8_passes htagA
  obtain ⟨tb, htb⟩ := map8_passes htagB
  obtain ⟨hbound, -, -⟩ := (s.ready_iff _ _).mp hr
  refine exec_together rfl hr ?_
  simp only [s.gather_ok _ f.a hreadA, s.gather_ok _ f.b hreadB, bind, Except.bind, hta, htb, State.squadByte_active, List.map_map, Function.comp_def,
    s.scatter_ok (.compose f) f.g f.s.toNat f.d latMap _ hbound]

/-- Settles O21: SETNET because a permutation names no position twice, the others because a byte is looked up in the active lanes alone. -/
theorem networkAndMapsComplete : Obligations.NetworkAndMapsComplete := by
  unfold Obligations.NetworkAndMapsComplete
  exact ⟨fun a n s hr h hperm => execSetnet_permutation hr h hperm, fun f s t hr ht h hne => execNetmv_ready hr ht h hne,
    fun f s t hr ht h hne => execGatherb_ready hr ht h hne, fun f s hr h => execCompose_ready hr h⟩

end Sys2Proof.Machine
end

section
/-!
SUPPORT for O23. SPLIT of a join register that threads wait for (R130).
-/
namespace Sys2Proof.Machine

variable {s : State}

/-- A trap leaves the join registers of the squad that takes it. -/
theorem State.takeTrap_keepsJoins (s : State) (q cause : Nat) (m : BitVec 32) (ad e : Word) :
    ((s.takeTrap q cause m ad e).squad q).j = (s.squad q).j := by
  rw [State.takeTrap, State.squad, State.squad?_modSquad, if_pos rfl, State.squad]
  cases s.squad? q <;> rfl

/-- The threads of the executing squad that wait at a REJOIN of a register. -/
def State.waitingAt (s : State) (n : Nat) : List Nat := (s.squad s.cur.q).liveLanes.filter fun l => (s.th l).atRejoin n

theorem execSplit_awaited {j : BitVec 2} (hr : s.ready (.split j) 0 = true) (hwait : s.waitingAt j.toNat ≠ []) :
    exec (.split j) s = .next (s.takeTrap s.cur.q 0x0A (maskOf s.lanes ||| maskOf (s.waitingAt j.toNat)) 0 s.cur.pc) := by
  refine congrArg Host.Outcome.next (State.execSet_trap (t := ⟨0x0A, 0⟩) hr ?_ (by decide))
  rw [State.active_zero]
  exact if_neg hwait

/-- Settles O23: the check for waiting threads fails, and a trap writes no join register. -/
theorem splitOfAwaitedJoinTraps : Obligations.SplitOfAwaitedJoinTraps := by
  unfold Obligations.SplitOfAwaitedJoinTraps
  intro j s hr waiting hwait
  have htrap := execSplit_awaited hr hwait
  refine ⟨htrap, fun t ht => ?_⟩
  rw [htrap] at ht
  injection ht with ht
  rw [← ht, s.takeTrap_keepsJoins]

end Sys2Proof.Machine
end

section
/-!
SUPPORT for O25. Barriers of crews and groups (R141-R143), fences and ICINV that need not wait (R226, R248, R316), YIELD (R322).
-/
namespace Sys2Proof.Machine

variable {s : State} {i : Instr} {a : RegCode}

/-! ### Barriers -/

theorem execBarC_ready (hr : s.ready .barC 0 = true) :
    let sq := s.squad s.cur.q
    let p := (s.crewOf sq.lid sq.crew).barPhase
    exec .barC s = .next ((s.ranTogether .barC 0 0 fun l =>
      { (s.past .barC 0 l).waitAt (s.ctx l) .barC (.barC p) with arrC := some (p, s.seq) }).settleFuses sq.lid sq.crew) := by
  intro sq p
  refine exec_together rfl hr ?_
  rw [State.active_zero]
  exact congrArg (fun t : State => Except.ok (t.settleFuses _ _)) (State.advanceAll_modLanes _ hr)

/-- The group that a lane's register names, where its crew belongs to it (R141). -/
def State.groupSrc (s : State) (a : RegCode) (l : Nat) : Except Trap Reg := do
  let v ← (s.th l).src (s.ctx l) isAddrTag a
  if decide (v.data.toNat < 256) && decide (v.data.toNat < (s.launchOf (s.squad s.cur.q).lid).groups.length) &&
      inRanges ((s.launchOf (s.squad s.cur.q).lid).group v.data.toNat) (s.squad s.cur.q).crew then .ok v
  else .error ⟨0x01, 0⟩

/-- A group below 256 that the launch has and that the crew of the executing squad belongs to (R141). -/
def State.inGroup (s : State) (g : Nat) : Prop :=
  g < 256 ∧ g < (s.launchOf (s.squad s.cur.q).lid).groups.length ∧
    inRanges ((s.launchOf (s.squad s.cur.q).lid).group g) (s.squad s.cur.q).crew = true

theorem State.groupSrc_ok {g l : Nat} (hin : s.inGroup g) (hholds : s.holds isAddrTag a l = true) (hv : (s.operand a l).data.toNat = g) :
    s.groupSrc a l = .ok (s.operand a l) := by
  obtain ⟨hg, hlen, hmember⟩ := hin
  have hsrc : (s.th l).src (s.ctx l) isAddrTag a = .ok (s.operand a l) := s.src_ok hholds
  simp [State.groupSrc, hsrc, bind, Except.bind, hv, hg, hlen, hmember]

/-- Lanes that all name one group of their crew. -/
theorem State.groupOperand_ok {g : Nat} (hne : s.lanes ≠ []) (hin : s.inGroup g)
    (h : ∀ l ∈ s.lanes, s.holds isAddrTag a l = true ∧ (s.operand a l).data.toNat = g) : s.groupOperand s.lanes a = .ok g := by
  have hgather := gatherLanes_ok s.lanes (s.groupSrc a) (s.operand a) fun l hl => State.groupSrc_ok hin (h l hl).1 (h l hl).2
  obtain ⟨m, ms, hms⟩ := List.exists_cons_of_ne_nil hne
  have hm : (s.operand a m).data.toNat = g := (h m (by simp [hms])).2
  have hfirst : ((s.lanes.map fun l => (l, s.operand a l)).head?.map (·.2.data)).getD 0 = (s.operand a m).data := by simp [hms]
  have hodd : ((s.lanes.map fun l => (l, s.operand a l)).filter fun x => x.2.data != (s.operand a m).data) = [] := by
    simpa [List.filter_eq_nil_iff] using fun l hl => BitVec.eq_of_toNat_eq ((h l hl).2.trans hm.symm)
  unfold State.groupSrc State.th at hgather
  simp only [State.groupOperand, hgather]
  simp only [bind, Except.bind, hfirst, hodd, List.map_nil, ne_eq, not_true_eq_false, if_false, hm]

/-- An instruction at the barrier of a group that its lanes name: `change` is what it makes of a thread, given the group, its phase and the
arrival's number. -/
theorem exec_atGroup {g : Nat} (change : Ctx → Nat → Nat → Nat → Thread → Thread)
    (hexec : exec i s = .next (s.execSet i 0 0 fun s' s0 act => do
      let g ← s0.groupOperand act a
      .ok ((act.foldl (fun st l => st.modThread s0.cur.q l
        (change (s0.ctx l) g (s0.groupPhase (s0.squad s0.cur.q).lid g) s0.seq)) s').settleFuses (s0.squad s0.cur.q).lid (s0.squad s0.cur.q).crew)))
    (hr : s.ready i 0 = true) (hg : s.groupOperand s.lanes a = .ok g) :
    exec i s = .next ((s.ranTogether i 0 0 fun l => change (s.ctx l) g (s.groupPhase (s.squad s.cur.q).lid g) s.seq (s.past i 0 l)).settleFuses
      (s.squad s.cur.q).lid (s.squad s.cur.q).crew) := by
  refine exec_together hexec hr ?_
  simp only [State.active_zero, hg, bind, Except.bind, State.advanceAll_modLanes _ hr]

/-! ### Fences -/

/-- A fence that none of its lanes must wait for fixes the earlier loads of each (R226). -/
theorem State.fence_passes {scope : Nat} {full : Bool} (hr : s.ready i 0 = true)
    (h : ∀ l ∈ s.lanes, s.fenced (s.squad s.cur.q).ref l scope full s.seq = true) :
    s.fence i scope full = s.lanes.foldl (fun st l => st.fixFence (s.squad s.cur.q).ref l scope full) (s.advanceAll i 0) := by
  refine s.execSet_ok i 0 0 _ hr (congrArg Except.ok ?_)
  rw [State.active_zero]
  exact List.foldl_ext _ _ _ fun st l hl => if_pos (h l hl)

theorem fences_runFence : ∀ p ∈ [(Instr.fenceSquad, 1, false), (.fenceCrew, 2, false), (.fenceGang, 3, false), (.fenceDevice, 4, false),
    (.fenceSystem, 4, false), (.fenceFull, 4, true)], ∀ s : State, exec p.1 s = .next (s.fence p.1 p.2.1 p.2.2) := by
  simp only [List.forall_mem_cons]
  exact ⟨fun _ => rfl, fun _ => rfl, fun _ => rfl, fun _ => rfl, fun _ => rfl, fun _ => rfl, fun _ h => nomatch h⟩

theorem execIcinv_passes (hr : s.ready .icinv 0 = true) (h : ∀ l ∈ s.lanes, s.fenced (s.squad s.cur.q).ref l 4 true s.seq = true) :
    exec .icinv s = .next (s.advanceAll .icinv 0).emptyCode := by
  refine exec_together rfl hr ?_
  rw [State.active_zero]
  exact if_pos (List.all_eq_true.mpr h)

/-- Settles O25: barriers by what each makes of a thread, fences and ICINV because no lane of theirs must wait. -/
theorem barriersAndFencesComplete : Obligations.BarriersAndFencesComplete := by
  unfold Obligations.BarriersAndFencesComplete
  refine ⟨fun s hr => execBarC_ready hr, ?_, fun p hp s hr h => ?_,
    fun s hr h => execIcinv_passes hr h, fun s hr => exec_together rfl hr rfl⟩
  · intro a s g hne h hg sq la p here put hlen hin
    have hop := State.groupOperand_ok hne ⟨hg, hlen, hin⟩ h
    refine ⟨fun hr => ?_, fun hr => ?_, fun hr => ?_⟩
    · exact exec_atGroup (fun cx g p n t => t.arriveG cx (.barG a) g p n true) rfl hr hop
    · exact exec_atGroup (fun cx g p n t => t.arriveG cx (.arriveG a) g p n false) rfl hr hop
    · exact exec_atGroup (fun cx g p _ t => t.waitG cx (.waitG a) g p) rfl hr hop
  · exact (fences_runFence p hp s).trans (congrArg Host.Outcome.next (State.fence_passes hr h))

end Sys2Proof.Machine
end

section
/-!
REFUTATION of O14. The state keeps a crew under the number launch × 2^32 + crew (crewKey), so that crew 2^32 of a launch, which no launch record can name (R103: CREWSM1
is at most 2^32 − 1), has one place with crew 0 of the next launch. The clause on what a withheld store leaves speaks of every context, also of one in such a crew: its
frame leaves out the entry's bytes under the one name of the scratchpad, while they change under the other. For crews below 2^32 the two names never meet.
-/
namespace Sys2Proof.Machine

/-- An open chunk of ENUM with 32 free entries, of the group of squad 0. -/
def emptyChunk : Chunk := ⟨0, 0, 64, 0, false, false, 0, 0, [], 0, 0⟩

/-- A crew numbered 2^32 of launch 0 that has this chunk open. -/
def farCrew : State := { squads := [(0, some {})], crews := [(2 ^ 32, { chunks := [emptyChunk] })] }

/-- Lane 0 of squad 0 of that crew. -/
def farCtx : Ctx := { crew := 2 ^ 32 }

/-- A store of 8 bytes that is withheld there: its MASK, in byte 16 of the entry, is read in the scratchpad of crew 0 of launch 1 too. -/
theorem byteAt_hold_far : (farCrew.hold farCtx (.plain 0) 0 8 0).byteAt (.scratch 1 0 1040) = 0xFF ∧ farCrew.byteAt (.scratch 1 0 1040) = 0 := by
  decide +kernel

/-- Refutes O14: the entry that a store of crew 2^32 of launch 0 appends changes a byte of the scratchpad of crew 0 of launch 1, which the frame leaves as it was. -/
theorem not_regionAccessesComplete : ¬ Obligations.RegionAccessesComplete := by
  unfold Obligations.RegionAccessesComplete
  rintro ⟨-, hhold, -⟩
  obtain ⟨-, -, -, -, hframe⟩ := hhold farCrew farCtx (.plain 0) 0 8 0 emptyChunk rfl (by decide +kernel) (by decide) (by decide +kernel)
  have hsame := hframe (.scratch 1 0 1040) fun o ho => by simp [farCtx] at ho
  obtain ⟨hafter, hbefore⟩ := byteAt_hold_far
  exact absurd (hafter.symm.trans (hsame.trans hbefore)) (by decide)

end Sys2Proof.Machine
end

section
/-!
SUPPORT for O29. RUNNEW, ENUM and ENUM.ONE, MERGE, and the ENDCH that waits (R152, R153, R157, R158, R164).
-/
namespace Sys2Proof.Machine

variable {s : State} {a b d : RegCode} {w : Word}

/-! ### Descriptors -/

/-- The lanes of the issue set hold one descriptor (R148). -/
def State.OneDesc (s : State) (b : RegCode) (w : Word) : Prop := ∀ l ∈ s.lanes, s.holds isAddrTag b l = true ∧ (s.operand b l).data = w

/-- The descriptor is in order, and its area and its group lie in the crew of the executing squad (R148, R153). -/
structure State.DescFits (s : State) (e : Desc) : Prop where
  ok : e.ok = true
  group : e.gbase + e.gsize < (s.launchOf (s.squad s.cur.q).lid).squads
  area : e.offset + 32 * e.entries ≤ (s.launchOf (s.squad s.cur.q).lid).scratch

/-- One sound descriptor in every lane passes the checks of R153. -/
theorem State.descOperand_ok {own : Desc → Bool} (hne : s.lanes ≠ []) (hw : s.OneDesc b w) (hfits : s.DescFits (descOf w))
    (hown : own (descOf w) = true) : s.descOperand s.lanes b own = .ok (w, descOf w) := by
  have hfirst : ((s.lanes.map fun l => (l, s.operand b l)).head?.map (·.2.data)).getD 0 = w := by
    obtain ⟨l, ls, hls⟩ := List.exists_cons_of_ne_nil hne
    simp [hls, (hw l (by simp [hls])).2]
  have hodd : ((s.lanes.map fun l => (l, s.operand b l)).filter fun x => x.2.data != w) = [] := by
    simpa [List.filter_eq_nil_iff] using fun l hl => (hw l hl).2
  simp only [State.descOperand, s.gatherSrc_ok s.lanes isAddrTag b fun l hl => (hw l hl).1, bind, Except.bind, hfirst, hodd, List.map_nil,
    ne_eq, not_true_eq_false, hfits.ok, hown, Nat.not_le.mpr hfits.group, Nat.not_lt.mpr hfits.area, Bool.not_true, decide_false, Bool.or_self,
    Bool.false_eq_true, if_false]

/-- The issue set is the whole squad, which belongs to no chunk (R153). -/
theorem State.mayOpen_ok (hwhole : maskOf s.lanes = (s.squad s.cur.q).liveMask)
    (hfree : (s.crewOf (s.squad s.cur.q).lid (s.squad s.cur.q).crew).chunkOf (s.squad s.cur.q).num = none) : s.mayOpen s.lanes = .ok () := by
  simp only [State.mayOpen, hwhole, hfree, ne_eq, not_true_eq_false, Option.isSome_none, Bool.false_eq_true, if_false]

/-! ### RUNNEW, ENUM, ENUM.ONE -/

theorem execRunnew_ready (hr : s.ready .runnew 0 = true) :
    exec .runnew s = .next ((s.advanceAll .runnew 0).modCrew (s.squad s.cur.q).lid (s.squad s.cur.q).crew fun c => { c with filter := 0 }) :=
  exec_together rfl hr rfl

theorem execEnum_waits (hr : s.ready (.enum b a d) 0 = true) (hne : s.lanes ≠ [])
    (hmap : ∀ l ∈ s.lanes, s.canRead a l = true ∧ (s.operand a l).tag = .map8) (hw : s.OneDesc b w) (hfits : s.DescFits (descOf w))
    (hlow : (descOf w).gbase ≤ (s.squad s.cur.q).num) (hhigh : (s.squad s.cur.q).num ≤ (descOf w).gbase + (descOf w).gsize)
    (hopen : s.mayOpen s.lanes = .ok ())
    (hclash : ∀ x ∈ s.crewRecords (s.squad s.cur.q).lid (s.squad s.cur.q).crew, x.1 ≠ s.cur.q → descClash (s.squad s.cur.q).num w x.2 = false) :
    exec (.enum b a d) s = .next (s.ranTogether (.enum b a d) 0 0 fun l =>
      (s.past (.enum b a d) 0 l).waitAt (s.ctx l) (.enum b a d) (.enum d.toNat (s.operand a l) w)) := by
  obtain ⟨hread, htag⟩ := forall₂_and.mp hmap
  obtain ⟨t, ht⟩ := map8_passes htag
  have hnone : (s.crewRecords (s.squad s.cur.q).lid (s.squad s.cur.q).crew).any
      (fun x => x.1 != s.cur.q && descClash (s.squad s.cur.q).num w x.2) = false := by
    simpa using fun q sq hx hq => hclash (q, sq) hx hq
  refine exec_together rfl hr ?_
  simp only [State.active_zero, s.gather_ok _ a hread, bind, Except.bind, ht,
    State.descOperand_ok hne hw hfits (own := fun e => decide (e.gbase ≤ (s.squad s.cur.q).num) && decide ((s.squad s.cur.q).num ≤ e.gbase + e.gsize))
      (by simp [hlow, hhigh]), hopen, hnone, Bool.false_eq_true, if_false, List.foldl_map]
  exact congrArg Except.ok (State.advanceAll_modLanes _ hr)

theorem execEnumOne_opens {l : Nat} {ls : List Nat} (hr : s.ready (.enumOne b d) 0 = true) (hls : s.lanes = l :: ls)
    (hw : s.OneDesc b w) (hstate : s.holds isAddrTag d l = true) (hfits : s.DescFits (descOf w)) (hsize : (descOf w).gsize = 0)
    (hbase : (descOf w).gbase = (s.squad s.cur.q).num) (hopen : s.mayOpen s.lanes = .ok ()) :
    exec (.enumOne b d) s = .next (ls.foldl (fun st m => st.parkLane s.cur.q m 0)
      (((s.advanceAll (.enumOne b d) 0).openChunk (s.squad s.cur.q).lid (s.squad s.cur.q).crew ⟨(s.squad s.cur.q).num, 0, (descOf w).entries,
        (descOf w).offset, true, false, 0, 0, [], l, (s.operand d l).data.truncate 8⟩).modThread s.cur.q l fun t => { t with lstop := 0 })) := by
  have hl : l ∉ ls := (List.nodup_cons.mp (hls ▸ lanesOf_nodup s.cur.lanes)).1
  have hne : s.lanes ≠ [] := hls ▸ List.cons_ne_nil l ls
  have hfirst : gatherLanes [l] (fun l => (s.thread s.cur.q l).src (s.ctx l) isAddrTag d) = .ok [(l, s.operand d l)] :=
    s.gatherSrc_ok [l] isAddrTag d (by simpa using hstate)
  have hothers (st : State) : ls.foldl (fun st m => if m = l then st.modThread s.cur.q m fun t => { t with lstop := 0 } else st.parkLane s.cur.q m 0) st =
      ls.foldl (fun st m => st.parkLane s.cur.q m 0) st :=
    List.foldl_ext _ _ _ fun _ m hm => if_neg fun (e : m = l) => hl (e ▸ hm)
  refine exec_together rfl hr ?_
  simp only [State.active_zero, s.gatherSrc_ok s.lanes isAddrTag b fun m hm => (hw m hm).1, bind, Except.bind,
    State.descOperand_ok hne hw hfits (own := fun e => e.gsize == 0 && e.gbase == (s.squad s.cur.q).num) (by simp [hsize, hbase]), hopen]
  simp only [hls, List.head?_cons, Option.getD_some, hfirst, Option.map_some, List.foldl_cons, if_true, hothers, hbase]

/-! ### MERGE, and ENDCH under ENUM -/

variable {i : Instr} {l : Nat}

theorem mapM_ok {α β ε : Type} {f : α → Except ε β} {g : α → β} {xs : List α} (h : ∀ x ∈ xs, f x = .ok (g x)) : xs.mapM f = .ok (xs.map g) := by
  induction xs with
  | nil => rfl
  | cons x xs ih =>
    simp only [List.mapM_cons, h x (by simp), ih fun y hy => h y (by simp [hy]), bind, Except.bind, pure, Except.pure, List.map_cons]

/-- A thread replaced is changed. -/
theorem State.modThread_setThread {q : Nat} (hb : (s.squad? q).isSome = true) (t : Thread) (f : Thread → Thread) :
    (s.setThread q l t).modThread q l f = s.setThread q l (f t) := by
  rw [State.modThread, State.thread_setThread_same s q l t hb, State.setThread_setThread]

/-- MERGE in a region of a lane whose operands are read: a wait under ENUM, nothing under ENUM.ONE (R157, R164). -/
theorem State.mergeLane_past {m : BitVec 3} {st : State} (hb : (st.squad? s.cur.q).isSome = true)
    (hregion : (s.ctx l).region = 1 ∨ (s.ctx l).region = 2)
    (h : s.holds isAddrTag a l = true ∧ ∀ c ∈ mergeRegs m d, s.holds (fun _ => true) c l = true) :
    mergeLane m a d (s.ctx l) (st.setThread s.cur.q l (s.past i 0 l)) = .ok (st.setThread s.cur.q l (if (s.ctx l).region = 2 then s.past i 0 l
      else (s.past i 0 l).waitAt (s.ctx l) (.merge m a d) (.merge (s.operand a l) ((mergeRegs m d).map fun c => s.operand c l)))) := by
  obtain ⟨hstate, hkey⟩ := h
  have hin : ¬((s.ctx l).region ≠ 1 ∧ (s.ctx l).region ≠ 2) := by omega
  have hregs : (mergeRegs m d).mapM (fun c => (s.past i 0 l).src (s.ctx l) (fun _ => true) c) = .ok ((mergeRegs m d).map fun c => s.operand c l) :=
    mapM_ok fun c hc => s.src_holds i 0 (hkey c hc)
  simp only [mergeLane, if_neg hin, ctx_q, ctx_lane, State.thread_setThread_same _ _ _ _ hb, s.src_holds i 0 hstate, hregs, bind, Except.bind,
    State.modThread_setThread hb]
  split <;> rfl

theorem execMerge_ran {m : BitVec 3} (hr : s.ready (.merge m a d) 0 = true) (hregion : (s.ctx 0).region = 1 ∨ (s.ctx 0).region = 2)
    (h : ∀ l ∈ s.lanes, s.holds isAddrTag a l = true ∧ ∀ c ∈ mergeRegs m d, s.holds (fun _ => true) c l = true) :
    exec (.merge m a d) s = .next (s.ran (.merge m a d) 0 0 fun l => if (s.ctx 0).region = 2 then s.past (.merge m a d) 0 l
      else (s.past (.merge m a d) 0 l).waitAt (s.ctx l) (.merge m a d) (.merge (s.operand a l) ((mergeRegs m d).map fun c => s.operand c l))) :=
  congrArg Host.Outcome.next (s.execLanes_threads _ 0 0 (mergeLane m a d) _ hr fun l hl _ _ hsame =>
    State.mergeLane_past hsame.bound hregion (h l hl))

theorem execEndch_waits (hr : s.ready (.endch a d) 0 = true) (hregion : (s.ctx 0).region = 1)
    (h : ∀ l ∈ s.lanes, s.holds (fun _ => true) a l = true) :
    exec (.endch a d) s = .next (s.ran (.endch a d) 0 0 fun l =>
      (s.past (.endch a d) 0 l).waitAt (s.ctx l) (.endch a d) (.endch d.toNat (s.operand a l))) := by
  refine congrArg Host.Outcome.next (s.execLanes_threads _ 0 0 (endchLane a d) _ hr fun l hl _ st hsame => ?_)
  have hin : (s.ctx l).region = 1 := hregion
  simp only [endchLane, if_pos hin, ctx_q, ctx_lane, State.thread_setThread_same _ _ _ _ hsame.bound, s.src_holds _ 0 (h l hl), bind, Except.bind,
    State.modThread_setThread hsame.bound]

end Sys2Proof.Machine
end

section
/-!
SUPPORT for O29. The ENDCH of the lane that runs under ENUM.ONE (R164).
-/
namespace Sys2Proof.Machine

variable {s : State} {a b d : RegCode} {l : Nat}

theorem State.putParts_cur (lid c n off : Nat) (bs : List Byte) (s : State) : (s.putParts lid c n off bs).cur = s.cur := by
  induction n generalizing off bs s with
  | zero => rfl
  | succ n ih =>
    cases bs with
    | nil => rfl
    | cons b bs => exact (ih _ _ _).trans (s.landPart_cur ..)

/-- The registers after a write are those of every thread that held the same ones, wherever and whenever it is written. -/
theorem Thread.regs_write_congr {t u : Thread} (h : t.regs = u.regs) (cx cx' : Ctx) (d : RegCode) (v : Reg) (lat lat' : Lat) :
    (t.write cx d v lat).regs = (u.write cx' d v lat').regs := by
  simp only [Thread.write]
  split
  · exact h
  · split
    · simp only [Thread.put, h]
    · split <;> simp only [Thread.put, h]

theorem Squad.liveLanes_nodup (sq : Squad) : sq.liveLanes.Nodup := List.nodup_range.sublist List.filter_sublist

/-- A lane has moved past an instruction, and the others stand where they were. -/
theorem State.thread_past (i : Instr) (l m : Nat) (hb : (s.squad? s.cur.q).isSome = true) :
    (s.setThread s.cur.q l (s.past i 0 l)).thread s.cur.q m = if m = l then s.past i 0 l else s.th m := by
  by_cases h : m = l
  · rw [if_pos h, h, State.thread_setThread_same s s.cur.q l (s.past i 0 l) hb]
  · rw [if_neg h, State.thread_setThread_lane s s.cur.q s.cur.q (s.past i 0 l) h, State.th]

/-- Moving a lane past an instruction ends no thread. -/
theorem State.liveLanes_past (i : Instr) (l : Nat) (hb : (s.squad? s.cur.q).isSome = true) :
    ((s.setThread s.cur.q l (s.past i 0 l)).squad s.cur.q).liveLanes = (s.squad s.cur.q).liveLanes := by
  refine List.filter_congr fun m _ => (congrArg Thread.live (State.thread_past i l m hb)).trans ?_
  split
  · next h => rw [h]; rfl
  · rfl

theorem State.missing_setThread (s : State) (q l : Nat) (t : Thread) : ((s.setThread q l t).squad q).missing = (s.squad q).missing := by
  simp only [State.squad, State.setThread, State.squad?_modSquad, if_true]
  cases s.squad? q <;> rfl

theorem State.linesIn_past (i : Instr) (l c : Nat) (hb : (s.squad? s.cur.q).isSome = true) :
    ((s.setThread s.cur.q l (s.past i 0 l)).squad s.cur.q).linesIn c = (s.squad s.cur.q).linesIn c := by
  simp only [Squad.linesIn, State.missing_setThread, State.liveLanes_past i l hb]

/-- A squad whose chunk ENUM.ONE opened, and that does not await CHOOSE (R156). -/
theorem State.region_one {ch : Chunk} (hch : (s.crewOf (s.squad s.cur.q).lid (s.squad s.cur.q).crew).chunkOf (s.squad s.cur.q).num = some ch)
    (hone : ch.one = true) (hpending : ch.pending = false) : (s.ctx l).region = 2 := by
  simp [State.ctx, State.region, hch, hone, hpending]

/-! ### What the ENDCH leaves -/

/-- A lane of the squad after the ENDCH of the lane that runs: that lane goes on, a parked one is released (R164). -/
def Thread.oneEnded (t : Thread) (cx : Ctx) (d : RegCode) (v : Reg) (stamp m : Nat) : Thread :=
  if m = cx.lane then { t.write cx d v .sb with lstop := 0 }
  else { t.writeAt cx.now d v with pc := cx.pc + 4, wait := .run, stamp := stamp }

theorem Thread.regs_oneEnded (t : Thread) (cx : Ctx) (d : RegCode) (v : Reg) (stamp m : Nat) :
    (t.oneEnded cx d v stamp m).regs = (t.write cx d v .sb).regs := by
  rw [Thread.oneEnded]
  split
  · rfl
  · exact Thread.regs_write_congr rfl ..

theorem Thread.oneEnded_parked {cx : Ctx} {m : Nat} (h : m ≠ cx.lane) (t : Thread) (d : RegCode) (v : Reg) (stamp : Nat) :
    (t.oneEnded cx d v stamp m).wait = .run ∧ (t.oneEnded cx d v stamp m).pc = cx.pc + 4 := by
  rw [Thread.oneEnded, if_neg h]
  exact ⟨rfl, rfl⟩

/-- The header of the chunk is written, and the chunk is closed (R149, R164). -/
def State.oneClosed (s : State) (cx : Ctx) (ch : Chunk) (map : List Byte) : State :=
  (s.putScratch cx.lid cx.crew ch.offset (headerBytes map 0 ((List.replicate 256 0xFF).set ch.runLane ch.entry)
    ((List.replicate 256 0xFC).set ch.runLane 0))).modCrew cx.lid cx.crew (·.dropChunk ch.gbase)

/-- The state after the ENDCH: the chunk is closed, and every live lane holds the map (R164). -/
def State.oneEnded (s : State) (cx : Ctx) (d : RegCode) (ch : Chunk) (map : List Byte) : State :=
  let s1 := s.oneClosed cx ch map
  (s1.squad cx.q).liveLanes.foldl (fun st m => st.modThread cx.q m fun t =>
    t.oneEnded cx d (mapWord map m) (s.releaseStamp (s1.squad cx.q) t) m) s1

theorem State.oneClosed_squads (s : State) (cx : Ctx) (ch : Chunk) (map : List Byte) : (s.oneClosed cx ch map).squads = s.squads :=
  s.putScratch_squads cx.lid cx.crew ch.offset _

theorem State.chunks_oneClosed (s : State) (cx : Ctx) (ch : Chunk) (map : List Byte) :
    ((s.oneClosed cx ch map).crewOf cx.lid cx.crew).chunks = (s.crewOf cx.lid cx.crew).chunks.filter (·.gbase != ch.gbase) := by
  rw [State.oneClosed, State.crewOf_modCrew_same, Crew.dropChunk, State.chunks_putScratch]

/-- Every live lane's thread is replaced once. -/
theorem State.oneEnded_eq (s : State) (cx : Ctx) (d : RegCode) (ch : Chunk) (map : List Byte) :
    s.oneEnded cx d ch map = (s.oneClosed cx ch map).setThreads cx.q (s.squad cx.q).liveLanes fun m =>
      (s.thread cx.q m).oneEnded cx d (mapWord map m) (s.releaseStamp ((s.oneClosed cx ch map).squad cx.q) (s.thread cx.q m)) m := by
  have hsquads := s.oneClosed_squads cx ch map
  have hlanes : ((s.oneClosed cx ch map).squad cx.q).liveLanes = (s.squad cx.q).liveLanes := by
    rw [State.squad, State.squad?, hsquads]; rfl
  rw [State.oneEnded, hlanes]
  refine State.foldl_modThread _ _ _ (fun m t => t.oneEnded cx d (mapWord map m) _ m) _ (Squad.liveLanes_nodup _) fun m _ => ?_
  rw [State.thread_congr hsquads]

theorem State.thread_oneEnded {cx : Ctx} {ch : Chunk} {m : Nat} (hm : m ∈ (s.squad cx.q).liveLanes) (d : RegCode) (map : List Byte) :
    (s.oneEnded cx d ch map).thread cx.q m =
      (s.thread cx.q m).oneEnded cx d (mapWord map m) (s.releaseStamp ((s.oneClosed cx ch map).squad cx.q) (s.thread cx.q m)) m := by
  rw [State.oneEnded_eq, State.thread_setThreads_in _ _ _ _ (Squad.liveLanes_nodup _) _ hm]
  rw [State.squad?, State.oneClosed_squads]
  exact State.isSome_of_live hm

theorem State.chunks_oneEnded (s : State) (cx : Ctx) (d : RegCode) (ch : Chunk) (map : List Byte) :
    ((s.oneEnded cx d ch map).crewOf cx.lid cx.crew).chunks = (s.crewOf cx.lid cx.crew).chunks.filter (·.gbase != ch.gbase) := by
  rw [State.oneEnded_eq, State.setThreads_frame]
  exact s.chunks_oneClosed cx ch map

theorem State.oneEnded_cur (s : State) (cx : Ctx) (d : RegCode) (ch : Chunk) (map : List Byte) : (s.oneEnded cx d ch map).cur = s.cur := by
  rw [State.oneEnded_eq, State.setThreads_frame]
  exact s.putParts_cur ..

/-- A lane of the squad after the ENDCH: it holds the map, and a parked one goes on after the ENDCH. -/
theorem State.thread_endch (i : Instr) (ch : Chunk) (map : List Byte) {m : Nat} (hm : m ∈ (s.squad s.cur.q).liveLanes) :
    let t := (s.setThread s.cur.q l (s.past i 0 l)).oneEnded (s.ctx l) d ch map
    (t.th m).regs = ((s.th m).write (s.ctx m) d (mapWord map m) .sb).regs ∧ (m ≠ l → (t.th m).wait = .run ∧ (t.th m).pc = s.cur.pc + 4) := by
  intro t
  have hb := State.isSome_of_live hm
  have hcur : t.cur = s.cur := (State.oneEnded_cur ..).trans (State.setThread_cur ..)
  have hth := State.thread_oneEnded (s := s.setThread s.cur.q l (s.past i 0 l)) (cx := s.ctx l) (ch := ch) ((State.liveLanes_past i l hb).symm ▸ hm) d map
  rw [State.th, hcur]
  have hregs : ((s.setThread s.cur.q l (s.past i 0 l)).thread s.cur.q m).regs = (s.th m).regs := by
    rw [State.thread_past i l m hb]
    split
    · next h => rw [h, State.past, Thread.regs_advance]
    · rfl
  refine ⟨?_, fun h => ?_⟩
  · exact (congrArg Thread.regs hth).trans ((Thread.regs_oneEnded ..).trans (Thread.regs_write_congr hregs ..))
  · exact hth ▸ Thread.oneEnded_parked h ..

/-- The map that leads the entry state of a chunk of ENUM.ONE to the exit state (R164). -/
def oneMap (ch : Chunk) (v : Reg) : List Byte := (List.replicate 256 0xFF).set ch.entry.toNat (v.data.truncate 8)

/-- The ENDCH of the lane that runs. -/
theorem execEndch_ends {ch : Chunk} (hr : s.ready (.endch a d) 0 = true) (hl : s.lanes = [l]) (hlines : (s.squad s.cur.q).linesIn d.toNat = true)
    (hch : (s.crewOf (s.squad s.cur.q).lid (s.squad s.cur.q).crew).chunkOf (s.squad s.cur.q).num = some ch) (hone : ch.one = true)
    (hpending : ch.pending = false) (hexit : s.holds isAddrTag a l = true) :
    exec (.endch a d) s = .next ((s.setThread s.cur.q l (s.past (.endch a d) 0 l)).oneEnded (s.ctx l) d ch (oneMap ch (s.operand a l))) := by
  obtain ⟨hb, -, -⟩ := (s.ready_iff _ 0).mp hr
  have hregion := State.region_one (l := l) hch hone hpending
  have hch' : ((s.setThread s.cur.q l (s.past (.endch a d) 0 l)).crewOf (s.ctx l).lid (s.ctx l).crew).chunkOf (s.ctx l).num = some ch := by
    rw [State.crewOf, State.setThread_crews]
    exact hch
  refine congrArg Host.Outcome.next (s.execLanes_one _ 0 0 (endchLane a d) l _ hr hl rfl ?_)
  simp only [endchLane, hregion, ctx_q, ctx_lane, s.thread_ready _ 0 l _ hr, s.src_holds _ 0 hexit, hch', State.linesIn_past _ l _ hb, hlines,
    bind, Except.bind, OfNat.ofNat_ne_one, if_false, if_true, Bool.not_true, Bool.false_eq_true]
  rfl

end Sys2Proof.Machine
end

section
/-!
SUPPORT for O29. CHOOSE of a pending chunk (R160).
-/
namespace Sys2Proof.Machine

variable {s : State} {a b d : RegCode} {w : Word} {l x : Nat} {ls : List Nat} {ch : Chunk}

theorem State.advanceAll_mem (s : State) (i : Instr) (stall : Nat) : (s.advanceAll i stall).mem = s.mem := by
  rw [State.advanceAll_eq, State.setThreads_frame]

/-- Reading lines in which no flip waits changes nothing. -/
theorem State.noteReads_noFlip (hlatent : s.mem.latent = []) (ps : List Place) : ps.foldl State.noteRead s = s := by
  refine List.foldl_fixed' (fun p => ?_) ps
  exact State.noteRead_noFlip (by rw [hlatent]; rfl)

/-- The state operand and the descriptor of a lane of CHOOSE, as the instruction reads them (R160). -/
def State.chooseSrc (s : State) (b a : RegCode) (l : Nat) : Except Trap (Nat × Word) := do
  let x ← (s.thread s.cur.q l).src (s.ctx l) isAddrTag a
  let y ← (s.thread s.cur.q l).src (s.ctx l) isAddrTag b
  .ok (x.data.toNat % 256, y.data)

theorem State.chooseSrc_ok (h : s.holds isAddrTag a l = true ∧ s.holds isAddrTag b l = true ∧ (s.operand a l).data.toNat % 256 = x ∧ (s.operand b l).data = w) :
    s.chooseSrc b a l = .ok (x, w) := by
  obtain ⟨hstate, hdesc, hx, hw⟩ := h
  simp only [State.chooseSrc, s.src_ok hstate, s.src_ok hdesc, bind, Except.bind, hx, hw]

/-- What CHOOSE makes of a state when it has decided: results in d and k1 of every lane, and the chunk closed (R160). -/
def State.chosen (st s : State) (d : RegCode) (ch : Chunk) (v : Reg) (miss : Bool) : State :=
  ((st.scatter s d .sb (s.lanes.map fun m => (m, v))).scatterK s 1 .sb (s.lanes.map fun m => (m, miss))).closeChunk
    (s.squad s.cur.q).lid (s.squad s.cur.q).crew ch

theorem execChoose_decides (hr : s.ready (.choose b a d) 0 = true) (hls : s.lanes = l :: ls)
    (h : ∀ m ∈ s.lanes, s.holds isAddrTag a m = true ∧ s.holds isAddrTag b m = true ∧ (s.operand a m).data.toNat % 256 = x ∧ (s.operand b m).data = w)
    (hfits : s.DescFits (descOf w)) (hch : (s.crewOf (s.squad s.cur.q).lid (s.squad s.cur.q).crew).pendingAt (descOf w) = some ch)
    (hlatent : s.mem.latent = [])
    (hsound : (s.advanceAll (.choose b a d) 0).areaPoisoned (s.squad s.cur.q).lid (s.squad s.cur.q).crew ch = false) :
    let s1 := s.advanceAll (.choose b a d) 0
    exec (.choose b a d) s = .next (match s1.chooseOutcome (s.ctx l) ch (BitVec.ofNat 8 x) with
      | .ok (ss, res) => (ss.foldl (fun st y => (st.storeLoc (s.ctx l) y.2.1 y.2.2 false).noteWritten (s.squad s.cur.q).lid (s.squad s.cur.q).crew y.1)
          s1).chosen s d ch ⟨res.zeroExtend 64, .i64⟩ false
      | .error r => s1.chosen s d ch ⟨BitVec.ofNat 64 (0x100 * r + 0xFF), .i64⟩ true) := by
  intro s1
  have hne : s.lanes ≠ [] := hls ▸ List.cons_ne_nil l ls
  have hgather := gatherLanes_ok s.lanes (s.chooseSrc b a) (fun _ => (x, w)) fun m hm => State.chooseSrc_ok (h m hm)
  have hodd : ((s.lanes.map fun m => (m, (x, w))).filter fun y => y.2 != (x, w)) = [] := by simp [List.filter_eq_nil_iff]
  have hfirst : ((s.lanes.map fun m => (m, (x, w))).head?.map (·.2)).getD (0, 0) = (x, w) := by simp [hls]
  have hread : (areaLines (s.squad s.cur.q).lid (s.squad s.cur.q).crew ch).foldl State.noteRead s1 = s1 :=
    State.noteReads_noFlip ((congrArg Mem.latent (s.advanceAll_mem ..)).trans hlatent) _
  have hlow : s.lanes.head?.getD 0 = l := by simp [hls]
  have hdesc := State.descOperand_ok hne (fun m hm => ⟨(h m hm).2.1, (h m hm).2.2.2⟩) hfits (own := fun _ => true) rfl
  unfold State.chooseSrc at hgather
  refine exec_together rfl hr ?_
  simp only [State.active_zero, hgather]
  simp only [bind, Except.bind, hfirst, hodd, List.map_nil, ne_eq, not_true_eq_false, if_false, hdesc, hch, hsound, Bool.false_eq_true]
  rw [hread, hlow]
  cases s1.chooseOutcome (s.ctx l) ch (BitVec.ofNat 8 x) <;> rfl

/-- Settles O29. RUNNEW, ENUM, ENUM.ONE and CHOOSE are performed by the issue set together, once its checks pass; MERGE and ENDCH by each lane, and the ENDCH under
ENUM.ONE by the one lane that runs, which changes the parked lanes of its squad too. -/
theorem enumerationCompletes : Obligations.EnumerationCompletes := by
  unfold Obligations.EnumerationCompletes
  refine ⟨fun s hr => execRunnew_ready hr, ?_, ?_, ?_, fun a d s hr hregion h => execEndch_waits hr hregion h, ?_, ?_⟩
  · intro b a d s w hr hne sq la e h hok hlow hhigh hgroup harea hwhole hfree hclash
    exact execEnum_waits hr hne (fun l hl => ⟨(h l hl).1, (h l hl).2.1⟩) (fun l hl => (h l hl).2.2) ⟨hok, hgroup, harea⟩ hlow hhigh
      (State.mayOpen_ok hwhole hfree) hclash
  · intro b d s w l ls hr hls sq la e hw hstate hok hsize hbase hnum harea hwhole hfree
    exact execEnumOne_opens hr hls hw hstate ⟨hok, by rw [hsize, hbase]; exact hnum, harea⟩ hsize hbase (State.mayOpen_ok hwhole hfree)
  · intro m a d s hr h
    refine ⟨fun hregion => ?_, fun hregion => ?_⟩
    · simpa [hregion] using execMerge_ran hr (.inl hregion) h
    · simpa [hregion] using execMerge_ran hr (.inr hregion) h
  · intro a d s l ch hr hl sq hlines hch hone hpending hexit
    refine ⟨_, execEndch_ends hr hl hlines hch hone hpending hexit, ?_, fun m hm => State.thread_endch _ ch _ hm⟩
    exact (State.chunks_oneEnded _ (s.ctx l) d ch _).trans (by rw [State.crewOf, State.setThread_crews]; rfl)
  · intro b a d s l ls x w ch hr hls h sq la e hok hgroup harea hch hlatent s1 hsound
    have hchoose := execChoose_decides hr hls h ⟨hok, hgroup, harea⟩ hch hlatent hsound
    refine ⟨fun ss res hout => ?_, fun r hout => ?_⟩
    · exact hchoose.trans (by rw [hout]; rfl)
    · exact hchoose.trans (by rw [hout]; rfl)

end Sys2Proof.Machine
end

section
/-!
SUPPORT for O33. The slots of an INV (R165 to R172): its first one, those of its routine instructions, the end of a step, and its completion.
-/
namespace Sys2Proof.Machine

variable {s : State} {i : Instr} {k : BitVec 2} {tgt out : RegCode} {p : InvArgs} {r : InvRun}

/-! ### The first slot (R166) -/

/-- What each lane reads in the first slot: its bracket register and its target. -/
theorem State.gatherLanes_bracket {b : Nat → Reg}
    (h : ∀ l ∈ s.lanes, (s.th l).readB (s.ctx l) k.toNat = .ok (b l) ∧ s.canRead tgt l = true) :
    gatherLanes s.lanes (fun l => do
      let v ← (s.thread s.cur.q l).readB (s.ctx l) k.toNat
      let y ← (s.thread s.cur.q l).read (s.ctx l) tgt
      .ok (v, y)) = .ok (s.lanes.map fun l => (l, b l, s.operand tgt l)) := by
  refine gatherLanes_ok s.lanes _ (fun l => (b l, s.operand tgt l)) fun l hl => ?_
  obtain ⟨hbracket, htarget⟩ := h l hl
  have hread := s.read_operand htarget
  rw [State.th] at hbracket hread
  simp only [hbracket, hread, bind, Except.bind]

/-- An INV whose routine stands whole after it, and whose lanes read their brackets and targets, begins. -/
theorem State.openInv_begins {body : List (Word × Instr)} {fin : Word} {b : Nat → Reg} (hr : s.ready i 0 = true)
    (hroutine : s.readRoutine (s.launchOf (s.squad s.cur.q).lid) (coreOf s.cur.q) out 17 (s.cur.pc + 4) = .ok (body, fin))
    (hargs : ∀ l ∈ s.lanes, (s.th l).readB (s.ctx l) k.toNat = .ok (b l) ∧ s.canRead tgt l = true) :
    s.openInv i k tgt out = (((s.slotAll 0).beginInv s s.lanes).cacheCode (s.launchOf (s.squad s.cur.q).lid) (coreOf s.cur.q) (s.cur.pc + 4)
      (fin - (s.cur.pc + 4)).toNat s.freeCtr).setRun s.cur.q (maskOf s.lanes)
        (some ⟨s.cur.pc, i, maskOf s.lanes, s.lanes.map fun l => (l, b l, s.operand tgt l), body, fin, 0, 0, [], []⟩) := by
  refine s.execSet_ok i 0 0 _ hr ?_
  rw [State.active_zero]
  simp only [hroutine]
  rw [State.gatherLanes_bracket hargs]
  rfl

/-- INV and INV.DEC are dispatched with their direction. -/
theorem exec_invert {m : (BitVec 3 → BitVec 2 → RegCode → RegCode → RegCode → Instr) × Bool} (hm : m ∈ [(Instr.inv, false), (.invDec, true)])
    (tol : BitVec 3) (k : BitVec 2) (tgt inn out : RegCode) (s : State) :
    exec (m.1 tol k tgt inn out) s = .next (s.invert (m.1 tol k tgt inn out) m.2 tol k tgt inn out) := by
  rcases List.mem_cons.mp hm with rfl | hm
  · rfl
  · rw [List.mem_singleton.mp hm]
    rfl

theorem State.invert_opens (h : (s.squad s.cur.q).invs.find? (fun r => r.lanes == s.cur.lanes) = none) (dec : Bool) (tol : BitVec 3) (inn : RegCode) :
    s.invert i dec tol k tgt inn out = s.openInv i k tgt out := by
  rw [State.invert, h]

theorem State.invert_goesOn (h : (s.squad s.cur.q).invs.find? (fun r => r.lanes == s.cur.lanes) = some r) (dec : Bool) (tol : BitVec 3) (inn : RegCode) :
    s.invert i dec tol k tgt inn out = (InvArgs.mk dec tol.toNat k.toNat tgt inn out r.body r.fin).slot s i r := by
  rw [State.invert, h]

/-! ### A slot of the routine (R172) -/

theorem InvRun.issued_idx (r : InvRun) (now : Nat) : (r.issued now).idx = r.idx + 1 := by
  unfold InvRun.issued
  split <;> rfl

theorem InvArgs.slot_issues (h : r.idx + 1 < r.length) : p.slot s i r = (s.slotAll r.stall).setRun s.cur.q r.lanes (some (r.issued s.cur.at_)) := by
  rw [InvArgs.slot, InvRun.issued_idx, if_pos h]

theorem InvArgs.slot_endsStep (h : r.length ≤ r.idx + 1) (hstep : r.step < 2) : p.slot s i r = p.endStep (s.slotAll r.stall) r := by
  rw [InvArgs.slot, InvRun.issued_idx, if_neg (Nat.not_lt.mpr h), if_neg hstep.ne]

theorem InvArgs.slot_completes (h : r.length ≤ r.idx + 1) (hstep : r.step = 2) : p.slot s i r = p.complete (s.slotAll r.stall) i r := by
  rw [InvArgs.slot, InvRun.issued_idx, if_neg (Nat.not_lt.mpr h), if_pos hstep]

/-! ### The lanes have a slot -/

theorem State.slotAll_eq (s : State) (stall : Nat) : s.slotAll stall = s.setThreads s.cur.q s.lanes fun l => (s.th l).inSlot (s.ctx l) stall := rfl

@[simp] theorem State.slotAll_cur (s : State) (stall : Nat) : (s.slotAll stall).cur = s.cur := by
  rw [State.slotAll_eq, State.setThreads_frame]

@[simp] theorem State.slotAll_isSome (s : State) (stall q : Nat) : ((s.slotAll stall).squad? q).isSome = (s.squad? q).isSome := by
  rw [State.slotAll_eq, State.setThreads_isSome]

theorem State.region_setThreads (s : State) (q : Nat) (ls : List Nat) (f : Nat → Thread) (m : Nat) :
    ((s.setThreads q ls f).ctx m).region = (s.ctx m).region := by
  induction ls generalizing s with
  | nil => rfl
  | cons l ls ih => rw [State.setThreads_cons, ih, State.region_setThread]

theorem State.region_slotAll (s : State) (stall m : Nat) : ((s.slotAll stall).ctx m).region = (s.ctx m).region :=
  s.region_setThreads ..

theorem State.th_slotAll (stall : Nat) {l : Nat} (hs : (s.squad? s.cur.q).isSome = true) (hl : l ∈ s.lanes) :
    (s.slotAll stall).th l = (s.th l).inSlot (s.ctx l) stall := by
  rw [State.th, State.slotAll_cur, State.slotAll_eq, State.thread_setThreads_in _ _ s.lanes _ (lanesOf_nodup s.cur.lanes) hs hl]

/-! ### A step ends without a failure (R170, R173) -/

/-- The INV of a run whose lanes at work are `xs` once a step has ended. -/
def InvArgs.nextStep (p : InvArgs) (r : InvRun) (xs : List InvLane) : InvRun :=
  { r with lanes := maskOf (xs.map (·.lane)), work := xs, idx := 0, due := [], step := if xs.all fun x => decide (x.width ≤ p.gap) then 2 else 1 }

theorem InvArgs.endStep_whole {xs : List InvLane} (hne : xs ≠ [])
    (h : (if r.step = 0 then p.start s (s.ctx 0).region r.args else p.round s (s.ctx 0).region r.work) = ⟨xs, [], none⟩) :
    p.endStep s r = (if r.step = 0 then s else p.keep s r.work xs).setRun s.cur.q r.lanes (some (p.nextStep r xs)) := by
  simp only [InvArgs.endStep, h, List.foldl_nil, if_neg hne]
  rfl

/-! ### The last-result file and o0 to o3 at completion (R170) -/

/-- Of places that are copied from one file to another, each has what it has there; the others stay. -/
theorem SMap.get_foldl_copy {α : Type} [DecidableEq α] (d : α) (ls : List Nat) (at_ : Nat → Nat) (f : Nat → α) (m : SMap α) (c : Nat) :
    SMap.get d (ls.foldl (fun m n => SMap.set d m (at_ n) (f (at_ n))) m) c = if c ∈ ls.map at_ then f c else SMap.get d m c := by
  induction ls generalizing m with
  | nil => rfl
  | cons n ls ih =>
    rw [List.foldl_cons, ih, SMap.get_set, List.map_cons]
    by_cases hc : c = at_ n
    · subst hc; simp
    · simp [hc]

theorem mem_resultCodes (c : Nat) : c ∈ (List.range 6).map (56 + ·) ↔ 56 ≤ c ∧ c < 62 := by
  simp only [List.mem_map, List.mem_range]
  exact ⟨fun ⟨n, hn, hc⟩ => by omega, fun h => ⟨c - 56, by omega, by omega⟩⟩

/-- The registers of a lane whose INV is complete: out, the results of the final evaluation, and what stood there. -/
theorem InvArgs.finish_regs (p : InvArgs) (cx : Ctx) (t priv : Thread) (x : InvLane) (c : Nat) :
    SMap.get Reg.zero (p.finish cx t priv x).regs c =
      if c = p.out.toNat then ⟨BitVec.ofNat 64 x.hi, x.dom⟩
      else if 56 ≤ c ∧ c < 62 then SMap.get Reg.zero priv.regs c else SMap.get Reg.zero t.regs c := by
  have hcopy := SMap.get_foldl_copy Reg.zero (List.range 6) (56 + ·) (SMap.get Reg.zero priv.regs) t.regs c
  simp only [mem_resultCodes] at hcopy
  rw [← hcopy]
  exact SMap.get_set ..

/-! ### Completion (R170, R172) -/

/-- What the completion of an INV makes of the thread of a lane, `s` being the state after the slot in which the final evaluation ends. -/
def InvArgs.completed (p : InvArgs) (s : State) (i : Instr) (x : InvLane) (t : Thread) : Thread :=
  match p.eval (s.ctx x.lane) t x.f32 x.hi with
  | .error _ => t
  | .ok priv => { p.finish (s.ctx x.lane) (t.advance (s.ctx x.lane) i 0) priv x with readyAt := t.readyAt, prior := 0 }

theorem InvArgs.completed_eval {x : InvLane} {t priv : Thread} (h : p.eval (s.ctx x.lane) t x.f32 x.hi = .ok priv) :
    p.completed s i x t = { p.finish (s.ctx x.lane) (t.advance (s.ctx x.lane) i 0) priv x with readyAt := t.readyAt, prior := 0 } := by
  rw [InvArgs.completed, h]

/-- The threads of the lanes at work, changed once each. -/
theorem InvArgs.complete_eq (p : InvArgs) (s : State) (i : Instr) (r : InvRun) :
    p.complete s i r = (s.modEach (r.work.map fun x => (s.cur.q, x.lane, x)) fun x => p.completed s i x.2.2).setRun s.cur.q r.lanes none := by
  rw [State.modEach, List.foldl_map]
  rfl

theorem State.setRun_thread (s : State) (q : Nat) (ls : BitVec 32) (r : Option InvRun) (m l : Nat) : (s.setRun q ls r).thread m l = s.thread m l := by
  rw [State.thread, State.squad, State.setRun, State.squad?_modSquad]
  split
  · next hm =>
    subst hm
    cases hq : s.squad? m <;> simp [State.thread, State.squad, hq, Squad.thread]
  · rfl

theorem State.setRun_none_invs (s : State) (q : Nat) (ls : BitVec 32) : ∀ x ∈ ((s.setRun q ls none).squad q).invs, x.lanes ≠ ls := by
  rw [State.squad, State.setRun, State.squad?_modSquad, if_pos rfl]
  cases s.squad? q with
  | none => intro x hx; cases hx
  | some sq => simp

theorem State.modEach_cur {α : Type} (s : State) (xs : List (Nat × Nat × α)) (f : Nat × Nat × α → Thread → Thread) : (s.modEach xs f).cur = s.cur :=
  State.foldl_keeps State.cur xs _ (fun st x => st.modThread_cur x.1 x.2.1 (f x)) s

theorem State.modEach_mem {α : Type} (s : State) (xs : List (Nat × Nat × α)) (f : Nat × Nat × α → Thread → Thread) : (s.modEach xs f).mem = s.mem :=
  State.foldl_keeps State.mem xs _ (fun st x => st.modThread_mem x.1 x.2.1 (f x)) s

theorem InvArgs.complete_cur (p : InvArgs) (s : State) (i : Instr) (r : InvRun) : (p.complete s i r).cur = s.cur := by
  rw [InvArgs.complete_eq, State.setRun, State.modSquad_cur, State.modEach_cur]

/-- Two states with the same memory and the same crews show the same bytes. -/
theorem State.sameMemory_of {t : State} (hmem : t.mem = s.mem) (hcrews : t.crews = s.crews) : t.sameMemory s := by
  intro a
  cases a with
  | dram pa key => rw [State.byteAt, State.byteAt, State.dramByte, State.dramByte, State.rekeyed, State.rekeyed, State.lineKey, State.lineKey, hmem]
  | scratch l c o => simp only [State.byteAt, State.crewOf, hcrews]

theorem InvArgs.complete_sameMemory (p : InvArgs) (s : State) (stall : Nat) (i : Instr) (r : InvRun) :
    (p.complete (s.slotAll stall) i r).sameMemory s := by
  refine State.sameMemory_of ?_ ?_ <;> rw [InvArgs.complete_eq, State.setRun]
  · rw [State.modSquad_mem, State.modEach_mem, State.slotAll_eq, State.setThreads_frame]
  · rw [State.modSquad_crews, State.modEach_crews, State.slotAll_eq, State.setThreads_frame]

theorem InvArgs.complete_invs (p : InvArgs) (s : State) (i : Instr) (r : InvRun) : ∀ x ∈ ((p.complete s i r).squad s.cur.q).invs, x.lanes ≠ r.lanes := by
  rw [InvArgs.complete_eq]
  exact State.setRun_none_invs _ _ _

/-- A lane at work whose final evaluation passes is changed by that evaluation alone. -/
theorem InvArgs.thread_complete {x : InvLane} {priv : Thread} (hs : (s.squad? s.cur.q).isSome = true) (hlanes : (r.work.map (·.lane)).Nodup)
    (hx : x ∈ r.work) (heval : p.eval (s.ctx x.lane) (s.th x.lane) x.f32 x.hi = .ok priv) :
    (p.complete s i r).th x.lane =
      { p.finish (s.ctx x.lane) ((s.th x.lane).advance (s.ctx x.lane) i 0) priv x with readyAt := (s.th x.lane).readyAt, prior := 0 } := by
  have hkeys : ((r.work.map fun x => (s.cur.q, x.lane, x)).map fun x => (x.1, x.2.1)).Nodup := by
    simpa only [List.map_map, Function.comp_def] using hlanes.map (f := fun l => (s.cur.q, l)) fun _ _ h => (Prod.mk.inj h).2
  rw [← InvArgs.completed_eval heval, State.th, InvArgs.complete_cur, InvArgs.complete_eq, State.setRun_thread]
  exact State.thread_modEach_in _ hkeys (List.mem_map_of_mem hx) hs

/-- A lane at work once the INV is complete: its out register, its results and its flags are those of the final evaluation, and its PC stands after the routine. -/
theorem InvArgs.complete_lane {x : InvLane} {priv : Thread} (hs : (s.squad? s.cur.q).isSome = true) (hlanes : r.work.map (·.lane) = s.lanes)
    (hx : x ∈ r.work) (heval : p.eval ((s.slotAll r.stall).ctx x.lane) ((s.slotAll r.stall).th x.lane) x.f32 x.hi = .ok priv) :
    ((p.complete (s.slotAll r.stall) i r).th x.lane).pc = p.fin ∧ ((p.complete (s.slotAll r.stall) i r).th x.lane).brk = (s.th x.lane).brk ∧
      (∀ c, SMap.get Reg.zero ((p.complete (s.slotAll r.stall) i r).th x.lane).regs c =
        if c = p.out.toNat then ⟨BitVec.ofNat 64 x.hi, x.dom⟩
        else if 56 ≤ c ∧ c < 62 then SMap.get Reg.zero priv.regs c else SMap.get Reg.zero (s.th x.lane).regs c) ∧
      ((p.complete (s.slotAll r.stall) i r).th x.lane).fflags = (s.th x.lane).fflags ||| priv.fflags := by
  have hl : x.lane ∈ s.lanes := hlanes ▸ List.mem_map_of_mem hx
  have hbound : ((s.slotAll r.stall).squad? (s.slotAll r.stall).cur.q).isSome = true := by rwa [State.slotAll_isSome, State.slotAll_cur]
  rw [InvArgs.thread_complete hbound (hlanes ▸ lanesOf_nodup _) hx heval, State.th_slotAll r.stall hs hl]
  have hregs := p.finish_regs ((s.slotAll r.stall).ctx x.lane)
    (((s.th x.lane).inSlot (s.ctx x.lane) r.stall).advance ((s.slotAll r.stall).ctx x.lane) i 0) priv x
  exact ⟨rfl, rfl, hregs, rfl⟩

/-! ### The obligation -/

/-- Settles O33. The first slot is an instruction of the whole set whose checks pass; every further slot is one of three, by how far its step
has come; completion changes the thread of each lane once. -/
theorem inversionCompletes : Obligations.InversionCompletes := by
  unfold Obligations.InversionCompletes
  intro m hm tol k tgt inn out s i sq
  have hexec := exec_invert hm tol k tgt inn out s
  refine ⟨?_, fun r hrun => ⟨?_, ?_, ?_⟩⟩
  · intro body fin b hr _ hnone hroutine hargs
    rw [hexec, State.invert_opens hnone, State.openInv_begins hr hroutine hargs]
  · intro h
    refine ⟨?_, r.issued_idx _⟩
    rw [hexec, State.invert_goesOn hrun, InvArgs.slot_issues h]
  · intro xs h hstep hne hend
    have hregion : ((s.slotAll r.stall).ctx 0).region = (s.ctx 0).region := s.region_slotAll r.stall 0
    rw [hexec, State.invert_goesOn hrun, InvArgs.slot_endsStep h hstep, InvArgs.endStep_whole hne (hregion.symm ▸ hend), InvArgs.keep, State.slotAll_cur]
    rfl
  · intro priv h hstep hlanes hs heval
    have hgo := hexec.trans (congrArg _ ((State.invert_goesOn hrun m.2 tol inn).trans (InvArgs.slot_completes h hstep)))
    refine ⟨_, hgo, InvArgs.complete_sameMemory _ s r.stall i r, ?_, fun x hx => ?_⟩
    · have hinvs := InvArgs.complete_invs ⟨m.2, tol.toNat, k.toNat, tgt, inn, out, r.body, r.fin⟩ (s.slotAll r.stall) i r
      rwa [State.slotAll_cur] at hinvs
    · obtain ⟨hpc, hbrk, hregs, hflags⟩ := InvArgs.complete_lane (i := i) hs hlanes hx (heval x hx)
      refine ⟨hpc, hbrk, ?_, fun c hc hne => ?_, fun c hlow hhigh hne => ?_, hflags⟩
      · rw [hregs, if_pos rfl]
      · rw [hregs, if_neg hne, if_neg (by omega)]
      · rw [hregs, if_neg hne, if_pos ⟨hlow, hhigh⟩]

end Sys2Proof.Machine
end

section
/-!
SUPPORT for O34. The keys of the two domains (R43) are numbered without gaps, and a step of bisection moves one end of its bracket to the middle key (R170, R171).
-/
namespace Sys2Proof.Machine

/-! ### Keys (R43) -/

/-- Turning the sign bit of a 32-bit number adds half the range. -/
theorem xor_signBit {v : Nat} (h : v < 2 ^ 32) : v ^^^ 0x80000000 = (v + 2 ^ 31) % 2 ^ 32 := by
  have hlow : (v ^^^ 0x80000000) % 0x80000000 = v % 0x80000000 := (Nat.xor_mod_two_pow (n := 31)).trans (Nat.xor_zero _)
  have hsign : (v ^^^ 0x80000000) / 0x80000000 = v / 0x80000000 ^^^ 1 := Nat.xor_div_two_pow (n := 31)
  have hbit : v / 0x80000000 = 0 ∨ v / 0x80000000 = 1 := by omega
  rcases hbit with hv | hv
  · have hset : (v ^^^ 0x80000000) / 0x80000000 = 1 := by rw [hsign, hv]; rfl
    omega
  · have hclear : (v ^^^ 0x80000000) / 0x80000000 = 0 := by rw [hsign, hv]; rfl
    omega

theorem keyOf_lt (f32 : Bool) {v : Nat} (h : v < 2 ^ 32) : keyOf f32 v < 2 ^ 32 := by
  rw [keyOf, xor_signBit h]
  split <;> omega

theorem keyInv_lt (f32 : Bool) {k : Nat} (h : k < 2 ^ 32) : keyInv f32 k < 2 ^ 32 := by
  rw [keyInv, xor_signBit h]
  split <;> omega

/-- Every key below 2^32 is the key of a value of its domain. -/
theorem keyOf_keyInv (f32 : Bool) {k : Nat} (h : k < 2 ^ 32) : keyOf f32 (keyInv f32 k) = k := by
  have hk := keyInv_lt f32 h
  rw [keyOf, xor_signBit hk]
  rw [keyInv, xor_signBit h] at hk ⊢
  cases f32 with
  | false => simp only [Bool.not_false, Bool.true_or, if_true]; omega
  | true =>
    by_cases hpos : k / 2 ^ 31 % 2 = 1
    · simp only [Bool.not_true, Bool.false_or, hpos, beq_self_eq_true, if_true]
      rw [if_pos (by rw [beq_iff_eq]; omega)]
      omega
    · simp only [Bool.not_true, Bool.false_or, beq_iff_eq, hpos, if_false]
      rw [if_neg (by omega)]
      omega

/-! ### The middle of a bracket -/

/-- The argument at the middle key of a bracket (R170). -/
def InvLane.mid (x : InvLane) : Nat := keyInv x.f32 (keyOf x.f32 x.lo + x.width / 2)

/-- The upper end moved to the middle, where the routine's value is `fm`. -/
def InvLane.lower (x : InvLane) (fm : Nat) : InvLane := { x with hi := x.mid, fhi := fm }

/-- The lower end moved to the middle, where the routine's value is `fm`. -/
def InvLane.raise (x : InvLane) (fm : Nat) : InvLane := { x with lo := x.mid, flo := fm }

theorem InvArgs.gap_pos (p : InvArgs) : 1 ≤ p.gap := by
  rw [InvArgs.gap]
  split
  · exact Nat.le_refl 1
  · exact Nat.one_le_two_pow

/-- What a step of a lane that has not stopped can do. -/
theorem InvArgs.bisect_moves {p : InvArgs} {cx : Ctx} {t : Thread} {x y : InvLane} (hgap : p.gap < x.width) (h : p.bisect cx t x = .ok y) :
    ∃ fm, (beyond p.dec (x.tag == .f32x2) x.goal fm = true ∧ y = x.lower fm) ∨
      (beyond p.dec (x.tag == .f32x2) x.goal fm = false ∧ y = x.raise fm) := by
  rw [InvArgs.bisect, if_neg (by omega)] at h
  simp only [bind, Except.bind] at h
  split at h
  · cases h
  split at h
  · cases h
  next v _ =>
    refine ⟨v.2, ?_⟩
    split at h
    · cases h
    · injection h with h
      cases hb : beyond p.dec (x.tag == .f32x2) x.goal v.2 with
      | true => exact .inl ⟨rfl, by rw [← h, hb]; rfl⟩
      | false => exact .inr ⟨rfl, by rw [← h, hb]; rfl⟩

/-! ### The bracket is kept -/

/-- A lane's bracket (R167): two arguments in key order, the value at the lower before the target and the value at the upper beyond it. -/
structure InvLane.Bracketed (x : InvLane) (dec : Bool) : Prop where
  lo_lt : x.lo < 2 ^ 32
  hi_lt : x.hi < 2 ^ 32
  ordered : keyOf x.f32 x.lo < keyOf x.f32 x.hi
  before : beyond dec (x.tag == .f32x2) x.goal x.flo = false
  reached : beyond dec (x.tag == .f32x2) x.goal x.fhi = true

section

variable {x : InvLane} {dec : Bool} {fm : Nat}

theorem InvLane.Bracketed.midKey_lt (h : x.Bracketed dec) : keyOf x.f32 x.lo + x.width / 2 < 2 ^ 32 := by
  have hhi := keyOf_lt x.f32 h.hi_lt
  have hord := h.ordered
  rw [InvLane.width]
  omega

theorem InvLane.Bracketed.keyOf_mid (h : x.Bracketed dec) : keyOf x.f32 x.mid = keyOf x.f32 x.lo + x.width / 2 :=
  keyOf_keyInv x.f32 h.midKey_lt

theorem InvLane.Bracketed.mid_lt (h : x.Bracketed dec) : x.mid < 2 ^ 32 := keyInv_lt x.f32 h.midKey_lt

theorem InvLane.Bracketed.width_lower (h : x.Bracketed dec) : (x.lower fm).width = x.width / 2 := by
  have hwidth : (x.lower fm).width = keyOf x.f32 x.mid - keyOf x.f32 x.lo := rfl
  rw [hwidth, h.keyOf_mid]
  omega

theorem InvLane.Bracketed.width_raise (h : x.Bracketed dec) : (x.raise fm).width = (x.width + 1) / 2 := by
  have hwidth : (x.raise fm).width = keyOf x.f32 x.hi - keyOf x.f32 x.mid := rfl
  have hx : x.width = keyOf x.f32 x.hi - keyOf x.f32 x.lo := rfl
  rw [hwidth, h.keyOf_mid]
  omega

theorem InvLane.Bracketed.lower (h : x.Bracketed dec) (hw : 1 < x.width) (hfm : beyond dec (x.tag == .f32x2) x.goal fm = true) :
    (x.lower fm).Bracketed dec where
  lo_lt := h.lo_lt
  hi_lt := h.mid_lt
  ordered := by
    show keyOf x.f32 x.lo < keyOf x.f32 x.mid
    rw [h.keyOf_mid]
    omega
  before := h.before
  reached := hfm

theorem InvLane.Bracketed.raise (h : x.Bracketed dec) (hfm : beyond dec (x.tag == .f32x2) x.goal fm = false) :
    (x.raise fm).Bracketed dec where
  lo_lt := h.mid_lt
  hi_lt := h.hi_lt
  ordered := by
    have hord := h.ordered
    have hx : x.width = keyOf x.f32 x.hi - keyOf x.f32 x.lo := rfl
    show keyOf x.f32 x.mid < keyOf x.f32 x.hi
    rw [h.keyOf_mid]
    omega
  before := hfm
  reached := h.reached

end

/-- A step keeps the bracket and what the lane solves; where the lane has not stopped, it halves the bracket. -/
theorem InvArgs.bisect_bracketed {p : InvArgs} {cx : Ctx} {t : Thread} {x y : InvLane} (hx : x.Bracketed p.dec) (h : p.bisect cx t x = .ok y) :
    y.Bracketed p.dec ∧ (y.goal = x.goal ∧ y.tag = x.tag ∧ y.dom = x.dom) ∧ (p.gap < x.width → y.width ≤ (x.width + 1) / 2) := by
  by_cases hgap : p.gap < x.width
  · have hw : 1 < x.width := Nat.lt_of_le_of_lt p.gap_pos hgap
    obtain ⟨fm, ⟨hfm, rfl⟩ | ⟨hfm, rfl⟩⟩ := InvArgs.bisect_moves hgap h
    · refine ⟨hx.lower hw hfm, ⟨rfl, rfl, rfl⟩, fun _ => ?_⟩
      rw [hx.width_lower]
      omega
    · exact ⟨hx.raise hfm, ⟨rfl, rfl, rfl⟩, fun _ => hx.width_raise.le⟩
  · rw [InvArgs.bisect, if_pos (Nat.le_of_not_lt hgap)] at h
    injection h with h
    subst h
    exact ⟨hx, ⟨rfl, rfl, rfl⟩, fun hlt => absurd hlt hgap⟩

/-- Settles O34. A lane that has not stopped has a bracket of at least two keys, so that the middle key lies
above its lower end and below its upper one; the end that moves is the one on the middle's side of the target. -/
theorem bisectionKeepsItsBracket : Obligations.BisectionKeepsItsBracket := by
  unfold Obligations.BisectionKeepsItsBracket
  intro p cx t x y hlo hhi hord hbefore hreached h
  obtain ⟨hy, ⟨hgoal, htag, hdom⟩, hhalf⟩ := InvArgs.bisect_bracketed ⟨hlo, hhi, hord, hbefore, hreached⟩ h
  exact ⟨hy.before, hy.reached, hgoal, htag, hdom, hy.lo_lt, hy.hi_lt, hy.ordered, hhalf⟩

end Sys2Proof.Machine
end

section
/-!
SUPPORT for O35. Instructions whose effect is a trap (R166, R309, R311).
-/
namespace Sys2Proof.Machine

variable {s : State}

/-- SYSCALL of threads without a poisoned argument (R309). -/
theorem execSyscall_traps (hr : s.ready .syscall 0 = true) (h : ∀ l ∈ s.lanes, (s.th l).callPoisoned = false) :
    exec .syscall s = .next (s.takeTrap s.cur.q 0x20 (maskOf s.lanes) 0 s.cur.pc) := by
  have hsound : (s.lanes.filter fun l => (s.thread s.cur.q l).callPoisoned) = [] :=
    List.filter_eq_nil_iff.mpr fun l hl => by rw [show (s.thread s.cur.q l).callPoisoned = false from h l hl]; decide
  refine congrArg Host.Outcome.next (State.execSet_trap (t := ⟨0x20, 0⟩) hr ?_ (by decide))
  rw [State.active_zero, if_pos hsound]

/-- BRK (R311). -/
theorem execBrk_traps (c : BitVec 6) (hr : s.ready (.brk c) 0 = true) :
    exec (.brk c) s = .next (s.takeTrap s.cur.q 0x21 (maskOf s.lanes) (c.zeroExtend 64) s.cur.pc) := by
  refine congrArg Host.Outcome.next (State.execSet_trap (t := ⟨0x21, c.zeroExtend 64⟩) hr ?_ (by decide : (0x21 : Nat) ≠ 0x0B))
  rw [State.active_zero]

/-- INVEND fails in every lane (R166). -/
theorem laneResult_invend (hr : s.ready .invend 0 = true) (l : Nat) : s.laneResult .invend 0 0 doInvend l = .error ⟨0x01, 0⟩ := by
  have hguard : (s.th l).guardOn (s.ctx l) 0 = .ok true := rfl
  simp only [State.laneResult, admitted_lane s .invend l 0, ((s.ready_iff .invend 0).mp hr).2.1, if_true, hguard, doInvend]

/-- INVEND outside a routine, where no ENUM region suppresses its trap (R154, R166). -/
theorem execInvend_traps (hr : s.ready .invend 0 = true) (hne : s.lanes ≠ []) (hreg : (s.ctx 0).region ≠ 1) :
    exec .invend s = .next (s.takeTrap s.cur.q 0x01 (maskOf s.lanes) 0 s.cur.pc) := by
  have hall : s.lanes.filter (s.failsWith .invend 0 0 doInvend 0x01) = s.lanes :=
    List.filter_eq_self.mpr fun l _ => by rw [State.failsWith, laneResult_invend hr l]; rfl
  obtain ⟨l, rest, hlanes⟩ := List.exists_cons_of_ne_nil hne
  have hsorted : s.lanes.Pairwise (· < ·) := lanesOf_sorted _
  have hlow : ∀ m ∈ s.lanes, ¬ m < l := fun m hm hlt => by
    rw [hlanes] at hm hsorted
    rcases List.mem_cons.mp hm with rfl | hm
    · exact Nat.lt_irrefl m hlt
    · exact Nat.lt_asymm hlt (List.rel_of_pairwise_cons hsorted hm)
  refine congrArg Host.Outcome.next ?_
  rw [← hall]
  exact State.execThread_trap ((s.ready_iff _ 0).mp hr).1 (hlanes ▸ List.mem_cons_self) (laneResult_invend hr l) (by decide) hreg
    fun m hm hlt => absurd hlt (hlow m hm)

/-- Settles O35. SYSCALL and BRK fail as checks of the whole set, INVEND in each of its lanes. -/
theorem trapInstructionsTrap : Obligations.TrapInstructionsTrap := by
  unfold Obligations.TrapInstructionsTrap
  exact fun s => ⟨execSyscall_traps, fun c => execBrk_traps c, execInvend_traps⟩

end Sys2Proof.Machine
end

section
/-!
SUPPORT for O60. Numbers and the bytes that hold them, lowest address first (R3), and the entries of a leaf's group (R185, R187).
-/
namespace Sys2Proof.Machine

@[simp] theorem length_bytesLE (n v : Nat) : (bytesLE n v).length = n := by simp [bytesLE]

theorem bytesLE_succ (n v : Nat) : bytesLE (n + 1) v = BitVec.ofNat 8 v :: bytesLE n (v / 256) := by
  have hbyte (i : Nat) : v / 2 ^ (8 * (i + 1)) = v / 256 / 2 ^ (8 * i) := by
    rw [Nat.mul_add, Nat.add_comm, Nat.pow_add, Nat.div_div_eq_div_mul]
  simp only [bytesLE, List.range_succ_eq_map, List.map_cons, List.map_map, Function.comp_def, Nat.succ_eq_add_one, hbyte, Nat.mul_zero,
    Nat.pow_zero, Nat.div_one]

theorem natLE_bytesLE (n v : Nat) : natLE (bytesLE n v) = v % 256 ^ n := by
  induction n generalizing v with
  | zero => simp [bytesLE, natLE, Nat.mod_one]
  | succ n ih =>
    rw [bytesLE_succ, natLE, ih, BitVec.toNat_ofNat, Nat.pow_succ' (m := 256)]
    exact Nat.mod_mul.symm

theorem natLE_lt (bs : List Byte) : natLE bs < 256 ^ bs.length := by
  induction bs with
  | nil => simp [natLE]
  | cons b bs ih =>
    have hb := b.isLt
    rw [natLE, List.length_cons, Nat.pow_succ]
    omega

@[simp] theorem Memory.length_readBytes (m : Memory) (a n : Nat) : (m.readBytes a n).length = n := by
  induction n generalizing a with
  | zero => rfl
  | succ n ih => rw [Memory.readBytes, List.length_cons, ih]

theorem Memory.readBytes_congr {m m' : Memory} {a n : Nat} (h : ∀ c, a ≤ c → c < a + n → m.read c = m'.read c) : m.readBytes a n = m'.readBytes a n := by
  induction n generalizing a with
  | zero => rfl
  | succ n ih => rw [Memory.readBytes, Memory.readBytes, h a (by omega) (by omega), ih fun c h1 h2 => h c (by omega) (by omega)]

theorem dramWord_lt (m : Memory) (a : Nat) : dramWord m a < 2 ^ 64 := by
  have h := natLE_lt (m.readBytes a 8)
  rw [Memory.length_readBytes] at h
  exact h

theorem dramWord_writeBytes_same (m : Memory) (a : Nat) {v : Nat} (h : v < 2 ^ 64) : dramWord (m.writeBytes a (bytesLE 8 v)) a = v := by
  have hread := Memory.readBytes_writeBytes m a (bytesLE 8 v)
  rw [length_bytesLE] at hread
  rw [dramWord, hread, natLE_bytesLE]
  exact Nat.mod_eq_of_lt h

theorem dramWord_writeBytes_other (m : Memory) {a c : Nat} (v : Nat) (h : c + 8 ≤ a) : dramWord (m.writeBytes a (bytesLE 8 v)) c = dramWord m c :=
  congrArg natLE (Memory.readBytes_congr fun _ _ hx => Memory.read_writeBytes_outside _ _ _ _ (by omega))

/-! ### The entries of a group -/

/-- One number written n times, every 8 bytes from an address on. -/
def Memory.fillWords (m : Memory) (a v n : Nat) : Memory := (List.range n).foldl (fun m k => m.writeBytes (a + 8 * k) (bytesLE 8 v)) m

theorem setLeaf_eq_fillWords (m : Memory) (l : Leaf) (raw : Nat) : setLeaf m l raw = m.fillWords l.at_ raw (groupLen l.size) := rfl

theorem Memory.fillWords_succ (m : Memory) (a v n : Nat) : m.fillWords a v (n + 1) = (m.fillWords a v n).writeBytes (a + 8 * n) (bytesLE 8 v) := by
  simp [Memory.fillWords, List.range_succ]

theorem Memory.read_fillWords_outside (m : Memory) (a v n : Nat) {c : Nat} (h : c < a ∨ a + 8 * n ≤ c) : (m.fillWords a v n).read c = m.read c := by
  induction n with
  | zero => rfl
  | succ n ih =>
    rw [Memory.fillWords_succ, Memory.read_writeBytes_outside _ _ _ _ (by rw [length_bytesLE]; omega), ih (by omega)]

theorem Memory.dramWord_fillWords (m : Memory) (a : Nat) {v n k : Nat} (hv : v < 2 ^ 64) (hk : k < n) : dramWord (m.fillWords a v n) (a + 8 * k) = v := by
  induction n with
  | zero => omega
  | succ n ih =>
    rw [Memory.fillWords_succ]
    rcases Nat.lt_succ_iff_lt_or_eq.mp hk with hlt | rfl
    · rw [dramWord_writeBytes_other _ _ (by omega), ih hlt]
    · exact dramWord_writeBytes_same _ _ hv

/-! ### A leaf that a walk finds -/

theorem checkLeaf_raw {m : Memory} {lvl tbl i raw : Nat} {l : Leaf} (h : checkLeaf m lvl tbl i raw = .leaf l) : l.raw = raw := by
  unfold checkLeaf at h
  dsimp only at h
  split at h
  · cases h
    rfl
  · cases h

theorem walkStep_raw_lt {m : Memory} {va lvl tbl : Nat} {l : Leaf} (h : (walkStep m va lvl tbl).1 = .leaf l) : l.raw < 2 ^ 64 := by
  have hlt := dramWord_lt m (tbl + 8 * bitsOf va (12 + 9 * lvl) (if lvl = 4 then 8 else 9))
  unfold walkStep at h
  dsimp only at h
  generalize dramWord m (tbl + 8 * bitsOf va (12 + 9 * lvl) (if lvl = 4 then 8 else 9)) = raw at h hlt
  split at h
  · cases h
  · split at h
    · rwa [checkLeaf_raw h]
    · split at h <;> cases h

theorem walkFrom_raw_lt {m : Memory} {va lvl tbl : Nat} {l : Leaf} (h : walkFrom m va lvl tbl = .leaf l) : l.raw < 2 ^ 64 := by
  induction lvl generalizing tbl with
  | zero => exact walkStep_raw_lt h
  | succ lvl ih =>
    unfold walkFrom at h
    split at h
    · exact ih h
    · next hw => exact walkStep_raw_lt ((congrArg Prod.fst hw).trans h)

theorem State.leafNow_raw_lt {s : State} {job va : Nat} {l : Leaf} (h : s.leafNow job va = some l) : l.raw < 2 ^ 64 := by
  unfold State.leafNow at h
  split at h
  · cases h
  · split at h
    · next hw =>
      cases h
      exact walkFrom_raw_lt hw
    · cases h

/-- A number of 64 bits whose bit 8 is 0 has room for it. -/
theorem Leaf.raw_add_lt {l : Leaf} (h : l.raw < 2 ^ 64) (h8 : l.bit 8 = false) : l.raw + 256 < 2 ^ 64 := by
  simp only [Leaf.bit, bitsOf, beq_eq_false_iff_ne, ne_eq] at h8
  omega

end Sys2Proof.Machine
end

section
/-!
SUPPORT for O60. DRAM as a key shows it (R189), and what the landing of one part changes there (R187, R195, R215, R216).
-/
namespace Sys2Proof.Machine

variable {s t : State}

/-! ### A line read under a key -/

/-- A line shows under a key what is stored there (R189). -/
def State.plainUnder (s : State) (key line : Nat) : Prop := key = 0 ∨ s.lineKey line = 0 ∨ s.lineKey line = key

theorem State.dramByte_plain {key pa : Nat} (h : s.plainUnder key (pa / 64)) : s.dramByte pa key = s.mem.dram.read pa := by
  unfold State.plainUnder at h
  simp [State.dramByte, or_assoc, h]

/-- A byte reads as the 64 bytes of its line and the key that they were written under give it. -/
theorem State.dramByte_congr {pa : Nat} (key : Nat) (hkey : s.lineKey (pa / 64) = t.lineKey (pa / 64))
    (hline : ∀ c, c / 64 = pa / 64 → s.mem.dram.read c = t.mem.dram.read c) : s.dramByte pa key = t.dramByte pa key := by
  have hbytes : s.mem.dram.readBytes (pa / 64 * 64) 64 = t.mem.dram.readBytes (pa / 64 * 64) 64 :=
    Memory.readBytes_congr fun c h1 h2 => hline c (by omega)
  simp only [State.dramByte, State.rekeyed, hkey, hbytes, hline pa rfl]

@[simp] theorem State.length_rekeyed (s : State) (k key line : Nat) : (s.rekeyed k key line).length = 64 := by simp [State.rekeyed]

/-! ### A line brought under a key -/

theorem State.rekeyLine_plain {key line : Nat} (h : s.plainUnder key line) : s.rekeyLine key line = s := by
  unfold State.plainUnder at h
  simp [State.rekeyLine, or_assoc, h]

theorem State.rekeyLine_other {key line : Nat} (h : ¬ s.plainUnder key line) : s.rekeyLine key line =
    { s with mem := { s.mem with dram := s.mem.dram.writeBytes (line * 64) (s.rekeyed (s.lineKey line) key line),
                                 lineKeys := SMap.set 0 s.mem.lineKeys line key } } := by
  unfold State.plainUnder at h
  simp [State.rekeyLine, or_assoc, h]

theorem State.lineKey_rekeyLine_same (key line : Nat) (h : ¬ s.plainUnder key line) : (s.rekeyLine key line).lineKey line = key := by
  obtain ⟨n, rfl⟩ := Nat.exists_eq_succ_of_ne_zero fun e : key = 0 => h (.inl e)
  rw [State.rekeyLine_other h, State.lineKey, SMap.get_set_same]
  rfl

theorem State.lineKey_rekeyLine_other (key : Nat) {line l : Nat} (hl : l ≠ line) : (s.rekeyLine key line).lineKey l = s.lineKey l := by
  by_cases h : s.plainUnder key line
  · rw [State.rekeyLine_plain h]
  · rw [State.rekeyLine_other h]
    simp only [State.lineKey, SMap.get_set_other _ _ _ hl]

theorem State.plainUnder_rekeyLine (key line : Nat) : (s.rekeyLine key line).plainUnder key line := by
  by_cases h : s.plainUnder key line
  · rwa [State.rekeyLine_plain h]
  · exact .inr (.inr (State.lineKey_rekeyLine_same key line h))

theorem State.plainUnder_rekeyLine_keeps {key l : Nat} (h : s.plainUnder key l) (line : Nat) : (s.rekeyLine key line).plainUnder key l := by
  by_cases hl : l = line
  · rw [hl]
    exact State.plainUnder_rekeyLine key line
  · unfold State.plainUnder
    rwa [State.lineKey_rekeyLine_other key hl]

/-- A byte of another line reads as before, under any key. -/
theorem State.dramByte_rekeyLine_other (key : Nat) {line pa : Nat} (hl : pa / 64 ≠ line) (k : Nat) : (s.rekeyLine key line).dramByte pa k = s.dramByte pa k := by
  refine State.dramByte_congr k (State.lineKey_rekeyLine_other key hl) fun c hc => ?_
  by_cases h : s.plainUnder key line
  · rw [State.rekeyLine_plain h]
  · rw [State.rekeyLine_other h]
    exact Memory.read_writeBytes_outside _ _ _ _ (by rw [State.length_rekeyed]; omega)

/-- Every byte reads under the key as before. -/
theorem State.dramByte_rekeyLine_same (key line pa : Nat) : (s.rekeyLine key line).dramByte pa key = s.dramByte pa key := by
  by_cases hl : pa / 64 = line
  · subst hl
    by_cases h : s.plainUnder key (pa / 64)
    · rw [State.rekeyLine_plain h]
    · have hpa : pa / 64 * 64 + pa % 64 = pa := Nat.div_add_mod' pa 64
      have hlt : pa % 64 < (s.rekeyed (s.lineKey (pa / 64)) key (pa / 64)).length := by
        rw [State.length_rekeyed]
        omega
      have hread := Memory.read_writeBytes_inside s.mem.dram (pa / 64 * 64) _ (pa % 64) hlt
      rw [hpa] at hread
      rw [State.dramByte_plain (State.plainUnder_rekeyLine key _), State.rekeyLine_other h, hread]
      unfold State.plainUnder at h
      rw [State.dramByte]
      simp only [Bool.or_eq_true, decide_eq_true_eq, or_assoc, if_neg h, List.getElem?_eq_getElem hlt, Option.getD_some]
  · exact State.dramByte_rekeyLine_other key hl key

/-! ### Some lines brought under a key -/

/-- Lines of DRAM, one after another, brought under a key. -/
def State.rekeyLines (s : State) (key : Nat) (ls : List Nat) : State := ls.foldl (fun st l => st.rekeyLine key l) s

theorem State.rekeyLines_cons (key l : Nat) (ls : List Nat) : s.rekeyLines key (l :: ls) = (s.rekeyLine key l).rekeyLines key ls := rfl

theorem State.plainUnder_rekeyLines_keeps {key l : Nat} (h : s.plainUnder key l) (ls : List Nat) : (s.rekeyLines key ls).plainUnder key l := by
  induction ls generalizing s with
  | nil => exact h
  | cons x ls ih => exact ih (State.plainUnder_rekeyLine_keeps h x)

theorem State.plainUnder_rekeyLines {key l : Nat} {ls : List Nat} (h : l ∈ ls) : (s.rekeyLines key ls).plainUnder key l := by
  induction ls generalizing s with
  | nil => cases h
  | cons x ls ih =>
    rcases List.mem_cons.mp h with rfl | h
    · exact State.plainUnder_rekeyLines_keeps (State.plainUnder_rekeyLine key l) ls
    · exact ih h

theorem State.dramByte_rekeyLines_same (key : Nat) (ls : List Nat) (pa : Nat) : (s.rekeyLines key ls).dramByte pa key = s.dramByte pa key := by
  induction ls generalizing s with
  | nil => rfl
  | cons x ls ih => rw [State.rekeyLines_cons, ih, State.dramByte_rekeyLine_same]

theorem State.dramByte_rekeyLines_other (key : Nat) {ls : List Nat} {pa : Nat} (h : pa / 64 ∉ ls) (k : Nat) :
    (s.rekeyLines key ls).dramByte pa k = s.dramByte pa k := by
  induction ls generalizing s with
  | nil => rfl
  | cons x ls ih =>
    rw [List.mem_cons, not_or] at h
    rw [State.rekeyLines_cons, ih h.2, State.dramByte_rekeyLine_other key h.1]

/-! ### Bytes put in DRAM -/

theorem line_mem_linesOf {a n c : Nat} (h1 : a ≤ c) (h2 : c < a + n) : c / 64 ∈ linesOf a n := by
  have hn : n ≠ 0 := by omega
  rw [linesOf, if_neg hn, List.mem_map]
  exact ⟨c / 64 - a / 64, List.mem_range.mpr (by omega), by omega⟩

section PutBytes

variable (pa key : Nat) (data : List Byte)

theorem State.putBytes_dram : s.putBytes (.dram pa key) data =
    { s.rekeyLines key (linesOf pa data.length) with
      mem := { (s.rekeyLines key (linesOf pa data.length)).mem with
        dram := (s.rekeyLines key (linesOf pa data.length)).mem.dram.writeBytes pa data } } := rfl

theorem State.plainUnder_putBytes {c : Nat} (h : c / 64 ∈ linesOf pa data.length) : (s.putBytes (.dram pa key) data).plainUnder key (c / 64) :=
  State.plainUnder_rekeyLines (s := s) h

theorem State.dramByte_putBytes_inside {i : Nat} (h : i < data.length) :
    (s.putBytes (.dram pa key) data).dramByte (pa + i) key = data[i] := by
  rw [State.dramByte_plain (State.plainUnder_putBytes pa key data (line_mem_linesOf (by omega) (by omega))), State.putBytes_dram]
  exact Memory.read_writeBytes_inside _ _ _ _ h

/-- A byte of a line that no byte put lies in reads as before, under any key. -/
theorem State.dramByte_putBytes_otherLine {c : Nat} (h : c / 64 ∉ linesOf pa data.length) (k : Nat) :
    (s.putBytes (.dram pa key) data).dramByte c k = s.dramByte c k := by
  rw [← State.dramByte_rekeyLines_other (s := s) key h k]
  refine State.dramByte_congr k rfl fun x hx => Memory.read_writeBytes_outside _ _ _ _ ?_
  have hout : ¬ (pa ≤ x ∧ x < pa + data.length) := fun hin => h (hx ▸ line_mem_linesOf hin.1 hin.2)
  omega

/-- A byte that is not among those put reads under their key as before. -/
theorem State.dramByte_putBytes_outside {c : Nat} (h : c < pa ∨ pa + data.length ≤ c) :
    (s.putBytes (.dram pa key) data).dramByte c key = s.dramByte c key := by
  by_cases hl : c / 64 ∈ linesOf pa data.length
  · rw [← State.dramByte_rekeyLines_same (s := s) key (linesOf pa data.length) c, State.dramByte_plain (State.plainUnder_putBytes pa key data hl),
      State.dramByte_plain (State.plainUnder_rekeyLines hl)]
    exact Memory.read_writeBytes_outside _ _ _ _ h
  · exact State.dramByte_putBytes_otherLine pa key data hl key

end PutBytes

/-! ### D (R187, R195) -/

/-- D is set in every entry of the group of a leaf that reaches the place, and nothing else of DRAM changes. -/
theorem State.setDirty_clean {job va pa : Nat} {l : Leaf} (hl : s.leafNow job va = some l) (hpa : l.pa va = pa) (h8 : l.bit 8 = false) :
    (s.setDirty job va pa).mem.dram = setLeaf s.mem.dram l (l.raw + 256) := by
  have hreach : (s.leafNow job va).filter (fun l => l.pa va == pa) = some l := by simp [hl, Option.filter, hpa]
  simp only [State.setDirty, hreach, h8, Bool.false_eq_true, if_false]

theorem State.setDirty_dirty {job va pa : Nat} (h : ∀ l, s.leafNow job va = some l → l.pa va = pa → l.bit 8 = true) :
    (s.setDirty job va pa).mem.dram = s.mem.dram := by
  unfold State.setDirty
  split
  · next l hl =>
    obtain ⟨hnow, hpa⟩ := Option.filter_eq_some_iff.mp hl
    rw [if_pos (h l hnow (beq_iff_eq.mp hpa))]
  · split <;> rfl

/-- What D's setting leaves before the bytes land; a window has no page, and no D. -/
def State.dirtied (s : State) (job va pa : Nat) : State := if job = 0 then s else s.setDirty job va pa

/-! ### The crews, which a landing in DRAM marks only -/

def State.withCrews (s : State) (cs : SMap Crew) : State := { s with crews := cs }

theorem State.rekeyLine_withCrews (cs : SMap Crew) (key line : Nat) : (s.withCrews cs).rekeyLine key line = (s.rekeyLine key line).withCrews cs := by
  by_cases h : s.plainUnder key line
  · rw [State.rekeyLine_plain h]
    exact State.rekeyLine_plain (s := s.withCrews cs) h
  · rw [State.rekeyLine_other h]
    exact State.rekeyLine_other (s := s.withCrews cs) h

theorem State.rekeyLines_withCrews (cs : SMap Crew) (key : Nat) (ls : List Nat) : (s.withCrews cs).rekeyLines key ls = (s.rekeyLines key ls).withCrews cs := by
  induction ls generalizing s with
  | nil => rfl
  | cons x ls ih => rw [State.rekeyLines_cons, State.rekeyLine_withCrews, ih, State.rekeyLines_cons]

theorem State.setDirty_withCrews (cs : SMap Crew) (job va pa : Nat) : (s.withCrews cs).setDirty job va pa = (s.setDirty job va pa).withCrews cs := by
  have hleaf : (s.withCrews cs).leafNow job va = s.leafNow job va := by
    simp only [State.leafNow, State.withCrews, State.job?]
  have hstale : (s.withCrews cs).staleMap job va pa = s.staleMap job va pa := rfl
  unfold State.setDirty
  rw [hleaf, hstale]
  split <;> split <;> rfl

theorem State.dirtied_withCrews (cs : SMap Crew) (job va pa : Nat) : (s.withCrews cs).dirtied job va pa = (s.dirtied job va pa).withCrews cs := by
  unfold State.dirtied
  split
  · rfl
  · exact State.setDirty_withCrews cs job va pa

theorem State.noteSource_withCrews (s : State) (p : Place) (data : List Byte) : ∃ cs, s.noteSource p data = s.withCrews cs := by
  unfold State.noteSource
  split
  · exact ⟨s.crews, rfl⟩
  · exact ⟨_, rfl⟩

/-- One part that lands in DRAM where no injection is armed: D, the bytes and the end of their poison, and crews whose scratchpads are as before. -/
theorem State.landPart_dram {lid c : Nat} (harm : (s.crewOf lid c).inj.arm = false) (pa key job va : Nat) (data : List Byte) :
    ∃ cs, s.landPart lid c (.dram pa key) job va data =
        (((s.dirtied job va pa).putBytes (.dram pa key) data).heal (.dram pa key) data.length).withCrews cs ∧
      ∀ l k, ((s.withCrews cs).crewOf l k).scratch = (s.crewOf l k).scratch := by
  obtain ⟨cs, hcs⟩ := s.noteSource_withCrews (.dram pa key) data
  have hcrew (l k : Nat) : ∃ g, (s.withCrews cs).crewOf l k = { s.crewOf l k with graph := g } := hcs ▸ s.crewOf_noteSource (.dram pa key) data l k
  refine ⟨cs, ?_, fun l k => ?_⟩
  · obtain ⟨g, hg⟩ := hcrew lid c
    have hput : ((s.withCrews cs).dirtied job va pa).putBytes (.dram pa key) data = ((s.dirtied job va pa).putBytes (.dram pa key) data).withCrews cs := by
      rw [State.dirtied_withCrews, State.putBytes_dram, State.rekeyLines_withCrews]
      rfl
    have harmed : ((((s.dirtied job va pa).putBytes (.dram pa key) data).withCrews cs).heal (.dram pa key) data.length |>.crewOf lid c).inj.arm = false := by
      show ((s.withCrews cs).crewOf lid c).inj.arm = false
      rw [hg]
      exact harm
    show ((((s.noteSource (.dram pa key) data).dirtied job va pa).putBytes (.dram pa key) data).heal (.dram pa key) data.length).injectWrite lid c 2
      (.dram pa key) = _
    rw [hcs, hput, State.injectWrite_unarmed harmed]
    rfl
  · obtain ⟨g, hg⟩ := hcrew l k
    rw [hg]

/-- Settles O60. The page's entries and the bytes are written one after the other; a line that is brought under another key first reads under that key as it did. -/
theorem landingChangesTheStoredBytes : Obligations.LandingChangesTheStoredBytes := by
  unfold Obligations.LandingChangesTheStoredBytes
  intro s lid c pa key job va data harm m t
  obtain ⟨cs, ht, hscratch⟩ := State.landPart_dram harm pa key job va data
  have hbyte (a k : Nat) : t.byteAt (.dram a k) = (m.putBytes (.dram pa key) data).dramByte a k := (congrArg (fun u => State.byteAt u (.dram a k)) ht).trans rfl
  refine ⟨fun l hl hpa h8 hjob => ?_, fun h => ?_, fun i hi => ?_, fun a ha => ?_, fun a k ha => ?_, fun l k o => ?_⟩
  · have hm : m.mem.dram = s.mem.dram.fillWords l.at_ (l.raw + 256) (groupLen l.size) := by
      simp only [m, if_neg hjob]
      exact (State.setDirty_clean hl hpa h8).trans (setLeaf_eq_fillWords ..)
    rw [hm]
    exact ⟨fun k hk => Memory.dramWord_fillWords _ _ (Leaf.raw_add_lt (State.leafNow_raw_lt hl) h8) hk,
      fun a ha => Memory.read_fillWords_outside _ _ _ _ ha⟩
  · by_cases hjob : job = 0
    · simp only [m, if_pos hjob]
    · simp only [m, if_neg hjob]
      exact State.setDirty_dirty h
  · rw [hbyte, State.dramByte_putBytes_inside pa key data hi, List.getD_eq_getElem _ _ hi]
  · rw [hbyte]
    exact State.dramByte_putBytes_outside pa key data ha
  · rw [hbyte]
    exact State.dramByte_putBytes_otherLine pa key data ha k
  · have h := congrArg (fun u => State.byteAt u (.scratch l k o)) ht
    exact h.trans (congrArg (·.read o) (hscratch l k))

end Sys2Proof.Machine
end

section
/-!
SUPPORT for O44. Errors where they are found (R332, R334), the patrol (R344), and the banks at the end of a cycle (R333).
-/
namespace Sys2Proof.Machine

variable {s : State}

/-! ### Where an error is found -/

section Found

variable {site : ErrorSite} {n bank addr : Nat} {a : Word} (info : BitVec 128) (hok : s.siteOk site n a = true) (hbank : s.siteBank site n a = (bank, addr))

include hok hbank

theorem exec_correctedError : exec (.correctedError ⟨site, n⟩ a info) s = .next (s.logError bank false (BitVec.ofNat 64 addr) info) := by
  refine congrArg Host.Outcome.next ?_
  simp only [hok, hbank, if_true]

theorem exec_uncorrectableError :
    exec (.uncorrectableError site n a info) s = .next ((s.logError bank true (BitVec.ofNat 64 addr) info).spoil site n) := by
  refine congrArg Host.Outcome.next ?_
  simp only [hok, hbank, if_true]

end Found

/-- An error at a site waits for a bank; an uncorrectable one also spoils what stands there. -/
def State.ErrorFound (s : State) (a : Word) (info : BitVec 128) (site : ErrorSite) (n bank addr : Nat) (spoiled : State → State) : Prop :=
  exec (.correctedError ⟨site, n⟩ a info) s = .next (s.logError bank false (BitVec.ofNat 64 addr) info) ∧
    exec (.uncorrectableError site n a info) s = .next (spoiled (s.logError bank true (BitVec.ofNat 64 addr) info))

theorem State.errorFound {site : ErrorSite} {n bank addr : Nat} {a : Word} {info : BitVec 128} {spoiled : State → State}
    (hok : s.siteOk site n a = true) (hbank : s.siteBank site n a = (bank, addr))
    (hspoil : (s.logError bank true (BitVec.ofNat 64 addr) info).spoil site n = spoiled (s.logError bank true (BitVec.ofNat 64 addr) info)) :
    s.ErrorFound a info site n bank addr spoiled :=
  ⟨exec_correctedError info hok hbank, (exec_uncorrectableError info hok hbank).trans (congrArg Host.Outcome.next hspoil)⟩

/-! ### Sites -/

section Sites

variable (a : Word) (info : BitVec 128)

theorem State.found_dramLine {n : Nat} (h : 64 * n < Config.dramBytes) :
    s.ErrorFound a info .dramLine n (s.bankFor (.dram (64 * n) 0)) (64 * n) (·.mark (.dram (64 * n) 0)) :=
  State.errorFound (decide_eq_true h) rfl rfl

theorem State.found_dieCacheLine {n : Nat} (h : 64 * n < Config.dramBytes) :
    s.ErrorFound a info .dieCacheLine n (bankOf 0x07 (s.dieOf (64 * n))) (64 * n) (·.mark (.dram (64 * n) 0)) :=
  State.errorFound (decide_eq_true h) rfl rfl

theorem State.found_scratchLine {lid crew n : Nat} (hstarted : (s.crewOf lid crew).started = true) (hn : 64 * n < (s.launchOf lid).scratch) :
    s.ErrorFound a info (.scratchLine lid crew) n (s.bankFor (.scratch lid crew (64 * n))) (64 * n) (·.mark (.scratch lid crew (64 * n))) :=
  State.errorFound (by simp only [State.siteOk, hstarted, decide_eq_true hn, Bool.and_self]) rfl rfl

/-- A line of a stack slice: the slice stands in the pool of its launch (R184). -/
theorem State.found_stackLine {lid crew squad lane q n : Nat} (hq : s.recordFor ⟨lid, crew, squad⟩ = some q) (hlive : (s.thread q lane).live = true)
    (hn : 64 * n < (s.launchOf lid).stack) :
    s.ErrorFound a info (.stackLine lid crew squad lane) n
      (s.bankFor (.dram ((s.launchOf lid).sliceAt (s.thread q lane).slice + 64 * n) 0)) ((s.launchOf lid).sliceAt (s.thread q lane).slice + 64 * n)
      fun st => st.modThread q lane fun t => { t with stackPoison := SMap.set 0 t.stackPoison n (BitVec.allOnes 64) } := by
  refine State.errorFound ?_ ?_ ?_
  · simp only [State.siteOk, hq, Option.any_some, hlive, decide_eq_true hn, Bool.and_self]
  · simp only [State.siteBank, State.sliceOf, hq, Option.map_some, Option.getD_some]
  · have hlogged (b : Nat) (x : Word) : (s.logError b true x info).recordFor ⟨lid, crew, squad⟩ = some q := hq
    simp only [State.spoil, hlogged]

theorem State.found_registerLine {q n : Nat} {sq : Squad} (hq : s.squad? q = some sq) (hn : n < 238) (hres : n ∉ sq.missing) :
    s.ErrorFound a info (.registerLine q) n (bankOf 0x01 (coreOf q)) n (·.setSquad q (sq.poisonLine s.cycle n)) :=
  State.errorFound (by simp [State.siteOk, hq, hn, hres]) rfl (State.modSquad_some (s.logError _ true _ info) _ _ hq)

/-- An error in the operand store turns what the lane holds there POISON (log 78). -/
theorem State.found_operandStore {q n : Nat} {sq : Squad} (hq : s.squad? q = some sq) (hlive : (sq.thread n).live = true) :
    s.ErrorFound a info (.operandStore q) n (bankOf 0x02 (coreOf q)) n fun st => st.modThread q n fun t =>
      { [56, 57, 58, 59, 60, 61].foldl (fun (t : Thread) c => t.poisonReg s.cycle c) t with
        brk := (List.range 4).foldl (fun m c => SMap.set Reg.zero m c { SMap.get Reg.zero m c with tag := .poison }) t.brk } :=
  State.errorFound (by simp only [State.siteOk, hq, Option.any_some, hlive]) rfl rfl

theorem State.found_rindSlot {core n : Nat} (hcore : core < Config.cores) (hn : n < 256) :
    s.ErrorFound a info (.rindSlot core) n (bankOf 0x05 core) n fun st => st.modEngine core fun e => e.setSlot n { e.slot n with fmt := none } :=
  State.errorFound (by simp only [State.siteOk, decide_eq_true hcore, decide_eq_true hn, Bool.and_self]) rfl rfl

/-- A link or a port retries (R343). -/
theorem State.found_link {p : ErrorSite × Nat} (hp : p ∈ [(ErrorSite.fabricLink, 0x09), (.networkPort, 0x0A), (.storagePort, 0x0B)]) {n : Nat}
    (hbank : isBank (bankOf p.2 n) = true) : s.ErrorFound a info p.1 n (bankOf p.2 n) a.toNat id := by
  simp only [List.mem_cons, List.not_mem_nil, or_false] at hp
  rcases hp with rfl | rfl | rfl <;> exact State.errorFound hbank rfl rfl

theorem State.found_serviceSram (h : a.toNat < 16777216) : s.ErrorFound a info .serviceSram 0 (bankOf 0x0C 0) a.toNat id :=
  State.errorFound (decide_eq_true h) rfl rfl

end Sites

/-! ### An error that waits for its bank leaves the rest as it is -/

section LogError

variable (s : State) (bank : Nat) (uc : Bool) (addr : Word) (info : BitVec 128)

@[simp] theorem State.leafNow_logError (job va : Nat) : (s.logError bank uc addr info).leafNow job va = s.leafNow job va := by
  simp only [State.leafNow, State.logError, State.job?]

@[simp] theorem State.pageHeld_logError (job va pa : Nat) : (s.logError bank uc addr info).pageHeld job va pa = s.pageHeld job va pa := by
  have hstale : (s.logError bank uc addr info).staleMap job va pa = s.staleMap job va pa := rfl
  simp only [State.pageHeld, State.leafNow_logError, hstale]

@[simp] theorem State.partHeld_logError (p : Part) : (s.logError bank uc addr info).partHeld p = s.partHeld p := by
  simp only [State.partHeld]
  cases p.place with
  | dram pa key => simp only [State.placeHeld, State.pageHeld_logError]
  | scratch l c o => rfl

@[simp] theorem State.graphHeld_logError (lid crew : Nat) (a : Word) (n : Nat) :
    (s.logError bank uc addr info).graphHeld lid crew a n = s.graphHeld lid crew a n := by
  have hparts : (s.logError bank uc addr info).graphParts lid crew .store a n = s.graphParts lid crew .store a n := rfl
  have hheld : (s.logError bank uc addr info).partHeld = s.partHeld := funext (State.partHeld_logError s bank uc addr info)
  simp only [State.graphHeld, hparts, hheld]

@[simp] theorem State.stagedNode_logError (lid crew node : Nat) :
    (s.logError bank uc addr info).stagedNode lid crew node = s.stagedNode lid crew node := by
  have hcrew : (s.logError bank uc addr info).crewOf lid crew = s.crewOf lid crew := rfl
  simp only [State.stagedNode, State.graphHeld_logError, hcrew]

end LogError

/-! ### Staged data (R288) -/

/-- A running node whose data is staged: it is retried once, and then fails. -/
theorem State.spoil_staging {lid crew node : Nat} {r : RunNode} (hr : s.stagedNode lid crew node = some r) :
    s.spoil (.staging lid crew) node = if r.retried then s.failRunning lid crew r ⟨0x11, 0⟩
      else (s.recordProg lid crew r).setRunning lid crew { r with retried := true, piece := none, msg := none } := by
  have hfree : (dataKind (nKind r.bytes) && s.graphHeld lid crew r.node.addr 64) = false := by
    have h := List.find?_some hr
    simp only [Bool.and_eq_true, Bool.not_eq_true'] at h
    exact h.2
  simp only [State.spoil, hr, State.stagingError, hfree, Bool.false_eq_true, if_false]

theorem exec_stagingError (a : Word) (info : BitVec 128) {lid crew node : Nat} {r : RunNode} (hr : s.stagedNode lid crew node = some r) :
    let s1 := s.logError (bankOf 0x06 ((s.crewOf lid crew).core.getD 0)) true (BitVec.ofNat 64 0) info
    exec (.uncorrectableError (.staging lid crew) node a info) s = .next (if r.retried then s1.failRunning lid crew r ⟨0x11, 0⟩
      else (s1.recordProg lid crew r).setRunning lid crew { r with retried := true, piece := none, msg := none }) := by
  intro s1
  have hok : s.siteOk (.staging lid crew) node a = true := by simp only [State.siteOk, hr, Option.isSome_some]
  have hlogged : s1.stagedNode lid crew node = some r := (State.stagedNode_logError ..).trans hr
  rw [exec_uncorrectableError info hok rfl, State.spoil_staging hlogged]

/-! ### The matrix array (R256) -/

/-- Every tile and every slot of an engine INVALID. -/
def Engine.invalidated (e : Engine) : Engine :=
  { e with
    tiles := e.tiles.foldl (fun m x => SMap.set {} m x.1 { x.2 with tag := none }) []
    slots := e.slots.foldl (fun m x => SMap.set {} m x.1 { x.2 with fmt := none }) [] }

/-- Values that all have a property, put in a map whose values all have it. -/
theorem SMap.get_foldl_set {α : Type} [DecidableEq α] (d : α) (f : α → α) (P : α → Prop) (hf : ∀ v, P (f v)) (m acc : SMap α)
    (hacc : ∀ n, P (SMap.get d acc n)) (n : Nat) : P (SMap.get d (m.foldl (fun m x => SMap.set d m x.1 (f x.2)) acc) n) := by
  induction m generalizing acc with
  | nil => exact hacc n
  | cons x m ih =>
    refine ih _ fun k => ?_
    rw [SMap.get_set]
    split
    · exact hf x.2
    · exact hacc k

theorem Engine.tag_invalidated (e : Engine) (n : Nat) : (e.invalidated.tile n).tag = none :=
  SMap.get_foldl_set ({} : Tile) (fun t => { t with tag := none }) (fun t => t.tag = none) (fun _ => rfl) e.tiles [] (fun _ => rfl) n

theorem Engine.fmt_invalidated (e : Engine) (n : Nat) : (e.invalidated.slot n).fmt = none :=
  SMap.get_foldl_set ({} : Slot) (fun t => { t with fmt := none }) (fun t => t.fmt = none) (fun _ => rfl) e.slots [] (fun _ => rfl) n

theorem State.engine_modEngine_same (s : State) (core : Nat) (f : Engine → Engine) :
    ((s.modEngine core f).coreAt core).engine = f (s.coreAt core).engine :=
  congrArg Core.engine (SMap.get_set_same ..)

section Array

variable (a : Word) (info : BitVec 128) {core : Nat} (hcore : core < Config.cores)

include hcore

theorem exec_arrayError_free (hown : (s.coreAt core).engine.owner = none) :
    exec (.uncorrectableError (.matrixArray core) 0 a info) s =
      .next ((s.logError (bankOf 0x04 core) true (BitVec.ofNat 64 0) info).modEngine core Engine.invalidated) := by
  have hlogged (b : Nat) (x : Word) : ((s.logError b true x info).coreAt core).engine.owner = none := hown
  have hok : s.siteOk (.matrixArray core) 0 a = true := decide_eq_true hcore
  rw [exec_uncorrectableError info hok rfl]
  simp only [State.spoil, hlogged]
  rfl

theorem exec_arrayError_owned {lid crew : Nat} (hown : (s.coreAt core).engine.owner = some (lid, crew)) :
    exec (.uncorrectableError (.matrixArray core) 0 a info) s =
      .next (((s.logError (bankOf 0x04 core) true (BitVec.ofNat 64 0) info).modEngine core Engine.invalidated).killSet lid crew 0x11) := by
  have hlogged (b : Nat) (x : Word) : ((s.logError b true x info).coreAt core).engine.owner = some (lid, crew) := hown
  have hok : s.siteOk (.matrixArray core) 0 a = true := decide_eq_true hcore
  rw [exec_uncorrectableError info hok rfl]
  simp only [State.spoil, hlogged]
  rfl

end Array

theorem State.tag_invalidated (s : State) (core n : Nat) : (((s.modEngine core Engine.invalidated).coreAt core).engine.tile n).tag = none := by
  rw [State.engine_modEngine_same]
  exact Engine.tag_invalidated ..

theorem State.fmt_invalidated (s : State) (core n : Nat) : (((s.modEngine core Engine.invalidated).coreAt core).engine.slot n).fmt = none := by
  rw [State.engine_modEngine_same]
  exact Engine.fmt_invalidated ..

/-! ### The patrol (R344) -/

section Patrol

variable {line : Nat} (h : 64 * line < Config.dramBytes)

include h

theorem execPatrolScrub_inDram (c u : Bool) :
    let p : Place := .dram (64 * line) 0
    let s1 := s.noteRead p
    exec (.patrolScrub line c u) s = .next (if u then (s1.logError (s.bankFor p) true (BitVec.ofNat 64 (64 * line)) 0).mark p
      else if c then s1.logError (s.bankFor p) false (BitVec.ofNat 64 (64 * line)) 0 else s1) := by
  have hok : s.siteOk .dramLine line 0 = true := decide_eq_true h
  refine congrArg Host.Outcome.next ?_
  simp only [hok, Bool.not_true, Bool.false_eq_true, if_false]

theorem execPatrolScrub_clean : exec (.patrolScrub line false false) s = .next (s.noteRead (.dram (64 * line) 0)) :=
  execPatrolScrub_inDram h false false

theorem execPatrolScrub_corrects : exec (.patrolScrub line true false) s =
    .next ((s.noteRead (.dram (64 * line) 0)).logError (s.bankFor (.dram (64 * line) 0)) false (BitVec.ofNat 64 (64 * line)) 0) :=
  execPatrolScrub_inDram h true false

theorem execPatrolScrub_poisons (c : Bool) : exec (.patrolScrub line c true) s =
    .next (((s.noteRead (.dram (64 * line) 0)).logError (s.bankFor (.dram (64 * line) 0)) true (BitVec.ofNat 64 (64 * line)) 0).mark (.dram (64 * line) 0)) :=
  execPatrolScrub_inDram h c true

end Patrol

/-! ### The banks (R333) -/

theorem State.banks_enterError (s : State) (e : BankError) (n : Nat) : (SMap.get {} (s.enterError e).mem.banks n : Bank) = if n = e.bank then
      (if e.uc then (SMap.get {} s.mem.banks n : Bank).uncorrectable e.addr e.info else (SMap.get {} s.mem.banks n : Bank).corrected e.addr e.info)
    else SMap.get {} s.mem.banks n := by
  refine (SMap.get_set {} s.mem.banks n e.bank _).trans ?_
  by_cases h : n = e.bank
  · subst h
    rfl
  · rw [if_neg h, if_neg h]

/-- Settles O44, site by site. -/
theorem errorEventsComplete : Obligations.ErrorEventsComplete := by
  unfold Obligations.ErrorEventsComplete
  refine ⟨fun bank s h => congrArg Host.Outcome.next (if_pos h), fun a info s => ?sites, fun line s h => ?patrol, fun s => ⟨rfl, s.banks_enterError⟩⟩
  case sites =>
    exact ⟨fun n h => ⟨State.found_dramLine a info h, State.found_dieCacheLine a info h⟩, fun lid crew n => State.found_scratchLine a info,
      fun lid crew squad lane n q => State.found_stackLine a info, fun q n sq => State.found_registerLine a info,
      fun q n sq => State.found_operandStore a info, fun core n => State.found_rindSlot a info,
      fun core hcore => exec_correctedError info (decide_eq_true hcore) rfl,
      fun core hcore hown => ⟨_, exec_arrayError_free a info hcore hown, State.tag_invalidated _ core, State.fmt_invalidated _ core⟩,
      fun core lid crew hcore hown => ⟨_, State.tag_invalidated _ core, State.fmt_invalidated _ core, exec_arrayError_owned a info hcore hown⟩,
      fun lid crew node r => exec_stagingError a info, fun p hp n => State.found_link a info hp, State.found_serviceSram a info⟩
  case patrol => exact ⟨execPatrolScrub_clean h, execPatrolScrub_corrects h, execPatrolScrub_poisons h⟩

end Sys2Proof.Machine
end

section
/-!
SUPPORT for O43. Translations (R195, R196), key slots (R189), write-back (R193, R369) and background work (R344).
-/
namespace Sys2Proof.Machine

variable {s : State}

/-! ### A page that is mapped -/

section Mapped

variable {job pa : Nat} {va : Word} {j : Job} {l : Leaf} (hj : s.job? job = some j) (hl : s.jobPlace j va.toNat = some (pa, l))

include hj

theorem State.bind_jobPlace {a : Nat} {x : Nat × Leaf} (hx : s.jobPlace j a = some x) : ((s.job? job).bind fun j => s.jobPlace j a) = some x := by
  rw [hj]
  exact hx

include hl

/-- A page that is neither being shot down nor under write-back gets its new entry (R195). -/
theorem exec_shootdown_writes (entry : Word) (hquiet : s.shooting job va.toNat 1 = false) (hwb : l.bit 7 = false) :
    exec (.shootdown job va entry) s = .next (s.changeLeaf job va.toNat l entry.toNat [] none) := by
  refine congrArg Host.Outcome.next ?_
  simp only [State.bind_jobPlace hj hl, hquiet, hwb, Bool.or_self, Bool.false_eq_true, if_false]

section Split

variable {t : State} (hquiet : s.shooting job va.toNat 1 = false) (hwb : l.bit 7 = false) (hcls : (l.cls == 1) = false)

include hquiet hwb hcls

theorem exec_pageSplit_splits (h : s.splitPage job l = some t) :
    exec (.pageSplit job va false) s = .next (t.shootLarge job va.toNat l.size l.raw []) := by
  refine congrArg Host.Outcome.next ?_
  simp only [hj, hl, hquiet, hwb, hcls, Bool.or_self, Bool.false_eq_true, if_false, h, Option.map_some, Option.getD_some]

theorem exec_pageSplit_joins (h : (joinSizes l.size).findSome? (s.joinInto j va.toNat) = some t) : exec (.pageSplit job va true) s = .next t := by
  refine congrArg Host.Outcome.next ?_
  simp only [hj, hl, hquiet, hwb, hcls, Bool.or_self, Bool.false_eq_true, if_false, if_true, h, Option.getD_some]

end Split

end Mapped

/-- A shootdown completes when the accesses under the old entry have landed (R195). -/
theorem exec_shootdownComplete_ends {job : Nat} {va : Word} {st : Stale} (hst : s.staleFor job va.toNat = some st)
    (hover : s.writesUnder st.job st.va st.size = false) : exec (.shootdownComplete job va) s = .next (s.endStale st) := by
  have hshot : s.shotDown job va.toNat = some st := by simp [State.shotDown, hst, Option.filter, State.staleOver, hover]
  refine congrArg Host.Outcome.next ?_
  simp only [hshot]

/-- The slot holds a key of a new number, and the others theirs (R189). -/
theorem exec_keySlotLoad_loads (slot : BitVec 8) (s : State) : ∃ t, exec (.keySlotLoad slot) s = .next t ∧
    SMap.get 0 t.mem.keys slot.toNat = s.mem.nextKey ∧ t.mem.nextKey = s.mem.nextKey + 1 ∧
    ∀ n, n ≠ slot.toNat → SMap.get 0 t.mem.keys n = SMap.get 0 s.mem.keys n :=
  ⟨_, rfl, SMap.get_set_same .., rfl, fun _ h => SMap.get_set_other _ _ _ h⟩

/-! ### Write-back (R193) -/

theorem State.noteFrame_noFlip (h : s.mem.latent = []) (a n : Nat) : s.noteFrame a n = s := by simp [State.noteFrame, h]

theorem exec_writebackDrained_queues {job : Nat} {va : Word} {l : Leaf} (hl : s.drainedPage job va.toNat = some l) (hlatent : s.mem.latent = []) :
    exec (.writebackDrained job va) s = .next (s.command (.page job va (s.frameBytes l))) := by
  refine congrArg Host.Outcome.next ?_
  simp only [hl, State.noteFrame_noFlip hlatent]

section Written

variable {job pa a h off : Nat} {j : Job} {l : Leaf} {f : File} (data : List Byte) (hj : s.job? job = some j) (hl : s.jobPlace j a = some (pa, l))
  (hwb : l.bit 7 = true) (hfile : s.backing job a = some (h, f, off))

include hj hl

theorem State.modLeaf_mapped (g : Leaf → Nat) : s.modLeaf job a g = { s with mem := { s.mem with dram := setLeaf s.mem.dram l (g l) } } := by
  simp only [State.modLeaf, State.bind_jobPlace hj hl]

include hwb hfile

/-- The flash write of a page went well: flash holds the page, WB and D are clear. -/
theorem State.pageWritten_well (hd : l.bit 8 = true) : s.pageWritten job a data true =
    ({ s with mem := { s.mem with dram := setLeaf s.mem.dram l (l.raw - 128 - 256) } } : State).modFile f.path fun d => putFile d off data := by
  have hfile' (m : Memory) : ({ s with mem := { s.mem with dram := m } } : State).backing job a = some (h, f, off) := hfile
  simp only [State.pageWritten, State.bind_jobPlace hj hl, State.modLeaf_mapped hj hl, hwb, hd, hfile', Bool.and_self, if_true]

/-- The flash write of a page failed: WB is clear, D stays, and the error is reported. -/
theorem State.pageWritten_badly : s.pageWritten job a data false =
    ({ s with mem := { s.mem with dram := setLeaf s.mem.dram l (l.raw - 128 - 0) } } : State).storageError job h off := by
  have hfile' (m : Memory) : ({ s with mem := { s.mem with dram := m } } : State).backing job a = some (h, f, off) := hfile
  simp only [State.pageWritten, State.bind_jobPlace hj hl, State.modLeaf_mapped hj hl, hwb, hfile', Bool.false_and, Bool.false_eq_true, if_true, if_false]

end Written

theorem exec_writebackComplete_ends {job v : Nat} {va w : Word} {data : List Byte} (h : s.pageCommand job va.toNat = some (.page v w data)) (ok : Bool) :
    exec (.writebackComplete job va ok) s =
      .next (({ s with io := { s.io with nvme := s.io.nvme.erase (.page v w data) } } : State).pageWritten job va.toNat data ok) := by
  refine congrArg Host.Outcome.next ?_
  simp only [h]

theorem State.jobPlace_nvme (s : State) (cs : List Nvme) (j : Job) (a : Nat) :
    ({ s with io := { s.io with nvme := cs } } : State).jobPlace j a = s.jobPlace j a := by
  simp only [State.jobPlace]

/-! ### Storage commands and background work -/

theorem exec_nvmeCompletion_done {n : Nat} {ok : Bool} {c : Nvme} {t : State} (hc : s.io.nvme[n]? = some c)
    (hdone : ({ s with io := { s.io with nvme := s.io.nvme.eraseIdx n } } : State).commandDone c ok = some t) :
    exec (.nvmeCompletion n ok) s = .next t := by
  refine congrArg Host.Outcome.next ?_
  simp only [hc, hdone, Option.getD_some]

theorem exec_wearManagement_commands {port : Nat} (blocks : List Nat) (h : port < 2) :
    exec (.wearManagement ⟨port, blocks⟩) s = .next (s.command (.deallocate port blocks)) :=
  congrArg Host.Outcome.next (if_pos h)

/-- Settles O43, event by event. -/
theorem deviceEventsComplete : Obligations.DeviceEventsComplete := by
  unfold Obligations.DeviceEventsComplete
  refine ⟨fun job pa va entry j l s hj hl => exec_shootdown_writes hj hl entry, fun job va st s => exec_shootdownComplete_ends,
    fun job pa va j l s t hj hl hquiet hwb hcls => ⟨exec_pageSplit_splits hj hl hquiet hwb hcls, exec_pageSplit_joins hj hl hquiet hwb hcls⟩,
    exec_keySlotLoad_loads, fun s => rfl, fun job va l s => exec_writebackDrained_queues,
    fun job pa v va w data j l s hcmd hj hl hwb hd h f off hfile => ?written, fun n ok c s t => exec_nvmeCompletion_done,
    fun s => ⟨rfl, rfl, fun port blocks => exec_wearManagement_commands blocks⟩⟩
  case written =>
    generalize hs1 : ({ s with io := { s.io with nvme := s.io.nvme.erase (.page v w data) } } : State) = s1
    have hj1 : s1.job? job = some j := hs1 ▸ hj
    have hl1 : s1.jobPlace j va.toNat = some (pa, l) := hs1 ▸ (s.jobPlace_nvme _ j va.toNat).trans hl
    have hfile1 : s1.backing job va.toNat = some (h, f, off) := hs1 ▸ hfile
    rw [exec_writebackComplete_ends hcmd, exec_writebackComplete_ends hcmd, hs1, State.pageWritten_well data hj1 hl1 hwb hfile1 hd,
      State.pageWritten_badly data hj1 hl1 hwb hfile1]
    exact ⟨rfl, rfl⟩

end Sys2Proof.Machine
end

section
/-!
SUPPORT for O26 to O28. Instructions on views (R199-R206): where they go on instead of waiting, what a lane's turn leaves of what the threads
wait for and of the whey queue, and their operands.
-/
namespace Sys2Proof.Machine

variable {s t : State} {i : Instr} {l : Nat} {a b d : RegCode} {cx : Ctx}

/-! ### What the threads wait for -/

/-- The issue set, and what every thread waits for. -/
def State.waits (s : State) : Cur × (Nat → Nat → Wait) := (s.cur, fun q l => (s.thread q l).wait)

theorem State.waits_of_squads (hcur : t.cur = s.cur) (hsquads : t.squads = s.squads) : t.waits = s.waits := by
  simp only [State.waits, hcur, State.thread_congr hsquads]

theorem State.wait_of_waits (h : t.waits = s.waits) (q l : Nat) : (t.thread q l).wait = (s.thread q l).wait :=
  congrArg (fun w => w.2 q l) h

theorem State.thread_setThread {q : Nat} (hb : (s.squad? q).isSome = true) (l : Nat) (u : Thread) (p m : Nat) :
    (s.setThread q l u).thread p m = if p = q ∧ m = l then u else s.thread p m := by
  split
  · next h =>
    obtain ⟨rfl, rfl⟩ := h
    exact s.thread_setThread_same _ _ u hb
  · next h =>
    by_cases hp : p = q
    · exact s.thread_setThread_lane q p u fun hm => h ⟨hp, hm⟩
    · exact s.thread_setThread_record l m u hp

theorem State.waits_setThread (s : State) {q l : Nat} {u : Thread} (h : u.wait = (s.thread q l).wait) : (s.setThread q l u).waits = s.waits := by
  refine Prod.ext (s.setThread_cur q l u) (funext fun p => funext fun m => ?_)
  cases hq : s.squad? q with
  | none => rw [State.setThread, State.modSquad_none s q _ hq]
  | some sq =>
    refine (congrArg Thread.wait (State.thread_setThread (by rw [hq]; rfl) l u p m)).trans ?_
    split
    · next hpm =>
      obtain ⟨rfl, rfl⟩ := hpm
      exact h
    · rfl

theorem State.waits_modThread (s : State) (q l : Nat) {f : Thread → Thread} (h : ∀ u, (f u).wait = u.wait) : (s.modThread q l f).waits = s.waits :=
  s.waits_setThread (h _)

/-- The state in which a lane is past its instruction. -/
def State.pastLane (s : State) (i : Instr) (l : Nat) : State := s.setThread s.cur.q l (s.past i 0 l)

@[simp] theorem State.pastLane_mem (s : State) (i : Instr) (l : Nat) : (s.pastLane i l).mem = s.mem := s.setThread_mem ..

/-- A thread that moves past an instruction waits for what it waited for. -/
theorem State.waits_pastLane (s : State) (i : Instr) (l : Nat) : (s.pastLane i l).waits = s.waits := s.waits_setThread rfl

@[simp] theorem Thread.wait_write (u : Thread) (cx : Ctx) (d : RegCode) (v : Reg) (lat : Lat) : (u.write cx d v lat).wait = u.wait := by
  rw [u.write_frame cx d v lat]

theorem State.waits_viewResult (s : State) (cx : Ctx) (d : RegCode) (h : Option Word) : (s.viewResult cx d h).waits = s.waits :=
  s.waits_modThread cx.q cx.lane fun u => by cases h <;> exact u.wait_write ..

@[simp] theorem State.viewResult_mem (s : State) (cx : Ctx) (d : RegCode) (h : Option Word) : (s.viewResult cx d h).mem = s.mem :=
  s.modThread_mem ..

theorem State.waits_recordView (s : State) (cx : Ctx) (k gen : Nat) : (s.recordView cx k gen).waits = s.waits :=
  State.waits_of_squads (s.modLaunch_cur ..) (s.modLaunch_squads ..)

@[simp] theorem State.recordView_mem (s : State) (cx : Ctx) (k gen : Nat) : (s.recordView cx k gen).mem = s.mem := s.modLaunch_mem ..

theorem State.waits_recordNarrow (s : State) (cx : Ctx) : (s.recordNarrow cx).waits = s.waits :=
  State.waits_of_squads (s.modLaunch_cur ..) (s.modLaunch_squads ..)

@[simp] theorem State.recordNarrow_mem (s : State) (cx : Ctx) : (s.recordNarrow cx).mem = s.mem := s.modLaunch_mem ..

/-! ### Memory that changes behind the whey queue -/

/-- A state differs from another in its memory at most, and not in the whey queue. -/
def State.SameButMem (s t : State) : Prop := ∃ m : Mem, t = { s with mem := m } ∧ m.whey = s.mem.whey

theorem State.SameButMem.waits (h : s.SameButMem t) : t.waits = s.waits := by
  obtain ⟨m, rfl, _⟩ := h
  rfl

theorem State.SameButMem.whey (h : s.SameButMem t) : t.mem.whey = s.mem.whey := by
  obtain ⟨m, rfl, hw⟩ := h
  exact hw

theorem State.SameButMem.trans {u : State} (h : s.SameButMem t) (k : t.SameButMem u) : s.SameButMem u := by
  obtain ⟨m, rfl, hm⟩ := h
  obtain ⟨n, rfl, hn⟩ := k
  exact ⟨n, rfl, hn.trans hm⟩

theorem State.sameButMem_foldl {α : Type} (xs : List α) (f : State → α → State) (hf : ∀ (s : State) (x : α), s.SameButMem (f s x)) (s : State) :
    s.SameButMem (xs.foldl f s) := by
  induction xs generalizing s with
  | nil => exact ⟨s.mem, rfl, rfl⟩
  | cons x xs ih => exact (hf s x).trans (ih _)

theorem State.sameButMem_modGranule (s : State) (job va : Nat) (f : Granule → Granule) : s.SameButMem (s.modGranule job va f) := by
  unfold State.modGranule
  exact ⟨_, rfl, rfl⟩

theorem State.sameButMem_zeroDram (s : State) (a n : Nat) : s.SameButMem (s.zeroDram a n) := ⟨_, rfl, rfl⟩

theorem State.sameButMem_keyFrame (s : State) (a n slot : Nat) : s.SameButMem (s.keyFrame a n slot) := ⟨_, rfl, rfl⟩

theorem State.sameButMem_dram (s : State) (m : Memory) : s.SameButMem { s with mem := { s.mem with dram := m } } := ⟨_, rfl, rfl⟩

theorem State.sameButMem_takeView (s : State) (k : Nat) (v : View) : s.SameButMem (s.takeView k v) := by
  unfold State.takeView
  dsimp only
  split <;> exact ⟨_, rfl, rfl⟩

theorem State.sameButMem_takeFrame {home n f : Nat} (h : s.takeFrame home n = some (t, f)) : s.SameButMem t := by
  obtain ⟨x, _, hx⟩ := Option.map_eq_some_iff.mp h
  obtain ⟨rfl, -⟩ := Prod.mk.inj hx
  exact ⟨_, rfl, rfl⟩

theorem State.sameButMem_fillGranule (s : State) (j : Job) (r : Range) (va : Nat) : s.SameButMem (s.fillGranule j r va) := by
  unfold State.fillGranule
  split
  · exact ⟨s.mem, rfl, rfl⟩
  · next u f h =>
    have hkeyed : s.SameButMem ((u.zeroDram f granuleBytes).keyFrame f granuleBytes r.key) :=
      (State.sameButMem_takeFrame h).trans ((State.sameButMem_zeroDram ..).trans (State.sameButMem_keyFrame ..))
    refine State.SameButMem.trans ?_ (State.sameButMem_modGranule ..)
    split
    · exact hkeyed.trans (State.sameButMem_dram ..)
    · exact hkeyed

/-- A new view: the counts of its granules rise, an entry is taken, and the launch keeps account of it (R201, R203). -/
theorem State.newView_keeps {e : View} {lo hi : Nat} {r : BitVec 7} {w : Word} (h : s.newView cx e lo hi r = some (t, w)) :
    t.waits = s.waits ∧ t.mem.whey = s.mem.whey := by
  unfold State.newView at h
  split at h
  · cases h
  · next k _ =>
    obtain ⟨rfl, -⟩ := Prod.mk.inj (Option.some.inj h)
    have hmem (v : View) : s.SameButMem ((v.granules.foldl (fun st g => st.raiseCount e.job g) s).takeView k v) :=
      (State.sameButMem_foldl v.granules (fun st g => st.raiseCount e.job g) (fun st g => st.sameButMem_modGranule e.job g _) s).trans
        (State.sameButMem_takeView _ k v)
    exact ⟨(State.waits_recordView ..).trans (hmem _).waits, (congrArg Mem.whey (State.recordView_mem ..)).trans (hmem _).whey⟩

/-! ### The whey queue -/

/-- Decrements posted: they stand in the whey queue behind the others, in the order of the granules, each with a number in the order of accesses (R206). -/
theorem State.postDecrements_queues (s : State) (job : Nat) (r : SquadRef) (lane : Nat) (vas : List Nat) :
    ∃ n ws, s.postDecrements job r lane vas = { s with seq := n, mem := { s.mem with whey := s.mem.whey ++ ws } } ∧
      ws.map (fun w => (w.job, w.va.toNat)) = vas.map fun g => (job, g % 2 ^ 64) := by
  induction vas generalizing s with
  | nil => exact ⟨s.seq, [], by simp [State.postDecrements], rfl⟩
  | cons va vas ih =>
    obtain ⟨n, ws, hpost, hws⟩ := ih { s with
      seq := s.seq + 1
      mem := { s.mem with whey := s.mem.whey ++ [⟨job, BitVec.ofNat 64 va, r, lane, s.seq + 1⟩] } }
    refine ⟨n, ⟨job, BitVec.ofNat 64 va, r, lane, s.seq + 1⟩ :: ws, ?_, ?_⟩
    · rw [List.append_cons]
      exact hpost
    · simp only [List.map_cons, hws, BitVec.toNat_ofNat]

theorem State.waits_reshape (s : State) (cx : Ctx) (k : Nat) (v : View) : (s.reshape cx k v).waits = s.waits := by
  obtain ⟨n, ws, hpost, _⟩ := (s.setView k v).postDecrements_queues v.job ⟨cx.lid, cx.crew, cx.num⟩ cx.lane (s.givenUp k v)
  rw [State.reshape, hpost]
  rfl

/-! ### The instruction goes on -/

/-- No lane waits and the whey queue has room for what is posted, so that the instruction is done (R201, R206). -/
theorem State.execViews_done {f : Ctx → State → Except Trap State} (hdone : s.execLanes i 0 0 f = t)
    (hrun : ∀ l ∈ s.lanes, (t.thread s.cur.q l).wait = .run) (hroom : s.wheyFull = false ∨ t.mem.whey = s.mem.whey) : s.execViews i f = t := by
  have hwait : (lanesOf s.cur.lanes).any (fun l => (t.thread s.cur.q l).wait == .blocked i) = false :=
    List.any_eq_false.mpr fun l hl => by simp [hrun l hl]
  have hfits : (s.wheyFull && decide (s.mem.whey.length < t.mem.whey.length)) = false := by
    rcases hroom with h | h <;> simp [h]
  simp only [State.execViews, hdone, hwait, hfits, Bool.or_false, Bool.false_eq_true, if_false]

/-- A view instruction whose lanes change their own threads alone. -/
theorem State.execViews_ran {f : Ctx → State → Except Trap State} {res : Nat → Thread} (hr : s.ready i 0 = true)
    (hrun : ∀ l ∈ s.lanes, (res l).wait = .run)
    (hf : ∀ l ∈ s.lanes, ∀ st, SameLanes s [l] st →
      f (s.ctx l) (st.setThread s.cur.q l (s.past i 0 l)) = .ok (st.setThread s.cur.q l (res l))) :
    s.execViews i f = s.ran i 0 0 res := by
  refine State.execViews_done (s.execLanes_threads i 0 0 f res hr fun l hl _ => hf l hl) (fun l hl => ?_) (.inr ?_)
  · exact (congrArg Thread.wait (s.thread_setThreads_in s.cur.q s.lanes _ (lanesOf_nodup _) ((s.ready_iff i 0).mp hr).1 hl)).trans (hrun l hl)
  · rw [State.ran, State.setThreads_frame]

/-- A view instruction whose lanes run one after another, where none of them makes a thread wait: either the whey queue has room, or nothing is posted. -/
theorem State.execViews_oneByOne {f : Ctx → State → Except Trap State} {F : Nat → State → State} (hwaits : ∀ l st, (F l st).waits = st.waits)
    (hroom : s.wheyFull = false ∨ ∀ l st, (F l st).mem.whey = st.mem.whey)
    (h : ∀ l ∈ s.lanes, (s.before F l).ready i 0 = true ∧ ((s.before F l).th l).wait = .run ∧
      f ((s.before F l).ctx l) ((s.before F l).pastLane i l) = .ok (F l (s.before F l))) :
    s.execViews i f = s.oneByOne F := by
  have hlanes (ls : List Nat) : (ls.foldl (fun st m => F m st) s).waits = s.waits := State.foldl_keeps State.waits ls _ (fun st m => hwaits m st) s
  refine State.execViews_done (s.execLanes_oneByOne i 0 0 f F fun l hl => ?_) (fun l hl => ?_) ?_
  · obtain ⟨hr, _, hf⟩ := h l hl
    exact (s.before F l).laneStep_ok i 0 f hr hf
  · have hq : (s.before F l).cur = s.cur := congrArg Prod.fst (hlanes _)
    obtain ⟨_, hrun, _⟩ := h l hl
    rw [State.th, hq, State.before, State.wait_of_waits (hlanes _)] at hrun
    exact (State.wait_of_waits (hlanes _) ..).trans hrun
  · exact hroom.imp_right fun hw => State.foldl_keeps (fun st => st.mem.whey) _ _ (fun st m => hw m st) s

/-! ### Operands -/

@[simp] theorem State.resolveView_setThread (s : State) (q l : Nat) (u : Thread) (la : Launch) (h : Word) :
    (s.setThread q l u).resolveView la h = s.resolveView la h := by
  rw [State.setThread_squads]
  rfl

@[simp] theorem State.launchOf_setThread (s : State) (q l : Nat) (u : Thread) (lid : Nat) : (s.setThread q l u).launchOf lid = s.launchOf lid := by
  rw [State.setThread_squads]
  rfl

/-- The thread of a lane that is past its instruction. -/
theorem State.thread_pastLane (hr : s.ready i 0 = true) (l : Nat) : (s.pastLane i l).thread s.cur.q l = s.past i 0 l := s.thread_ready i 0 l _ hr

theorem SameLanes.resolveView {ls : List Nat} (h : SameLanes s ls t) (la : Launch) (w : Word) : t.resolveView la w = s.resolveView la w := by
  obtain ⟨m, rfl⟩ := h.squads
  rfl

theorem SameLanes.launchOf {ls : List Nat} (h : SameLanes s ls t) (lid : Nat) : t.launchOf lid = s.launchOf lid := by
  obtain ⟨m, rfl⟩ := h.squads
  rfl

end Sys2Proof.Machine
end

section
/-!
SUPPORT for O26. VBOUND and VQUERY (R205).
-/
namespace Sys2Proof.Machine

variable {s st : State} {l : Nat} {a b d : RegCode} {e : View}

theorem boundWord_eq (sel : BitVec 2) (h : Word) (e : View) :
    boundWord sel h e = if sel = 0 then e.cbase else if sel = 1 then BitVec.ofNat 64 e.lo else if sel = 2 then BitVec.ofNat 64 e.hi
      else BitVec.ofNat 64 (e.region.toNat * 2 ^ 16 + (hRights h &&& e.rights).toNat) := by
  have hsel : sel = 0 ∨ sel = 1 ∨ sel = 2 ∨ sel = 3 := by
    revert sel
    decide
  rcases hsel with rfl | rfl | rfl | rfl <;> rfl

/-- VBOUND of a lane whose handle names a view. -/
theorem vboundLane_holds {sel : BitVec 2} (hst : SameLanes s [l] st) (ha : s.holds handleTag a l = true)
    (he : s.resolveView (s.launchOf (s.ctx l).lid) (s.operand a l).data = .ok e) :
    vboundLane sel a d (s.ctx l) (st.setThread s.cur.q l (s.past (.vbound sel a d) 0 l)) =
      .ok (st.setThread s.cur.q l ((s.past (.vbound sel a d) 0 l).write (s.ctx l) d ⟨boundWord sel (s.operand a l).data e, .i64⟩ .sb)) := by
  simp only [vboundLane, ctx_q, ctx_lane, State.thread_setThread_same _ _ _ _ hst.bound, s.src_holds _ 0 ha, State.resolveView_setThread,
    State.launchOf_setThread, hst.resolveView, hst.launchOf, he, bind, Except.bind, State.modThread, State.setThread_setThread]

/-- VQUERY of a lane whose handle names a view, with an offset inside it and no decrement of its own still waiting. -/
theorem vqueryLane_holds (hst : SameLanes s [l] st) (ha : s.holds handleTag a l = true) (hb : s.holds isAddrTag b l = true)
    (he : s.resolveView (s.launchOf (s.ctx l).lid) (s.operand a l).data = .ok e) (hin : (s.operand b l).data.toNat < e.clen)
    (hnone : s.hasDecrements ⟨(s.ctx l).lid, (s.ctx l).crew, (s.ctx l).num⟩ l = false) :
    let g := s.granule e.job (e.cbase + (s.operand b l).data).toNat
    vqueryLane (.vquery b a d) b a d (s.ctx l) (st.setThread s.cur.q l (s.past (.vquery b a d) 0 l)) =
      .ok (st.setThread s.cur.q l ((s.past (.vquery b a d) 0 l).write (s.ctx l) d
        ⟨BitVec.ofNat 64 ((if g.present then 2 ^ 32 else 0) + g.count % 2 ^ 21), .i64⟩ .sb)) := by
  obtain ⟨m, hm⟩ := hst.squads
  have hmem : st.mem = s.mem := hm ▸ rfl
  have hnone' : (st.setThread s.cur.q l (s.past (.vquery b a d) 0 l)).hasDecrements ⟨(s.ctx l).lid, (s.ctx l).crew, (s.ctx l).num⟩ l = false := by
    rw [State.hasDecrements, State.setThread_mem, hmem]
    exact hnone
  have hgranule (job va : Nat) : (st.setThread s.cur.q l (s.past (.vquery b a d) 0 l)).granule job va = s.granule job va := by
    rw [State.granule, State.setThread_mem, hmem, State.granule]
  simp only [vqueryLane, ctx_q, ctx_lane, State.thread_setThread_same _ _ _ _ hst.bound, s.src_holds _ 0 ha, s.src_holds _ 0 hb,
    State.resolveView_setThread, State.launchOf_setThread, hst.resolveView, hst.launchOf, he, bind, Except.bind, if_neg (Nat.not_le.mpr hin), hnone',
    Bool.false_eq_true, if_false, hgranule, State.modThread, State.setThread_setThread]

theorem execVbound_reads (sel : BitVec 2) (a d : RegCode) (s : State) (e : Nat → View) (hr : s.ready (.vbound sel a d) 0 = true)
    (h : ∀ l ∈ s.lanes, (s.th l).wait = .run ∧ s.holds handleTag a l = true ∧
      s.resolveView (s.launchOf (s.ctx l).lid) (s.operand a l).data = .ok (e l)) :
    exec (.vbound sel a d) s = .next (s.ran (.vbound sel a d) 0 0 fun l => (s.past (.vbound sel a d) 0 l).write (s.ctx l) d
      ⟨boundWord sel (s.operand a l).data (e l), .i64⟩ .sb) := by
  refine congrArg Host.Outcome.next (State.execViews_ran hr (fun l hl => ?_) fun l hl st hst => ?_)
  · rw [Thread.wait_write]
    obtain ⟨hrun, _⟩ := h l hl
    exact hrun
  · obtain ⟨_, ha, he⟩ := h l hl
    exact vboundLane_holds hst ha he

theorem execVquery_reads (b a d : RegCode) (s : State) (e : Nat → View) (hr : s.ready (.vquery b a d) 0 = true)
    (h : ∀ l ∈ s.lanes, (s.th l).wait = .run ∧ s.holds handleTag a l = true ∧ s.holds isAddrTag b l = true ∧
      s.resolveView (s.launchOf (s.ctx l).lid) (s.operand a l).data = .ok (e l) ∧ (s.operand b l).data.toNat < (e l).clen ∧
      s.hasDecrements ⟨(s.ctx l).lid, (s.ctx l).crew, (s.ctx l).num⟩ l = false) :
    exec (.vquery b a d) s = .next (s.ran (.vquery b a d) 0 0 fun l =>
      let g := s.granule (e l).job ((e l).cbase + (s.operand b l).data).toNat
      (s.past (.vquery b a d) 0 l).write (s.ctx l) d
        ⟨BitVec.ofNat 64 ((if g.present then 2 ^ 32 else 0) + g.count % 2 ^ 21), .i64⟩ .sb) := by
  refine congrArg Host.Outcome.next (State.execViews_ran hr (fun l hl => ?_) fun l hl st hst => ?_)
  · rw [Thread.wait_write]
    obtain ⟨hrun, _⟩ := h l hl
    exact hrun
  · obtain ⟨_, ha, hb, he, hin, hnone⟩ := h l hl
    exact vqueryLane_holds hst ha hb he hin hnone

end Sys2Proof.Machine
end

section
/-!
SUPPORT for O26. VALLOC (R202).
-/
namespace Sys2Proof.Machine

variable {s : State} {l : Nat} {a b d : RegCode} {j : Job} {r : Range}

/-- The granules that a lane's VALLOC names: those of [va, va + n) (R202). -/
def State.namedGranules (s : State) (b a : RegCode) (l : Nat) : List Nat :=
  granulesOf (s.operand a l).data.toNat ((s.operand a l).data.toNat + (s.operand b l).data.toNat)

/-- What VALLOC makes of a lane whose granules [va, va + n) may be allocated (R201, R202): a refusal, or a zeroed frame for each granule and
a view of them all. -/
def State.vallocTurn (b a d : RegCode) (j : Job) (r : Range) (l : Nat) (s : State) : State :=
  let va := (s.operand a l).data
  let n := (s.operand b l).data.toNat
  let gs := s.namedGranules b a l
  let region := BitVec.ofNat 16 r.arg.toNat
  let s0 := s.pastLane (.valloc b a d) l
  match s.nextView with
  | none => s0.viewResult (s.ctx l) d none
  | some k =>
    if s.freeFrames r.home < gs.length then s0.viewResult (s.ctx l) d none
    else
      let gen := (SMap.get ({} : View) s.mem.views k).gen
      (((gs.foldl (fun st g => st.fillGranule j r g) s0).takeView k
        { cbase := va, clen := n, lo := 0, hi := n, region := region, rights := 0x7F, job := (s.launchOf (s.ctx l).lid).job }).recordView
          (s.ctx l) k gen.toNat).viewResult (s.ctx l) d (some (handleWord k gen region 0x7F))

theorem State.vallocTurn_keeps (b a d : RegCode) (j : Job) (r : Range) (l : Nat) (s : State) :
    (s.vallocTurn b a d j r l).waits = s.waits ∧ (s.vallocTurn b a d j r l).mem.whey = s.mem.whey := by
  have hrefused : ((s.pastLane (.valloc b a d) l).viewResult (s.ctx l) d none).waits = s.waits ∧
      ((s.pastLane (.valloc b a d) l).viewResult (s.ctx l) d none).mem.whey = s.mem.whey :=
    ⟨(State.waits_viewResult ..).trans (s.waits_pastLane ..), by rw [State.viewResult_mem, State.pastLane_mem]⟩
  unfold State.vallocTurn
  dsimp only
  split
  · exact hrefused
  · next k _ =>
    split
    · exact hrefused
    · have hfilled (gs : List Nat) (v : View) : (s.pastLane (.valloc b a d) l).SameButMem
          ((gs.foldl (fun st g => st.fillGranule j r g) (s.pastLane (.valloc b a d) l)).takeView k v) :=
        (State.sameButMem_foldl gs _ (fun st g => st.sameButMem_fillGranule j r g) _).trans (State.sameButMem_takeView _ k v)
      refine ⟨?_, ?_⟩
      · rw [State.waits_viewResult, State.waits_recordView, (hfilled _ _).waits, State.waits_pastLane]
      · rw [State.viewResult_mem, State.recordView_mem, (hfilled _ _).whey, State.pastLane_mem]

/-- VALLOC of a lane whose operands are read and whose granules are covered by no view and hold no frame. -/
theorem vallocLane_allocates (hr : s.ready (.valloc b a d) 0 = true) (ha : s.holds isAddrTag a l = true) (hb : s.holds isAddrTag b l = true)
    (hbase : (s.operand a l).data.toNat % 65536 = 0) (hpos : (s.operand b l).data.toNat ≠ 0) (hlen : (s.operand b l).data.toNat % 65536 = 0)
    (hjob : s.job? (s.launchOf (s.ctx l).lid).job = some j)
    (hrange : (s.coveredRanges (s.launchOf (s.ctx l).lid).job).find? (fun q => decide (q.base ≤ (s.operand a l).data.toNat) &&
      decide ((s.operand a l).data.toNat + (s.operand b l).data.toNat ≤ q.base + q.length)) = some r)
    (hlease : ∃ q ∈ (s.launchOf (s.ctx l).lid).ranges, q.cls = 1 ∧ q.base = r.base)
    (hfresh : ∀ g ∈ s.namedGranules b a l,
      (s.granule (s.launchOf (s.ctx l).lid).job g).count = 0 ∧ (s.granule (s.launchOf (s.ctx l).lid).job g).present = false) :
    vallocLane (.valloc b a d) b a d (s.ctx l) (s.pastLane (.valloc b a d) l) = .ok (s.vallocTurn b a d j r l) := by
  have hgranules : granulesOf (s.operand a l).data.toNat ((s.operand a l).data.toNat + (s.operand b l).data.toNat) = s.namedGranules b a l := rfl
  have hlaunch : (s.pastLane (.valloc b a d) l).launchOf (s.ctx l).lid = s.launchOf (s.ctx l).lid := s.launchOf_setThread ..
  have hjobs : (s.pastLane (.valloc b a d) l).job? (s.launchOf (s.ctx l).lid).job = some j := (congrArg (SMap.get none · _) (s.setThread_jobs ..)).trans hjob
  have hranges : (s.pastLane (.valloc b a d) l).coveredRanges (s.launchOf (s.ctx l).lid).job = s.coveredRanges (s.launchOf (s.ctx l).lid).job := by
    rw [State.pastLane, State.setThread_squads]
    rfl
  have hgranule (job va : Nat) : (s.pastLane (.valloc b a d) l).granule job va = s.granule job va := by
    rw [State.granule, State.pastLane_mem, State.granule]
  have hleased : (s.launchOf (s.ctx l).lid).ranges.any (fun q => q.cls == 1 && q.base == r.base) = true := by
    obtain ⟨q, hq, hcls, hsame⟩ := hlease
    exact List.any_eq_true.mpr ⟨q, hq, by simp [hcls, hsame]⟩
  have hcounted : (s.namedGranules b a l).find? (fun g => decide (0 < (s.granule (s.launchOf (s.ctx l).lid).job g).count)) = none :=
    List.find?_eq_none.mpr fun g hg => by simp [(hfresh g hg).1]
  have hpresent : (s.namedGranules b a l).any (fun g => (s.granule (s.launchOf (s.ctx l).lid).job g).present) = false :=
    List.any_eq_false.mpr fun g hg => by simp [(hfresh g hg).2]
  have hfree : (s.pastLane (.valloc b a d) l).freeFrames r.home = s.freeFrames r.home := by
    rw [State.freeFrames, State.pastLane_mem, State.freeFrames]
  have hnext : (s.pastLane (.valloc b a d) l).nextView = s.nextView := by
    rw [State.nextView, State.pastLane_mem, State.nextView]
  simp only [vallocLane, ctx_q, ctx_lane, State.thread_pastLane hr, s.src_holds _ 0 ha, s.src_holds _ 0 hb, bind, Except.bind, hlaunch, hbase, hlen, hpos,
    hjobs, hranges, hrange, hleased, hgranules, hgranule, hcounted, hpresent, hnext, hfree, State.pastLane_mem, State.vallocTurn, ne_eq,
    not_true_eq_false, decide_false, bne_self_eq_false, Bool.or_false, Bool.not_true, Bool.false_eq_true, if_false]
  cases s.nextView with
  | none => rfl
  | some k => exact (apply_ite Except.ok ..).symm

/-- VALLOC, lane by lane. -/
theorem execValloc_oneByOne (j : Nat → Job) (r : Nat → Range)
    (h : ∀ l ∈ s.lanes, let st := s.before (fun l => State.vallocTurn b a d (j l) (r l) l) l
      st.ready (.valloc b a d) 0 = true ∧ (st.th l).wait = .run ∧
        vallocLane (.valloc b a d) b a d (st.ctx l) (st.pastLane (.valloc b a d) l) = .ok (st.vallocTurn b a d (j l) (r l) l)) :
    exec (.valloc b a d) s = .next (s.oneByOne fun l => State.vallocTurn b a d (j l) (r l) l) :=
  congrArg Host.Outcome.next (State.execViews_oneByOne (fun l st => (st.vallocTurn_keeps b a d (j l) (r l) l).1)
    (.inr fun l st => (st.vallocTurn_keeps b a d (j l) (r l) l).2) h)

/-- Settles O26: VBOUND and VQUERY change the lanes' own threads alone, VALLOC runs lane by lane and posts nothing. -/
theorem viewsOpenAndAnswer : Obligations.ViewsOpenAndAnswer := by
  unfold Obligations.ViewsOpenAndAnswer
  refine ⟨fun sel a d s e hr h => ?_, execVquery_reads, fun b a d s j r => ?_⟩
  · simpa only [boundWord_eq] using execVbound_reads sel a d s e hr h
  · intro va n f h
    refine execValloc_oneByOne j r fun l hl => ?_
    obtain ⟨hr, hrun, ha, hb, hbase, hpos, hlen, hjob, hrange, hlease, hfresh⟩ := h l hl
    exact ⟨hr, hrun, vallocLane_allocates hr ha hb hbase hpos hlen hjob hrange hlease hfresh⟩

end Sys2Proof.Machine
end

section
/-!
SUPPORT for O27. VDUP, VSPLIT and VNARROW (R203).
-/
namespace Sys2Proof.Machine

variable {s : State} {i : Instr} {l : Nat} {a b d : RegCode} {e : View} {more : Bool}

/-- What a lane's reshaping instruction reads of the view `e`: o1 and o2 where `more` says so (R203). -/
def State.shape (s : State) (more : Bool) (b a : RegCode) (e : View) (l : Nat) : ShapeArgs :=
  ⟨(s.operand a l).data, e, hRights (s.operand a l).data &&& e.rights, (s.operand b l).data.toNat,
    (if more then s.operand 57 l else Reg.zero).data.toNat, (if more then s.operand 58 l else Reg.zero).data.truncate 7⟩

/-- A lane may reshape: its handle names the view `e`, and it holds an offset, and a length and a mask where `more` says so. -/
structure State.Shapes (s : State) (i : Instr) (more : Bool) (b a : RegCode) (e : View) (l : Nat) : Prop where
  ready : s.ready i 0 = true
  handle : s.holds handleTag a l = true
  offset : s.holds isAddrTag b l = true
  view : s.resolveView (s.launchOf (s.ctx l).lid) (s.operand a l).data = .ok e
  size : more = true → s.holds isAddrTag 57 l = true ∧ s.holds isAddrTag 58 l = true

theorem State.Shapes.shapeArgs (h : s.Shapes i more b a e l) : (s.pastLane i l).shapeArgs (s.ctx l) more b a = .ok (s.shape more b a e l) := by
  have hview : (s.pastLane i l).resolveView ((s.pastLane i l).launchOf (s.ctx l).lid) (s.operand a l).data = .ok e := by
    rw [State.pastLane, State.launchOf_setThread, State.resolveView_setThread, h.view]
  cases more with
  | false =>
    simp only [State.shapeArgs, ctx_q, ctx_lane, State.thread_pastLane h.ready, s.src_holds _ 0 h.handle, s.src_holds _ 0 h.offset, hview, bind, Except.bind,
      Bool.false_eq_true, if_false, State.shape]
  | true =>
    obtain ⟨hlen, hmask⟩ := h.size rfl
    simp only [State.shapeArgs, ctx_q, ctx_lane, State.thread_pastLane h.ready, s.src_holds _ 0 h.handle, s.src_holds _ 0 h.offset, s.src_holds _ 0 hlen,
      s.src_holds _ 0 hmask, hview, bind, Except.bind, if_true, State.shape]

/-- The checks of R203 pass where the right is there and [lo, hi) lies inside the window. -/
theorem ShapeArgs.check_ok {p : ShapeArgs} {right : BitVec 7} {lo hi : Nat} (hright : p.r &&& right ≠ 0) (hlo : p.e.lo ≤ lo) (hhi : hi ≤ p.e.hi)
    (hle : lo ≤ hi) : p.check right lo hi = .ok () := by
  simp only [ShapeArgs.check, hright, Nat.not_lt.mpr hlo, Nat.not_lt.mpr hhi, Nat.not_lt.mpr hle, decide_false, Bool.or_false, Bool.false_eq_true, if_false]

/-! ### VDUP -/

/-- What VDUP makes of a lane: a view of [x, x + n) with the rights under the mask, or a refusal. -/
def State.vdupTurn (b a d : RegCode) (e : View) (l : Nat) (s : State) : State :=
  let p := s.shape true b a e l
  let s0 := s.pastLane (.vdup b a d) l
  match s0.newView (s.ctx l) e p.x (p.x + p.n) (p.r &&& p.m) with
  | none => s0.viewResult (s.ctx l) d none
  | some (s1, w) => s1.viewResult (s.ctx l) d (some w)

theorem State.vdupTurn_keeps (b a d : RegCode) (e : View) (l : Nat) (s : State) :
    (s.vdupTurn b a d e l).waits = s.waits ∧ (s.vdupTurn b a d e l).mem.whey = s.mem.whey := by
  unfold State.vdupTurn
  dsimp only
  split
  · exact ⟨(State.waits_viewResult ..).trans (s.waits_pastLane ..), by rw [State.viewResult_mem, State.pastLane_mem]⟩
  · next s1 w hnew =>
    obtain ⟨hwaits, hwhey⟩ := State.newView_keeps hnew
    exact ⟨(State.waits_viewResult ..).trans (hwaits.trans (s.waits_pastLane ..)), by rw [State.viewResult_mem, hwhey, State.pastLane_mem]⟩

theorem vdupLane_duplicates (h : s.Shapes (.vdup b a d) true b a e l) (hright : hRights (s.operand a l).data &&& e.rights &&& vDS ≠ 0)
    (hlo : e.lo ≤ (s.operand b l).data.toNat) (hhi : (s.operand b l).data.toNat + (s.operand 57 l).data.toNat ≤ e.hi) :
    vdupLane b a d (s.ctx l) (s.pastLane (.vdup b a d) l) = .ok (s.vdupTurn b a d e l) := by
  have hcheck : (s.shape true b a e l).check vDS (s.shape true b a e l).x ((s.shape true b a e l).x + (s.shape true b a e l).n) = .ok () :=
    ShapeArgs.check_ok hright hlo hhi (Nat.le_add_right ..)
  have hview : (s.shape true b a e l).e = e := rfl
  simp only [vdupLane, h.shapeArgs, hcheck, hview, bind, Except.bind, State.vdupTurn]
  cases (s.pastLane (.vdup b a d) l).newView (s.ctx l) e _ _ _ <;> rfl

/-! ### VSPLIT -/

/-- What VSPLIT makes of a lane: a view of [LO, x), while the view itself keeps [x, HI), or a refusal. -/
def State.vsplitTurn (b a d : RegCode) (e : View) (l : Nat) (s : State) : State :=
  let p := s.shape false b a e l
  let s0 := s.pastLane (.vsplit b a d) l
  match s0.newView (s.ctx l) e e.lo p.x p.r with
  | none => (s0.recordNarrow (s.ctx l)).viewResult (s.ctx l) d none
  | some (s1, w) => ((s1.reshape (s.ctx l) (hIndex p.h) { e with lo := p.x }).recordNarrow (s.ctx l)).viewResult (s.ctx l) d (some w)

theorem State.waits_vsplitTurn (b a d : RegCode) (e : View) (l : Nat) (s : State) : (s.vsplitTurn b a d e l).waits = s.waits := by
  unfold State.vsplitTurn
  dsimp only
  split
  · rw [State.waits_viewResult, State.waits_recordNarrow, State.waits_pastLane]
  · next s1 w hnew =>
    rw [State.waits_viewResult, State.waits_recordNarrow, State.waits_reshape, (State.newView_keeps hnew).1, State.waits_pastLane]

theorem vsplitLane_splits (h : s.Shapes (.vsplit b a d) false b a e l) (hright : hRights (s.operand a l).data &&& e.rights &&& vDS ≠ 0)
    (hlo : e.lo ≤ (s.operand b l).data.toNat) (hhi : (s.operand b l).data.toNat ≤ e.hi) :
    vsplitLane b a d (s.ctx l) (s.pastLane (.vsplit b a d) l) = .ok (s.vsplitTurn b a d e l) := by
  have hcheck : (s.shape false b a e l).check vDS e.lo (s.shape false b a e l).x = .ok () := ShapeArgs.check_ok hright (Nat.le_refl _) hhi hlo
  have hview : (s.shape false b a e l).e = e := rfl
  simp only [vsplitLane, h.shapeArgs, hview, hcheck, bind, Except.bind, State.vsplitTurn]
  cases (s.pastLane (.vsplit b a d) l).newView (s.ctx l) e _ _ _ <;> rfl

/-! ### VNARROW -/

/-- What VNARROW makes of a lane: the view itself becomes [x, x + n) with the rights under the mask, and d names it with them. -/
def State.vnarrowTurn (b a d : RegCode) (e : View) (l : Nat) (s : State) : State :=
  let p := s.shape true b a e l
  (((s.pastLane (.vnarrow b a d) l).reshape (s.ctx l) (hIndex p.h) { e with lo := p.x, hi := p.x + p.n, rights := p.r &&& p.m }).recordNarrow
    (s.ctx l)).modThread s.cur.q l fun t => t.write (s.ctx l) d ⟨handleWord (hIndex p.h) e.gen e.region (p.r &&& p.m), .view⟩ .sb

theorem State.waits_vnarrowTurn (b a d : RegCode) (e : View) (l : Nat) (s : State) : (s.vnarrowTurn b a d e l).waits = s.waits := by
  rw [State.vnarrowTurn, State.waits_modThread _ _ _ fun u => u.wait_write .., State.waits_recordNarrow, State.waits_reshape, State.waits_pastLane]

theorem vnarrowLane_narrows (h : s.Shapes (.vnarrow b a d) true b a e l) (hright : hRights (s.operand a l).data &&& e.rights &&& vNA ≠ 0)
    (hlo : e.lo ≤ (s.operand b l).data.toNat) (hhi : (s.operand b l).data.toNat + (s.operand 57 l).data.toNat ≤ e.hi) :
    vnarrowLane b a d (s.ctx l) (s.pastLane (.vnarrow b a d) l) = .ok (s.vnarrowTurn b a d e l) := by
  have hcheck : (s.shape true b a e l).check vNA (s.shape true b a e l).x ((s.shape true b a e l).x + (s.shape true b a e l).n) = .ok () :=
    ShapeArgs.check_ok hright hlo hhi (Nat.le_add_right ..)
  simp only [vnarrowLane, h.shapeArgs, hcheck, bind, Except.bind, State.vnarrowTurn]
  rfl

/-- Settles O27: the lanes run one after another, and none of them waits. VDUP posts nothing; for what VSPLIT and VNARROW post there is room. -/
theorem viewReshapingCompletes : Obligations.ViewReshapingCompletes := by
  unfold Obligations.ViewReshapingCompletes
  intro b a d s e h x n rights less may more
  refine ⟨?_, ?_, ?_⟩
  · intro f hmay
    refine congrArg Host.Outcome.next (State.execViews_oneByOne (F := fun l => State.vdupTurn b a d (e l) l) (fun l st => (st.vdupTurn_keeps b a d (e l) l).1)
      (.inr fun l st => (st.vdupTurn_keeps b a d (e l) l).2) fun l hl => ?_)
    obtain ⟨⟨hr, hrun, ha, hb, hview, hright, hlo⟩, hlen, hmask, hhi⟩ := hmay l hl
    exact ⟨hr, hrun, vdupLane_duplicates ⟨hr, ha, hb, hview, fun _ => ⟨hlen, hmask⟩⟩ hright hlo hhi⟩
  · intro f hroom hmay
    refine congrArg Host.Outcome.next (State.execViews_oneByOne (F := fun l => State.vsplitTurn b a d (e l) l) (fun l st => st.waits_vsplitTurn b a d (e l) l)
      (.inl hroom) fun l hl => ?_)
    obtain ⟨⟨hr, hrun, ha, hb, hview, hright, hlo⟩, hhi⟩ := hmay l hl
    exact ⟨hr, hrun, vsplitLane_splits ⟨hr, ha, hb, hview, by simp⟩ hright hlo hhi⟩
  · intro f hroom hmay
    refine congrArg Host.Outcome.next (State.execViews_oneByOne (F := fun l => State.vnarrowTurn b a d (e l) l) (fun l st => st.waits_vnarrowTurn b a d (e l) l)
      (.inl hroom) fun l hl => ?_)
    obtain ⟨⟨hr, hrun, ha, hb, hview, hright, hlo⟩, hlen, hmask, hhi⟩ := hmay l hl
    exact ⟨hr, hrun, vnarrowLane_narrows ⟨hr, ha, hb, hview, fun _ => ⟨hlen, hmask⟩⟩ hright hlo hhi⟩

end Sys2Proof.Machine
end

section
/-!
SUPPORT for O28. VDROP (R204): what the lanes that have dropped their views have changed, and that the others still find theirs.
-/
namespace Sys2Proof.Machine

variable {s st : State} {i : Instr} {l : Nat} {a : RegCode} {e : Nat → View} {ls : List Nat}

/-! ### Lanes whose traps are collected -/

section Collect

variable {f : Ctx → State → Except Trap State} {err : Nat → Option Trap} {I : List Nat → State → Prop}

/-- A lane's turn with the lanes `rest` after it: without a trap it leaves a state of the invariant, and a trap that it meets is not suppressed. -/
def State.TurnIn (i : Instr) (f : Ctx → State → Except Trap State) (err : Nat → Option Trap) (I : List Nat → State → Prop) (l : Nat) (rest : List Nat)
    (st : State) : Prop :=
  match err l with
  | none => ∃ t, st.laneStep i 0 0 f l = .ok t ∧ I rest t
  | some e => st.laneStep i 0 0 f l = .error e ∧ suppressed (st.ctx l) e = false ∧ I rest st

/-- The lanes run in turn, with an invariant of the lanes still to run: their traps are collected in lane order. -/
theorem State.runLanes_collect (step : ∀ l rest st, I (l :: rest) st → State.TurnIn i f err I l rest st) (h : I ls st) (ts : List (Nat × Trap)) :
    ∃ t, State.runLanes i 0 0 f ls st ts = (t, ts ++ trapsOf err ls) ∧ I [] t := by
  induction ls generalizing st ts with
  | nil => exact ⟨st, by simp [State.runLanes, trapsOf], h⟩
  | cons l ls ih =>
    have hturn := step l ls st h
    unfold State.TurnIn at hturn
    split at hturn
    · next he =>
      obtain ⟨u, hu, hI⟩ := hturn
      obtain ⟨t, ht, hend⟩ := ih hI ts
      exact ⟨t, by simp only [State.runLanes, hu, ht, trapsOf_cons_none ls he], hend⟩
    · next x he =>
      obtain ⟨hx, hns, hI⟩ := hturn
      obtain ⟨t, ht, hend⟩ := ih hI (ts ++ [(l, x)])
      exact ⟨t, by simp only [State.runLanes, hx, hns, Bool.false_eq_true, if_false, ht, trapsOf_cons_some ls he, List.append_assoc, List.singleton_append],
        hend⟩

/-- Where no lane traps, the instruction is done, with the invariant of no lane left. -/
theorem State.execLanes_collect (step : ∀ l rest st, I (l :: rest) st → State.TurnIn i f err I l rest st) (h : I s.lanes s)
    (hnone : ∀ l ∈ s.lanes, err l = none) : I [] (s.execLanes i 0 0 f) := by
  obtain ⟨t, ht, hend⟩ := State.runLanes_collect step h []
  have hno : trapsOf err s.lanes = [] := List.filterMap_eq_nil_iff.mpr fun l hl => by rw [hnone l hl]; rfl
  rw [hno] at ht
  unfold State.execLanes
  rw [show lanesOf s.cur.lanes = s.lanes from rfl, ht]
  exact hend

/-- Where some lane traps, the trap of the lowest one is taken, and names the lanes that fail with its cause (R22, R23). -/
theorem State.execLanes_collectTrap (step : ∀ l rest st, I (l :: rest) st → State.TurnIn i f err I l rest st) (h : I s.lanes s) {t : Trap}
    (hc : t.cause ≠ 0x0B) (hl : l ∈ s.lanes) (ht : err l = some t) (hlow : ∀ m ∈ s.lanes, m < l → err m = none) :
    s.execLanes i 0 0 f = s.takeTrap s.cur.q t.cause (maskOf (s.lanes.filter fun m => (err m).any (·.cause == t.cause))) t.addr s.cur.pc := by
  obtain ⟨u, hu, _⟩ := State.runLanes_collect step h []
  obtain ⟨rest, hfirst⟩ := trapsOf_lowest (lanesOf_sorted _) hl ht hlow
  have hnamed := trapLanes_trapsOf s err s.lanes hc
  rw [List.nil_append, show trapsOf err s.lanes = _ from hfirst] at hu
  rw [show trapsOf err s.lanes = _ from hfirst] at hnamed
  unfold State.execLanes
  rw [show lanesOf s.cur.lanes = s.lanes from rfl, hu, ← hnamed]

end Collect

/-! ### The launch keeps account -/

/-- That a crew has narrowed or dropped views is all that changes of a launch (R211). -/
theorem State.launchOf_recordNarrow (s : State) (cx : Ctx) (lid : Nat) :
    ∃ ns, (s.recordNarrow cx).launchOf lid = { s.launchOf lid with narrowed := ns } := by
  unfold State.recordNarrow
  cases h : s.launch? cx.lid with
  | none => exact ⟨(s.launchOf lid).narrowed, by rw [State.modLaunch, h]⟩
  | some la =>
    by_cases hlid : lid = cx.lid
    · subst hlid
      exact ⟨_, State.launchOf_modLaunch (by rw [h]; rfl) _⟩
    · refine ⟨(s.launchOf lid).narrowed, ?_⟩
      rw [State.modLaunch, h]
      simp only [State.launchOf, State.launch?, State.setLaunch, SMap.get_set_other _ _ _ hlid]

theorem State.ctx_recordNarrow (s : State) (cx : Ctx) (m : Nat) : (s.recordNarrow cx).ctx m = s.ctx m := by
  have hsquad (q : Nat) : (s.recordNarrow cx).squad q = s.squad q := by
    rw [State.squad, State.squad?, State.recordNarrow, State.modLaunch_squads]
    rfl
  have hcrew (lid c : Nat) : (s.recordNarrow cx).crewOf lid c = s.crewOf lid c := by
    rw [State.crewOf, State.recordNarrow, State.modLaunch_crews, State.crewOf]
  have hcur : (s.recordNarrow cx).cur = s.cur := s.modLaunch_cur ..
  obtain ⟨ns, hlaunch⟩ := s.launchOf_recordNarrow cx (s.squad s.cur.q).lid
  simp only [State.ctx, State.region, hcur, hsquad, hcrew, hlaunch]

/-! ### Views dropped -/

/-- What VDROP makes of a lane of the set of `s` whose view may be dropped. -/
def State.dropTurn (s : State) (a : RegCode) (e : Nat → View) (l : Nat) (st : State) : State :=
  (((st.setThread s.cur.q l (s.past (.vdrop a) 0 l)).freeView (hIndex (s.operand a l).data)).postDecrements (e l).job
    ⟨(s.ctx l).lid, (s.ctx l).crew, (s.ctx l).num⟩ l (e l).granules).recordNarrow (s.ctx l)

/-- The lanes `ds` of a set have dropped the views that their handles name; the other lanes, the other entries and the rest of memory stand. -/
structure Dropped (s : State) (a : RegCode) (e : Nat → View) (ds : List Nat) (st : State) : Prop where
  cur : st.cur = s.cur
  crews : st.crews = s.crews
  bound : (st.squad? s.cur.q).isSome = true
  thread : ∀ q l, st.thread q l = if q = s.cur.q ∧ l ∈ ds then s.past (.vdrop a) 0 l else s.thread q l
  ctx : ∀ l, l ∉ ds → st.ctx l = s.ctx l
  ranges : ∀ lid, (st.launchOf lid).ranges = (s.launchOf lid).ranges
  mem : ∃ vs ws, st.mem = { s.mem with views := vs, viewFreed := s.mem.viewFreed ++ ds.map (fun l => hIndex (s.operand a l).data), whey := s.mem.whey ++ ws } ∧
    ws.map (fun w => (w.job, w.va.toNat)) = ds.flatMap fun l => (e l).granules.map fun g => ((e l).job, g % 2 ^ 64)
  freed : ∀ l ∈ ds, SMap.get {} st.mem.views (hIndex (s.operand a l).data) = { gen := (e l).gen + 1 }
  kept : ∀ k, (∀ l ∈ ds, k ≠ hIndex (s.operand a l).data) → SMap.get {} st.mem.views k = SMap.get {} s.mem.views k

theorem Dropped.refl (hb : (s.squad? s.cur.q).isSome = true) : Dropped s a e [] s where
  cur := rfl
  crews := rfl
  bound := hb
  thread q l := by simp
  ctx _ _ := rfl
  ranges _ := rfl
  mem := ⟨s.mem.views, [], by simp, rfl⟩
  freed := by simp
  kept _ _ := rfl

/-- A handle names the entry of its index. -/
theorem State.resolveView_entry {la : Launch} {h : Word} {v : View} (hv : s.resolveView la h = .ok v) : SMap.get {} s.mem.views (hIndex h) = v := by
  unfold State.resolveView at hv
  split at hv
  · cases hv
  · dsimp only at hv
    split at hv
    · cases hv
    · split at hv
      · cases hv
      · exact Except.ok.inj hv

/-- A handle names the same view where its entry and the ranges of the launch are the same. -/
theorem State.resolveView_congr {t : State} {la lb : Launch} {h : Word} (hviews : SMap.get {} t.mem.views (hIndex h) = (SMap.get {} s.mem.views (hIndex h) : View))
    (hranges : lb.ranges = la.ranges) : t.resolveView lb h = s.resolveView la h := by
  have hregion (n : Nat) : lb.coveredRegion n = la.coveredRegion n := by rw [Launch.coveredRegion, hranges, Launch.coveredRegion]
  simp only [State.resolveView, hviews, hregion]

/-- A thread replaced, entry k freed with its next GEN, and decrements posted, with accesses numbered up to n. -/
def State.viewDropped (st : State) (q l : Nat) (u : Thread) (n k : Nat) (gen : BitVec 20) (ws : List Decrement) : State :=
  { st.setThread q l u with
    seq := n
    mem := { st.mem with
      views := SMap.set {} st.mem.views k { gen := gen }
      viewFreed := st.mem.viewFreed ++ [k]
      whey := st.mem.whey ++ ws } }

/-- The turn of a lane, written out: its thread, the entry, the queue, and the account of its launch. -/
theorem State.dropTurn_eq (hentry : SMap.get {} st.mem.views (hIndex (s.operand a l).data) = e l) :
    ∃ n ws, s.dropTurn a e l st =
        (st.viewDropped s.cur.q l (s.past (.vdrop a) 0 l) n (hIndex (s.operand a l).data) ((e l).gen + 1) ws).recordNarrow (s.ctx l) ∧
      ws.map (fun w => (w.job, w.va.toNat)) = (e l).granules.map fun g => ((e l).job, g % 2 ^ 64) := by
  obtain ⟨n, ws, hpost, hws⟩ := ((st.setThread s.cur.q l (s.past (.vdrop a) 0 l)).freeView (hIndex (s.operand a l).data)).postDecrements_queues (e l).job
    ⟨(s.ctx l).lid, (s.ctx l).crew, (s.ctx l).num⟩ l (e l).granules
  refine ⟨n, ws, ?_, hws⟩
  rw [State.dropTurn, hpost, State.freeView, State.setView, State.setThread_mem, hentry, State.viewDropped]

/-- One more lane drops its view. -/
theorem Dropped.next {ds : List Nat} (h : Dropped s a e ds st) (hnew : l ∉ ds)
    (hentry : SMap.get {} s.mem.views (hIndex (s.operand a l).data) = e l)
    (hother : ∀ m ∈ ds, hIndex (s.operand a l).data ≠ hIndex (s.operand a m).data) : Dropped s a e (ds ++ [l]) (s.dropTurn a e l st) := by
  obtain ⟨n, ws, hturn, hws⟩ := State.dropTurn_eq (st := st) ((h.kept _ hother).trans hentry)
  obtain ⟨vs0, ws0, hmem, hws0⟩ := h.mem
  rw [hturn]
  constructor
  case cur => exact (State.modLaunch_cur ..).trans ((st.setThread_cur ..).trans h.cur)
  case crews => exact (State.modLaunch_crews ..).trans ((st.setThread_crews ..).trans h.crews)
  case bound =>
    rw [State.squad?, State.recordNarrow, State.modLaunch_squads]
    exact (st.setThread_isSome ..).trans h.bound
  case thread =>
    intro q m
    have hsquads : ((st.viewDropped s.cur.q l (s.past (.vdrop a) 0 l) n (hIndex (s.operand a l).data) ((e l).gen + 1) ws).recordNarrow (s.ctx l)).squads =
        (st.setThread s.cur.q l (s.past (.vdrop a) 0 l)).squads := State.modLaunch_squads ..
    rw [State.thread_congr hsquads, State.thread_setThread h.bound, h.thread]
    by_cases hm : m = l
    · subst hm
      by_cases hq : q = s.cur.q <;> simp [hq]
    · simp [hm]
  case ctx =>
    intro m hm
    obtain ⟨hm, hne⟩ : m ∉ ds ∧ m ≠ l := by simpa using hm
    rw [State.ctx_recordNarrow]
    exact (st.ctx_setThread _ _ hne).trans (h.ctx m hm)
  case ranges =>
    intro lid
    obtain ⟨ns, hlaunch⟩ := (st.viewDropped s.cur.q l (s.past (.vdrop a) 0 l) n (hIndex (s.operand a l).data) ((e l).gen + 1) ws).launchOf_recordNarrow
      (s.ctx l) lid
    rw [hlaunch]
    exact (congrArg Launch.ranges (st.launchOf_setThread ..)).trans (h.ranges lid)
  case mem =>
    refine ⟨SMap.set {} vs0 (hIndex (s.operand a l).data) { gen := (e l).gen + 1 }, ws0 ++ ws, ?_, ?_⟩
    · rw [State.recordNarrow_mem, State.viewDropped, hmem]
      simp only [List.map_append, List.map_cons, List.map_nil, List.append_assoc]
    · rw [List.map_append, hws0, hws, List.flatMap_append, List.flatMap_singleton]
  case freed =>
    intro m hm
    rw [State.recordNarrow_mem]
    rcases List.mem_append.mp hm with hm | hm
    · exact (SMap.get_set_other _ _ _ (hother m hm).symm).trans (h.freed m hm)
    · obtain rfl := List.mem_singleton.mp hm
      exact SMap.get_set_same ..
  case kept =>
    intro k hk
    rw [State.recordNarrow_mem]
    exact (SMap.get_set_other _ _ _ (hk l (by simp))).trans (h.kept k fun m hm => hk m (by simp [hm]))

/-! ### The lanes of a VDROP -/

/-- The rights of a lane's handle and of its view that VDROP looks at. -/
def State.dropRight (s : State) (a : RegCode) (e : Nat → View) (l : Nat) : BitVec 7 := hRights (s.operand a l).data &&& (e l).rights &&& vDR

/-- The trap of a lane without the DR right (R204). -/
def State.dropTrap (s : State) (a : RegCode) (e : Nat → View) (l : Nat) : Option Trap :=
  if s.dropRight a e l = 0 then some ⟨0x05, (e l).cbase + BitVec.ofNat 64 (e l).lo⟩ else none

/-- The lanes before `rest` that have the DR right have dropped their views. -/
def State.dropsBefore (s : State) (a : RegCode) (e : Nat → View) (rest : List Nat) (st : State) : Prop :=
  ∃ pre, s.lanes = pre ++ rest ∧ Dropped s a e (pre.filter fun l => s.dropRight a e l != 0) st

theorem State.region_vdrop (hr : s.ready (.vdrop a) 0 = true) (l : Nat) : (s.ctx l).region ≠ 1 := by
  have hadmit := ((s.ready_iff _ _).mp hr).2.1
  have hbarred : instrInRegion (.vdrop a) = false := rfl
  intro h
  have h0 : (s.ctx 0).region = 1 := h
  simp [admitted, h0, hbarred] at hadmit

/-- The turn of a lane that has not dropped its view, where no other lane has dropped it. -/
theorem Dropped.laneStep {ds : List Nat} (h : Dropped s a e ds st) (hr : s.ready (.vdrop a) 0 = true) (hnew : l ∉ ds) (hholds : s.holds handleTag a l = true)
    (hview : s.resolveView (s.launchOf (s.ctx l).lid) (s.operand a l).data = .ok (e l))
    (hother : ∀ m ∈ ds, hIndex (s.operand a l).data ≠ hIndex (s.operand a m).data) :
    st.laneStep (.vdrop a) 0 0 (vdropLane a) l =
      if s.dropRight a e l = 0 then .error ⟨0x05, (e l).cbase + BitVec.ofNat 64 (e l).lo⟩ else .ok (s.dropTurn a e l st) := by
  have hth : st.thread s.cur.q l = s.th l := (h.thread s.cur.q l).trans (if_neg fun hl => hnew hl.2)
  have hk : (s.th l).readK (s.ctx l) (BitVec.toNat (0 : BitVec 2)) = .ok true := rfl
  have hpast : (s.th l).advance (s.ctx l) (.vdrop a) 0 = s.past (.vdrop a) 0 l := rfl
  have hresolve : st.resolveView (st.launchOf (s.ctx l).lid) (s.operand a l).data = .ok (e l) :=
    (State.resolveView_congr (h.kept _ hother) (h.ranges _)).trans hview
  simp only [State.laneStep, h.ctx l hnew, ctx_q, ctx_lane, hth, admitted_lane s (.vdrop a) l 0, ((s.ready_iff _ 0).mp hr).2.1, if_true, Thread.guardOn, hk,
    hpast, vdropLane, st.thread_setThread_same _ _ _ h.bound, s.src_holds _ 0 hholds, State.resolveView_setThread, State.launchOf_setThread, hresolve, bind,
    Except.bind]
  rfl

section Turns

variable (hr : s.ready (.vdrop a) 0 = true) (hholds : ∀ l ∈ s.lanes, s.holds handleTag a l = true)
  (hview : ∀ l ∈ s.lanes, s.resolveView (s.launchOf (s.ctx l).lid) (s.operand a l).data = .ok (e l))
  (hdistinct : ∀ l ∈ s.lanes, ∀ m ∈ s.lanes, hIndex (s.operand a l).data = hIndex (s.operand a m).data → l = m)

include hr hholds hview hdistinct in
/-- A lane's turn: it drops its view, or it lacks the right. -/
theorem State.vdrop_turn (l : Nat) (rest : List Nat) (st : State) (h : s.dropsBefore a e (l :: rest) st) :
    State.TurnIn (.vdrop a) (vdropLane a) (s.dropTrap a e) (s.dropsBefore a e) l rest st := by
  obtain ⟨pre, hpre, hd⟩ := h
  have nodup : (pre ++ l :: rest).Nodup := hpre ▸ lanesOf_nodup s.cur.lanes
  have hl : l ∈ s.lanes := by simp [hpre]
  have hin : ∀ m ∈ pre.filter (fun l => s.dropRight a e l != 0), m ∈ s.lanes ∧ m ≠ l := fun m hm =>
    have hm := (List.mem_filter.mp hm).1
    ⟨by simp [hpre, hm], (List.nodup_append.mp nodup).2.2 m hm l (by simp)⟩
  have hnew : l ∉ pre.filter fun l => s.dropRight a e l != 0 := fun hm => (hin l hm).2 rfl
  have hother : ∀ m ∈ pre.filter (fun l => s.dropRight a e l != 0), hIndex (s.operand a l).data ≠ hIndex (s.operand a m).data :=
    fun m hm heq => (hin m hm).2 (hdistinct l hl m (hin m hm).1 heq).symm
  have hstep := hd.laneStep hr hnew (hholds l hl) (hview l hl) hother
  have hlanes : s.lanes = (pre ++ [l]) ++ rest := by simp [hpre]
  have hlast : [l].filter (fun l => s.dropRight a e l != 0) = if s.dropRight a e l = 0 then [] else [l] := by
    split
    · next h => simp [h]
    · next h => simpa using h
  unfold State.TurnIn State.dropTrap
  by_cases hdr : s.dropRight a e l = 0
  · simp only [hdr, if_true]
    refine ⟨hstep.trans (if_pos hdr), ?_, pre ++ [l], hlanes, ?_⟩
    · rw [hd.ctx l hnew]
      simp [suppressed, State.region_vdrop hr l]
    · rw [List.filter_append, hlast, if_pos hdr, List.append_nil]
      exact hd
  · simp only [hdr, if_false]
    refine ⟨s.dropTurn a e l st, hstep.trans (if_neg hdr), pre ++ [l], hlanes, ?_⟩
    rw [List.filter_append, hlast, if_neg hdr]
    exact hd.next hnew (State.resolveView_entry (hview l hl)) hother

include hr in
theorem State.dropsBefore_all : s.dropsBefore a e s.lanes s := ⟨[], rfl, Dropped.refl ((s.ready_iff _ _).mp hr).1⟩

variable (hrun : ∀ l ∈ s.lanes, (s.th l).wait = .run) (hroom : s.wheyFull = false)

include hr hholds hview hdistinct hrun hroom

theorem execVdrop_drops (hright : ∀ l ∈ s.lanes, s.dropRight a e l ≠ 0) : ∃ t, exec (.vdrop a) s = .next t ∧ Dropped s a e s.lanes t := by
  have hend := State.execLanes_collect (State.vdrop_turn hr hholds hview hdistinct) (State.dropsBefore_all hr)
    fun l hl => if_neg (hright l hl)
  obtain ⟨pre, hpre, hd⟩ := hend
  have hall : pre.filter (fun l => s.dropRight a e l != 0) = s.lanes := by
    rw [List.append_nil] at hpre
    rw [← hpre]
    exact List.filter_eq_self.mpr fun l hl => by simpa using hright l hl
  rw [hall] at hd
  refine ⟨_, congrArg Host.Outcome.next (State.execViews_done rfl (fun l hl => ?_) (.inl hroom)), hd⟩
  rw [hd.thread, if_pos ⟨rfl, hl⟩]
  exact hrun l hl

theorem execVdrop_traps (hl : l ∈ s.lanes) (hno : s.dropRight a e l = 0) (hlow : ∀ m ∈ s.lanes, m < l → s.dropRight a e m ≠ 0) :
    exec (.vdrop a) s = .next (s.takeTrap s.cur.q 0x05 (maskOf (s.lanes.filter fun m => s.dropRight a e m == 0))
      ((e l).cbase + BitVec.ofNat 64 (e l).lo) s.cur.pc) := by
  have htrap := State.execLanes_collectTrap (State.vdrop_turn hr hholds hview hdistinct) (State.dropsBefore_all hr)
    (t := ⟨0x05, (e l).cbase + BitVec.ofNat 64 (e l).lo⟩) (show (0x05 : Nat) ≠ 0x0B by decide) hl (if_pos hno) fun m hm hlt => if_neg (hlow m hm hlt)
  have hnamed : (fun m => (s.dropTrap a e m).any (·.cause == 0x05)) = fun m => s.dropRight a e m == 0 := funext fun m => by
    unfold State.dropTrap
    split
    · next h => simp [h]
    · next h => simpa using h
  dsimp only at htrap
  rw [hnamed] at htrap
  refine congrArg Host.Outcome.next (State.execViews_done htrap (fun m hm => ?_) (.inl hroom))
  rw [State.thread_takeTrap_same]
  exact hrun m hm

end Turns

/-- Views dropped change no byte that memory shows. -/
theorem Dropped.sameMemory {ds : List Nat} (h : Dropped s a e ds st) : st.sameMemory s := by
  obtain ⟨vs, ws, hmem, _⟩ := h.mem
  intro p
  cases p with
  | dram pa key =>
    rw [State.byteAt, State.byteAt, State.dramByte, State.dramByte, State.rekeyed, State.rekeyed, State.lineKey, State.lineKey, hmem]
  | scratch c n o => simp only [State.byteAt, State.crewOf, h.crews]

/-- Settles O28. A lane with the DR right drops its view, one without it meets the trap; the entries of the other lanes stand. -/
theorem vdropFreesOrTraps : Obligations.VdropFreesOrTraps := by
  unfold Obligations.VdropFreesOrTraps
  intro a s e h dr hr hroom hlanes hdistinct
  obtain ⟨hrun, hnamed⟩ := forall₂_and.mp hlanes
  obtain ⟨hholds, hview⟩ := forall₂_and.mp hnamed
  refine ⟨fun hright => ?_, fun l hl hno hlow => execVdrop_traps hr hholds hview hdistinct hrun hroom hl hno hlow⟩
  obtain ⟨t, ht, hd⟩ := execVdrop_drops hr hholds hview hdistinct hrun hroom hright
  obtain ⟨vs, ws, hmem, hws⟩ := hd.mem
  refine ⟨t, ht, hd.freed, ?_, hd.kept, ?_, fun q l => ?_, hd.sameMemory⟩
  · rw [hmem]
  · rw [hmem, List.map_append, hws]
  · rw [hd.thread]
    split
    · next hq =>
      rw [hq.1]
      exact Thread.regs_advance ..
    · rfl

end Sys2Proof.Machine
end

section
/-!
SUPPORT for O17. The integer atomics (R242, R243): their plans from operands that a lane holds, and what an atomic of one lane leaves that
writes memory and its thread.
-/
namespace Sys2Proof.Machine

variable {s : State} {a b d : RegCode} {l : Nat}

/-- What an integer atomic of a width does once its operands are read: `new` gives the new value of the old one (R243). -/
def integerOn (o : BitVec 1) (cx : Ctx) (d : RegCode) (base off : Reg) (size : Nat) (new : Nat → Nat) : AtomicPlan where
  base := base
  off := off
  nd := .atomic
  size := size
  det := .atomic
  bad := false
  ar := o == 1
  writes := true
  new := new
  res := atomicResult cx d size

theorem State.atomicPlan_holds (o : BitVec 1) (op : Nat → Nat → Nat → Nat) (d : RegCode) (i : Instr) (stall : Nat)
    (ha : s.holds atomicBase a l = true) (hb : s.holds atomicTag b l = true)
    (hoff : (s.operand a l).tag = .view → s.holds isAddrTag 59 l = true) :
    atomicPlan o op b a d (s.ctx l) (s.past i stall l) = .ok (
      let size := if (s.operand b l).tag = .i32x2 then 4 else 8
      integerOn o (s.ctx l) d (s.operand a l) (s.atomicOffset a l) size fun old =>
        op (8 * size) old ((s.operand b l).data.toNat % 2 ^ (8 * size))) := by
  simp only [atomicPlan, Thread.atomicBaseReg, s.src_holds i stall ha, s.src_holds i stall hb, State.atomicOff_holds i stall hoff, bind,
    Except.bind, integerOn]

theorem State.acasPlan_holds (o : BitVec 1) (i : Instr) (stall : Nat) (ha : s.holds atomicBase a l = true)
    (hb : s.holds atomicTag b l = true) (hoff : (s.operand a l).tag = .view → s.holds isAddrTag 59 l = true)
    (hd : s.holds atomicTag d l = true) (hpair : pairInt (s.operand d l).tag (s.operand b l).tag = true) :
    acasPlan o b a d (s.ctx l) (s.past i stall l) = .ok (
      let size := if pairTag (s.operand d l).tag (s.operand b l).tag = .i32x2 then 4 else 8
      integerOn o (s.ctx l) d (s.operand a l) (s.atomicOffset a l) size fun old =>
        if old = (s.operand d l).data.toNat % 2 ^ (8 * size) then (s.operand b l).data.toNat % 2 ^ (8 * size) else old) := by
  simp only [acasPlan, Thread.atomicBaseReg, s.src_holds i stall ha, s.src_holds i stall hb, s.src_holds i stall hd,
    State.atomicOff_holds i stall hoff, layoutInt_pair hpair, bind, Except.bind, integerOn]

variable {i : Instr} {plan : Ctx → Thread → Except Trap AtomicPlan} {p : AtomicPlan} {addr : Word} {loc : Loc}

/-- An atomic that writes memory and its thread, once nothing holds it up. -/
theorem State.laneStep_atomicWrite (hr : s.ready i 0 = true) (hp : plan (s.ctx l) (s.past i 0 l) = .ok p)
    (hl : s.atomicLoc (s.ctx l) p.base p.off p.nd p.size p.det = .ok (addr, loc)) (hb : p.bad = false)
    (hf : s.atomicFree (s.ctx l) loc p.size p.ar p.writes = true) (hw : p.writes = true) :
    s.laneStep i 0 0 (atomicStep i plan) l = .ok ((((s.setThread s.cur.q l (s.past i 0 l)).fixAtomic (s.ctx l) loc p.size p.ar true).putAtomic
      (s.ctx l) loc (bytesLE p.size (p.new (natLE (s.landedBytes (s.ctx l) loc p.size))))).modThread s.cur.q l
        (p.res (natLE (s.landedBytes (s.ctx l) loc p.size)))) := by
  refine s.laneStep_ok i 0 _ hr ?_
  rw [s.atomicStep_ok i plan hr hp hl hb hf, hw, if_pos rfl]

/-- Settles O17: each lane runs in the state that the lanes below it have left, and there its plan is that of its operands. -/
theorem atomicsComplete : Obligations.AtomicsComplete := by
  unfold Obligations.AtomicsComplete
  intro o b a d s loc off act may
  refine ⟨?_, ?_⟩
  · have hone (op : Nat → Nat → Nat → Nat) (i : Instr) :
        let size := fun (st : State) l => if (st.operand b l).tag = .i32x2 then 4 else 8
        let f := act i size fun st l old => op (8 * size st l) old ((st.operand b l).data.toNat % 2 ^ (8 * size st l))
        (∀ l ∈ s.lanes, may i size (s.before f l) l) → s.execLanes i 0 0 (atomicStep i (atomicPlan o op b a d)) = s.oneByOne f := by
      intro size f h
      refine s.execLanes_oneByOne i 0 0 _ f fun l hl => ?_
      obtain ⟨hr, hbase, hdata, hoff, hloc, hfree⟩ := h l hl
      exact (State.laneStep_atomicWrite hr (State.atomicPlan_holds o op d i 0 hbase hdata hoff) hloc rfl hfree rfl :)
    intro p hp size f h
    simp only [List.mem_cons, List.not_mem_nil, or_false] at hp
    rcases hp with rfl | rfl | rfl | rfl | rfl | rfl | rfl | rfl | rfl <;> exact congrArg Host.Outcome.next (hone _ _ h)
  · intro size f h
    refine congrArg Host.Outcome.next (s.execLanes_oneByOne (.acas o b a d) 0 0 (atomicStep _ (acasPlan o b a d)) f fun l hl => ?_)
    obtain ⟨⟨hr, hbase, hdata, hoff, hloc, hfree⟩, hold, hpair⟩ := h l hl
    exact (State.laneStep_atomicWrite hr (State.acasPlan_holds o (.acas o b a d) 0 hbase hdata hoff hold hpair) hloc rfl hfree rfl :)

end Sys2Proof.Machine
end

section
/-!
SUPPORT for O30. The checks of the matrix engine's instructions over the operands that the lanes hold (R254, R261, R265, R277), and the
effect of each instruction once they pass.
-/
namespace Sys2Proof.Machine

variable {s : State} {i : Instr} {a b d : RegCode} {act : List Nat}

/-! ### Checks of an issue set's operands -/

theorem State.markedCheck_ok (h : (s.launchOf (s.squad s.cur.q).lid).marked = true) : s.markedCheck act = .ok () := if_pos h

/-- The words of a register that lanes hold. -/
def State.words (s : State) (act : List Nat) (a : RegCode) : List (Nat × Word) := act.map fun l => (l, (s.operand a l).data)

theorem State.addrRegs_ok (h : ∀ l ∈ act, s.holds isAddrTag a l = true) : s.addrRegs act a = .ok (s.words act a) := by
  simp only [State.addrRegs, s.gatherSrc_ok act isAddrTag a h, bind, Except.bind, List.map_map, State.words, Function.comp_def]

theorem State.addrPairs_ok (ha : ∀ l ∈ act, s.holds isAddrTag a l = true) (hb : ∀ l ∈ act, s.holds isAddrTag b l = true) :
    s.addrPairs act a b = .ok (s.words act a, s.words act b) := by
  have hboth := gatherLanes_ok act (fun l => do
    let x ← (s.thread s.cur.q l).src (s.ctx l) isAddrTag a
    let y ← (s.thread s.cur.q l).src (s.ctx l) isAddrTag b
    .ok (x.data, y.data)) (fun l => ((s.operand a l).data, (s.operand b l).data)) fun l hl => by
      simp only [s.src_ok (ha l hl), s.src_ok (hb l hl), bind, Except.bind]
  simp only [State.addrPairs]
  rw [hboth]
  simp only [bind, Except.bind, List.map_map, State.words, Function.comp_def]

theorem laneCheck_ok {vs : List (Nat × Word)} {cause : Nat} {bad : Word → Bool} (h : ∀ v ∈ vs, bad v.2 = false) :
    laneCheck vs cause bad = .ok () := by
  have hnone : vs.filter (fun v => bad v.2) = [] := List.filter_eq_nil_iff.mpr fun v hv => by simp [h v hv]
  simp only [laneCheck, hnone, List.map_nil]

theorem equalCheck_ok {vs : List (Nat × Word)} {f : Word → Nat} {x : Nat} (h : ∀ v ∈ vs, f v.2 = x) : equalCheck vs f = .ok () := by
  cases vs with
  | nil => rfl
  | cons v vs =>
    exact laneCheck_ok (bad := fun w => f w != f v.2) fun w hw => by
      rw [h w hw, h v (by simp)]
      exact bne_self_eq_false x

theorem State.laneCheck_words {cause : Nat} {bad : Word → Bool} (h : ∀ l ∈ act, bad (s.operand a l).data = false) :
    laneCheck (s.words act a) cause bad = .ok () :=
  laneCheck_ok (List.forall_mem_map.mpr h)

theorem State.equalCheck_words {f : Word → Nat} {x : Nat} (h : ∀ l ∈ act, f (s.operand a l).data = x) :
    equalCheck (s.words act a) f = .ok () :=
  equalCheck_ok (List.forall_mem_map.mpr h)

/-- The first lane's value, where all lanes agree in it. -/
theorem State.words_head {α : Type} {f : Word → α} {x y : α} (hne : act ≠ []) (h : ∀ l ∈ act, f (s.operand a l).data = x) :
    (((s.words act a).head?).map fun v => f v.2).getD y = x := by
  obtain ⟨l, ls, rfl⟩ := List.exists_cons_of_ne_nil hne
  simp [State.words, h l (by simp)]

/-- Lanes that hold one word pass the check for it, and it is the word that the set acts on. -/
theorem State.words_agree {w : Word} (hne : act ≠ []) (h : ∀ l ∈ act, (s.operand a l).data = w) :
    equalCheck (s.words act a) (·.toNat) = .ok () ∧ ((s.words act a).head?.map (·.2)).getD 0 = w :=
  ⟨State.equalCheck_words fun l hl => by rw [h l hl], State.words_head (f := id) hne h⟩

theorem State.spanCheck_ok {nd : Need} {w : Word} {len : Nat} (halign : w.toNat % 64 = 0) (hwindow : w.toNat / 2 ^ 56 < 2)
    (hspan : s.checkSpan (engineCx (s.squad s.cur.q).lid (s.squad s.cur.q).crew) false nd w.toNat len = .ok ()) :
    s.spanCheck act nd w len = .ok () := by
  simp only [State.spanCheck, halign, Nat.not_le.mpr hwindow, ne_eq, not_true_eq_false, if_false, hspan]

theorem getLsbD_false_iff (w : Word) (k : Nat) : w.getLsbD k = false ↔ bitsOf w.toNat k 1 = 0 := by
  rw [BitVec.getLsbD, Nat.testBit_eq_decide_div_mod_eq, decide_eq_false_iff_not]
  exact Nat.mod_two_ne_one

theorem getLsbD_eq_bitsOf (w : Word) (k : Nat) : w.getLsbD k = (bitsOf w.toNat k 1 == 1) := by
  rw [BitVec.getLsbD, Nat.testBit_eq_decide_div_mod_eq]
  rfl

/-- A tile descriptor in which every lane agrees, with no reserved bit (R261). -/
theorem State.tileDesc_ok {store : Bool} {w : Word} (hne : act ≠ []) (h : ∀ l ∈ act, (s.operand a l).data = w)
    (hlow : w.toNat / 32 = 0) (hstore : store = true → bitsOf w.toNat 4 1 = 0) : tileDesc (s.words act a) store = .ok w := by
  have hreserved : (bitsOf w.toNat 5 59 != 0 || (store && bitsOf w.toNat 4 1 != 0)) = false := by
    have h5 : bitsOf w.toNat 5 59 = 0 := by simp [bitsOf, hlow]
    cases store with
    | false => simp [h5]
    | true => simp [h5, hstore rfl]
  have hcheck : laneCheck (s.words act a) 0x01 (fun w => bitsOf w.toNat 5 59 != 0 || (store && bitsOf w.toNat 4 1 != 0)) = .ok () :=
    State.laneCheck_words fun l hl => by rw [h l hl]; exact hreserved
  obtain ⟨heq, hhead⟩ := State.words_agree hne h
  simp only [tileDesc, hcheck, heq, hhead, bind, Except.bind]

theorem State.rowCheck_ok {fmt : Nat} {vs : List (Nat × Word)}
    (h : ∀ v ∈ vs, rowOff v.2 % 8 = 0 ∧ rowOff v.2 + recordBytes fmt ≤ (s.launchOf (s.squad s.cur.q).lid).scratch) :
    s.rowCheck fmt vs = .ok () := by
  have halign : vs.filter (fun v => rowOff v.2 % 8 != 0) = [] := List.filter_eq_nil_iff.mpr fun v hv => by simp [(h v hv).1]
  have hrange : vs.filter (fun v => decide ((s.launchOf (s.squad s.cur.q).lid).scratch < rowOff v.2 + recordBytes fmt)) = [] :=
    List.filter_eq_nil_iff.mpr fun v hv => by simpa using (h v hv).2
  simp only [State.rowCheck, halign, hrange, bind, Except.bind]

theorem Engine.dueAt_of_free {e : Engine} {r : SquadRef} {pc : Word} {t v : Nat} (hver : (e.tile t).ver.toNat % 16 = v)
    (h : (e.tile t).writer = false ∨ (e.pausedMma r pc t).isSome = true) (hm : (mmaSlotOf i).isSome = true) : e.dueAt r pc t v i = true := by
  unfold Engine.dueAt
  split
  · simp [hver]
  · next hno =>
    have hw : (e.tile t).writer = false := h.resolve_right fun hp => hno (by simp [hm, hp])
    simp [Tile.due, hver, hw]

theorem Tile.due_of_free {t : Tile} {v : Nat} (h : t.ver.toNat % 16 = v ∧ t.writer = false) : t.due v = true := by
  simp [Tile.due, h.1, h.2]

/-! ### Effects -/

@[simp] theorem State.advanceAll_seq (stall : Nat) : (s.advanceAll i stall).seq = s.seq := by
  rw [State.advanceAll_eq, State.setThreads_frame]

/-- The lanes of an MMA.Q whose rows are not yet done, with their descriptors (R266, R271). -/
def State.rowsLeft (s : State) (a : RegCode) : List (Nat × Word) :=
  (s.lanes.filter fun l => !(s.squad s.cur.q).mtdone.getLsbD l).map fun l => (l, (s.operand a l).data)

theorem State.words_rowsLeft : (s.words s.lanes a).filter (fun x => !(s.squad s.cur.q).mtdone.getLsbD x.1) = s.rowsLeft a := by
  rw [State.words, List.filter_map]
  rfl

variable {t : Nat} {v : Nat}

/-- An MMA.Q that is accepted enters intake (R267). -/
theorem execSet_mma {fmt slot : Nat} (htile : mmaTileOf i = t) (hfmt : mmaFmtOf i = fmt) (hslot : mmaSlotOf i = some slot)
    (hmarked : (s.launchOf (s.squad s.cur.q).lid).marked = true) (hne : s.lanes ≠ []) (ha : ∀ l ∈ s.lanes, s.holds isAddrTag a l = true)
    (hr : s.ready i 0 = true) (hintake : (s.squad s.cur.q).intake = none) (hver : (s.engineOf.tile t).ver.toNat % 16 = v)
    (hdue : (s.engineOf.tile t).writer = false ∨ (s.engineOf.pausedMma (s.squad s.cur.q).ref s.cur.pc t).isSome = true)
    (hrows : ∀ l ∈ s.lanes, rowVer (s.operand a l).data = v ∧ (s.operand a l).data.getLsbD 20 = false ∧
      ((s.squad s.cur.q).mtdone.getLsbD l = false → rowOff (s.operand a l).data % 8 = 0 ∧
        rowOff (s.operand a l).data + recordBytes fmt ≤ (s.launchOf (s.squad s.cur.q).lid).scratch))
    (htag : (s.engineOf.tile t).tag = some (fmt == 4)) (hslotfmt : (s.engineOf.slot slot).fmt = some fmt) :
    s.execSet i 0 0 (mmaSet i a) = (
      let sq := s.squad s.cur.q
      let s1 := ({ s.advanceAll i 0 with seq := s.seq + 1 } : State).modEngine (coreOf s.cur.q) fun e =>
        { e.modTile t Tile.begin with mmas := (e.mmas.filter fun m => e.pausedMma sq.ref s.cur.pc t != some m) ++
          [{ id := s.seq, tile := t, by_ := sq.ref, batch := sq.closed + 1, open_ := true, left := (s.rowsLeft a).length, paused := none }] }
      let s2 := s1.modSquad s.cur.q fun sq => { sq with intake := some ⟨i, s.rowsLeft a, [], maskOf s.lanes, s.seq, false⟩ }
      s.lanes.foldl (fun st l => st.modThread s.cur.q l fun th => th.waitAt (s.ctx l) i .intake) s2) := by
  have hone : laneCheck (s.words s.lanes a) 0x01 (fun w => bitsOf w.toNat 20 1 != 0) = .ok () :=
    State.laneCheck_words fun l hl => by simp [(getLsbD_false_iff _ 20).mp (hrows l hl).2.1]
  have heq : equalCheck (s.words s.lanes a) rowVer = .ok () := State.equalCheck_words fun l hl => (hrows l hl).1
  have hhead : ((s.words s.lanes a).head?.map fun x => rowVer x.2).getD 0 = v := State.words_head hne fun l hl => (hrows l hl).1
  have hcheck : s.rowCheck fmt (s.rowsLeft a) = .ok () := State.rowCheck_ok fun x hx => by
    obtain ⟨l, hl, rfl⟩ := List.mem_map.mp hx
    obtain ⟨hmem, hdone⟩ := List.mem_filter.mp hl
    exact (hrows l hmem).2.2 (by simpa using hdone)
  have hwait : s.engineOf.dueAt (s.squad s.cur.q).ref s.cur.pc t v i = true := Engine.dueAt_of_free hver hdue (by rw [hslot]; rfl)
  refine s.execSet_ok i 0 0 _ hr ?_
  simp only [mmaSet, htile, hfmt, hslot, Option.getD_some, State.active_zero, State.markedCheck_ok hmarked, State.addrRegs_ok ha, hone, heq,
    hhead, hwait, hintake, htag, hslotfmt, State.words_rowsLeft, hcheck, State.advanceAll_seq, bind, Except.bind, Bool.not_true,
    Option.isSome_none, Bool.or_self, Bool.false_eq_true, if_false, ne_eq, not_true_eq_false]

theorem execSet_bld {slot fmt : Nat} {w : Word} (hmarked : (s.launchOf (s.squad s.cur.q).lid).marked = true) (hne : s.lanes ≠ [])
    (ha : ∀ l ∈ s.lanes, s.holds isAddrTag a l = true) (hw : ∀ l ∈ s.lanes, (s.operand a l).data = w) (hr : s.ready i 0 = true)
    (halign : w.toNat % 64 = 0) (hwindow : w.toNat / 2 ^ 56 < 2)
    (hspan : s.checkSpan (engineCx (s.squad s.cur.q).lid (s.squad s.cur.q).crew) false .load w.toNat (imageBytes fmt) = .ok ()) :
    s.execSet i 0 0 (bldSet slot fmt a) = ((s.advanceAll i 0).acceptOp s s.lanes (.bld slot fmt w)).modEngine (coreOf s.cur.q) fun e =>
      e.setSlot slot { e.slot slot with fmt := some fmt } := by
  obtain ⟨heq, hhead⟩ := State.words_agree hne hw
  refine s.execSet_ok i 0 0 _ hr ?_
  simp only [bldSet, State.active_zero, State.markedCheck_ok hmarked, State.addrRegs_ok ha, heq, hhead,
    State.spanCheck_ok halign hwindow hspan, bind, Except.bind]

theorem execSet_tzero {w : Word} (hmarked : (s.launchOf (s.squad s.cur.q).lid).marked = true) (hne : s.lanes ≠ [])
    (ha : ∀ l ∈ s.lanes, s.holds isAddrTag a l = true) (hw : ∀ l ∈ s.lanes, (s.operand a l).data = w) (hr : s.ready i 0 = true)
    (hlow : w.toNat / 32 = 0) (hfree : (s.engineOf.tile t).ver.toNat % 16 = w.toNat % 16 ∧ (s.engineOf.tile t).writer = false) :
    s.execSet i 0 0 (tzeroSet i a t) = ((s.advanceAll i 0).acceptOp s s.lanes (.tzero t (w.getLsbD 4))).modEngine (coreOf s.cur.q) fun e =>
      e.modTile t Tile.begin := by
  have hdesc : tileDesc (s.words s.lanes a) false = .ok w := State.tileDesc_ok hne hw hlow (fun h => nomatch h)
  have hdue : (s.engineOf.tile t).due (bitsOf w.toNat 0 4) = true := Tile.due_of_free ⟨by simpa [bitsOf] using hfree.1, hfree.2⟩
  refine s.execSet_ok i 0 0 _ hr ?_
  simp only [tzeroSet, State.active_zero, State.markedCheck_ok hmarked, State.addrRegs_ok ha, hdesc, hdue, getLsbD_eq_bitsOf, bind,
    Except.bind, Bool.not_true, Bool.false_eq_true, if_false]

theorem execSet_tld {w v : Word} (hmarked : (s.launchOf (s.squad s.cur.q).lid).marked = true) (hne : s.lanes ≠ [])
    (ha : ∀ l ∈ s.lanes, s.holds isAddrTag a l = true) (hw : ∀ l ∈ s.lanes, (s.operand a l).data = w)
    (hb : ∀ l ∈ s.lanes, s.holds isAddrTag b l = true ∧ (s.operand b l).data = v)
    (hfree : (s.engineOf.tile t).ver.toNat % 16 = v.toNat % 16 ∧ (s.engineOf.tile t).writer = false)
    (halign : w.toNat % 64 = 0) (hwindow : w.toNat / 2 ^ 56 < 2) (hr : s.ready i 0 = true) (hlow : v.toNat / 32 = 0)
    (hspan : s.checkSpan (engineCx (s.squad s.cur.q).lid (s.squad s.cur.q).crew) false .load w.toNat tileBytes = .ok ()) :
    s.execSet i 0 0 (tldSet i b a t) = ((s.advanceAll i 0).acceptOp s s.lanes (.tld t (v.getLsbD 4) w)).modEngine (coreOf s.cur.q) fun e =>
      e.modTile t Tile.begin := by
  obtain ⟨hholds, hdata⟩ := forall₂_and.mp hb
  have hdesc : tileDesc (s.words s.lanes b) false = .ok v := State.tileDesc_ok hne hdata hlow (fun h => nomatch h)
  obtain ⟨heq, hhead⟩ := State.words_agree hne hw
  have hdue : (s.engineOf.tile t).due (bitsOf v.toNat 0 4) = true := Tile.due_of_free ⟨by simpa [bitsOf] using hfree.1, hfree.2⟩
  refine s.execSet_ok i 0 0 _ hr ?_
  simp only [tldSet, State.active_zero, State.markedCheck_ok hmarked, State.addrPairs_ok ha hholds, hdesc, heq, hhead, hdue,
    State.spanCheck_ok halign hwindow hspan, getLsbD_eq_bitsOf, bind, Except.bind, Bool.not_true, Bool.false_eq_true, if_false]

theorem execSet_tst {w v : Word} (hmarked : (s.launchOf (s.squad s.cur.q).lid).marked = true) (hne : s.lanes ≠ [])
    (ha : ∀ l ∈ s.lanes, s.holds isAddrTag a l = true) (hw : ∀ l ∈ s.lanes, (s.operand a l).data = w)
    (hb : ∀ l ∈ s.lanes, s.holds isAddrTag b l = true ∧ (s.operand b l).data = v)
    (hfree : (s.engineOf.tile t).ver.toNat % 16 = v.toNat % 16 ∧ (s.engineOf.tile t).writer = false)
    (halign : w.toNat % 64 = 0) (hwindow : w.toNat / 2 ^ 56 < 2) (hr : s.ready i 0 = true) (hlow : v.toNat / 16 = 0)
    (htag : (s.engineOf.tile t).tag ≠ none)
    (hspan : s.checkSpan (engineCx (s.squad s.cur.q).lid (s.squad s.cur.q).crew) false .store w.toNat tileBytes = .ok ()) :
    s.execSet i 0 0 (tstSet i b a t) = (s.advanceAll i 0).acceptOp s s.lanes (.tst t w) := by
  obtain ⟨hholds, hdata⟩ := forall₂_and.mp hb
  have hdesc : tileDesc (s.words s.lanes b) true = .ok v :=
    State.tileDesc_ok hne hdata (by omega) fun _ => by simp [bitsOf, hlow]
  obtain ⟨heq, hhead⟩ := State.words_agree hne hw
  have hdue : (s.engineOf.tile t).due (bitsOf v.toNat 0 4) = true := Tile.due_of_free ⟨by simpa [bitsOf] using hfree.1, hfree.2⟩
  have hsome : (s.engineOf.tile t).tag.isNone = false := Option.isNone_eq_false_iff.mpr (Option.isSome_iff_ne_none.mpr htag)
  refine s.execSet_ok i 0 0 _ hr ?_
  simp only [tstSet, State.active_zero, State.markedCheck_ok hmarked, State.addrPairs_ok ha hholds, hdesc, heq, hhead, hdue, hsome,
    State.spanCheck_ok halign hwindow hspan, bind, Except.bind, Bool.not_true, Bool.false_eq_true, if_false]

/-- The thread of a lane that has read a tile (R263). -/
def State.tileRead (s : State) (i : Instr) (t : Nat) (a d : RegCode) (l : Nat) : Thread :=
  let r := trdResult (s.engineOf.tile t) (s.past i 0 l).rm (s.operand a l).data
  ((s.past i 0 l).write (s.ctx l) d r.1 .sb).raise r.2

@[simp] theorem Thread.raise_none (t : Thread) : t.raise 0 = t := by
  simp [Thread.raise]

/-- The cells that a row and column of a descriptor name, from the first on (R263). -/
def trdCell (t : Tile) (w : Word) (k : Nat) : Nat := (SMap.get 0 t.cells (128 * bitsOf w.toNat 8 7 + bitsOf w.toNat 0 7 + k)).toNat

theorem trdResult_int {t : Tile} {m : Rm} {w : Word} (h : bitsOf w.toNat 20 2 = 2) :
    trdResult t m w = (⟨ofElems 32 ((List.range 2).map fun k => satS 32 (signed 48 (trdCell t w k))), .i32x2⟩, 0) := by
  simp only [trdResult, h, trdCell]

theorem trdResult_float {t : Tile} {m : Rm} {w : Word} (h : bitsOf w.toNat 20 2 ≠ 2) :
    trdResult t m w = (
      let g : Tag := if bitsOf w.toNat 20 2 = 1 then .bf16x4 else .f32x2
      let r := floatElems g ((List.range (tagCount g)).map fun k => (fmtOf g).round (Fmt.acc48.decode (trdCell t w k)) m false 0)
      (⟨r.1, g⟩, r.2)) := by
  dsimp only [trdResult, trdCell]
  generalize bitsOf w.toNat 20 2 = c at h ⊢
  match c, h with
  | 0, _ | 1, _ | _ + 3, _ => rfl
  | 2, h => exact absurd rfl h

theorem execSet_trd (hmarked : (s.launchOf (s.squad s.cur.q).lid).marked = true) (hr : s.ready i 0 = true) (hne : s.lanes ≠ [])
    (hfree : (s.engineOf.tile t).ver.toNat % 16 = v ∧ (s.engineOf.tile t).writer = false)
    (h : ∀ l ∈ s.lanes, s.holds isAddrTag a l = true ∧ trdReserved (s.operand a l).data = false ∧
      bitsOf (s.operand a l).data.toNat 16 4 = v ∧
      (s.engineOf.tile t).tag = some (bitsOf (s.operand a l).data.toNat 20 2 == 2)) :
    s.execSet i 0 0 (trdSet i t a d) = s.ranTogether i 0 0 (s.tileRead i t a d) := by
  have hreserved : laneCheck (s.words s.lanes a) 0x01 trdReserved = .ok () := State.laneCheck_words fun l hl => (h l hl).2.1
  have heq : equalCheck (s.words s.lanes a) (fun w => bitsOf w.toNat 16 4) = .ok () := State.equalCheck_words fun l hl => (h l hl).2.2.1
  have hhead : ((s.words s.lanes a).head?.map fun x => bitsOf x.2.toNat 16 4).getD 0 = v :=
    State.words_head (f := fun w : Word => bitsOf w.toNat 16 4) hne fun l hl => (h l hl).2.2.1
  have hconv : laneCheck (s.words s.lanes a) 0x02 (fun w => (s.engineOf.tile t).tag != some (bitsOf w.toNat 20 2 == 2)) = .ok () :=
    State.laneCheck_words fun l hl => by simp [(h l hl).2.2.2]
  refine s.execSet_ok i 0 0 _ hr ?_
  simp only [trdSet, State.active_zero, State.markedCheck_ok hmarked, State.addrRegs_ok fun l hl => (h l hl).1, hreserved, heq, hhead, hconv,
    Tile.due_of_free hfree, bind, Except.bind, Bool.not_true, Bool.false_eq_true, if_false]
  rw [State.words, List.foldl_map]
  exact congrArg Except.ok (State.advanceAll_modLanes (fun l th => (th.write (s.ctx l) d (trdResult (s.engineOf.tile t) th.rm (s.operand a l).data).1
    .sb).raise (trdResult (s.engineOf.tile t) th.rm (s.operand a l).data).2) hr)

theorem exec_tver {t : BitVec 3} (hmarked : (s.launchOf (s.squad s.cur.q).lid).marked = true) (hr : s.ready (.tver t d) 0 = true) :
    exec (.tver t d) s = .next (s.ranTogether (.tver t d) 0 0 fun l =>
      (s.past (.tver t d) 0 l).write (s.ctx l) d ⟨tverWord (s.engineOf.tile t.toNat), .i64⟩ .sb) := by
  refine exec_together rfl hr ?_
  simp only [State.active_zero, State.markedCheck_ok hmarked, State.scatter_lanes _ _ hr, bind, Except.bind]

/-! ### Batches -/

theorem State.modSquad_congr {q : Nat} {f g : Squad → Squad} (h : ∀ sq, s.squad? q = some sq → f sq = g sq) : s.modSquad q f = s.modSquad q g := by
  cases hq : s.squad? q with
  | none => rw [State.modSquad_none s q f hq, State.modSquad_none s q g hq]
  | some sq => rw [State.modSquad_some s q f hq, State.modSquad_some s q g hq, h sq hq]

theorem State.closed_setThread (s : State) (q p l : Nat) (t : Thread) : ((s.setThread q l t).squad p).closed = (s.squad p).closed := by
  simp only [State.squad, State.setThread, State.squad?_modSquad]
  split
  · next e =>
    subst e
    cases s.squad? p <;> rfl
  · rfl

theorem State.closed_advanceAll (stall : Nat) (p : Nat) : ((s.advanceAll i stall).squad p).closed = (s.squad p).closed := by
  rw [State.advanceAll_eq]
  generalize s.past i stall = f, s.cur.q = q
  induction s.lanes generalizing s with
  | nil => rfl
  | cons l ls ih => rw [State.setThreads_cons, ih, State.closed_setThread]

theorem exec_mfence (hmarked : (s.launchOf (s.squad s.cur.q).lid).marked = true) (hr : s.ready (.mfence d) 0 = true)
    (hlive : s.engineOf.liveBatches (s.squad s.cur.q) < 8) :
    exec (.mfence d) s = .next ((((s.advanceAll (.mfence d) 0).modSquad s.cur.q fun sq =>
      { sq with closed := sq.closed + 1 }).settleBatches s.cur.q).scatter s d .sb
        (s.lanes.map fun l => (l, ⟨((s.squad s.cur.q).closed + 1).zeroExtend 64, .i64⟩))) := by
  have hclosed : ((s.advanceAll (.mfence d) 0).modSquad s.cur.q fun sq => { sq with closed := sq.closed + 1 }) =
      (s.advanceAll (.mfence d) 0).modSquad s.cur.q fun sq => { sq with closed := (s.squad s.cur.q).closed + 1 } :=
    State.modSquad_congr fun sq hq => by rw [← State.closed_advanceAll (i := .mfence d) 0, State.squad_some _ hq]
  refine exec_together rfl hr ?_
  simp only [State.active_zero, State.markedCheck_ok hmarked, if_neg (Nat.not_le.mpr hlive), hclosed, bind, Except.bind]

theorem exec_mwait (hmarked : (s.launchOf (s.squad s.cur.q).lid).marked = true) (hr : s.ready (.mwait a) 0 = true)
    (h : ∀ l ∈ s.lanes, s.holds isAddrTag a l = true ∧ (s.operand a l).data.toNat < 2 ^ 16 ∧
      ((s.operand a l).data.truncate 16 = (s.squad s.cur.q).closed ∨
        0x7FFF < ((s.operand a l).data.truncate 16 - (s.squad s.cur.q).closed).toNat) ∧
      (s.squad s.cur.q).batchDone ((s.operand a l).data.truncate 16) = true) :
    exec (.mwait a) s = .next (s.advanceAll (.mwait a) 0) := by
  have hnumber : laneCheck (s.words s.lanes a) 0x01 (fun w => bitsOf w.toNat 16 48 != 0 ||
      (let k := (w.truncate 16 - (s.squad s.cur.q).closed).toNat; decide (1 ≤ k) && decide (k ≤ 0x7FFF))) = .ok () := by
    refine State.laneCheck_words fun l hl => ?_
    obtain ⟨_, hsmall, hclosed, _⟩ := h l hl
    have hhigh : bitsOf (s.operand a l).data.toNat 16 48 = 0 := by rw [bitsOf, Nat.div_eq_of_lt hsmall, Nat.zero_mod]
    rcases hclosed with hsame | hlater
    · simp [hhigh, hsame]
    · simp only [hhigh, decide_eq_false (Nat.not_le.mpr hlater), Bool.and_false, Bool.or_false, bne_self_eq_false]
  refine exec_together rfl hr ?_
  simp only [State.active_zero, State.markedCheck_ok hmarked, State.addrRegs_ok fun l hl => (h l hl).1, hnumber, bind, Except.bind]
  have hdone : ∀ (st : State), ∀ x ∈ s.words s.lanes a,
      (if (s.squad s.cur.q).batchDone (x.2.truncate 16) then st else st.block (s.ctx x.1) (.mwait a)) = st := fun st =>
    List.forall_mem_map.mpr fun l hl => if_pos (h l hl).2.2.2
  rw [List.foldl_ext _ (fun st _ => st) _ hdone, List.foldl_fixed]

/-- Settles O30: each instruction by what its checks ask of the lanes' operands and of its tile or slot. -/
theorem matrixEngineCompletes : Obligations.MatrixEngineCompletes := by
  unfold Obligations.MatrixEngineCompletes
  refine ⟨fun s a w hne hmarked ha => ⟨?mma, fun hw => ⟨?bld, ?tzero, fun b t v hb hfree halign hwindow => ⟨?tld, ?tst⟩⟩⟩,
    fun s hmarked => ⟨?trd, fun t d hr => exec_tver hmarked hr, fun d hr hlive => exec_mfence hmarked hr hlive,
      fun a hr h => exec_mwait hmarked hr h⟩⟩
  case mma =>
    intro p hp n h t v hr hintake again hver hdue hrows htag hfmt
    simp only [List.mem_cons, List.not_mem_nil, or_false] at hp
    rcases hp with rfl | rfl | rfl | rfl | rfl <;>
      exact congrArg Host.Outcome.next (execSet_mma rfl rfl rfl hmarked hne ha hr hintake hver hdue hrows htag hfmt)
  case bld =>
    exact fun n h f hr halign hwindow hspan => congrArg Host.Outcome.next (execSet_bld hmarked hne ha hw hr halign hwindow hspan)
  case tzero => exact fun t hr hlow hfree => congrArg Host.Outcome.next (execSet_tzero hmarked hne ha hw hr hlow hfree)
  case tld =>
    exact fun hr hlow hspan => congrArg Host.Outcome.next (execSet_tld hmarked hne ha hw hb hfree halign hwindow hr hlow hspan)
  case tst =>
    exact fun hr hlow htag hspan => congrArg Host.Outcome.next (execSet_tst hmarked hne ha hw hb hfree halign hwindow hr hlow htag hspan)
  case trd =>
    intro t a d v hr hne hver hwriter h
    refine (congrArg Host.Outcome.next (execSet_trd hmarked hr hne ⟨hver, hwriter⟩ h)).trans ?_
    refine congrArg Host.Outcome.next (State.setThreads_congr _ _ _ _ _ fun l hl => ?_)
    rw [State.tileRead]
    by_cases hc : bitsOf (s.operand a l).data.toNat 20 2 = 2
    · rw [trdResult_int hc, Thread.raise_none]
      exact (if_pos hc).symm
    · rw [trdResult_float hc]
      exact (if_neg hc).symm

end Sys2Proof.Machine
end


section
/-!
REFUTATION of O32. A squad that takes a slot has its turn for a port from what the slot was given (R321): FEED places its stream with `portAt` the cycle in which slot 16 of the
core was last given a port (`State.placeSquad`). The clause on a free slot has the new stream with `portAt` 0. The two differ where an earlier stream of the core has issued and ended.
-/
namespace Sys2Proof.Machine

/-- One lane of squad 0 of launch 1, whose stream section is not empty, on a core whose stream slot is free and was last given a port in cycle 4. -/
def usedStreamSlot : State where
  launches := [(1, some { streamLen := 8 })]
  cores := [(0, { given := [(16, 5)] })]
  squads := [(0, some { lid := 1, threads := [(0, { live := true })] })]
  cur := { lanes := 1 }

/-- The turn for a port of the stream of core 0 that an outcome leaves. -/
def streamTurn : Host.Outcome State Fault Refusal → Nat
  | .next s => (s.squad 16).portAt
  | _ => 0

theorem streamTurn_feed : streamTurn (exec (.feed 1 1 3) usedStreamSlot) = 5 := by decide +kernel

/-- Refutes O32: the stream that FEED starts there has its turn from cycle 4, not from none. -/
theorem not_streamsAndDequesComplete : ¬ Obligations.StreamsAndDequesComplete := by
  unfold Obligations.StreamsAndDequesComplete
  rintro ⟨hfeed, -⟩
  obtain ⟨-, hstart⟩ := hfeed 1 1 3 usedStreamSlot 0 [] (by decide +kernel) (by decide +kernel) (by decide +kernel) (by decide +kernel)
    (by decide +kernel) (by decide +kernel)
  have hturn := congrArg streamTurn (hstart (by decide +kernel))
  rw [streamTurn_feed] at hturn
  exact absurd hturn (by decide +kernel)

end Sys2Proof.Machine
end


section
/-!
REFUTATION of O47. Driene reads the group and range tables that a launch record names, and the first read of a line with an injected flip corrects it (R345, `State.tablesSeen`),
so that the LAUNCH leaves the flip gone. The clause on LAUNCH has the launch taken in the state before the read: the flip stays.
-/
namespace Sys2Proof.Machine

/-- An object with one page of text, and the job that has it. -/
def flipJob : Job := { placeJob with objects := [⟨1, 0, 0, false, false, (0x20000, 4096), (0, 0), (0, 0), []⟩] }

/-- A launch record with ENTRY 0x20000, one squad, a gang of one crew, and one range, whose table stands at 0x10A00. -/
def flipRecord : List Byte :=
  [(0, 0x20000), (0x18, 0x10100000000), (0x38, 0x10A00), (0x40, 1), (0x50, 1)].foldl (fun (m : Memory) (f : Nat × Nat) => m.writeBytes f.1 (bytesLE 8 f.2)) []
    |>.readBytes 0 128

/-- The range table: one page of PRIVATE class with every right. -/
def flipRange : List Byte := bytesLE 8 0x10000 ++ bytesLE 8 4096 ++ bytesLE 8 0x40000010F ++ bytesLE 8 0

/-- A running module with a page at 0x10000 that holds the range table, and a flip of MODE 1 in the table's line. -/
def flippedTable : State :=
  let s := State.reset.placeWord 32 0
  { s with
    jobs := [(1, some flipJob)]
    mem := { s.mem with dram := s.mem.dram.writeBytes 0x10A00 flipRange, latent := [.dram 0x10A00 0] } }

/-- The LAUNCH of the job's controller. -/
def flipHeader : Header := ⟨0x51524E44, 4, 1, 0, 0, 0, 1, 0, []⟩

/-- The lines with a flip that waits for its first read, after an outcome. -/
def flipsLeft : Host.Outcome State Fault Refusal → List Place
  | .next s => s.mem.latent
  | _ => []

theorem flipsLeft_launch : flipsLeft (exec (.launch flipHeader flipRecord 0) flippedTable) = [] := by decide +kernel

theorem takeLaunch_leaves_flip :
    ((flippedTable.takeLaunch flipJob flipRecord 0 none 0 false).toOption.map fun x => x.1.mem.latent) = some [.dram 0x10A00 0] := by
  decide +kernel

/-- Refutes O47: the LAUNCH whose range table stands in a line with a flip corrects it. -/
theorem not_requestsComplete : ¬ Obligations.RequestsComplete := by
  unfold Obligations.RequestsComplete
  rintro ⟨-, hall⟩
  obtain ⟨-, -, -, -, -, -, hlaunch, -⟩ :=
    hall flipHeader flippedTable rfl (by decide +kernel) (by decide +kernel) (by decide +kernel)
  obtain ⟨htaken, -⟩ := hlaunch (by decide +kernel) flipRecord 0 flipJob rfl
  have hleft := takeLaunch_leaves_flip
  cases htake : flippedTable.takeLaunch flipJob flipRecord 0 none 0 false with
  | error why => rw [htake] at hleft; cases hleft
  | ok x =>
    obtain ⟨s1, n⟩ := x
    rw [htake] at hleft
    have hgone := (congrArg flipsLeft (htaken s1 n htake)).symm.trans flipsLeft_launch
    exact absurd ((Option.some.inj hleft).symm.trans hgone) (by decide)

end Sys2Proof.Machine
end


section
/-!
SUPPORT for O45. Events of the network (R359-R365): what each packet does once its key is its job's, what a message that is acknowledged or refused leaves, links and peers that fail.
-/
namespace Sys2Proof.Machine

variable {s : State} {job peer msg seq count off len id key : Nat} {j : Job} {addr : Word} {data : List Byte} {m : Message}

/-! ### Packets under the key of their job (R359) -/

/-- A packet of a job's traffic that was made with the job's key is authentic. -/
theorem State.authentic_of_job {p : Packet} (hj : s.job? job = some j) (hp : s.packetJob p = some job) : s.authentic p j.net = true := by
  simp [State.authentic, hp, hj]

theorem exec_packetArrival_dropped {p : Packet} (h : s.authentic p key = false) : exec (.packetArrival ⟨p, key⟩) s = .next s :=
  congrArg Host.Outcome.next (if_pos (by simp [h]))

/-- While Driene runs, the effect of an authentic packet takes place. -/
theorem packetArrival_taken {p : Packet} {t : State} (hb : s.boot = .running) (ha : s.authentic p key = true) :
    (if s.boot ≠ .running || !s.authentic p key then s else t) = t := if_neg (by simp [hb, ha])

theorem exec_packetArrival_write (hb : s.boot = .running) (hj : s.job? job = some j) :
    exec (.packetArrival ⟨.write job peer msg seq count addr data, j.net⟩) s = .next (s.remoteWrite job peer msg seq count addr data) :=
  congrArg Host.Outcome.next (packetArrival_taken hb (State.authentic_of_job hj rfl))

theorem exec_packetArrival_readRequest {entropy : Nat} (hb : s.boot = .running) (hj : s.job? job = some j) :
    exec (.packetArrival ⟨.readRequest job peer msg seq entropy addr len, j.net⟩) s = .next (s.remoteRead job peer msg seq entropy addr len) :=
  congrArg Host.Outcome.next (packetArrival_taken hb (State.authentic_of_job hj rfl))

theorem exec_packetArrival_readData {lid crew node : Nat} {got : List (Nat × Nat × List Byte)} (hb : s.boot = .running) (hj : s.job? job = some j)
    (hout : s.outgoing msg = some (.get id job peer lid crew node len got)) :
    exec (.packetArrival ⟨.readData msg seq count off data, j.net⟩) s = .next (s.getData msg seq off data) :=
  congrArg Host.Outcome.next (packetArrival_taken hb (State.authentic_of_job hj (by simp [State.packetJob, hout])))

/-! ### A peer's write (R230, R363) -/

/-- Data that waits to land changes nothing of Driene's messages. -/
theorem State.postParts_io (r : SquadRef) (ps : List Part) (bs : List Byte) : (State.postParts s r ps bs).io = s.io := by
  induction ps generalizing s bs with
  | nil => rfl
  | cons p ps ih => exact ih _

theorem State.postParts_incoming (r : SquadRef) (ps : List Part) (bs : List Byte) :
    (s.postParts r ps bs).incoming job peer msg = s.incoming job peer msg := by simp [State.incoming, State.postParts_io]

theorem State.remoteWrite_acked (hj : s.job? job = some j) (ha : s.io.acked.contains (job, peer, msg) = true) :
    s.remoteWrite job peer msg seq count addr data = s.sendTo job peer (.ack msg) := by
  simp only [State.remoteWrite, hj, ha, if_true]

theorem State.remoteWrite_refused {r : Refused} (hj : s.job? job = some j) (ha : s.io.acked.contains (job, peer, msg) = false)
    (hr : s.refusedMsg job peer msg = some r) : s.remoteWrite job peer msg seq count addr data = s.sendTo job peer (.nack msg r.cause r.addr) := by
  simp only [State.remoteWrite, hj, ha, hr, Bool.false_eq_true, if_false]

theorem State.remoteWrite_bad {t : Trap} (hj : s.job? job = some j) (ha : s.io.acked.contains (job, peer, msg) = false)
    (hr : s.refusedMsg job peer msg = none) (ht : s.remoteParts j .store addr.toNat data.length = .error t) :
    s.remoteWrite job peer msg seq count addr data = s.refuseRemote job peer msg t := by
  simp only [State.remoteWrite, hj, ha, hr, ht, Bool.false_eq_true, if_false]

section Placed
variable {ps : List Part} (hj : s.job? job = some j) (ha : s.io.acked.contains (job, peer, msg) = false) (hr : s.refusedMsg job peer msg = none)
  (hps : s.remoteParts j .store addr.toNat data.length = .ok ps)
include hj ha hr hps

/-- The first packet of a peer's message: the message is under way from here on. -/
theorem State.remoteWrite_first (hin : s.incoming job peer msg = none) : s.remoteWrite job peer msg seq count addr data =
    (s.postParts (peerRef job peer msg) ps data).setMessages (· ++ [.inbound msg job peer count [seq]]) := by
  simp only [State.remoteWrite, hj, ha, hr, hps, hin, Bool.false_eq_true, if_false]

/-- A further packet of it. -/
theorem State.remoteWrite_further {c : Nat} {got : List Nat} (hin : s.incoming job peer msg = some (.inbound msg job peer c got)) :
    s.remoteWrite job peer msg seq count addr data = (s.postParts (peerRef job peer msg) ps data).setMessages fun ms =>
      ms.map fun m => if m = .inbound msg job peer c got then .inbound msg job peer c (if got.contains seq then got else got ++ [seq]) else m := by
  simp only [State.remoteWrite, hj, ha, hr, hps, hin, Bool.false_eq_true, if_false]

end Placed

/-! ### A peer's read, and the data of a GET (R363) -/

theorem State.remoteRead_bad {entropy : Nat} {t : Trap} (hj : s.job? job = some j) (ht : s.remoteParts j .load addr.toNat len = .error t) :
    s.remoteRead job peer msg seq entropy addr len = s.sendTo job peer (.nack msg t.cause t.addr) := by
  simp only [State.remoteRead, hj, ht]

theorem State.remoteRead_ok {entropy : Nat} {ps : List Part} (hj : s.job? job = some j) (hps : s.remoteParts j .load addr.toNat len = .ok ps) :
    s.remoteRead job peer msg seq entropy addr len = (s.readParts ps).2.2.sendTo job peer
      (if (s.readParts ps).2.1 then .nack msg 0x11 addr else .readData msg seq entropy (s.readParts ps).1) := by
  simp only [State.remoteRead, hj, hps]

section Get
variable {lid crew node : Nat} {got : List (Nat × Nat × List Byte)} {r : RunNode} {a : Access}
  (hout : s.outgoing msg = some (.get msg job peer lid crew node len got)) (hnode : s.nodeOf lid crew node msg = some r)
  (hacc : nodeAccesses r.bytes = [a]) (hlen : off + data.length ≤ len)
include hout hnode hacc hlen

theorem State.getData_bad {t : Trap} (ht : s.accessesBad lid crew [{ a with addr := a.addr + r.prog + off, len := data.length }] = some t) :
    s.getData msg seq off data = ((s.dropMessage (.get msg job peer lid crew node len got)).dropData (messageRef lid crew msg)).failRunning lid crew r t := by
  simp only [State.getData, hout, hnode, hacc, ht, Nat.not_lt.mpr hlen, if_false]

theorem State.getData_ok {ps : List Part} (hok : s.accessesBad lid crew [{ a with addr := a.addr + r.prog + off, len := data.length }] = none)
    (hps : s.spanParts (engineCx lid crew) a.view.isSome .store
      (span 16 (s.accessBase { a with addr := a.addr + r.prog + off, len := data.length } + (a.addr + r.prog + off)) data.length) = some ps) :
    s.getData msg seq off data = (s.postParts (messageRef lid crew msg) ps data).setMessages fun ms => ms.map fun x =>
      if x = .get msg job peer lid crew node len got then
        .get msg job peer lid crew node len (if got.any (·.1 == seq) then got else got ++ [(seq, off, data)]) else x := by
  simp only [State.getData, hout, hnode, hacc, hok, hps, Nat.not_lt.mpr hlen, if_false]

end Get

/-! ### Acknowledgements and NACKs (R360, R363) -/

section Acknowledged
variable {sender : Option (Nat × Nat)} {lid crew node : Nat} {r : RunNode}

/-- The peer's acknowledgement of a PUT counts under the key of the job. -/
theorem exec_messageAcknowledged_put (hm : s.messageNo sender id = some (.put id job peer lid crew node len)) (hr : s.nodeOf lid crew node id = some r) :
    exec (.messageAcknowledged ⟨sender, id, key⟩) s = .next (if (s.job? job).any (fun j => j.net == key)
      then (s.dropMessage (.put id job peer lid crew node len)).setRunning lid crew (r.advance len r.out) else s) := by
  have hack : s.acknowledge (.put id job peer lid crew node len) =
      (s.dropMessage (.put id job peer lid crew node len)).setRunning lid crew (r.advance len r.out) := by simp only [State.acknowledge, hr]
  simp only [exec, execMessageAcknowledged, hm, hack]
  rfl

theorem exec_messageAcknowledged_get {got : List (Nat × Nat × List Byte)} {bs : List Byte}
    (hm : s.messageNo sender id = some (.get id job peer lid crew node len got)) (hw : s.hasWrites (messageRef lid crew id) = false)
    (hr : s.nodeOf lid crew node id = some r) (hbs : gotBytes len got = some bs) :
    exec (.messageAcknowledged ⟨sender, id, key⟩) s = .next ((s.dropMessage (.get id job peer lid crew node len got)).setRunning lid crew
      (r.advance len (checksum (nAlg r.bytes) r.out bs))) := by
  simp only [exec, execMessageAcknowledged, hm, State.acknowledge, hw, hr, hbs, Bool.false_eq_true, if_false]

theorem exec_messageAcknowledged_inbound {got : List Nat} (hm : s.messageNo sender id = some (.inbound id job peer count got))
    (hall : count ≤ got.length) (hw : s.hasWrites (peerRef job peer id) = false) : exec (.messageAcknowledged ⟨sender, id, key⟩) s =
      .next (((s.dropMessage (.inbound id job peer count got)).closeMessage job peer id).sendTo job peer (.ack id)) := by
  simp only [exec, execMessageAcknowledged, hm, State.acknowledge, hw, decide_eq_true hall, Bool.not_false, Bool.and_self, if_true]

end Acknowledged

section Nack
variable {cause : BitVec 8}

theorem exec_packetNack_otherKey (hm : s.outgoing id = some m) (hk : s.keyFits m key = false) : exec (.packetNack ⟨id, key⟩ cause addr) s = .next s := by
  simp only [exec, execPacketNack, hm, hk, Bool.not_false, if_true]

/-- A packet that was trimmed on its way is sent again. -/
theorem exec_packetNack_trimmed {k : Nat} {port : Option Nat} {p : OutPacket} (hm : s.outgoing id = some m) (hk : s.keyFits m key = true)
    (hp : s.packetOf id = some (.packet job peer k port p)) : exec (.packetNack ⟨id, key⟩ 0 addr) s = .next (s.sendTo job peer p) := by
  simp only [exec, execPacketNack, hm, hk, hp, Bool.not_true, Bool.false_eq_true, if_false, if_true, State.resend]

theorem exec_packetNack_failed (hm : s.outgoing id = some m) (hk : s.keyFits m key = true) (hc : cause ≠ 0) :
    exec (.packetNack ⟨id, key⟩ cause addr) s = .next (s.failMessage m ⟨cause.toNat, addr⟩) := by
  simp only [exec, execPacketNack, hm, hk, Bool.not_true, Bool.false_eq_true, if_false, hc]

/-- A message of ours that belongs to a crew's running node: a piece of a PUT, or of a GET. -/
def Message.OfNode (m : Message) (id lid crew node : Nat) : Prop :=
  (∃ job peer len, m = .put id job peer lid crew node len) ∨ ∃ job peer len got, m = .get id job peer lid crew node len got

theorem State.failMessage_ofNode {lid crew node : Nat} {r : RunNode} (hof : m.OfNode id lid crew node) (hr : s.nodeOf lid crew node id = some r) :
    s.failMessage m ⟨cause.toNat, addr⟩ = (
      let s1 := (s.dropMessage m).dropData (messageRef lid crew id)
      if cause = 0x11 then s1.stagingError s lid crew r ⟨0x11, addr⟩ else s1.failRunning lid crew r ⟨cause.toNat, addr⟩) := by
  have hcause : cause.toNat = 0x11 ↔ cause = 0x11 := ⟨fun h => BitVec.eq_of_toNat_eq h, fun h => h ▸ rfl⟩
  have hsplit : s.failMessage m ⟨cause.toNat, addr⟩ = (
      let s1 := (s.dropMessage m).dropData (messageRef lid crew id)
      if cause.toNat = 0x11 then s1.stagingError s lid crew r ⟨cause.toNat, addr⟩ else s1.failRunning lid crew r ⟨cause.toNat, addr⟩) := by
    obtain ⟨job, peer, len, rfl⟩ | ⟨job, peer, len, got, rfl⟩ := hof <;> simp only [State.failMessage, hr]
  rw [hsplit]
  by_cases h : cause = 0x11
  · subst h; rfl
  · simp only [hcause, h, if_false]

end Nack

/-! ### Links and peers that fail (R361, R362) -/

theorem exec_linkFailure_here {port : Nat} (hp : port < 12) (h : port ∉ s.io.linksDown) : exec (.linkFailure ⟨none, port⟩) s =
    .next (({ s with io := { s.io with linksDown := s.io.linksDown ++ [port] } } : State).resendFrom none port) := by
  simp [exec, execLinkFailure, Nat.not_le.mpr hp, h]

theorem exec_linkFailure_peer {port : Nat} (hp : port < 12) (h : (peer, port) ∉ s.io.peerLinksDown) : exec (.linkFailure ⟨some peer, port⟩) s =
    .next (({ s with io := { s.io with peerLinksDown := s.io.peerLinksDown ++ [(peer, port)] } } : State).resendFrom (some peer) port) := by
  simp [exec, execLinkFailure, Nat.not_le.mpr hp, h]

theorem exec_peerUnreachable (hj : (s.job? job).isSome = true) (h : (job, peer) ∉ s.io.peersDown) : exec (.peerUnreachable job peer) s =
    .next ((((s.jobLaunches job).flatMap fun (l : Launch) => s.crewsOf l.lid).foldl (fun (st : State) c => st.failPeer peer c)
      { s with io := { s.io with peersDown := s.io.peersDown ++ [(job, peer)] } }).note (.report 0x83 job (bytesLE 2 peer))) := by
  simp [exec, execPeerUnreachable, ← Option.not_isSome, hj, h]

/-- Settles O45: packet by packet, message by message. -/
theorem networkEventsComplete : Obligations.NetworkEventsComplete := by
  unfold Obligations.NetworkEventsComplete
  refine ⟨fun _ _ _ h => exec_packetArrival_dropped h, ?_, fun _ _ _ _ => rfl, ?_, ?_, ?_, ?_, ?_, fun _ _ _ => rfl, ?_,
    fun _ _ _ hj h => exec_peerUnreachable hj h⟩
  · intro job peer msg seq count addr data j s hb hj i
    have hexec : exec i s = .next (s.remoteWrite job peer msg seq count addr data) := exec_packetArrival_write hb hj
    refine ⟨fun ha => hexec.trans (congrArg _ (State.remoteWrite_acked hj ha)),
      fun r ha hr => hexec.trans (congrArg _ (State.remoteWrite_refused hj ha hr)), fun ha hr => ⟨fun t ht => ?_, fun ps hps => ⟨fun hin => ?_, fun c got hin => ?_⟩⟩⟩
    · exact ⟨_, hexec.trans (congrArg _ (State.remoteWrite_bad hj ha hr ht)), rfl, rfl, rfl, rfl, rfl⟩
    · rw [State.postParts_incoming] at hin
      exact hexec.trans (congrArg _ (State.remoteWrite_first hj ha hr hps hin))
    · rw [State.postParts_incoming] at hin
      exact hexec.trans (congrArg _ (State.remoteWrite_further hj ha hr hps hin))
  · intro job peer msg seq entropy len addr j s hb hj i
    have hexec : exec i s = .next (s.remoteRead job peer msg seq entropy addr len) := exec_packetArrival_readRequest hb hj
    exact ⟨fun t ht => hexec.trans (congrArg _ (State.remoteRead_bad hj ht)), fun ps hps => hexec.trans (congrArg _ (State.remoteRead_ok hj hps))⟩
  · intro msg seq count off job peer lid crew node len data got r j a ps s hb hj i m dst hout hnode hacc hlen
    have hexec : exec i s = .next (s.getData msg seq off data) := exec_packetArrival_readData hb hj hout
    exact ⟨fun t ht => hexec.trans (congrArg _ (State.getData_bad hout hnode hacc hlen ht)),
      fun hok hps => hexec.trans (congrArg _ (State.getData_ok hout hnode hacc hlen hok hps))⟩
  · intro n seq job peer port msg key data s hb
    exact ⟨fun ha => congrArg _ (packetArrival_taken hb ha), fun ha => congrArg _ (packetArrival_taken hb ha),
      fun ha => congrArg _ (packetArrival_taken hb ha), fun ha => ⟨_, congrArg Host.Outcome.next (packetArrival_taken hb ha), rfl⟩⟩
  · intro id key sender m s hm
    refine ⟨?_, ?_, ?_⟩
    · rintro job peer lid crew node len r rfl hr
      exact exec_messageAcknowledged_put hm hr
    · rintro job peer lid crew node len got r bs rfl hw hr hbs
      exact exec_messageAcknowledged_get hm hw hr hbs
    · rintro job peer count got rfl hall hw
      exact exec_messageAcknowledged_inbound hm hall hw
  · intro id key lid crew node m r cause addr s hm hof
    refine ⟨exec_packetNack_otherKey hm, fun hk => ⟨?_, fun hc hr => ?_⟩⟩
    · rintro job peer k port p rfl hp
      exact exec_packetNack_trimmed hm hk hp
    · exact (exec_packetNack_failed hm hk hc).trans (congrArg _ (State.failMessage_ofNode hof hr))
  · exact fun peer port s hp => ⟨exec_linkFailure_here hp, exec_linkFailure_peer hp⟩

end Sys2Proof.Machine
end


section
/-!
SUPPORT for O41 and O42. A step of a graph node (R280-R288): which of its actions it is, and the accesses of its data.
-/
namespace Sys2Proof.Machine

variable {s s2 : State} {lid crew id k n kind : Nat} {r : RunNode} {m : Node} {p q : Piece} {x : Nat × Nat × Nat} {part : Part} {t : Trap}

/-! ### The action of a step -/

theorem State.nodeStep_running {body : State → Nat → Nat → RunNode → Nat → State} (h : s.atNode lid crew n kind r) :
    s.nodeStep lid crew n kind k body = body s lid crew r k := by
  obtain ⟨hfind, hruns⟩ := h
  simp only [State.nodeStep, hfind, hruns, if_true]

theorem State.atNode_mem (h : s.atNode lid crew n kind r) : r ∈ (s.crewOf lid crew).graph.running := List.mem_of_find?_eq_some h.1

theorem State.atNode_names (h : s.atNode lid crew n kind r) : r.node.id = n ∧ nKind r.bytes = kind := by
  simpa using List.find?_some h.1

section Queued
variable {body : State → Nat → Nat → RunNode → Nat → State}
  (hrun : ((s.crewOf lid crew).graph.running.find? fun r => r.node.id == m.id && nKind r.bytes == kind) = none)
  (hq : (s.crewOf lid crew).graph.queued.find? (·.id == m.id) = some m) (hmay : s.mayStart lid crew m = true)
include hrun hq hmay

/-- Bytes of a queued node are left to be read: one part of them is. -/
theorem State.nodeStep_reads (hl : m.left ≠ []) : s.nodeStep lid crew m.id kind k body = s.readNode lid crew m k := by
  simp only [State.nodeStep, hrun, hq, hmay, hl, Bool.not_true, Bool.false_eq_true, if_false, ne_eq, not_false_eq_true, if_true]

/-- All of them are read: the node starts, under its kind. -/
theorem State.nodeStep_starts (hl : m.left = []) (hk : startKind m.bytes = kind) : s.nodeStep lid crew m.id kind k body = s.startNode lid crew m := by
  simp only [State.nodeStep, hrun, hq, hmay, hl, hk, Bool.not_true, Bool.false_eq_true, if_false, ne_eq, not_true_eq_false, if_true]

end Queued

/-- Each instruction of a node is a step under its kind. -/
theorem nodes_nodeStep : ∀ p ∈ [(Instr.copyNode, 1), (.xformNode, 2), (.checkNode, 3), (.launchNode, 4), (.signalNode, 5), (.putNode, 6), (.getNode, 7)],
    ∃ body, ∀ (lid crew : Nat) (part : NodePart) (s : State), exec (p.1 lid crew part) s = .next (s.nodeStep lid crew part.node p.2 part.k body) := by
  simp only [List.forall_mem_cons]
  exact ⟨⟨_, fun _ _ _ _ => rfl⟩, ⟨_, fun _ _ _ _ => rfl⟩, ⟨_, fun _ _ _ _ => rfl⟩, ⟨_, fun _ _ _ _ => rfl⟩, ⟨_, fun _ _ _ _ => rfl⟩,
    ⟨_, fun _ _ _ _ => rfl⟩, ⟨_, fun _ _ _ _ => rfl⟩, fun _ h => nomatch h⟩

/-! ### A queued node is read and starts (R286, R287) -/

theorem State.readNode_ok {o : Nat} (hacc : s.nodeAccess lid crew m.addr = none) (ho : m.left[k]? = some o)
    (hpart : s.enginePart (engineCx lid crew) false .load (m.addr.toNat + o) 16 = some part) (hp : s.poisoned part.place = false) :
    s.readNode lid crew m k = (s.noteRead part.place).modGraph lid crew fun g => { g with
      queued := g.queued.map fun x => if x.id = m.id then { x with got := x.got ++ [(o, (s.readPart part).1)] } else x } := by
  simp only [State.readNode, hacc, ho, hpart, State.readPart, hp, Bool.false_eq_true, if_false]

/-- Only a node of KIND 2 starts as an XFORM. -/
theorem startKind_eq_two (b : List Byte) : startKind b = 2 ↔ nKind b = 2 := by
  unfold startKind
  split
  · next h => simp only [Bool.or_eq_true, decide_eq_true_eq] at h; omega
  · exact Iff.rfl

theorem State.startNode_ok (h : s.nodeBad lid crew m m.bytes = none) : s.startNode lid crew m =
    (if startKind m.bytes = 2 ∧ xDkind m.bytes = 0 then s.freeDst lid crew m.bytes else s).modGraph lid crew fun g => { g with
      queued := g.queued.erase m
      running := g.running ++ [⟨m, m.bytes, 0, if dataKind (nKind m.bytes) then BitVec.ofNat 32 (nRun m.bytes) else 0, m.retried,
        nKind m.bytes == 5, 0, 0, none, none, none, 0, if startKind m.bytes = 2 then s.xformPlaces lid crew m.bytes else [], false⟩] } := by
  simp [State.startNode, h, startKind_eq_two]

theorem State.startNode_fails (h : s.nodeBad lid crew m m.bytes = some t) (hc : t.cause ≠ 0x11) :
    s.startNode lid crew m = (s.failQueued lid crew m m.bytes t).reportStranger lid m m.bytes t := by
  simp only [State.startNode, h, hc, if_false]

theorem State.startNode_error (h : s.nodeBad lid crew m m.bytes = some t) (hc : t.cause = 0x11) :
    s.startNode lid crew m = s.queuedError lid crew m m.bytes t := by
  simp only [State.startNode, h, hc, if_true]

/-! ### Accesses of a node's data (R216, R280, R345) -/

theorem State.pieceAct_src (hx : p.src[k]? = some x) : s.pieceAct lid crew r p k = s.readAct lid crew r p k x := by
  simp only [State.pieceAct, hx]

theorem State.pieceAct_dst (hs : p.src[k]? = none)
    (hx : (p.dst.filter fun x => decide (x.1 + x.2.2 ≤ (p.ready r.bytes).length))[k - p.src.length]? = some x) :
    s.pieceAct lid crew r p k = s.writeAct lid crew r p x := by
  simp only [State.pieceAct, hs, hx]

section Read
variable (hpart : s.nodePart lid crew (srcView r.bytes) .load x.2.1 x.2.2 = .ok (some part)) (hp : s.poisoned part.place = false)
include hpart hp

/-- A part of the source is read, and the units that it completes are staged without an error. -/
theorem State.readAct_staged (hk : nKind r.bytes ≠ 4)
    (hstage : State.stageUnits lid crew (p.len / 64 + 1) { p with src := p.src.eraseIdx k, got := p.got.writeBytes x.1 (s.readPart part).1 }
      (s.noteRead part.place) = (q, false, s2)) :
    s.readAct lid crew r p k x = s2.pieceNext lid crew r q := by
  simp only [State.readPart] at hstage
  simp only [State.readAct, hpart, State.readPart, hp, hk, hstage, Bool.false_eq_true, if_false]

/-- A part of a LAUNCH's record is read; nothing of it is staged. -/
theorem State.readAct_launch (hk : nKind r.bytes = 4) : s.readAct lid crew r p k x = (s.noteRead part.place).pieceNext lid crew r
    { p with src := p.src.eraseIdx k, got := p.got.writeBytes x.1 (s.readPart part).1 } := by
  simp only [State.readAct, hpart, State.readPart, hp, hk, Bool.false_eq_true, if_false, if_true]

end Read

/-- A part of the destination of a COPY is written. -/
theorem State.writeAct_data (hk : nKind r.bytes ≠ 2) (hpart : s.nodePart lid crew (dstView r.bytes) .store x.2.1 x.2.2 = .ok (some part))
    (hh : s.partHeld part = false) : s.writeAct lid crew r p x =
      (s.writePart lid crew part (p.out.drop x.1)).pieceNext lid crew r { p with dst := p.dst.erase x } := by
  simp only [State.writeAct, hpart, hh, hk, Piece.ready, Bool.false_eq_true, if_false]

theorem State.pieceNext_src (hs : p.src ≠ []) : s.pieceNext lid crew r p = s.setRunning lid crew { r with piece := some p } := by
  simp only [State.pieceNext, ne_eq, hs, not_false_eq_true, decide_true, Bool.true_or, if_true]

/-- A destination in memory has parts left. -/
theorem State.pieceNext_dst (hf : (nKind r.bytes == 2 && xDkind r.bytes != 0) = false) (hd : p.dst ≠ []) :
    s.pieceNext lid crew r p = s.setRunning lid crew { r with piece := some p } := by
  simp only [State.pieceNext, hf, ne_eq, hd, not_false_eq_true, decide_true, Bool.not_false, Bool.and_self, Bool.or_true, if_true]

/-! With its last part a piece is summed, sent, handed over, or converted, by the kind of its node. -/

theorem State.pieceNext_copy (hk : nKind r.bytes = 1) (hs : p.src = []) (hd : p.dst = []) :
    s.pieceNext lid crew r p = s.setRunning lid crew (r.advance p.len (checksum (nAlg r.bytes) r.out p.out)) := by
  simp [State.pieceNext, hs, hd, hk]

theorem State.pieceNext_xform (hk : nKind r.bytes = 2) (hs : p.src = []) (hd : xDkind r.bytes = 0 → p.dst = []) :
    s.pieceNext lid crew r p = s.endXform lid crew r p := by
  by_cases h0 : xDkind r.bytes = 0
  · simp [State.pieceNext, hs, hd h0, hk]
  · simp [State.pieceNext, hs, h0, hk]

theorem State.pieceNext_check (hk : nKind r.bytes = 3) (hs : p.src = []) (hd : p.dst = []) :
    s.pieceNext lid crew r p = s.setRunning lid crew (r.advance p.len (checksum (nAlg r.bytes) r.out (p.got.readBytes 0 p.len))) := by
  simp [State.pieceNext, hs, hd, hk]

theorem State.pieceNext_launch (hk : nKind r.bytes = 4) (hs : p.src = []) (hd : p.dst = []) :
    s.pieceNext lid crew r p = s.admitNode lid crew r (p.got.readBytes 0 p.len) := by
  simp [State.pieceNext, hs, hd, hk]

theorem State.pieceNext_put (hk : nKind r.bytes = 6) (hs : p.src = []) (hd : p.dst = []) : s.pieceNext lid crew r p = s.sendPut lid crew r p := by
  simp [State.pieceNext, hs, hd, hk]

/-- A running node that changes is in the graph as it is now. -/
theorem State.mem_setRunning (h : r ∈ (s.crewOf lid crew).graph.running) {u : RunNode} (hu : u.node.id = r.node.id) :
    u ∈ ((s.setRunning lid crew u).crewOf lid crew).graph.running := by
  rw [State.setRunning, State.modGraph, State.crewOf_modCrew_same]
  exact List.mem_map.mpr ⟨r, h, if_pos hu.symm⟩

end Sys2Proof.Machine
end

section
/-! SUPPORT for O41. Nodes of data, piece by piece (R280, R281, R363). -/
namespace Sys2Proof.Machine

variable {s : State} {lid crew n k kind : Nat} {r : RunNode} {p : Piece}

/-- A node of data does not fill a tile or slot. -/
theorem dataKind_inMemory {b : List Byte} (h : dataKind (nKind b) = true) : (nKind b == 2 && xDkind b != 0) = false := by
  have hk : nKind b ≠ 2 := fun e => by rw [e] at h; exact absurd h (by decide)
  rw [beq_eq_false_iff_ne.mpr hk, Bool.false_and]

/-- The nodes that a step moves on piece by piece. -/
theorem dataNodes_nodeStep : ∀ p ∈ [(Instr.copyNode, 1), (.checkNode, 3), (.putNode, 6)], (p.2 ≠ 2 ∧ p.2 ≠ 4) ∧
    ∀ (lid crew : Nat) (part : NodePart) (s : State), exec (p.1 lid crew part) s = .next (s.nodeStep lid crew part.node p.2 part.k State.dataBody) := by
  simp only [List.forall_mem_cons]
  exact ⟨⟨by decide, fun _ _ _ _ => rfl⟩, ⟨by decide, fun _ _ _ _ => rfl⟩, ⟨by decide, fun _ _ _ _ => rfl⟩, fun _ h => nomatch h⟩

theorem State.dataBody_piece (h : r.piece = some p) : s.dataBody lid crew r k = s.pieceAct lid crew r p k := by
  simp only [State.dataBody, h]

theorem State.dataBody_begins (hp : r.piece = none) (hs : r.span ≠ 0) (hm : r.msg = none) :
    s.dataBody lid crew r k = s.setRunning lid crew { r with piece := some (s.dataPiece r) } := by
  simp only [State.dataBody, hp, hs, hm, if_false, Option.isSome_none, Bool.false_eq_true]

theorem State.getBody_asks (hs : r.span ≠ 0) (hm : r.msg = none) : s.getBody lid crew r k =
    (({ s with nextMsg := s.nextMsg + 1, io := { s.io with messages := s.io.messages ++
        [.get s.nextMsg (s.launchOf lid).job (nPeer r.bytes) lid crew r.node.id r.span []] } } : State).sendTo (s.launchOf lid).job (nPeer r.bytes)
      (.getRequest s.nextMsg (r.prog / 4096) (Config.entropy r.node.addr.toNat (r.prog / 4096)) (BitVec.ofNat 64 (nSrc r.bytes + r.prog)) r.span)).setRunning
        lid crew { r with msg := some s.nextMsg } := by
  simp only [State.getBody, hs, hm, if_false, Option.isSome_none, Bool.false_eq_true]

/-- Settles O41: a node is read and starts, or goes on by an access of its piece. -/
theorem nodesRunPieceByPiece : Obligations.NodesRunPieceByPiece := by
  unfold Obligations.NodesRunPieceByPiece
  refine ⟨?_, ?_, ?_, ?_⟩
  · intro p hp lid crew k m s g hrun hq hmay
    obtain ⟨body, hexec⟩ := nodes_nodeStep p hp
    refine ⟨fun o part ho hacc hpart hpois => ?_, fun hl hk => ?_⟩
    · have hl : m.left ≠ [] := fun h => by simp [h] at ho
      exact (hexec ..).trans (congrArg _ ((State.nodeStep_reads hrun hq hmay hl).trans (State.readNode_ok hacc ho hpart hpois)))
    · have hstart : exec (p.1 lid crew ⟨m.id, k⟩) s = .next (s.startNode lid crew m) :=
        (hexec ..).trans (congrArg _ (State.nodeStep_starts hrun hq hmay hl hk))
      refine ⟨fun hok => ?_, fun t ht hc => ?_, fun t ht hc => ?_⟩
      · rw [← hk]
        exact hstart.trans (congrArg _ (State.startNode_ok hok))
      · exact hstart.trans (congrArg _ (State.startNode_fails ht hc))
      · exact hstart.trans (congrArg _ (State.startNode_error ht hc))
  · intro p hp lid crew n k r s hat
    obtain ⟨⟨h2, h4⟩, hexec⟩ := dataNodes_nodeStep p hp
    obtain ⟨-, hkind⟩ := State.atNode_names hat
    have hbody : exec (p.1 lid crew ⟨n, k⟩) s = .next (s.dataBody lid crew r k) := (hexec ..).trans (congrArg _ (State.nodeStep_running hat))
    refine ⟨fun hpc hs hm => ?_, fun pc q x part s2 hpc hx hpart hpois hstage => ?_, fun pc x part hcopy hpc hsrc hx hpart hh => ?_⟩
    · exact hbody.trans (congrArg _ (State.dataBody_begins hpc hs hm))
    · refine hbody.trans (congrArg _ ((State.dataBody_piece hpc).trans ((State.pieceAct_src hx).trans ?_)))
      exact State.readAct_staged hpart hpois (hkind ▸ h4) hstage
    · have hready : pc.ready r.bytes = pc.out := if_neg (hkind ▸ h2)
      refine hbody.trans (congrArg _ ((State.dataBody_piece hpc).trans ((State.pieceAct_dst hsrc (hready ▸ hx)).trans ?_)))
      exact State.writeAct_data (hkind ▸ h2) hpart hh
  · intro lid crew r p s hdata
    refine ⟨fun hleft => ?_, fun hs hd => ⟨fun hk => ?_, fun hk => ?_, fun hk => ?_⟩⟩
    · rcases hleft with hs | hd
      · exact State.pieceNext_src hs
      · exact State.pieceNext_dst (dataKind_inMemory hdata) hd
    · exact State.pieceNext_copy hk hs hd
    · exact State.pieceNext_check hk hs hd
    · rw [State.pieceNext_put hk hs hd]
      exact ⟨rfl, rfl, rfl, fun hr => State.mem_setRunning hr rfl⟩
  · intro lid crew n k r s hat hs hm e
    obtain ⟨hid, -⟩ := State.atNode_names hat
    refine ⟨_, congrArg Host.Outcome.next ((State.nodeStep_running hat).trans (State.getBody_asks hs hm)), rfl, ?_, rfl,
      State.mem_setRunning (State.atNode_mem hat) rfl⟩
    subst hid
    rfl

end Sys2Proof.Machine
end


section
/-! SUPPORT for O42. XFORM and LAUNCH nodes, the actions of a finish, the error record (R281-R288). -/
namespace Sys2Proof.Machine

variable {s : State} {lid crew n k : Nat} {r : RunNode} {p : Piece} {x : Nat × Nat × Nat} {part : Part} {e : Engine}

/-! ### An XFORM (R283) -/

theorem State.xformBody_tile (hd : xDkind r.bytes = 1) (hop : r.op = none) (he : s.engineFor lid crew = some e)
    (hdue : (e.tile (nDst r.bytes)).due (xTver r.bytes % 16) = true) :
    s.xformBody lid crew r k = s.acceptXform lid crew r (.xtile (nDst r.bytes)) := by
  simp only [State.xformBody, hd, hop, he, hdue, if_true]

theorem State.xformBody_slot (hd : xDkind r.bytes = 2) (hop : r.op = none) (he : s.engineFor lid crew = some e) :
    s.xformBody lid crew r k = s.acceptXform lid crew r (.xslot (nDst r.bytes) (xSfmt r.bytes)) := by
  simp only [State.xformBody, hd, hop, he]

/-- An XFORM that reads and writes now: one into memory, or one that the engine has accepted, in its turn. -/
def State.xformGoes (s : State) (lid crew : Nat) (r : RunNode) : Prop := (xDkind r.bytes = 0 ∨ r.op.isSome = true) ∧ s.xformTurn lid crew r = true

/-- Such an XFORM is not accepted in this step, and its turn has come. -/
theorem State.xformBody_goes (h : s.xformGoes lid crew r) :
    s.xformBody lid crew r k = (r.piece.map fun p => s.pieceAct lid crew r p k).getD (s.xformPiece lid crew r) := by
  obtain ⟨hop, hturn⟩ := h
  have hgo : ∀ u : State, (if (!s.xformTurn lid crew r) = true then s else u) = u := fun _ => if_neg (by simp [hturn])
  simp only [State.xformBody, hgo]
  split
  · simp_all
  · simp_all
  · cases r.piece <;> rfl

theorem State.xformBody_begins (h : s.xformGoes lid crew r) (hp : r.piece = none) : s.xformBody lid crew r k = s.xformPiece lid crew r := by
  rw [State.xformBody_goes h, hp]
  rfl

theorem State.xformBody_piece (h : s.xformGoes lid crew r) (hp : r.piece = some p) : s.xformBody lid crew r k = s.pieceAct lid crew r p k := by
  rw [State.xformBody_goes h, hp]
  rfl

/-- A part of the destination of an XFORM in memory is left undefined; the last one only where no page of it is under write-back. -/
theorem State.writeAct_xform (hk : nKind r.bytes = 2) (hpart : s.nodePart lid crew (dstView r.bytes) .store x.2.1 x.2.2 = .ok (some part))
    (hh : s.partHeld part = false) (hlast : p.dst.erase x ≠ [] ∨ s.dstHeld lid crew r.bytes = false) :
    s.writeAct lid crew r p x = (s.freePart part).pieceNext lid crew r { p with dst := p.dst.erase x } := by
  have hfree : (decide (p.dst.erase x = []) && s.dstHeld lid crew r.bytes) = false := by
    rcases hlast with h | h <;> simp [h]
  simp only [State.writeAct, hpart, hh, hk, hfree, Bool.false_eq_true, if_false, if_true]

/-- What the last part of an XFORM's source has come to be, or what it still waits for. -/
theorem State.pieceNext_xform_cases (hk : nKind r.bytes = 2) : s.pieceNext lid crew r p =
    if p.src ≠ [] ∨ (xDkind r.bytes = 0 ∧ p.dst ≠ []) then s.setRunning lid crew { r with piece := some p } else s.endXform lid crew r p := by
  split
  · next h =>
    rcases h with hs | ⟨h0, hd⟩
    · exact State.pieceNext_src hs
    · exact State.pieceNext_dst (by simp [h0]) hd
  · next h =>
    simp only [not_or, not_and, not_not] at h
    exact State.pieceNext_xform hk h.1 h.2

theorem State.endXform_memory (h : xDkind r.bytes = 0) : s.endXform lid crew r p =
    (if r.changed then ({ s with freeCtr := s.freeCtr + 1 } : State).freeDst lid crew r.bytes
      else ({ s with freeCtr := s.freeCtr + 1 } : State).fillDst lid crew r.bytes (xformRows r.bytes p.out)).setRunning lid crew
        { r with done := true, piece := none, op := none } := by
  simp only [State.endXform, h]

theorem State.endXform_engine {op : Nat} (h : xDkind r.bytes ≠ 0) (hop : r.op = some op) : s.endXform lid crew r p =
    (({ s with freeCtr := s.freeCtr + 1 } : State).fillXform lid crew r.bytes op (if r.changed then freeList s.freeCtr p.len else p.out)).setRunning lid crew
      { r with done := true, piece := none, op := none } := by
  simp only [State.endXform, hop]

/-! ### A LAUNCH (R284) -/

theorem State.launchBody_begins (hp : r.piece = none) : s.launchBody lid crew r k =
    s.setRunning lid crew { r with piece := some ⟨128, partsOf (nSrc r.bytes) 128, [], [], []⟩ } := by
  simp only [State.launchBody, hp]

theorem State.launchBody_piece (hp : r.piece = some p) : s.launchBody lid crew r k = s.pieceAct lid crew r p k := by
  simp only [State.launchBody, hp]

section Admit
variable {j : Job} {b : List Byte} (hj : s.job? (s.launchOf lid).job = some j)
include hj

theorem State.admitNode_taken {s2 : State} {m : Nat} (h : (s.tablesSeen j b).takeLaunch j b 0 (some (nSrc r.bytes)) 0 true = .ok (s2, m)) :
    s.admitNode lid crew r b = s2.setRunning lid crew { r with done := true, piece := none } := by
  simp only [State.admitNode, hj, h]

theorem State.admitNode_refused {why : Nat} (h : (s.tablesSeen j b).takeLaunch j b 0 (some (nSrc r.bytes)) 0 true = .error why) :
    s.admitNode lid crew r b = (s.tablesSeen j b).setRunning lid crew { r with done := true, code := 3, detail := BitVec.ofNat 32 why, piece := none } := by
  simp only [State.admitNode, hj, h]

end Admit

/-! ### The finish (R286, R287) -/

/-- The node after an action of its finish: the next one stands, or it leaves the queue. -/
def State.afterAct (s : State) (lid crew n : Nat) (r : RunNode) : State :=
  if r.lastAct ≤ r.fin then (s.setRunning lid crew { r with fin := r.fin + 1 }).dropRunning lid crew n
  else s.setRunning lid crew { r with fin := r.fin + 1 }

section Finish
variable (hfind : ((s.crewOf lid crew).graph.running.find? fun r => r.node.id == n && s.finishFree lid crew r) = some r)
include hfind

theorem execNodeFinish_bad {t : Trap} (h : s.finishBad lid crew r = some t) : exec (.nodeFinish lid crew n) s = .next (s.failRunning lid crew r t) := by
  simp only [exec, execNodeFinish, hfind, h]

theorem execNodeFinish_act (h : s.finishBad lid crew r = none) :
    exec (.nodeFinish lid crew n) s = .next ((s.finishAct lid crew r).afterAct lid crew n r) := by
  simp only [exec, execNodeFinish, hfind, h]
  rfl

end Finish

theorem State.finishAct_prog (h : r.fin = 0) : s.finishAct lid crew r = if dataKind (nKind r.bytes)
    then s.graphWrite lid crew (r.node.addr + 0x3C) (bytesLE 4 (nLen r.bytes)) else s := by
  simp only [State.finishAct, h, if_true]

theorem State.finishAct_run {a : Word} (h : 1 ≤ r.fin) (ha : (nSuccs r.bytes r.node.addr)[r.fin - 1]? = some a) :
    s.finishAct lid crew r = s.passRun lid crew r a := by
  have hlt : r.fin - 1 < (nSuccs r.bytes r.node.addr).length := (List.getElem?_eq_some_iff.mp ha).1
  simp only [State.finishAct, show r.fin ≠ 0 by omega, show r.fin ≤ (nSuccs r.bytes r.node.addr).length by omega, ha, if_false, if_true, Option.map_some,
    Option.getD_some]

theorem State.finishAct_signal (h : r.fin = (nSuccs r.bytes r.node.addr).length + 1) : s.finishAct lid crew r = if nDone r.bytes = 0 then s
    else s.graphSignal lid crew (BitVec.ofNat 64 (nDone r.bytes)) (statusWord r.status.1 0 (nKind r.bytes) r.status.2) := by
  have h0 : r.fin ≠ 0 := by omega
  have hlt : ¬ r.fin ≤ (nSuccs r.bytes r.node.addr).length := by omega
  unfold State.finishAct
  exact (if_neg h0).trans ((if_neg hlt).trans (if_pos h))

theorem State.finishAct_count {a : Word} (h : (nSuccs r.bytes r.node.addr).length + 2 ≤ r.fin)
    (ha : (nSuccs r.bytes r.node.addr)[r.fin - (nSuccs r.bytes r.node.addr).length - 2]? = some a) :
    s.finishAct lid crew r = s.countDown lid crew r.node a := by
  simp only [State.finishAct, show r.fin ≠ 0 by omega, show ¬ r.fin ≤ (nSuccs r.bytes r.node.addr).length by omega,
    show r.fin ≠ (nSuccs r.bytes r.node.addr).length + 1 by omega, ha, if_false, Option.map_some, Option.getD_some]

theorem execErrorAreaWrite_due {f : Failure} (hf : (s.crewOf lid crew).graph.failures.find? (·.waits == []) = some f)
    (hb : s.graphBound lid crew = true) (hh : s.graphHeld lid crew f.node.err 64 = false) : exec (.errorAreaWrite lid crew) s =
    .next (((s.graphWrite lid crew (f.node.err + 0x10)
      (bytesLE 8 f.node.addr.toNat ++ bytesLE 8 f.addr.toNat ++ bytesLE 4 f.discarded.toNat ++ bytesLE 1 f.cause ++ bytesLE 1 f.kind
        ++ List.replicate 26 0)).graphSignal lid crew f.node.err (statusWord 1 f.cause f.kind 0)).modGraph lid crew fun g =>
          { g with failures := g.failures.erase f }) := by
  simp only [exec, execErrorAreaWrite, Graph.recordDue, hf, hb, hh, Bool.not_true, Bool.or_self, Bool.false_eq_true, if_false]

/-- Settles O42: each node by the action that its step takes, each finish by its next action. -/
theorem nodesFinish : Obligations.NodesFinish := by
  unfold Obligations.NodesFinish
  refine ⟨?_, ?_, ?_, ?_, ?_, fun lid crew f s hf hb hh => execErrorAreaWrite_due hf hb hh⟩
  · intro lid crew n k r s hat b turn
    obtain ⟨-, hkind⟩ := State.atNode_names hat
    have hbody : exec (.xformNode lid crew ⟨n, k⟩) s = .next (s.xformBody lid crew r k) := congrArg _ (State.nodeStep_running hat)
    refine ⟨fun e hd hop he hdue => ?_, fun e hd hop he => ?_, fun ht hp => ?_, fun pc q x part s2 ht hp hx hpart hpois hstage => ?_, ?_⟩
    · exact hbody.trans (congrArg _ (State.xformBody_tile hd hop he hdue))
    · exact hbody.trans (congrArg _ (State.xformBody_slot hd hop he))
    · exact hbody.trans (congrArg _ (State.xformBody_begins ht hp))
    · refine hbody.trans (congrArg _ ((State.xformBody_piece ht hp).trans ((State.pieceAct_src hx).trans ?_)))
      exact (State.readAct_staged hpart hpois (by omega) hstage).trans (State.pieceNext_xform_cases hkind)
    · intro pc x part ht h0 hp hs hlen hx hpart hh q hlast
      have hready : pc.ready r.bytes = xformRows r.bytes pc.out := by simp [Piece.ready, hkind, hs, hlen]
      refine hbody.trans (congrArg _ ((State.xformBody_piece ht hp).trans ((State.pieceAct_dst (by simp [hs]) ?_).trans
        ((State.writeAct_xform hkind hpart hh hlast).trans ((State.pieceNext_xform_cases hkind).trans ?_)))))
      · simpa [hready, hs] using hx
      · simp [hs, b, h0, q]
  · exact fun lid crew r p s => ⟨State.endXform_memory, fun op => State.endXform_engine⟩
  · intro lid crew n k r s hat
    obtain ⟨-, hkind⟩ := State.atNode_names hat
    have hbody : exec (.launchNode lid crew ⟨n, k⟩) s = .next (s.launchBody lid crew r k) := congrArg _ (State.nodeStep_running hat)
    refine ⟨fun hp => hbody.trans (congrArg _ (State.launchBody_begins hp)), ?_⟩
    intro pc x part j hp hd hx hpart hpois s1 q
    have hread : exec (.launchNode lid crew ⟨n, k⟩) s = .next (s1.pieceNext lid crew r q) :=
      hbody.trans (congrArg _ ((State.launchBody_piece hp).trans ((State.pieceAct_src hx).trans (State.readAct_launch hpart hpois hkind))))
    refine ⟨fun hs => hread.trans (congrArg _ (State.pieceNext_src hs)), ?_⟩
    intro hs hj rec_ s3
    have hadmit : exec (.launchNode lid crew ⟨n, k⟩) s = .next (s1.admitNode lid crew r rec_) :=
      hread.trans (congrArg _ (State.pieceNext_launch hkind hs hd))
    exact ⟨fun s2 m h => hadmit.trans (congrArg _ (State.admitNode_taken hj h)), fun why h => hadmit.trans (congrArg _ (State.admitNode_refused hj h))⟩
  · exact fun lid crew n k r s hat => congrArg _ (State.nodeStep_running hat)
  · intro lid crew n r s hfind succs after
    refine ⟨fun t => execNodeFinish_bad hfind, fun hok => ?_⟩
    have hact : ∀ st, s.finishAct lid crew r = st → exec (.nodeFinish lid crew n) s = .next (after st) := fun st h => h ▸ execNodeFinish_act hfind hok
    exact ⟨fun h => hact _ (State.finishAct_prog h), fun a h ha => hact _ (State.finishAct_run h ha), fun h => hact _ (State.finishAct_signal h),
      fun a h ha => hact _ (State.finishAct_count h ha)⟩

end Sys2Proof.Machine
end


section
/-! SUPPORT for O49. System calls that Driene serves (R309, R368, R369): how a call is served, what its answer leaves, and the outcomes of the file calls. -/
namespace Sys2Proof.Machine

variable {s s1 : State} {q num lane : Nat} {c : Call} {f : Call → State → CallOutcome} {cmd : Call → State → Option Nvme} {v : Word}

/-! ### How a call is served -/

section Serve
variable (hc : s.call? q = some c) (hn : c.num = some num) (hm : s.mayServe c = true)
include hm

/-- A call that Driene may serve meets none of the reasons to leave it waiting. -/
theorem State.mayServe_iff : s.pendingFor c.sq.ref c.lane = false ∧ ((s.launchOf c.sq.lid).status == .running) = true ∧
    inRanges (s.launchOf c.sq.lid).killing c.sq.crew = false := by
  simpa only [State.mayServe, Bool.and_eq_true, Bool.not_eq_true', and_assoc] using hm

include hc hn

theorem State.serve_answers (hf : f c s = some (s1, v)) : s.serve q num f = s1.answerCall q c.lane v := by
  obtain ⟨hp, hl, hk⟩ := State.mayServe_iff hm
  simp [State.serve, hc, hn, hp, bne, hl, hk, hf]

theorem State.serve_waits (hf : f c s = none) : s.serve q num f = s := by
  obtain ⟨hp, hl, hk⟩ := State.mayServe_iff hm
  simp [State.serve, hc, hn, hp, bne, hl, hk, hf]

/-- The call goes to the storage port: its command, where it has one now. -/
theorem State.serveByPort_port (hu : s.storageUp = true) (hf : f c s = none) :
    s.serveByPort q num f cmd = ((cmd c s).map fun x => (s.commandSeen c x).command x).getD s := by
  obtain ⟨hp, hl, hk⟩ := State.mayServe_iff hm
  simp only [State.serveByPort, hc, hn, hp, hl, hk, hu, hf, Option.isNone_none, decide_true, Bool.not_false, Bool.and_self, if_true]
  cases cmd c s <;> rfl

end Serve

/-- The call ends at once, or no device can be used. -/
theorem State.serveByPort_serve (hc : s.call? q = some c) (h : s.storageUp = false ∨ (f c s).isNone = false) : s.serveByPort q num f cmd = s.serve q num (needsFlash f) := by
  simp only [State.serveByPort, hc]
  refine if_neg ?_
  rcases h with h | h <;> simp [h]

theorem needsFlash_up (hu : s.storageUp = true) : needsFlash f c s = f c s := if_pos hu

theorem needsFlash_down (hu : s.storageUp = false) : needsFlash f c s = if s.storageStarting then none else some (s, errno 5) := by
  simp only [needsFlash, hu, Bool.false_eq_true, if_false]

theorem calls_serve : ∀ p ∈ [(Instr.fileClose, 0x02, closeCall), (.fileSize, 0x06, sizeCall), (.sockConnect, 0x10, connectCall), (.sockListen, 0x11, listenCall),
    (.sockSend, 0x12, sendCall), (.sockRecv, 0x13, recvCall), (.sockShutdown, 0x14, shutdownCall)],
    ∀ (q : Nat) (s : State), exec (p.1 q) s = .next (s.serve q p.2.1 p.2.2) := by
  simp only [List.forall_mem_cons]
  exact ⟨fun _ _ => rfl, fun _ _ => rfl, fun _ _ => rfl, fun _ _ => rfl, fun _ _ => rfl, fun _ _ => rfl, fun _ _ => rfl, fun _ h => nomatch h⟩

theorem portCalls_serveByPort : ∀ p ∈ [(Instr.fileRead, 0x03, readCall, readCommand), (.fileWrite, 0x04, writeCall, writeCommand),
    (.fileFlush, 0x05, flushCall, flushCommand)], ∀ (q : Nat) (s : State), exec (p.1 q) s = .next (s.serveByPort q p.2.1 p.2.2.1 p.2.2.2) := by
  simp only [List.forall_mem_cons]
  exact ⟨fun _ _ => rfl, fun _ _ => rfl, fun _ _ => rfl, fun _ h => nomatch h⟩

/-- A call that needs flash is served as one where it ends at once, or no device can be used. -/
theorem flashCalls_serve : ∀ p ∈ [(Instr.fileOpen, 0x01, openCall), (.fileRead, 0x03, readCall), (.fileWrite, 0x04, writeCall), (.fileFlush, 0x05, flushCall)],
    ∀ (q : Nat) (c : Call) (s : State), s.call? q = some c → c.num = some p.2.1 → s.mayServe c = true →
      s.storageUp = false ∨ (p.2.2 c s).isNone = false → exec (p.1 q) s = .next (s.serve q p.2.1 (needsFlash p.2.2)) := by
  simp only [List.forall_mem_cons]
  exact ⟨fun _ _ _ _ _ _ _ => rfl, fun _ _ _ hc _ _ h => congrArg _ (State.serveByPort_serve hc h),
    fun _ _ _ hc _ _ h => congrArg _ (State.serveByPort_serve hc h), fun _ _ _ hc _ _ h => congrArg _ (State.serveByPort_serve hc h),
    fun _ h => nomatch h⟩

/-! ### Reading a buffer changes nothing but what is known of flips (R345) -/

theorem State.noteRead_frame (p : Place) : s.noteRead p = { s with mem := (s.noteRead p).mem } := by
  unfold State.noteRead
  split <;> rfl

theorem State.readParts_frame (ps : List Part) : (s.readParts ps).2.2 = { s with mem := (s.readParts ps).2.2.mem } := by
  induction ps generalizing s with
  | nil => rfl
  | cons p ps ih =>
    have h1 : (s.noteRead p.place) = { s with mem := (s.noteRead p.place).mem } := State.noteRead_frame p.place
    have h2 := ih (s := s.noteRead p.place)
    rw [h1] at h2
    simp only [State.readParts, State.readPart]
    rw [h1, h2]

theorem State.bufferSeen_frame (c : Call) (a n : Nat) : s.bufferSeen c a n = { s with mem := (s.bufferSeen c a n).mem } := by
  simp only [State.bufferSeen, State.graphSeen]
  split
  · exact State.readParts_frame _
  · rfl

@[simp] theorem State.bufferSeen_io (c : Call) (a n : Nat) : (s.bufferSeen c a n).io = s.io := by rw [State.bufferSeen_frame]

/-- A command given to the port is the last of those under way; what it has read of a buffer changes no squad and no byte of memory. -/
theorem State.commandSeen_io (c : Call) (x : Nvme) : (s.commandSeen c x).io = s.io ∧ (s.commandSeen c x).squads = s.squads ∧
    (s.commandSeen c x).mem.dram = s.mem.dram := by
  cases x with
  | write path off data r l h =>
    have hframe := State.bufferSeen_frame (s := s) c (c.arg 2) (c.arg 3)
    exact ⟨(congrArg State.io hframe :), (congrArg State.squads hframe :), State.graphSeen_dram ..⟩
  | _ => exact ⟨rfl, rfl, rfl⟩

/-! ### The answer (R309) -/

/-- A squad's status is not its threads'. -/
theorem State.thread_setStatus (p l : Nat) (x : SquadStatus) : (s.modSquad q fun sq => { sq with status := x }).thread p l = s.thread p l := by
  simp only [State.thread, State.squad, State.squad?_modSquad]
  split
  · next e =>
    subst e
    cases s.squad? p <;> rfl
  · rfl

theorem State.status_setStatus (x : SquadStatus) (h : (s.squad? q).isSome = true) : ((s.modSquad q fun sq => { sq with status := x }).squad q).status = x := by
  obtain ⟨sq, hsq⟩ := Option.isSome_iff_exists.mp h
  rw [State.modSquad_some s q _ hsq, State.squad_setSquad_same]

/-- The lane's result stands in its g0. -/
def State.withResult (s : State) (q lane : Nat) (v : Word) : State := s.modThread q lane fun t => { t with regs := SMap.set Reg.zero t.regs 0 ⟨v, .i64⟩ }

theorem State.withResult_isSome : ((s.withResult q lane v).squad? q).isSome = (s.squad? q).isSome := State.setThread_isSome ..

theorem State.withResult_thread (h : (s.squad? q).isSome = true) :
    SMap.get Reg.zero ((s.withResult q lane v).thread q lane).regs 0 = ⟨v, .i64⟩ ∧ ((s.withResult q lane v).thread q lane).pc = (s.thread q lane).pc := by
  rw [State.withResult, State.modThread, State.thread_setThread_same _ _ _ _ h]
  exact ⟨SMap.get_set_same .., rfl⟩

section Answer
variable {ls : BitVec 32} {sq : Squad} (hsq : s.squad? q = some sq) (hst : sq.status = .serving ls)
include hsq hst

theorem State.answerCall_more (hrest : ls &&& ~~~(1#32 <<< lane) ≠ 0) :
    s.answerCall q lane v = (s.withResult q lane v).modSquad q fun x => { x with status := .serving (ls &&& ~~~(1#32 <<< lane)) } := by
  simp only [State.answerCall, hsq, hst]
  exact if_pos hrest

/-- With the last answer every lane of the trap goes on after its SYSCALL. -/
theorem State.answerCall_last (hrest : ls &&& ~~~(1#32 <<< lane) = 0) (hstep : sq.tcause.getLsbD 9 = false) :
    s.answerCall q lane v = ((s.withResult q lane v).setThreads q (lanesOf (sq.tlanes.truncate 32)) fun l =>
      ((s.withResult q lane v).thread q l).past sq.tepc syscallWord).resume q := by
  rw [← State.foldl_modThread _ _ _ (fun _ t => t.past sq.tepc syscallWord) _ (lanesOf_nodup _) fun _ _ => rfl]
  simp only [State.answerCall, hsq, hst]
  refine (if_neg (not_not_intro hrest)).trans (if_neg ?_)
  rw [hstep]
  exact Bool.false_ne_true

end Answer

/-- A lane's g0 is what it was where threads are resumed past their SYSCALL. -/
theorem State.setThreads_past_regs (ls : List Nat) (nd : ls.Nodup) (epc : Word) (word : BitVec 32) (l : Nat) (h : (s.squad? q).isSome = true) :
    ((s.setThreads q ls fun l => (s.thread q l).past epc word).thread q l).regs = (s.thread q l).regs := by
  by_cases hl : l ∈ ls
  · rw [State.thread_setThreads_in _ _ _ _ nd h hl]
    rfl
  · rw [State.thread_setThreads_out _ _ _ _ (.inr hl)]

/-! ### Handles and files (R368) -/

/-- Only a launch that stands has handles. -/
theorem State.handle?_launch {n : Nat} {h : Handle} (hh : s.handle? c n = some h) : (s.launch? c.sq.lid).isSome = true := by
  by_contra hnone
  rw [Bool.not_eq_true, Option.isSome_eq_false_iff, Option.isNone_iff_eq_none] at hnone
  simp [State.handle?, State.launchOf, hnone] at hh

theorem State.handles_setHandle {lid : Nat} (hl : (s.launch? lid).isSome = true) (n : Nat) (h : Option Handle) :
    ((s.modLaunch lid fun l => { l with handles := SMap.set none l.handles n h }).launchOf lid).handles = SMap.set none (s.launchOf lid).handles n h := by
  rw [State.launchOf_modLaunch hl]

theorem State.handle?_newHandle {h : Handle} (hl : (s.launch? c.sq.lid).isSome = true) : (s.newHandle c h).1.handle? c s.nextHandle = some h :=
  (congrArg (SMap.get none · s.nextHandle) (State.handles_setHandle (s := { s with nextHandle := s.nextHandle + 1 }) hl s.nextHandle (some h))).trans
    (SMap.get_set_same ..)

theorem State.nextHandle_newHandle {h : Handle} : (s.newHandle c h).1.nextHandle = s.nextHandle + 1 := State.modLaunch_nextHandle ..

theorem State.newHandle_io (h : Handle) : (s.newHandle c h).1.io = s.io := by simp [State.newHandle]

theorem State.handle?_dropHandle {n m : Nat} (hl : (s.launch? c.sq.lid).isSome = true) :
    (s.dropHandle c n).handle? c m = if m = n then none else s.handle? c m :=
  (congrArg (SMap.get none · m) (State.handles_setHandle hl n none)).trans (SMap.get_set ..)

/-- A file that an OPEN finds or may make. -/
theorem not_missing {o : Option File} {b : Bool} (h : o ≠ none ∨ b = true) : (o.isNone && !b) = false := by
  rcases h with h | h
  · rw [Option.isNone_eq_false_iff.mpr (Option.isSome_iff_ne_none.mpr h), Bool.false_and]
  · rw [h, Bool.not_true, Bool.and_false]

/-- The file that an OPEN makes where there is none. -/
def State.makeFile (s : State) (path : List Byte) : State :=
  if s.file? path = none then { s with io := { s.io with files := s.io.files ++ [⟨path, []⟩] } } else s

theorem State.makeFile_files (path : List Byte) : (s.makeFile path).io.files = if s.file? path = none then s.io.files ++ [⟨path, []⟩] else s.io.files := by
  unfold State.makeFile
  split <;> rfl

theorem State.makeFile_nextHandle (path : List Byte) : (s.makeFile path).nextHandle = s.nextHandle := by
  unfold State.makeFile
  split <;> rfl

theorem State.makeFile_launch? (path : List Byte) (lid : Nat) : (s.makeFile path).launch? lid = s.launch? lid := by
  unfold State.makeFile
  split <;> rfl

section Open
variable {path : List Byte} (hn : c.arg 2 ≤ 255) (hf : c.arg 3 < 8)

theorem openCall_badFlags (h : 255 < c.arg 2 ∨ 8 ≤ c.arg 3) : openCall c s = some (s, errno 1) := by
  simp only [openCall]
  refine if_pos ?_
  simpa using h

include hn hf

theorem openCall_badBuffer (hb : s.bufferOk c .load (c.arg 1) (c.arg 2) = false) : openCall c s = some (s, errno 14) := by
  simp [openCall, Nat.not_lt.mpr hn, Nat.not_le.mpr hf, hb]

variable (hb : s.bufferOk c .load (c.arg 1) (c.arg 2) = true) (hs1 : s.bufferSeen c (c.arg 1) (c.arg 2) = s1)
  (hpath : s.readBuffer c (c.arg 1) (c.arg 2) = path)
include hb hs1 hpath

theorem openCall_noFile (hfile : s1.file? path = none) (hmake : (c.arg 3).testBit 2 = false) : openCall c s = some (s1, errno 2) := by
  simp [openCall, Nat.not_lt.mpr hn, Nat.not_le.mpr hf, hb, hs1, hpath, hfile, hmake]

theorem openCall_mapped (hfile : s1.file? path ≠ none ∨ (c.arg 3).testBit 2 = true) (hw : (c.arg 3).testBit 1 = true) (hmapped : s1.mapped path = true) :
    openCall c s = some (s1, errno 16) := by
  simp only [openCall, Nat.not_lt.mpr hn, Nat.not_le.mpr hf, hb, hs1, hpath, not_missing hfile, hw, hmapped, decide_false, Bool.or_self, Bool.not_true,
    Bool.false_eq_true, if_false, Bool.and_self, if_true]

/-- An OPEN that succeeds makes the file where there is none, and then the handle. -/
theorem openCall_opens (hfile : s1.file? path ≠ none ∨ (c.arg 3).testBit 2 = true) (hw : (c.arg 3).testBit 1 = false ∨ s1.mapped path = false) :
    openCall c s = some ((s1.makeFile path).newHandle c (.file path ((c.arg 3).testBit 0) ((c.arg 3).testBit 1))) := by
  have hfree : ((c.arg 3).testBit 1 && s1.mapped path) = false := by rcases hw with h | h <;> simp [h]
  simp only [openCall, Nat.not_lt.mpr hn, Nat.not_le.mpr hf, hb, hs1, hpath, not_missing hfile, hfree, decide_false, Bool.or_self, Bool.not_true, Bool.false_eq_true,
    if_false, State.makeFile]
  cases s1.file? path <;> rfl

end Open

section File
variable {path : List Byte} {rd wr : Bool} (hh : s.handle? c (c.arg 1) = some (.file path rd wr))
include hh

theorem closeCall_file : closeCall c s = some (s.dropHandle c (c.arg 1), 0) := by simp only [closeCall, hh]

theorem sizeCall_file : sizeCall c s = some (s, match s.file? path with
    | some f => BitVec.ofNat 64 f.data.length
    | none => errno 2) := by
  simp only [sizeCall, hh]
  cases s.file? path <;> rfl

theorem flushCall_file : flushCall c s = none := by simp only [flushCall, hh]

theorem readCommand_file {f : File} (hf : s.file? path = some f) : readCommand c s =
    some (.read path (c.arg 4) (min (c.arg 3) (f.data.length - c.arg 4)) (BitVec.ofNat 64 (c.arg 2)) c.sq.ref c.lane (c.arg 1)) := by
  simp only [readCommand, hh, hf, Option.map_some]

theorem writeCommand_file {f : File} (hf : s.file? path = some f) : writeCommand c s = some (if f.data.length < c.arg 4
    then .zeroes path (c.arg 4) c.sq.ref c.lane (c.arg 1) else .write path (c.arg 4) (s.readBuffer c (c.arg 2) (c.arg 3)) c.sq.ref c.lane (c.arg 1)) := by
  simp only [writeCommand, hh, hf, Option.any_some, decide_eq_true_eq]
  split <;> rfl

end File

/-- The file calls of a handle that is not a file's. -/
theorem fileCalls_noFile (h : ∀ path rd wr, s.handle? c (c.arg 1) ≠ some (.file path rd wr)) :
    closeCall c s = some (s, errno 9) ∧ sizeCall c s = some (s, errno 9) ∧ flushCall c s = some (s, errno 9) ∧
    readCall c s = some (s, errno 9) ∧ writeCall c s = some (s, errno 9) := by
  cases hh : s.handle? c (c.arg 1) with
  | none => simp only [closeCall, sizeCall, flushCall, readCall, writeCall, hh, and_self]
  | some x =>
    cases x with
    | file path rd wr => exact absurd hh (h path rd wr)
    | sock n => simp only [closeCall, sizeCall, flushCall, readCall, writeCall, hh, and_self]

/-- Settles O49: how a call is served, its answer, and the file calls one by one. -/
theorem systemCallsComplete : Obligations.SystemCallsComplete := by
  unfold Obligations.SystemCallsComplete
  refine ⟨?_, ?_, ?_, ?_, ?_, ?_, ?_, fun c s h => fileCalls_noFile h⟩
  · intro p hp q c s hc hn hm
    exact ⟨fun s1 v hf => (calls_serve p hp q s).trans (congrArg _ (State.serve_answers hc hn hm hf)),
      fun hf => (calls_serve p hp q s).trans (congrArg _ (State.serve_waits hc hn hm hf))⟩
  · intro p hp q c s hc hn hm
    refine ⟨fun s1 v hu hf => ?_, fun hu => ?_⟩
    · refine (flashCalls_serve p hp q c s hc hn hm (.inr (by rw [hf]; rfl))).trans (congrArg _ ?_)
      exact State.serve_answers hc hn hm ((needsFlash_up hu).trans hf)
    · refine (flashCalls_serve p hp q c s hc hn hm (.inl hu)).trans (congrArg _ ?_)
      cases hst : s.storageStarting with
      | true => exact State.serve_waits hc hn hm ((needsFlash_down hu).trans (if_pos hst))
      | false => exact State.serve_answers hc hn hm ((needsFlash_down hu).trans (if_neg (by simp [hst])))
  · intro p hp q c s hc hn hm hu hf
    have hexec := (portCalls_serveByPort p hp q s).trans (congrArg _ (State.serveByPort_port (cmd := p.2.2.2) hc hn hm hu hf))
    refine ⟨fun x hx => ?_, fun hx => by rw [hexec, hx]; rfl⟩
    obtain ⟨hio, hsq, hdram⟩ := State.commandSeen_io (s := s) c x
    rw [hx] at hexec
    exact ⟨_, hexec, congrArg (fun io => { io with nvme := io.nvme ++ [x] }) hio, hsq, hdram⟩
  · intro q lane v ls sq s hsq hst hrest t
    have hsome : (s.squad? q).isSome = true := by rw [hsq]; rfl
    obtain ⟨hreg, hpc⟩ := State.withResult_thread (lane := lane) (v := v) hsome
    have ht : t = _ := State.answerCall_more hsq hst hrest
    rw [ht, State.status_setStatus _ (by rw [State.withResult_isSome, hsome]), State.thread_setStatus]
    exact ⟨rfl, hreg, hpc⟩
  · intro q lane v ls sq s hsq hst hrest hstep t
    have hsome : ((s.withResult q lane v).squad? q).isSome = true := by rw [State.withResult_isSome, hsq]; rfl
    have ht : t = _ := State.answerCall_last hsq hst hrest hstep
    rw [ht, State.resume]
    refine ⟨State.status_setStatus _ (by rw [State.setThreads_isSome, hsome]), ?_, fun l hl => ?_⟩
    · rw [State.thread_setStatus, State.setThreads_past_regs _ (lanesOf_nodup _) _ _ _ hsome]
      exact (State.withResult_thread (by rw [hsq]; rfl)).1
    · rw [State.thread_setStatus, State.thread_setThreads_in _ _ _ _ (lanesOf_nodup _) hsome hl]
      rfl
  · intro c s n flags path s1
    refine ⟨openCall_badFlags, fun hn hf => openCall_badBuffer hn hf, fun hn hf hb => ⟨openCall_noFile hn hf hb rfl rfl, openCall_mapped hn hf hb rfl rfl, ?_⟩⟩
    intro hfile hw hl
    have hopens := openCall_opens hn hf hb rfl rfl hfile hw
    have hhandle := State.handle?_newHandle (c := c) (h := .file path (flags.testBit 0) (flags.testBit 1)) ((congrArg _ (s1.makeFile_launch? path _)).trans hl)
    have hfiles := s1.makeFile_files path
    rw [State.makeFile_nextHandle] at hhandle
    refine ⟨_, hopens.trans (congrArg some (Prod.ext rfl ?_)), ?_, hhandle, ?_⟩
    · exact congrArg (BitVec.ofNat 64) (s1.makeFile_nextHandle path)
    · exact State.nextHandle_newHandle.trans (congrArg (· + 1) (s1.makeFile_nextHandle path))
    · rw [State.newHandle_io, hfiles, State.bufferSeen_io]

  · intro c s path rd wr hh
    have hl := State.handle?_launch hh
    refine ⟨⟨_, closeCall_file hh, by simp [State.dropHandle], by simp [State.dropHandle], (State.handle?_dropHandle hl).trans (if_pos rfl),
      fun n hne => (State.handle?_dropHandle hl).trans (if_neg hne)⟩, sizeCall_file hh, flushCall_file hh, rfl, fun f hf => ⟨readCommand_file hh hf, writeCommand_file hh hf⟩⟩

end Sys2Proof.Machine
end


section
/-! SUPPORT for O48. The debugger's operations on a stopped squad (R312, R313, R340). -/
namespace Sys2Proof.Machine

variable {s s1 : State} {h : Header} {i : Request} {type : Nat} {a : DebugAt} {q : Option Nat} {sq sq' : Squad} {body : List Byte}

/-! ### How a request of the debugger is done (R366) -/

/-- A request that Driene takes up at once: its controller is authenticated, the channel is free, and its header is in order. -/
structure State.Takes (s : State) (h : Header) (type : Nat) : Prop where
  running : s.boot = .running
  free : s.channelBusy = false
  first : s.io.requests = []
  known : s.controller h = true
  header : headerOk h type = true

theorem State.request_taken {f : State → State} (ht : s.Takes h type) : s.request i h type f = f s := by
  obtain ⟨hb, hf, hr, hc, hh⟩ := ht
  simp [State.request, hb, hf, hr, hc, hh]

theorem State.debugOp_done {f : State → Option Nat → Squad → Option (State × List Byte)} (ht : s.Takes h 0x09) (hs : s.stopped a = some (q, sq))
    (hf : f s q sq = some (s1, body)) : s.debugOp i h a f = s1.reply 0x09 0 h.reqid h.job.toNat body := by
  rw [State.debugOp, State.request_taken ht]
  simp only [hs, Option.bind_some, hf]

theorem State.debugPut_squad {lane reg : Nat} {v : Reg} {map : List Byte} (hr : reg ≠ 112) (hset : debugSet sq lane reg v map = some sq') :
    s.debugPut a q sq lane reg v map = some (s.putStopped a q sq') := by
  simp only [State.debugPut, hr, if_false, hset, Option.map_some]

theorem State.rewriteBlock_done {va : Word} {block : List Byte} {j : Job} (ht : s.Takes h 0x09) (hj : s.job? h.job.toNat = some j)
    (hva : va.toNat % 16 = 0) (hlen : block.length = 16) (hp : (s.jobPlace j va.toNat).isSome = true) :
    s.rewriteBlock i h va block = (s.jobWrite j va.toNat block).emptyCode.reply 0x09 0 h.reqid h.job.toNat [] := by
  rw [State.rewriteBlock, State.request_taken ht]
  simp only [hj, Option.filter_some, hva, hlen, hp, beq_self_eq_true, Bool.and_self, if_true]

/-! ### Threads moved past a trapping instruction (R312, R340) -/

/-- A thread of a lane of TLANES, moved past the instruction at TEPC. -/
def Squad.advanced (sq : Squad) (t : Thread) : Thread :=
  match sq.brkCode with
  | some c => if t.pc == sq.tepc then t.past sq.tepc (sigWord (.brk c)) else { t with pc := sq.tepc + 4 }
  | none => { t with pc := sq.tepc + 4 }

theorem Squad.advance_eq : sq.advance = (lanesOf (sq.tlanes.truncate 32)).foldl (fun x l => x.setThread l (sq.advanced (x.thread l))) sq := rfl

theorem Squad.advanced_pc (t : Thread) : (sq.advanced t).pc = sq.tepc + 4 := by
  unfold Squad.advanced
  split
  · split <;> rfl
  · rfl

theorem Squad.advanced_sig {t : Thread} {c : BitVec 6} (hc : sq.brkCode = some c) (hpc : t.pc = sq.tepc) :
    (sq.advanced t).sig = sigHash t.sig (sigWord (.brk c)) := by
  simp only [Squad.advanced, hc, hpc, beq_self_eq_true, if_true]
  rfl

theorem Squad.thread_setThread_same (sq : Squad) (l : Nat) (t : Thread) : (sq.setThread l t).thread l = t := SMap.get_set_same ..

theorem Squad.thread_setThread_other (sq : Squad) {l m : Nat} (t : Thread) (hne : m ≠ l) : (sq.setThread l t).thread m = sq.thread m :=
  SMap.get_set_other _ _ _ hne

theorem Squad.thread_foldl_out (f : Thread → Thread) {ls : List Nat} {l : Nat} (hl : l ∉ ls) :
    (ls.foldl (fun x l => x.setThread l (f (x.thread l))) sq).thread l = sq.thread l := by
  induction ls generalizing sq with
  | nil => rfl
  | cons m ms ih =>
    obtain ⟨hne, hms⟩ := List.ne_and_not_mem_of_not_mem_cons hl
    rw [List.foldl_cons, ih hms, Squad.thread_setThread_other _ _ hne]

/-- Each of several lanes' threads changed once. -/
theorem Squad.thread_foldl_in (f : Thread → Thread) {ls : List Nat} {l : Nat} (nd : ls.Nodup) (hl : l ∈ ls) :
    (ls.foldl (fun x l => x.setThread l (f (x.thread l))) sq).thread l = f (sq.thread l) := by
  induction ls generalizing sq with
  | nil => exact absurd hl List.not_mem_nil
  | cons m ms ih =>
    obtain ⟨hm, nd⟩ := List.nodup_cons.mp nd
    rw [List.foldl_cons]
    rcases List.mem_cons.mp hl with rfl | hl
    · rw [Squad.thread_foldl_out f hm, Squad.thread_setThread_same]
    · rw [ih nd hl, Squad.thread_setThread_other _ _ (ne_of_mem_of_not_mem hl hm)]

theorem Squad.thread_advance {l : Nat} (hl : l ∈ lanesOf (sq.tlanes.truncate 32)) : sq.advance.thread l = sq.advanced (sq.thread l) := by
  rw [Squad.advance_eq, Squad.thread_foldl_in _ (lanesOf_nodup _) hl]

/-- Only a thread that still stands where it was saved keeps its bit of MTDONE (R271). -/
theorem Squad.mtdone_resumed {l : Nat} (hl : l < 32) :
    sq.resumed.mtdone.getLsbD l = (sq.mtdone.getLsbD l && (sq.thread l).mtAt == (sq.thread l).pc) := by
  have hmem : decide (l ∈ (List.range 32).filter fun l => (sq.thread l).mtAt == (sq.thread l).pc) = ((sq.thread l).mtAt == (sq.thread l).pc) := by
    simp only [List.mem_filter, List.mem_range, hl, true_and, Bool.decide_eq_true]
  simp only [Squad.resumed, BitVec.getLsbD_and, maskOf, getLsbD_foldl_lane _ _ hl, hmem, BitVec.getLsbD_zero, Bool.false_or]

/-- Settles O48: operation by operation. -/
theorem debugOperationsComplete : Obligations.DebugOperationsComplete := by
  unfold Obligations.DebugOperationsComplete
  intro h s hb hf hr hc hh jn done
  have ht : s.Takes h 0x09 := ⟨hb, hf, hr, hc, hh⟩
  refine ⟨fun a q sq hs => ⟨fun lane reg bytes hv => ?_, fun lane reg v map sq' hreg hset => ?_, ?_, fun _ l hl => ⟨?_, fun c hc hpc => ?_⟩, ?_,
    fun l hl => Squad.mtdone_resumed hl, fun n pc p hq hp hruns => ?_⟩, ?_⟩
  · exact congrArg _ (State.debugOp_done ht hs (by rw [hv]; rfl))
  · exact congrArg _ (State.debugOp_done ht hs (by rw [State.debugPut_squad hreg hset]; rfl))
  · exact congrArg _ (State.debugOp_done ht hs rfl)
  · rw [Squad.thread_advance hl, Squad.advanced_pc]
  · rw [Squad.thread_advance hl, Squad.advanced_sig hc hpc]
  · exact congrArg _ (State.debugOp_done ht hs rfl)
  · refine congrArg _ (State.debugOp_done ht hs ?_)
    simp only [hq, Option.bind_some, hp, hruns, if_true]
  · simp only [List.forall_mem_cons]
    exact ⟨fun va block j hj hva hlen hp => congrArg _ (State.rewriteBlock_done ht hj hva hlen hp),
      fun va block j hj hva hlen hp => congrArg _ (State.rewriteBlock_done ht hj hva hlen hp), fun _ hm => nomatch hm⟩

end Sys2Proof.Machine
end


section
/-! SUPPORT for O38. Events of the matrix engine: a waiting issue set is accepted, rows land, an intake ends, an operation of the memory goes on part by part (R258-R269). -/
namespace Sys2Proof.Machine

variable {s : State} {core n k off q : Nat} {bad : Bool} {o : EngOp} {p : Part} {it : Intake} {x : Nat × Word} {rest : List (Nat × Word)}

/-! ### A waiting issue set is accepted (R260) -/

/-- An instruction that may wait at a tile version acts through its effect on the whole issue set. -/
theorem exec_tileEffect {i : Instr} {f : State → State → List Nat → Except SetTrap State} (h : tileEffect i = some f) (s : State) :
    exec i s = .next (s.execSet i 0 0 f) := by
  unfold tileEffect at h
  split at h
  all_goals cases h
  all_goals rfl

/-- The lanes of a record that wait with a lane, at its wait and its stamp. -/
def State.waitingWith (s : State) (q l : Nat) : List Nat := (s.squad q).liveLanes.filter fun m => (s.thread q m).wait == (s.thread q l).wait &&
  (s.thread q m).stamp == (s.thread q l).stamp

/-- They leave the wait and are the issue set. -/
def State.accepting (s : State) (q l : Nat) : State :=
  { s.unwait q (s.waitingWith q l) with cur := { q := q, pc := (s.thread q l).pc, lanes := maskOf (s.waitingWith q l),
                                                 slot := s.releaseStamp (s.squad q) (s.thread q l), at_ := (s.thread q l).since } }

theorem execTileVersionAccept_ready {l : Nat} {i : Instr} {f : State → State → List Nat → Except SetTrap State} (hready : s.tileReady q = some (l, i))
    (hf : tileEffect i = some f) (htrap : (s.squad q).canTrap = true) (hlines : (s.waitingWith q l).any ((s.squad q).lineWaits i) = false) :
    exec (.tileVersionAccept q) s = .next ((s.accepting q l).execSet i 0 0 f) := by
  have hgo : (!(s.squad q).canTrap || (s.waitingWith q l).any ((s.squad q).lineWaits i)) = false := by rw [htrap, hlines]; rfl
  simp only [exec, execTileVersionAccept, hready, hf]
  exact congrArg _ (if_neg (by rw [Bool.not_eq_true]; exact hgo))

/-! ### Rows (R216, R267, R269) -/

theorem Engine.landRow_row {e : Engine} {id t fmt r lane : Nat} {sa : BitVec 32} {bytes : List Byte} : e.landRow (.row id t n fmt r lane sa bytes) =
    if (e.slot n).bad then e.modTile t fun x => { x with tag := none }
    else e.modTile t fun x => { x with cells := (List.range 128).foldl (fun cs c =>
      SMap.set 0 cs (128 * r + c) (promote fmt (fun i => bytes.getD i 0) (e.slot n).image.read sa c (SMap.get 0 x.cells (128 * r + c)))) x.cells } := rfl

/-- An operation that lands a row. -/
def EngWork.isRow : EngWork → Bool
  | .row .. => true
  | _ => false

/-- The number of the MMA.Q of a row. -/
def EngWork.rowId : EngWork → Nat
  | .row id .. => id
  | _ => 0

/-- A row that waits lands; where there is none, a part of the next one is read. -/
theorem execMicroTileLand_eq : exec (.microTileLand ⟨core, k⟩) s = .next (match s.firstOp core EngWork.isRow with
    | some (n, o) => ((s.dropOp core n).modEngine core fun e => (e.landRow o.work).rowDone o.work.rowId).settleFor o.by_
    | none => match s.nextTake core with
      | some (q, it) => s.takePart q k it
      | none => s) := rfl

theorem execMicroTileLand_row (hfirst : s.firstOp core EngWork.isRow = some (n, o)) : exec (.microTileLand ⟨core, k⟩) s =
    .next (((s.dropOp core n).modEngine core fun e => (e.landRow o.work).rowDone o.work.rowId).settleFor o.by_) := by
  rw [execMicroTileLand_eq, hfirst]

/-- With the last part of its record the next row of an intake is taken in, and lands. -/
theorem State.takePart_last {pt : Nat × Nat} (hleft : it.left = x :: rest) (hparts : it.parts x = [pt]) (hbad : s.rowBad (s.squad q) it x = false) :
    s.takePart q 0 it = ((s.rowNote (s.squad q) (mmaFmtOf it.instr) x).modEngine (coreOf q) fun e =>
      (e.landRow (s.takenRow (s.squad q) it it.got x)).rowDone it.id).modSquad q fun sq => { sq with intake := some { it.fresh with left := rest } } := by
  simp only [State.takePart, hleft, hparts, List.getElem?_cons_zero, List.length_singleton, Nat.le_refl, if_true, State.takeAndLand, hbad, Bool.false_eq_true,
    if_false]

theorem execMicroTileLand_take (hfirst : s.firstOp core EngWork.isRow = none) (hnext : s.nextTake core = some (q, it)) :
    exec (.microTileLand ⟨core, k⟩) s = .next (s.takePart q k it) := by
  rw [execMicroTileLand_eq, hfirst, hnext]

/-! ### The end of an intake (R267) -/

theorem State.rowNote_squads (sq : Squad) (fmt : Nat) : (s.rowNote sq fmt x).squads = s.squads := by
  unfold State.rowNote
  induction linesOf (rowOff x.2) (recordBytes fmt) generalizing s with
  | nil => rfl
  | cons l ls ih =>
    rw [List.foldl_cons, ih]
    exact (congrArg State.squads (State.noteRead_frame _) :)

theorem State.foldl_rowNote_squads (sq : Squad) (fmt : Nat) (xs : List (Nat × Word)) : (xs.foldl (fun st x => st.rowNote sq fmt x) s).squads = s.squads := by
  induction xs generalizing s with
  | nil => rfl
  | cons x xs ih => rw [List.foldl_cons, ih, State.rowNote_squads]

/-- What remains of a record apart from its threads where threads of it are replaced. -/
theorem State.intake_setThreads (q : Nat) (ls : List Nat) (f : Nat → Thread) :
    ((s.setThreads q ls f).squad q).intake = (s.squad q).intake ∧ ((s.setThreads q ls f).squad q).mtdone = (s.squad q).mtdone := by
  induction ls generalizing s with
  | nil => exact ⟨rfl, rfl⟩
  | cons l ls ih =>
    rw [State.setThreads_cons, (ih (s := s.setThread q l (f l))).1, (ih (s := s.setThread q l (f l))).2]
    simp only [State.squad, State.setThread, State.squad?_modSquad, if_true]
    cases s.squad? q <;> exact ⟨rfl, rfl⟩

theorem State.releaseLanes_eq (ls : List Nat) (nd : ls.Nodup) : s.releaseLanes q ls =
    s.setThreads q ls fun l => (s.thread q l).release (s.releaseStamp (s.squad q) (s.thread q l)) :=
  State.foldl_modThread _ _ _ (fun _ t => t.release (s.releaseStamp (s.squad q) t)) _ nd fun _ _ => rfl

/-- A squad's closed batches are not its threads, its intake or its MTDONE. -/
theorem State.settleBatches_keeps (l : Nat) : (s.settleBatches q).thread q l = s.thread q l ∧ ((s.settleBatches q).squad q).intake = (s.squad q).intake ∧
    ((s.settleBatches q).squad q).mtdone = (s.squad q).mtdone := by
  simp only [State.settleBatches, State.thread, State.squad, State.squad?_modSquad, if_true]
  cases s.squad? q <;> exact ⟨rfl, rfl, rfl⟩

/-- A squad with an intake is one of a record. -/
theorem State.isSome_of_intake (h : (s.squad q).intake = some it) : (s.squad? q).isSome = true := by
  cases hq : s.squad? q with
  | some sq => rfl
  | none => simp [State.squad, hq] at h

theorem State.intakeEnds_intake (h : s.intakeEnds q = some it) : (s.squad q).intake = some it := by
  simp only [State.intakeEnds] at h
  split at h
  · cases h
  · next it' hi =>
    split at h
    · cases h; exact hi
    · cases h

/-- What the end of an intake leaves of its squad: no intake, the bits of its lanes in MTDONE clear, and their threads after the MMA.Q. -/
theorem State.endIntake_squad {u : State} (hsome : (s.squad? q).isSome = true) (hu : u.squads = s.squads) (lanes : BitVec 32) :
    let t := ((u.modSquad q fun sq => { sq with intake := none, mtdone := sq.mtdone &&& ~~~lanes }).releaseLanes q (lanesOf lanes)).settleBatches q
    (t.squad q).intake = none ∧ (t.squad q).mtdone = (s.squad q).mtdone &&& ~~~lanes ∧
      ∀ l ∈ lanesOf lanes, (t.thread q l).wait = .run ∧ (t.thread q l).pc = (s.thread q l).pc + 4 := by
  obtain ⟨sq, hs⟩ := Option.isSome_iff_exists.mp hsome
  have hq : u.squad? q = some sq := by rw [State.squad?, hu]; exact hs
  generalize hv : (u.modSquad q fun sq => { sq with intake := none, mtdone := sq.mtdone &&& ~~~lanes }) = v
  have hvq : v.squad? q = some { sq with intake := none, mtdone := sq.mtdone &&& ~~~lanes } := by
    rw [← hv, State.squad?_modSquad, if_pos rfl, hq]
    rfl
  have hthread : ∀ l, v.thread q l = s.thread q l := fun l => by simp only [State.thread, State.squad, hvq, hs, Option.getD_some]; rfl
  intro t
  have ht : t = (v.releaseLanes q (lanesOf lanes)).settleBatches q := rfl
  rw [ht, State.releaseLanes_eq _ (lanesOf_nodup _)]
  refine ⟨?_, ?_, fun l hl => ?_⟩
  · rw [(State.settleBatches_keeps 0).2.1, (State.intake_setThreads ..).1, State.squad_some _ hvq]
  · rw [(State.settleBatches_keeps 0).2.2, (State.intake_setThreads ..).2, State.squad_some _ hvq, State.squad_some _ hs]
  · rw [(State.settleBatches_keeps l).1, State.thread_setThreads_in _ _ _ _ (lanesOf_nodup _) (by rw [hvq]; rfl) hl, hthread]
    exact ⟨rfl, rfl⟩

/-- Before its squad goes on, the end of an intake changes no squad. -/
theorem execMmaQIntakeEnd_eq (hend : s.intakeEnds q = some it) : ∃ u : State, u.squads = s.squads ∧ exec (.mmaQIntakeEnd q) s = .next
    (((u.modSquad q fun sq => { sq with intake := none, mtdone := sq.mtdone &&& ~~~it.lanes }).releaseLanes q (lanesOf it.lanes)).settleBatches q) := by
  simp only [exec, execMmaQIntakeEnd, hend]
  refine ⟨_, ?_, rfl⟩
  exact State.foldl_rowNote_squads ..

/-! ### Operations of the memory, part by part (R258, R262) -/

/-- An operation once part k of what is left of its memory has been read. -/
def EngOp.took (o : EngOp) (s : State) (k off : Nat) (p : Part) (bad : Bool) : EngOp :=
  { o with left := o.left.eraseIdx k, got := o.got.writeBytes off (s.readPart p).1, bad := o.bad || bad || s.poisoned p.place }

theorem State.opRead_part (hp : s.opPart o k = some (off, p)) : s.opRead o k bad = some (o.took s k off p bad, s.noteRead p.place) := by
  simp only [State.opRead, hp, Option.map_some]
  rfl

section Op
variable (hop : s.opAt core n = some o)
include hop

theorem execBldComplete_part {slot fmt : Nat} {addr : Word} (hw : o.work = .bld slot fmt addr) (hp : s.opPart o k = some (off, p)) :
    exec (.bldComplete ⟨core, n, k⟩ bad) s = .next (
      if (o.took s k off p bad).left ≠ [] then (s.noteRead p.place).setOp core n (o.took s k off p bad) else
      let s2 := ((s.noteRead p.place).dropOp core n).modEngine core fun e => e.fillSlot slot o.seq (o.took s k off p bad).bad (o.took s k off p bad).got
      (if (o.took s k off p bad).bad then s2.logError (bankOf 0x05 core) true (BitVec.ofNat 64 slot) 0 else s2).settleFor o.by_) := by
  simp only [exec, execBldComplete, hop, hw, State.opRead_part hp]

theorem execTileTransferComplete_tzero {t : Nat} {int : Bool} (hw : o.work = .tzero t int) :
    exec (.tileTransferComplete ⟨core, n, k⟩ bad) s = .next (((s.dropOp core n).modEngine core fun e =>
      e.modTile t fun x => { x with tag := some int, cells := [], ver := x.ver + 1, writer := false }).settleFor o.by_) := by
  simp only [exec, execTileTransferComplete, hop, hw]
  rfl

theorem execTileTransferComplete_tld {t : Nat} {int : Bool} {addr : Word} (hw : o.work = .tld t int addr) (hp : s.opPart o k = some (off, p)) :
    exec (.tileTransferComplete ⟨core, n, k⟩ bad) s = .next (
      if (o.took s k off p bad).left ≠ [] then (s.noteRead p.place).setOp core n (o.took s k off p bad) else
      (((s.noteRead p.place).dropOp core n).modEngine core fun e => e.modTile t fun x =>
        { x with tag := if (o.took s k off p bad).bad then none else some int, cells := cellsOf 16384 0 ((o.took s k off p bad).got.readBytes 0 98304),
                 ver := x.ver + 1, writer := false }).settleFor o.by_) := by
  simp only [exec, execTileTransferComplete, hop, hw, State.opRead_part hp]
  rfl

theorem execTileTransferComplete_tst {t : Nat} {addr : Word} (hw : o.work = .tst t addr) (hp : s.opPart o k = some (off, p)) :
    exec (.tileTransferComplete ⟨core, n, k⟩ bad) s = .next (
      let s1 := s.writePart o.by_.lid o.by_.crew p (tilePart ((s.coreAt core).engine.tile t) off p.n)
      let s2 := if bad then s1.mark p.place else s1
      if o.left.eraseIdx k ≠ [] then s2.setOp core n { o with left := o.left.eraseIdx k } else (s2.dropOp core n).settleFor o.by_) := by
  simp only [exec, execTileTransferComplete, hop, hw, State.opWrite, hp, Option.map_some]

end Op

/-- Settles O38: event by event. -/
theorem engineEventsComplete : Obligations.EngineEventsComplete := by
  unfold Obligations.EngineEventsComplete
  refine ⟨?_, ?_, ?_, ?_, ?_, ?_⟩
  · intro q l i f s v hready hf htrap ls hlines u
    have haccept : exec (.tileVersionAccept q) s = .next (u.execSet i 0 0 f) := execTileVersionAccept_ready hready hf htrap hlines
    refine ⟨haccept.trans (exec_tileEffect hf u).symm, fun hr hv => haccept.trans (congrArg _ (State.execSet_ok u i 0 0 f hr ?_))⟩
    rw [State.active_zero]
    exact hv
  · intro core n k0 o id t k fmt r lane sa bytes s hfirst hwork
    have hrow := execMicroTileLand_row (k := k0) hfirst
    rw [hwork] at hrow
    exact hrow
  · intro core q it x rest p s hfirst hnext hleft hparts hbad row
    exact (execMicroTileLand_take hfirst hnext).trans (congrArg _ (State.takePart_last hleft hparts hbad))
  · intro q it s hend
    obtain ⟨u, hu, hexec⟩ := execMmaQIntakeEnd_eq hend
    exact ⟨_, hexec, State.endIntake_squad (State.isSome_of_intake (State.intakeEnds_intake hend)) hu it.lanes⟩
  · intro core n k slot fmt off bad addr o p s hop hw hp o1 s1
    have hpart := execBldComplete_part (bad := bad) hop hw hp
    refine ⟨fun hl => hpart.trans (congrArg _ (if_pos hl)), fun hl hb => hpart.trans (congrArg _ ((if_neg (not_not_intro hl)).trans ?_)),
      fun hl hb => hpart.trans (congrArg _ ((if_neg (not_not_intro hl)).trans ?_))⟩
    · have hgood : (o.took s k off p bad).bad = false := hb
      simp only [hgood, Engine.fillSlot, Bool.false_eq_true, if_false]
      rfl
    · have herror : (o.took s k off p bad).bad = true := hb
      simp only [herror, Engine.fillSlot, if_true]
      rfl
  · intro core n k t off bad int addr o p s hop
    refine ⟨execTileTransferComplete_tzero hop, fun hw hp => ?_, fun hw hp => execTileTransferComplete_tst hop hw hp⟩
    have hpart := execTileTransferComplete_tld (bad := bad) hop hw hp
    exact ⟨fun hl => hpart.trans (congrArg _ (if_pos hl)), fun hl => hpart.trans (congrArg _ (if_neg (not_not_intro hl)))⟩

end Sys2Proof.Machine
end


section
/-! SUPPORT for O31. GSUB (R291) and the queues of a crew's scratchpad (R293-R296). -/
namespace Sys2Proof.Machine

variable {s : State} {a b d : RegCode} {n : BitVec 3} {i : Instr} {l : Nat} {w : Word}

/-- An issue set that waits: every thread past the instruction, and blocked at it. -/
theorem State.blockAll_lanes (hr : s.ready i 0 = true) : (s.advanceAll i 0).blockAll s s.lanes i =
    s.ranTogether i 0 0 fun l => (s.past i 0 l).waitAt (s.ctx l) i (.blocked i) :=
  State.advanceAll_modLanes (fun l t => t.waitAt (s.ctx l) i (.blocked i)) hr

/-! ### GSUB (R291) -/

/-- The operands of GSUB of a lane are sound: an address where it submits a root. -/
def State.gsubSound (s : State) (b a : RegCode) (l : Nat) : Prop :=
  s.holds isAddrTag a l = true ∧ ((s.operand a l).data ≠ 0 → s.holds isAddrTag b l = true ∧
    s.nodeAddr (s.ctx l) (s.operand a l).data = .ok () ∧ s.nodeAddr (s.ctx l) (s.operand b l).data = .ok ())

/-- The root and the error area that a lane submits; root 0 names no area. -/
def State.gsubRoot (s : State) (b a : RegCode) (l : Nat) : Word × Word :=
  if (s.operand a l).data = 0 then (0, 0) else ((s.operand a l).data, (s.operand b l).data)

theorem State.gsubArgs_ok (h : s.gsubSound b a l) : s.gsubArgs b a l = .ok (s.gsubRoot b a l) := by
  obtain ⟨ha, hb⟩ := h
  by_cases h0 : (s.operand a l).data = 0
  · simp only [State.gsubArgs, State.gsubRoot, s.src_ok ha, h0, bind, Except.bind, if_true]
  · obtain ⟨hb, hna, hnb⟩ := hb h0
    simp only [State.gsubArgs, State.gsubRoot, s.src_ok ha, s.src_ok hb, h0, hna, hnb, bind, Except.bind, if_false]

/-- One lane's submission after those of the lanes below it: the queue and the results so far; none once the queue has no room. -/
def State.gsubPut (s : State) (b a : RegCode) (acc : Option (Graph × List (Nat × Reg))) (l : Nat) : Option (Graph × List (Nat × Reg)) :=
  acc.bind fun x =>
    if (s.operand a l).data = 0 then some ({ x.1 with halted := false }, x.2 ++ [(l, (⟨0, .i64⟩ : Reg))])
    else if x.1.halted then some (x.1, x.2 ++ [(l, ⟨1, .i64⟩)])
    else if Config.graphEntries ≤ x.1.queued.length then none
    else some ({ x.1 with queued := x.1.queued ++
      [⟨s.seq + s.lanes.idxOf l, (s.operand a l).data, (s.operand b l).data, true, (s.squad s.cur.q).ref, l, s.seq, [], false⟩] }, x.2 ++ [(l, ⟨0, .i64⟩)])

theorem State.gsubPut_some (g : Graph) (vs : List (Nat × Reg)) : s.gsubPut b a (some (g, vs)) l =
    (g.submit (s.squad s.cur.q).ref l s.seq (s.seq + s.lanes.idxOf l) (s.gsubRoot b a l)).map fun r => (r.1, vs ++ [(l, ⟨r.2, .i64⟩)]) := by
  by_cases h0 : (s.operand a l).data = 0
  · simp only [State.gsubPut, State.gsubRoot, Graph.submit, h0, Option.bind_some, if_true, Option.map_some]
  by_cases hh : g.halted = true
  · simp only [State.gsubPut, State.gsubRoot, Graph.submit, h0, hh, Option.bind_some, if_false, if_true, Option.map_some]
  by_cases hg : Config.graphEntries ≤ g.queued.length
  · simp only [State.gsubPut, State.gsubRoot, Graph.submit, h0, hh, hg, Option.bind_some, if_false, if_true, Bool.false_eq_true, Option.map_none]
  · simp only [State.gsubPut, State.gsubRoot, Graph.submit, h0, hh, hg, Option.bind_some, if_false, Bool.false_eq_true, Option.map_some]

theorem State.foldl_gsubPut_none (ls : List Nat) : ls.foldl (s.gsubPut b a) none = none := by
  induction ls with
  | nil => rfl
  | cons l ls ih => exact ih

/-- The submissions of the lanes after `pre`, whose numbers go on from theirs. -/
theorem State.submitAll_lanes {pre ls : List Nat} (hlanes : pre ++ ls = s.lanes) (g : Graph) (vs : List (Nat × Reg)) :
    (Graph.submitAll (s.squad s.cur.q).ref s.seq (ls.map fun l => (l, s.gsubRoot b a l)) (s.seq + pre.length) g).map (fun r => (r.1, vs ++ r.2)) =
      ls.foldl (s.gsubPut b a) (some (g, vs)) := by
  induction ls generalizing pre g vs with
  | nil => simp [Graph.submitAll]
  | cons l ls ih =>
    have hidx : s.lanes.idxOf l = pre.length := by
      have hnd : (pre ++ l :: ls).Nodup := hlanes ▸ lanesOf_nodup _
      have hl : l ∉ pre := fun hm => (List.nodup_append.mp hnd).2.2 l hm l (by simp) rfl
      rw [← hlanes, List.idxOf_append_of_notMem hl, List.idxOf_cons_self, Nat.add_zero]
    rw [List.foldl_cons, State.gsubPut_some, hidx, List.map_cons, Graph.submitAll]
    cases g.submit (s.squad s.cur.q).ref l s.seq (s.seq + pre.length) (s.gsubRoot b a l) with
    | none => exact (State.foldl_gsubPut_none ls).symm
    | some r =>
      rw [Option.map_some, ← ih (pre := pre ++ [l]) (by simpa using hlanes)]
      simp [Option.map_map, Function.comp_def, Nat.add_assoc]

theorem State.submitAll_set (g : Graph) : Graph.submitAll (s.squad s.cur.q).ref s.seq (s.lanes.map fun l => (l, s.gsubRoot b a l)) s.seq g =
    s.lanes.foldl (s.gsubPut b a) (some (g, [])) := by
  simpa using State.submitAll_lanes (b := b) (a := a) (pre := []) (ls := s.lanes) rfl g []

section Submit
variable (hr : s.ready (.gsub b a d) 0 = true) (h : ∀ l ∈ s.lanes, s.gsubSound b a l)
include hr h

theorem execGsub_submits {g : Graph} {vs : List (Nat × Reg)}
    (hput : s.lanes.foldl (s.gsubPut b a) (some ((s.crewOf (s.squad s.cur.q).lid (s.squad s.cur.q).crew).graph, [])) = some (g, vs)) :
    exec (.gsub b a d) s = .next (({ s.advanceAll (.gsub b a d) 0 with seq := s.seq + s.lanes.length + 1 }.modCrew (s.squad s.cur.q).lid
      (s.squad s.cur.q).crew fun c => { c with graph := g }).scatter s d .sb vs) := by
  refine exec_together rfl hr ?_
  simp only [State.active_zero, gatherLanes_ok s.lanes (s.gsubArgs b a) (s.gsubRoot b a) fun l hl => State.gsubArgs_ok (h l hl), bind, Except.bind,
    State.advanceAll_seq, List.length_map, State.submitAll_set, hput]

/-- Where the queue has no room for all roots of the set, the set waits. -/
theorem execGsub_waits (hput : s.lanes.foldl (s.gsubPut b a) (some ((s.crewOf (s.squad s.cur.q).lid (s.squad s.cur.q).crew).graph, [])) = none) :
    exec (.gsub b a d) s = .next (s.ranTogether (.gsub b a d) 0 0 fun l =>
      (s.past (.gsub b a d) 0 l).waitAt (s.ctx l) (.gsub b a d) (.blocked (.gsub b a d))) := by
  refine exec_together rfl hr ?_
  simp only [State.active_zero, gatherLanes_ok s.lanes (s.gsubArgs b a) (s.gsubRoot b a) fun l hl => State.gsubArgs_ok (h l hl), bind, Except.bind,
    State.advanceAll_seq, State.submitAll_set, hput, State.blockAll_lanes hr]

end Submit

/-! ### QCFG (R293, R294) -/

theorem queueOf_fields (w : Word) : queueOf w =
    { tag := tagOf (w.toNat / 2 ^ 60), es := w.getLsbD 56, depth := w.toNat / 2 ^ 40 % 2 ^ 16, offset := w.toNat % 2 ^ 20 } := by
  have htag : bitsOf w.toNat 60 4 = w.toNat / 2 ^ 60 := Nat.mod_eq_of_lt (by have := w.isLt; omega)
  have hoff : bitsOf w.toNat 0 20 = w.toNat % 2 ^ 20 := by simp [bitsOf]
  simp only [queueOf, htag, hoff, getLsbD_eq_bitsOf]

theorem execQcfg_sets (hr : s.ready (.qcfg a n) 0 = true) (hne : s.lanes ≠ []) (h : ∀ l ∈ s.lanes, s.holds isAddrTag a l = true ∧ (s.operand a l).data = w)
    (hw : queueWordBad w = false)
    (hfits : (queueOf w).depth = 0 ∨ (queueOf w).offset + (queueOf w).bytes ≤ (s.launchOf (s.squad s.cur.q).lid).scratch)
    (hfree : s.queueAwaited (s.squad s.cur.q).lid (s.squad s.cur.q).crew n = false) : exec (.qcfg a n) s =
    .next ((s.advanceAll (.qcfg a n) 0).modCrew (s.squad s.cur.q).lid (s.squad s.cur.q).crew fun c => c.setQueue n (queueOf w)) := by
  refine exec_together rfl hr ?_
  obtain ⟨hequal, hhead⟩ := State.words_agree hne fun l hl => (h l hl).2
  have hcheck : laneCheck (s.words s.lanes a) 0x01 queueWordBad = .ok () := State.laneCheck_words fun l hl => by rw [(h l hl).2, hw]
  have hroom : (decide ((queueOf w).depth ≠ 0) &&
      decide ((s.launchOf (s.squad s.cur.q).lid).scratch < (queueOf w).offset + (queueOf w).bytes)) = false := by
    rcases hfits with h0 | hle
    · rw [decide_eq_false (not_not_intro h0), Bool.false_and]
    · rw [decide_eq_false (Nat.not_lt.mpr hle), Bool.and_false]
  simp only [State.active_zero, State.addrRegs_ok fun l hl => (h l hl).1, hcheck, hequal, hhead, hroom, hfree, bind, Except.bind, Bool.false_eq_true, if_false]

/-! ### QPUSH (R295, R296) -/

/-- A lane holds an element for a queue: its register, and the next one where elements are pairs. -/
def State.holdsElem (s : State) (qu : Queue) (b a : RegCode) (l : Nat) : Prop :=
  s.holds (fun g => g == qu.tag || g == .raw64) a l = true ∧ (qu.es = true → s.holds (fun g => g == qu.tag || g == .raw64) b l = true)

/-- The element that a lane pushes. -/
def State.elemOf (s : State) (qu : Queue) (b a : RegCode) (l : Nat) : Word × Word :=
  ((s.operand a l).data, if qu.es then (s.operand b l).data else 0)

/-- A weaker test of the tag. -/
theorem State.holds_mono {ok ok' : Tag → Bool} {c : RegCode} (himp : ∀ g, ok g = true → ok' g = true) (h : s.holds ok c l = true) :
    s.holds ok' c l = true := by
  simp only [State.holds, Bool.and_eq_true] at h ⊢
  exact ⟨h.1, himp _ h.2⟩

theorem State.pushed_ok {qu : Queue} (h : s.holdsElem qu b a l) : s.pushed qu b a l = .ok (s.elemOf qu b a l) := by
  have himp : ∀ g : Tag, (g == qu.tag || g == .raw64) = true → (g == qu.tag || g == .raw64 || qu.depth == 0) = true := fun g hg => by rw [hg, Bool.true_or]
  obtain ⟨ha, hb⟩ := h
  by_cases hes : qu.es = true
  · simp only [State.pushed, State.elemOf, s.src_ok (State.holds_mono himp ha), s.src_ok (State.holds_mono himp (hb hes)), hes, bind, Except.bind, if_true]
  · simp only [State.pushed, State.elemOf, s.src_ok (State.holds_mono himp ha), hes, bind, Except.bind, if_false, Bool.false_eq_true]

theorem execQpush_room {qu : Queue} {s1 : State} (hr : s.ready (.qpush b a n) 0 = true)
    (hqu : (s.crewOf (s.squad s.cur.q).lid (s.squad s.cur.q).crew).queue n = qu) (hdepth : qu.depth ≠ 0)
    (hroom : qu.elems.length + s.lanes.length ≤ qu.depth) (h : ∀ l ∈ s.lanes, s.holdsElem qu b a l)
    (hpub : (s.advanceAll (.qpush b a n) 0).publish (s.squad s.cur.q).ref s.lanes 2 = some s1) :
    exec (.qpush b a n) s = .next (s.lanes.foldl (fun st l =>
      st.pushElem (s.squad s.cur.q).lid (s.squad s.cur.q).crew n (s.elemOf qu b a l)) s1) := by
  refine exec_together rfl hr ?_
  have husable : qu.usable s.lanes = true := by
    have hlen : s.lanes.length ≤ qu.depth := by omega
    simp [Queue.usable, hlen, hdepth]
  have hargs := gatherLanes_ok s.lanes (fun l => do
    let x ← s.pushed qu b a l
    if qu.usable s.lanes then .ok x else .error ⟨0x01, 0⟩) (s.elemOf qu b a) fun l hl => by
      simp only [State.pushed_ok (h l hl), husable, bind, Except.bind, if_true]
  simp only [bind, Except.bind] at hargs
  simp only [State.active_zero, hqu, hargs, bind, Except.bind, Nat.not_lt.mpr hroom, if_false, hpub, List.foldl_map]

/-! ### The ring (R293) -/

/-- An element enters at the end, at some free place where there is one. -/
theorem State.queue_pushElem (lid crew : Nat) (e : Word × Word) : ∃ p,
    (((s.pushElem lid crew n e).crewOf lid crew).queue n) =
      { (s.crewOf lid crew).queue n with elems := ((s.crewOf lid crew).queue n).elems ++ [e], places := ((s.crewOf lid crew).queue n).places ++ [p] } ∧
    (((s.crewOf lid crew).queue n).freePlaces ≠ [] → p ∈ ((s.crewOf lid crew).queue n).freePlaces) := by
  refine ⟨(((s.crewOf lid crew).queue n).freePlaces[Config.freeNat s.freeCtr % ((s.crewOf lid crew).queue n).freePlaces.length]?).getD 0, ?_, fun hne => ?_⟩
  · rw [State.pushElem, State.crewOf_modCrew_same, Crew.queue, Crew.setQueue, SMap.get_set_same]
  · have hlt := Nat.mod_lt (Config.freeNat s.freeCtr) (List.length_pos_iff.mpr hne)
    rw [List.getElem?_eq_getElem hlt, Option.getD_some]
    exact List.getElem_mem hlt

/-! ### QPOP (R295, R296) -/

/-- The lanes' elements are the oldest, one for each. -/
theorem zip_eq_map_getD {ls : List Nat} (nd : ls.Nodup) {xs : List (Word × Word)} (hlen : ls.length ≤ xs.length) :
    ls.zip xs = ls.map fun l => (l, xs.getD (ls.idxOf l) (0, 0)) := by
  refine List.ext_getElem (by simp; omega) fun k h1 h2 => ?_
  have hk : k < ls.length := by simpa using h2
  rw [List.getElem_zip, List.getElem_map, nd.idxOf_getElem, List.getD_eq_getElem?_getD, List.getElem?_eq_getElem (by omega), Option.getD_some]

theorem execQpop_elems {qu : Queue} (hr : s.ready (.qpop n d) 0 = true) (hqu : (s.crewOf (s.squad s.cur.q).lid (s.squad s.cur.q).crew).queue n = qu)
    (hdepth : qu.depth ≠ 0) (hlen : s.lanes.length ≤ qu.depth) (helems : s.lanes.length ≤ qu.elems.length) (hpair : qu.es = true → d.toNat ≤ 54) :
    exec (.qpop n d) s = .next ((s.ranTogether (.qpop n d) 0 0 fun l => (s.past (.qpop n d) 0 l).takePopped (s.ctx l) qu d
        (qu.elems.getD (s.lanes.idxOf l) (0, 0))).modCrew (s.squad s.cur.q).lid (s.squad s.cur.q).crew fun c =>
      c.setQueue n { qu with elems := qu.elems.drop s.lanes.length, places := qu.places.drop s.lanes.length }) := by
  refine exec_together rfl hr ?_
  have hok : (!qu.usable s.lanes || (qu.es && decide (54 < d.toNat))) = false := by
    have hwidth : (qu.es && decide (54 < d.toNat)) = false := by
      cases hes : qu.es with
      | false => rfl
      | true => exact decide_eq_false (Nat.not_lt.mpr (hpair hes))
    simp [Queue.usable, hlen, hdepth, hwidth]
  have hpopped := State.advanceAll_modLanes (i := .qpop n d) (stall := 0)
    (fun l t => t.takePopped (s.ctx l) qu d (qu.elems.getD (s.lanes.idxOf l) (0, 0))) hr
  simp only [State.active_zero, hqu, hok, Nat.not_lt.mpr helems, Bool.false_eq_true, if_false, zip_eq_map_getD (show s.lanes.Nodup from lanesOf_nodup _) helems, List.foldl_map,
    hpopped]

/-- Settles O31: the submissions of GSUB lane by lane, and the four instructions of a queue. -/
theorem submissionsComplete : Obligations.SubmissionsComplete := by
  unfold Obligations.SubmissionsComplete
  refine ⟨?_, ?_, ?_, fun s lid crew n e => State.queue_pushElem lid crew e, ?_⟩
  · intro b a d s g vs hr h sq put
    exact ⟨execGsub_submits hr h, execGsub_waits hr h⟩
  · intro a n s w hr hne h hw sq hfits hfree
    rw [← queueOf_fields]
    exact execQcfg_sets hr hne h hw hfits hfree
  · intro b a n s s1 hr sq qu hdepth hroom h hpub
    exact execQpush_room hr rfl hdepth hroom h hpub
  · intro n d s hr sq qu hdepth hlen helems hpair
    exact execQpop_elems hr rfl hdepth hlen helems hpair

end Sys2Proof.Machine
end


section
/-! SUPPORT for O19. WAITOBJ and POLLOBJ (R292), lane by lane, and WAITCREW (R249). -/
namespace Sys2Proof.Machine

variable {s st : State} {i : Instr} {l : Nat} {rest : List Nat} {a b d : RegCode} {loc : Loc} {cx : Ctx}

/-! ### Reading an object -/

/-- What a fresh load needs, it needs as an acquire too. -/
theorem State.loadNeeds_acquire (cx : Ctx) (loc : Loc) (n : Nat) (k fresh : Bool) (w : Write) :
    s.loadNeeds cx loc ⟨false, fresh⟩ n w ≤ s.loadNeeds cx loc ⟨k, fresh⟩ n w := by
  simp only [State.loadNeeds]
  split
  · exact Nat.le_refl _
  split
  · exact Nat.le_refl _
  · simp

theorem State.loadFree_plain {k fresh : Bool} {n : Nat} (h : s.loadFree cx loc ⟨k, fresh⟩ n = true) : s.loadFree cx loc ⟨false, fresh⟩ n = true := by
  simp only [State.loadFree, List.all_eq_true, decide_eq_true_eq] at h ⊢
  exact fun w hw => (State.loadNeeds_acquire cx loc n k fresh w).trans (h w hw)

/-- An object whose read nothing holds up, where no flip waits: the count reached or not, the status word, and the loads fixed. -/
theorem State.readObject_free {obj count : Reg} (ha : (s.thread cx.q cx.lane).src cx isAddrTag a = .ok obj)
    (hb : (s.thread cx.q cx.lane).src cx isAddrTag b = .ok count) (hloc : s.resolve cx false .load obj.data 16 = .ok loc) (hlatent : s.mem.latent = [])
    (hfree : s.loadFree cx loc ⟨decide (count.data.toNat ≤ field (s.readLoc cx loc 16).1 0 8), true⟩ 16 = true) :
    s.readObject b a cx = .ok (some (decide (count.data.toNat ≤ field (s.readLoc cx loc 16).1 0 8),
      ⟨BitVec.ofNat 64 (field (s.readLoc cx loc 16).1 8 8), if (s.readLoc cx loc 16).2 then .poison else .i64⟩,
      s.fixOwn cx.ref cx.lane fun r => r.keeps loc 16 0)) := by
  have hnote (p : Place) : s.noteRead p = s := State.noteRead_noFlip (by rw [hlatent]; rfl)
  have hfirst := s.bring_loadFree cx loc _ 16 (State.loadFree_plain hfree)
  simp only [State.readObject, ha, hb, hloc, hfirst, bind, Except.bind]
  by_cases hreach : count.data.toNat ≤ field (s.readLoc cx loc 16).1 0 8
  · rw [decide_eq_true hreach] at hfree ⊢
    simp only [s.bring_loadFree cx loc _ 16 hfree, if_true]
    cases loc.place <;> simp only [hnote, Bool.and_self, if_true]
  · rw [decide_eq_false hreach]
    cases loc.place <;> simp only [hnote, Bool.false_eq_true, if_false, Bool.and_self, if_true]

/-! ### Lane by lane -/

/-- The count that a lane waits for is reached in what stands at its object. -/
def State.reaches (s : State) (b : RegCode) (l : Nat) (loc : Loc) : Bool := decide ((s.operand b l).data.toNat ≤ field (s.readLoc (s.ctx l) loc 16).1 0 8)

/-- The status word that a lane finds at its object. -/
def State.statusAt (s : State) (l : Nat) (loc : Loc) : Reg :=
  ⟨BitVec.ofNat 64 (field (s.readLoc (s.ctx l) loc 16).1 8 8), if (s.readLoc (s.ctx l) loc 16).2 then .poison else .i64⟩

/-- A lane's object may be read now: its operands are sound, the object is accessible, and no outstanding write holds its read up. -/
structure State.objectFree (s : State) (a b : RegCode) (l : Nat) (loc : Loc) : Prop where
  obj : s.holds isAddrTag a l = true
  count : s.holds isAddrTag b l = true
  place : s.resolve (s.ctx l) false .load (s.operand a l).data 16 = .ok loc
  free : s.loadFree (s.ctx l) loc ⟨s.reaches b l loc, true⟩ 16 = true

/-- A lane that has read its object: the loads that the read must follow are fixed, and its thread is `t`. -/
def State.readAs (s : State) (cx : Ctx) (loc : Loc) (q l : Nat) (t : Thread) : State := (s.fixOwn cx.ref l fun r => r.keeps loc 16 0).setThread q l t

theorem State.readAs_accessed (cx : Ctx) (loc : Loc) (q l : Nat) (t : Thread) : ∃ rs, s.readAs cx loc q l t = s.accessed q l t s.seq rs s.mem.writes := by
  rw [State.readAs, State.fixOwn, ← State.fixReads_setThread]
  exact s.fixReads_accessed q l t _

theorem SameAccess.resolve {ls : List Nat} (h : SameAccess s ls st) (k : Nat) (t : Thread) (cx : Ctx) (addr : Word) (n : Nat) :
    (st.setThread s.cur.q k t).resolve cx false .load addr n = s.resolve cx false .load addr n := by
  obtain ⟨m, n, rs, ws, rfl⟩ := h.frame
  rw [State.resolve_setThread]
  rfl

/-- A lane past its instruction reads its object as it would have at first, where the lanes below it have written nothing. -/
theorem SameAccess.readObject (h : SameAccess s (l :: rest) st) (hw : st.mem.writes = s.mem.writes) (hlatent : s.mem.latent = [])
    (hobj : s.objectFree a b l loc) : (st.setThread s.cur.q l (s.past i 0 l)).readObject b a (s.ctx l) =
      .ok (some (s.reaches b l loc, s.statusAt l loc, st.readAs (s.ctx l) loc s.cur.q l (s.past i 0 l))) := by
  obtain ⟨ha, hb, hloc, hfree⟩ := hobj
  have hth : (st.setThread s.cur.q l (s.past i 0 l)).thread (s.ctx l).q (s.ctx l).lane = s.past i 0 l :=
    State.thread_setThread_same st _ _ _ h.bound
  have hread := h.readLoc (i := i) hw loc 16
  rw [State.readObject_free (loc := loc) (obj := s.operand a l) (count := s.operand b l) (by rw [hth]; exact s.src_holds i 0 ha) (by rw [hth]; exact s.src_holds i 0 hb)
    ((h.resolve ..).trans hloc) (by rw [State.setThread_mem, h.latent, hlatent]) (by rw [hread, h.loadFree hw]; exact hfree), hread]
  rw [State.fixOwn, State.fixReads_setThread]
  rfl

/-- A set whose objects may all be read, lane after lane, where each lane's instruction goes on with what it reads. -/
theorem State.execLanes_object {f : Ctx → State → Except Trap State} {res : Nat → Thread} (loc : Nat → Loc) (hr : s.ready i 0 = true)
    (hlatent : s.mem.latent = [])
    (h : ∀ l ∈ s.lanes, s.objectFree a b l (loc l) ∧ ∀ st u : State, u = st.setThread s.cur.q l (s.past i 0 l) → (st.squad? s.cur.q).isSome = true →
      u.readObject b a (s.ctx l) = .ok (some (s.reaches b l (loc l), s.statusAt l (loc l), st.readAs (s.ctx l) (loc l) s.cur.q l (s.past i 0 l))) →
      f (s.ctx l) u = .ok (st.readAs (s.ctx l) (loc l) s.cur.q l (res l))) :
    s.execLanes i 0 0 f = s.oneByOne fun l st => st.readAs (s.ctx l) (loc l) s.cur.q l (res l) := by
  refine State.execLanes_access hr (fun l st => st.readAs (s.ctx l) (loc l) s.cur.q l (res l)) (fun st => st.mem.writes = s.mem.writes) rfl
    fun l hl rest st hsame hw => ?_
  obtain ⟨hobj, hf⟩ := h l hl
  obtain ⟨rs, hrs⟩ := st.readAs_accessed (s.ctx l) (loc l) s.cur.q l (res l)
  exact ⟨hf st _ rfl hsame.bound (hsame.readObject hw hlatent hobj), by rw [hrs]; exact hw, _, _, _, _, hrs⟩

/-- The thread of a lane that has read its object is then changed. -/
theorem State.modThread_readAs {q l : Nat} (hb : (s.squad? q).isSome = true) (t : Thread) (f : Thread → Thread) :
    (s.readAs cx loc q l t).modThread q l f = s.readAs cx loc q l (f t) := by
  have hbound : ((s.fixOwn cx.ref l fun r => r.keeps loc 16 0).squad? q).isSome = true := by rw [State.fixOwn, State.fixReads_squad?, hb]
  rw [State.modThread, State.readAs, State.thread_setThread_same _ _ _ _ hbound, State.setThread_setThread, State.readAs]

theorem execWaitobj_reached (loc : Nat → Loc) (hr : s.ready (.waitobj b a d) 0 = true) (hlatent : s.mem.latent = [])
    (h : ∀ l ∈ s.lanes, s.objectFree a b l (loc l) ∧ s.reaches b l (loc l) = true) : exec (.waitobj b a d) s =
    .next (s.oneByOne fun l st => st.readAs (s.ctx l) (loc l) s.cur.q l ((s.past (.waitobj b a d) 0 l).write (s.ctx l) d (s.statusAt l (loc l)) .sb)) := by
  refine congrArg Host.Outcome.next (State.execLanes_object loc hr hlatent fun l hl => ⟨(h l hl).1, fun st u _ hb hread => ?_⟩)
  rw [(h l hl).2] at hread
  simp only [waitobjLane, hread, bind, Except.bind, ctx_q, ctx_lane, State.modThread_readAs hb]

theorem execPollobj_reads (loc : Nat → Loc) (hr : s.ready (.pollobj b a d) 0 = true) (hlatent : s.mem.latent = [])
    (h : ∀ l ∈ s.lanes, s.objectFree a b l (loc l)) : exec (.pollobj b a d) s =
    .next (s.oneByOne fun l st => st.readAs (s.ctx l) (loc l) s.cur.q l
      (((s.past (.pollobj b a d) 0 l).write (s.ctx l) d (s.statusAt l (loc l)) .sb).writeK (s.ctx l) 1 (!s.reaches b l (loc l)) .sb)) := by
  refine congrArg Host.Outcome.next (State.execLanes_object loc hr hlatent fun l hl => ⟨h l hl, fun st u _ hb hread => ?_⟩)
  simp only [pollobjLane, hread, bind, Except.bind, ctx_q, ctx_lane, State.modThread_readAs hb]

/-! ### WAITCREW (R249) -/

/-- The crew that a lane names is another of its launch, one that deterministic mode allows, and has completed. -/
structure State.namesDoneCrew (s : State) (a : RegCode) (l : Nat) : Prop where
  operand : s.holds isAddrTag a l = true
  order : (s.ctx l).det = true → (s.operand a l).data.toNat < (s.ctx l).crew
  other : (s.operand a l).data.toNat ≠ (s.ctx l).crew
  named : (s.operand a l).data.toNat < (s.launchOf (s.ctx l).lid).crews
  completed : (s.crewOf (s.ctx l).lid (s.operand a l).data.toNat).completed = true

theorem execWaitcrew_completed (hr : s.ready (.waitcrew a) 0 = true) (h : ∀ l ∈ s.lanes, s.namesDoneCrew a l) :
    exec (.waitcrew a) s = .next (s.ran (.waitcrew a) 0 0 (s.past (.waitcrew a) 0)) := by
  refine congrArg Host.Outcome.next (s.execLanes_threads _ 0 0 _ _ hr fun l hl _ st hsame => ?_)
  obtain ⟨hop, horder, hother, hnamed, hdone⟩ := h l hl
  have hth : (st.setThread s.cur.q l (s.past (.waitcrew a) 0 l)).thread (s.ctx l).q (s.ctx l).lane = s.past (.waitcrew a) 0 l :=
    State.thread_setThread_same st _ _ _ hsame.bound
  have hdet : ((s.ctx l).det && decide ((s.ctx l).crew ≤ (s.operand a l).data.toNat)) = false := by
    cases hd : (s.ctx l).det with
    | false => rfl
    | true => exact decide_eq_false (Nat.not_le.mpr (horder hd))
  have hcrews : (st.setThread s.cur.q l (s.past (.waitcrew a) 0 l)).launchOf (s.ctx l).lid = s.launchOf (s.ctx l).lid ∧
      (st.setThread s.cur.q l (s.past (.waitcrew a) 0 l)).crewOf (s.ctx l).lid (s.operand a l).data.toNat =
        s.crewOf (s.ctx l).lid (s.operand a l).data.toNat := by
    obtain ⟨m, rfl⟩ := hsame.squads
    rw [State.setThread_squads]
    exact ⟨rfl, rfl⟩
  simp only [waitcrewLane, hth, s.src_holds _ 0 hop, bind, Except.bind, hdet, hcrews.1, hcrews.2, hdone, hother, decide_eq_false (Nat.not_le.mpr hnamed),
    decide_false, Bool.or_self, Bool.false_eq_true, if_false, if_true]

/-- Settles O19: each lane's read of its object, whatever the lanes below it have read; a crew that has completed lets the set go on. -/
theorem objectWaitsComplete : Obligations.ObjectWaitsComplete := by
  unfold Obligations.ObjectWaitsComplete
  refine ⟨fun p hp b a d s loc hr hlatent h => ?_, fun a s hr h => execWaitcrew_completed hr fun l hl => ?_⟩
  · obtain rfl | rfl := List.mem_pair.mp hp
    · refine execWaitobj_reached loc hr hlatent fun l hl => ?_
      obtain ⟨ha, hb, hloc, hfree, hreach⟩ := h l hl
      exact ⟨⟨ha, hb, hloc, hfree⟩, decide_eq_true (hreach rfl)⟩
    · refine execPollobj_reads loc hr hlatent fun l hl => ?_
      obtain ⟨ha, hb, hloc, hfree, -⟩ := h l hl
      exact ⟨ha, hb, hloc, hfree⟩
  · obtain ⟨hop, horder, hother, hnamed, hdone⟩ := h l hl
    exact ⟨hop, horder, hother, hnamed, hdone⟩

end Sys2Proof.Machine
end


section
/-!
SUPPORT on O46, which stays open: it turns on a free value. The clause of BOOT_IMAGE_READ (R353) names the whole copy where the model reads no more of it
than the service SRAM holds, so that it fails for a longer copy, but only where the read of a copy ends well (`State.bootReadOk`, drawn from the opaque
`Config.freeNat`). Every other clause holds; neither the statement nor its negation follows from the model.
-/
namespace Sys2Proof.Machine

variable {s : State}

/-! ### The end of every launch (R352) -/

theorem State.foldl_stopCrew_launches (cs : List Crew) (s : State) : (cs.foldl State.stopCrew s).launches = s.launches :=
  State.foldl_keeps State.launches _ _ State.stopCrew_launches s

theorem State.launch?_endLaunch_other (cause : Nat) {m lid : Nat} (h : m ≠ lid) : (s.endLaunch m cause).launch? lid = s.launch? lid := by
  unfold State.endLaunch
  split
  · rfl
  split
  · rw [State.launch?, State.foldl_stopCrew_launches]
    simp only [State.setLaunch, SMap.get_set, if_neg (Ne.symm h)]
    rfl
  · rfl

theorem State.launch?_endLaunch_live (cause : Nat) {lid : Nat} {l : Launch} (hl : s.launch? lid = some l)
    (h : l.status = .running ∨ l.status = .admitted) : (s.endLaunch lid cause).launch? lid = some { l with status := .ending cause } := by
  have hlive : (decide (l.status = .running) || decide (l.status = .admitted)) = true := by simpa using h
  rw [State.endLaunch, hl]
  dsimp only
  rw [if_pos hlive, State.launch?, State.foldl_stopCrew_launches]
  simp only [State.setLaunch, SMap.get_set_same]

/-- The launches of a list ended, one after the other. -/
def State.endAll (s : State) (cause : Nat) (xs : List (Nat × Option Launch)) : State := xs.foldl (fun st x => st.endLaunch x.1 cause) s

theorem State.launch?_endAll_unlisted (cause : Nat) {lid : Nat} {xs : List (Nat × Option Launch)} (h : lid ∉ xs.map (·.1)) :
    (s.endAll cause xs).launch? lid = s.launch? lid := by
  induction xs generalizing s with
  | nil => rfl
  | cons x xs ih =>
    rw [List.map_cons, List.mem_cons, not_or] at h
    exact (ih h.2).trans (State.launch?_endLaunch_other cause (Ne.symm h.1))

theorem State.launchOf_endAll_live (cause : Nat) {lid : Nat} {l : Launch} {xs : List (Nat × Option Launch)} (hn : (xs.map (·.1)).Nodup)
    (hm : lid ∈ xs.map (·.1)) (hl : s.launch? lid = some l) (h : l.status = .running ∨ l.status = .admitted) :
    ((s.endAll cause xs).launchOf lid).status = .ending cause := by
  induction xs generalizing s with
  | nil => cases hm
  | cons x xs ih =>
    rw [List.map_cons, List.nodup_cons] at hn
    obtain ⟨hout, hn⟩ := hn
    by_cases hx : x.1 = lid
    · subst hx
      have hend := (State.launch?_endAll_unlisted cause hout).trans (State.launch?_endLaunch_live cause hl h)
      exact congrArg (fun o : Option Launch => (o.getD {}).status) hend
    · rw [List.map_cons, List.mem_cons] at hm
      exact ih hn (hm.resolve_left (Ne.symm hx)) ((State.launch?_endLaunch_other cause hx).trans hl)

theorem SMap.get_of_mem {α : Type} (d : α) {m : SMap α} {k : Nat} {v : α} (hn : (m.map (·.1)).Nodup) (h : (k, v) ∈ m) : SMap.get d m k = v := by
  induction m with
  | nil => cases h
  | cons x m ih =>
    obtain ⟨j, w⟩ := x
    rw [List.map_cons, List.nodup_cons] at hn
    rw [SMap.get_cons]
    rcases List.mem_cons.mp h with h | h
    · cases h
      exact if_pos rfl
    · have hne : j ≠ k := fun he => hn.1 (List.mem_map.mpr ⟨_, h, he.symm⟩)
      rw [if_neg hne, ih hn.2 h]

theorem execThermalTrip_ends (s : State) : ∃ t, execThermalTrip s = .next t ∧ t.boot = .tripped ∧
    (s.boot = .running → (s.launches.map (·.1)).Nodup → ∀ lid l, (lid, some l) ∈ s.launches →
      l.status = .running ∨ l.status = .admitted → (t.launchOf lid).status = .ending 0x11) := by
  by_cases hb : s.boot = .running
  · refine ⟨_, by simp only [execThermalTrip, hb, ne_eq, not_true, if_false]; rfl, rfl, fun _ hn lid l hm hlive => ?_⟩
    exact State.launchOf_endAll_live 0x11 hn (List.mem_map.mpr ⟨_, hm, rfl⟩) (SMap.get_of_mem none hn hm) hlive
  · exact ⟨_, by simp only [execThermalTrip, ne_eq, hb, not_false_eq_true, if_true]; rfl, rfl, fun h => absurd h hb⟩

/-! ### Boot and the operator -/

theorem get_allKeys {k : Nat} (h : k < 256) : SMap.get 0 allKeys k = k + 1 := by
  have hall : ∀ k < 256, SMap.get 0 allKeys k = k + 1 := by decide +kernel
  exact hall k h

theorem execDrieneInit_opens (h : s.boot = .starting) : ∃ t, execDrieneInit s = .next t ∧ t.boot = .running ∧ (∀ a, t.mem.dram.read a = 0) ∧
    (∀ k, k < 256 → SMap.get 0 t.mem.keys k ≠ 0) ∧ ∀ k m, k < 256 → m < 256 → k ≠ m → SMap.get 0 t.mem.keys k ≠ SMap.get 0 t.mem.keys m := by
  refine ⟨_, by simp only [execDrieneInit, h]; rfl, rfl, fun _ => rfl, fun k hk => ?_, fun k m hk hm hne => ?_⟩
  · exact (get_allKeys hk).trans_ne (Nat.succ_ne_zero k)
  · exact fun he => hne (Nat.succ_inj.mp ((get_allKeys hk).symm.trans (he.trans (get_allKeys hm))))

theorem execDebuggerAttach_attaches {lid : Nat} (h : s.lidInUse lid = true) :
    ∃ t, execDebuggerAttach lid s = .next t ∧ (t.launchOf lid).debugger = true := by
  refine ⟨_, by simp only [execDebuggerAttach, h, if_true]; rfl, ?_⟩
  cases hl : s.launch? lid with
  | none => simp [State.lidInUse, hl] at h
  | some l =>
    rw [State.modLaunch, hl]
    exact congrArg Launch.debugger (State.launchOf_setLaunch_same ..)

theorem execRecovery_writes {h : Header} (image : List Byte) (hb : s.boot = .recovery) (hc : s.controller h = true) (hh : headerOk h 0x08 = true)
    (hf : s.fuses < 128) : execRecovery h image s =
      .next (({ s with io := { s.io with bootA := image } } : State).reply 0x08 0 h.reqid h.job.toNat []).resetModule := by
  have hin : (!s.controller h || !headerOk h 0x08) = false := by rw [hc, hh]; rfl
  simp only [execRecovery, hb, hin, Nat.not_le.mpr hf, if_false, Bool.false_eq_true]

/-- Where no read of a copy ends well, the clause on the copies is that of the failed read. -/
theorem execBootImageRead_fails {c : Nat} (hb : s.boot = .rom c) (hr : s.bootReadOk = false) :
    execBootImageRead s = .next { s with freeCtr := s.freeCtr + 1, boot := if c = 0 then .rom 1 else .recovery } := by
  simp only [execBootImageRead, hb, hr]
  rfl

theorem bootAndOperatorEventsComplete_of_reads_fail (hr : ∀ s : State, s.bootReadOk = false) : Obligations.BootAndOperatorEventsComplete := by
  unfold Obligations.BootAndOperatorEventsComplete
  refine ⟨fun s => ⟨_, rfl, rfl, rfl, rfl, rfl, rfl, rfl, rfl, rfl, rfl, rfl, rfl, rfl⟩, fun c s hb => ?_, fun s => execDrieneInit_opens,
    execThermalTrip_ends, fun v r s hv => ?_, fun lid l s hl hst => ?_, fun job j s hj => ?_, fun keyid s hroom hnew hlen => ?_,
    fun lid s => execDebuggerAttach_attaches, fun h image s hb hc hh => ⟨fun hf => ?_, fun hf => ?_⟩⟩
  · dsimp only
    rw [if_pos (hr s)]
    exact execBootImageRead_fails hb (hr s)
  · change execFuseBlow s = _
    simp only [execFuseBlow, hv]
  · change execLaunchResident lid s = _
    simp only [execLaunchResident, hl, hst, ne_eq, not_true, if_false]
  · change execInjectionEnable job s = _
    simp only [execInjectionEnable, hj]
  · change execCodeSigningKeyEnrol keyid s = _
    simp [execCodeSigningKeyEnrol, hroom, hnew, hlen]
  · change execRecovery h image s = _
    simp [execRecovery, hb, hc, hh, hf]
  · exact ⟨_, execRecovery_writes image hb hc hh hf, rfl, rfl, rfl, rfl⟩

/-! ### A copy longer than the service SRAM -/

theorem State.imageOk_long {b : List Byte} (h : Config.sramBytes ≤ b.length) : s.imageOk b = false := by
  refine Bool.eq_false_iff.mpr fun hok => ?_
  simp only [State.imageOk, Bool.and_eq_true, decide_eq_true_eq, beq_iff_eq] at hok
  obtain ⟨⟨⟨⟨⟨-, hsize⟩, hlength⟩, -⟩, -⟩, -⟩ := hok
  have hsram : Config.sramBytes = 16777216 := rfl
  omega

/-- A copy of one byte more than the service SRAM holds. -/
def longCopy : List Byte := List.replicate (Config.sramBytes + 1) 0

theorem length_longCopy : longCopy.length = Config.sramBytes + 1 := List.length_replicate

theorem length_longCopy_cut : (longCopy.take Config.sramBytes).length = Config.sramBytes := by
  rw [List.length_take, length_longCopy]
  exact Nat.min_eq_left (Nat.le_succ _)

/-- What the service SRAM holds after an outcome. -/
def sramLeft : Host.Outcome State Fault Refusal → Nat
  | .next s => s.service.sram.length
  | _ => 0

theorem not_bootAndOperatorEventsComplete_of_read (hr : s.bootReadOk = true) : ¬ Obligations.BootAndOperatorEventsComplete := by
  unfold Obligations.BootAndOperatorEventsComplete
  rintro ⟨-, hboot, -⟩
  let u : State := { s with boot := .rom 0, io := { s.io with bootA := longCopy } }
  have hu : u.bootReadOk = true := hr
  have hwhole : u.imageOk longCopy = false := State.imageOk_long (length_longCopy.symm ▸ Nat.le_succ _)
  have hcut : u.imageOk (longCopy.take Config.sramBytes) = false := State.imageOk_long length_longCopy_cut.ge
  have hread : execBootImageRead u = _ := hboot 0 u rfl
  have hrom : u.boot = .rom 0 := rfl
  have hcopy : u.io.bootA = longCopy := rfl
  simp only [execBootImageRead, hrom, hu, if_true, hcopy, hwhole, hcut, Bool.not_true, Bool.false_eq_true, if_false, Bool.true_eq_false] at hread
  have hsize := length_longCopy_cut.symm.trans ((congrArg sramLeft hread).trans length_longCopy)
  exact absurd hsize (Nat.ne_of_lt (Nat.lt_succ_self _))

/-- What O46 turns on: it holds exactly where no read of a copy of the image ends well. -/
theorem bootAndOperatorEventsComplete_iff : Obligations.BootAndOperatorEventsComplete ↔ ∀ s : State, s.bootReadOk = false :=
  ⟨fun h _ => Bool.eq_false_iff.mpr fun hr => not_bootAndOperatorEventsComplete_of_read hr h, bootAndOperatorEventsComplete_of_reads_fail⟩

end Sys2Proof.Machine
end


section
/-!
SUPPORT on O57, which stays open: it turns on the opaque `Config.falconVerify`. One step performs what its event does and then what waiting lanes can now do,
and the statement is about every state, one with lanes that wait at a FUSESTEP and at a FUSE_BLOW as well. After a first blow these raise the counter once
more, but only where some signature over the value 2 verifies. Without one, `fuseStep` is never set again in the step, since only `execFusestep` sets it and
only `execFuseBlow` raises the counter: neither the statement nor its negation follows from the model.
-/
namespace Sys2Proof.Machine

variable {sign : List Byte}

theorem exec_fuseBlow (s : State) : exec .fuseBlow s = execFuseBlow s := rfl

/-- A group of lanes that waits for nothing more performs its instruction (R111). -/
theorem State.retry_performs {s t : State} {q l : Nat} {ls : List Nat} {i : Instr} (hb : ((s.squad q).thread l).blockedAt = some i)
    (hbatch : s.batchWaits q ((s.squad q).thread l) = false) (hline : (l :: ls).any ((s.squad q).lineWaits i) = false)
    (hdebug : (s.squad q).status ≠ .debug)
    (he : exec i { s.unwait q (l :: ls) with cur := { q := q, pc := ((s.squad q).thread l).pc, lanes := maskOf (l :: ls)
                                                      slot := s.releaseStamp (s.squad q) ((s.squad q).thread l), at_ := ((s.squad q).thread l).since } } = .next t)
    (ht : ((t.squad q).thread l).blockedAt = none) : s.retry q (i, l :: ls) = t := by
  unfold State.retry
  dsimp only
  rw [hbatch, hb, hline, he]
  simp [ht, hdebug]

/-! ### The state -/

/-- The header of a FUSESTEP of the job's controller. -/
def fuseHeader : Header := ⟨0x51524E44, 7, 1, 0, 0, 0, 1, 0, []⟩

/-- Two lanes that wait, at a FUSESTEP to 2 and at a FUSE_BLOW. -/
noncomputable def fuseSquad (sign : List Byte) : Squad :=
  { lid := 1, threads := [(0, { live := true, wait := .blocked (.fusestep fuseHeader 2 sign) }), (1, { live := true, wait := .blocked .fuseBlow })] }

/-- The fuse step to 1 is under way, and the agenda has it end. -/
noncomputable def fuseState (sign : List Byte) : State :=
  { State.reset.placeWord 32 0 with fuseStep := some (1, 0), agenda := [.event .fuseBlow], squads := [(recordKey 0 0, some (fuseSquad sign))] }

theorem fuseState_inOrder : (fuseState sign).fusesInOrder := by
  refine ⟨Nat.zero_le 128, fun v r h => ?_⟩
  cases h
  exact ⟨rfl, Nat.zero_lt_succ 127⟩

/-- The first blow is answered; the free values of the lanes are drawn by number 1. -/
noncomputable def afterBlow (sign : List Byte) : State :=
  { State.reset.placeWord 32 0 with
    fuses := 1
    freeCtr := 1
    squads := [(recordKey 0 0, some (fuseSquad sign))]
    io := { sent := [.reply 0x47 0 0 0 []] } }

theorem step_fuseState : step (fuseState sign) = .next ({ afterBlow sign with freeCtr := 0 } : State).wake := by
  have hblow : exec .fuseBlow { fuseState sign with agenda := [] } = .next { afterBlow sign with freeCtr := 0 } := by
    rw [exec_fuseBlow]
    rfl
  exact congrArg awaken hblow

/-! ### The lanes that wait -/

/-- What lane 0 leaves: a second fuse step is under way. -/
noncomputable def afterFusestep (sign : List Byte) : State :=
  { (afterBlow sign).unwait (recordKey 0 0) [0] with
    cur := { q := recordKey 0 0, lanes := maskOf [0], slot := (afterBlow sign).releaseStamp (fuseSquad sign) ((fuseSquad sign).thread 0) }
    fuseStep := some (2, 0) }

theorem execFusestep_taken {s : State} (hsign : stepSigned 2 sign = true) (hboot : s.boot = .running) (hctl : s.controller fuseHeader = true)
    (hbusy : s.channelBusy = false) (hreqs : s.io.requests = []) (hf : s.fuses = 1) :
    exec (.fusestep fuseHeader 2 sign) s = .next { s with fuseStep := some (2, 0) } := by
  have hok : headerOk fuseHeader 0x07 = true := by decide
  change execFusestep fuseHeader 2 sign s = _
  simp only [execFusestep, State.request, hboot, hctl, hbusy, hreqs, hok, hsign, hf]
  rfl

theorem retry_fusestep (hsign : stepSigned 2 sign = true) :
    (afterBlow sign).retry (recordKey 0 0) (.fusestep fuseHeader 2 sign, [0]) = afterFusestep sign :=
  State.retry_performs (by rfl) (by rfl) (by rfl) (by change SquadStatus.running ≠ .debug; decide)
    (execFusestep_taken hsign (by rfl) (by rfl) (by rfl) (by rfl) (by rfl)) (by rfl)

/-- What lane 1 leaves: the second blow is answered. -/
noncomputable def afterBoth (sign : List Byte) : State :=
  ({ (afterFusestep sign).unwait (recordKey 0 0) [1] with
    cur := { q := recordKey 0 0, lanes := maskOf [1], slot := (afterFusestep sign).releaseStamp (fuseSquad sign) ((fuseSquad sign).thread 1) }
    fuseStep := none
    fuses := 2 } : State).reply 0x07 0 0 0 []

theorem retry_fuseBlow : (afterFusestep sign).retry (recordKey 0 0) (.fuseBlow, [1]) = afterBoth sign := by
  refine State.retry_performs (by rfl) (by rfl) (by rfl) (by change SquadStatus.running ≠ .debug; decide) ?_ (by rfl)
  rw [exec_fuseBlow]
  rfl

theorem retryRecord_afterBlow (hsign : stepSigned 2 sign = true) : (afterBlow sign).retryRecord (recordKey 0 0) = afterBoth sign := by
  have hgroups : (fuseSquad sign).blockedGroups = [(.fusestep fuseHeader 2 sign, [0]), (.fuseBlow, [1])] := by rfl
  have hsquad : (afterBlow sign).squad? (recordKey 0 0) = some (fuseSquad sign) := by rfl
  have hlanes : (fuseSquad sign).liveLanes = [0, 1] := by rfl
  have hload0 : (afterBlow sign).retryLoad (recordKey 0 0) 0 = afterBlow sign := by
    have hwait : (((afterBlow sign).squad (recordKey 0 0)).thread 0).wait = .blocked (.fusestep fuseHeader 2 sign) := by rfl
    simp only [State.retryLoad, hwait]
  have hload1 : (afterBlow sign).retryLoad (recordKey 0 0) 1 = afterBlow sign := by
    have hwait : (((afterBlow sign).squad (recordKey 0 0)).thread 1).wait = .blocked .fuseBlow := by rfl
    simp only [State.retryLoad, hwait]
  have hcrew : (afterBlow sign).crewOf 1 0 = { lid := 1, core := some 0, started := true } := by rfl
  have hcrews : (afterBlow sign).crewRuns (fuseSquad sign) = true := by
    change (Boot.running == .running && LaunchStatus.running == .running && !((afterBlow sign).crewOf 1 0).stopReq && !false) = true
    rw [hcrew]
    rfl
  have hruns : (afterBlow sign).waitsRun (fuseSquad sign) = true := by
    rw [State.waitsRun, hcrews]
    rfl
  simp only [State.retryRecord, hsquad, hlanes, hgroups, List.foldl_cons, List.foldl_nil, hload0, hload1, hruns, if_true, retry_fusestep hsign, retry_fuseBlow]

/-- Nothing else is due that ends of itself. -/
theorem wake_afterBlow (hsign : stepSigned 2 sign = true) : ({ afterBlow sign with freeCtr := 0 } : State).wake.fuses = 2 := by
  have hdraw : ({ afterBlow sign with freeCtr := 0 } : State).drawFree.1 = afterBlow sign := rfl
  have hrecords : (afterBlow sign).records.map (·.1) = [recordKey 0 0] := by rfl
  have hcalls : (afterBlow sign).answerUnknown (recordKey 0 0) = afterBlow sign := by rfl
  have hatFuse : (((afterBoth sign).records.filter fun x => x.2.atFuse.isSome).map (·.1)) = [] := by rfl
  have hcores : ((afterBoth sign).cores.filter fun c => c.2.engine.doomed != []) = [] := by rfl
  have hcrews : ((afterBoth sign).crews.filter fun c => c.2.graph.running != []) = [] := by rfl
  have hclosable : (afterBoth sign).closable = none := by rfl
  have hreqs : (afterBoth sign).io.requests = [] := by rfl
  simp only [State.wake, hdraw, hrecords, List.foldl_cons, List.foldl_nil, hcalls, retryRecord_afterBlow hsign, State.wakeFuses, hatFuse, hcores, hcrews,
    State.closeJobs, hclosable, State.nextRequest, hreqs]
  rfl

/-- What O57 turns on: a signature over the value 2 that verifies would have one step raise the counter by two. -/
theorem not_fuseCounterNeverFalls_of_signed (hsign : stepSigned 2 sign = true) : ¬ Obligations.FuseCounterNeverFalls := by
  intro h
  obtain ⟨-, -, hone⟩ := h (fuseState sign) _ fuseState_inOrder step_fuseState
  rw [wake_afterBlow hsign] at hone
  exact absurd hone (Nat.not_succ_le_self 1)

end Sys2Proof.Machine
end
